-- ==== Sys2Proof/Word.lean ====
section
/-!
DEFINITION. The machine's word types (R40, R81, R82).
-/

namespace Sys2Proof

/-- A 64-bit word: scalar registers, addresses, CSRs (R40, R82). -/
abbrev Word := BitVec 64

/-- A byte as a byte-addressed agent sees it (R81). -/
abbrev Byte := BitVec 8

end Sys2Proof
end

