-- ==== Sys2Proof/Config.lean ====
section
/-!
DEFINITION. What an implementation fixes and the free values: constants of the RZ1612 package (R1, R67, R349), and opaque constants for the
values the spec leaves open.
-/

namespace Sys2Proof.Config

/-- The nth value a device or another agent the spec leaves open supplies (a DEV read whose device is not described, R90). Nothing is known of
it. -/
opaque freeWord : Nat → Word

/-- The code stored for 0 / 0: a zero element narrowed under a zero super-scale, whose quotient has no value (R150 states no result; entry 16).
The argument is the width of the target, 4 for nq4. -/
opaque zeroQuotient : Nat → BitVec 8

/-- The magnitude a row-buffer slot holds for a NaN or infinite bf16 element (R232 gives it for finite elements only; entry 18): the element's bits,
and P. -/
opaque slotMagnitude : Nat → Nat → BitVec 16

/-- The number of the physical register that holds a version of a register: the strand context, the register's file and number, the version. The spec names such
registers in a view alone (R324; entry 41). -/
opaque physReg : Nat → Nat → Nat → BitVec 8

/-- Dies of the package that carry Marl cores; every other compute die is Loam (R349). -/
def isMarl (die : Nat) : Bool := die == 4 || die == 7 || die == 8 || die == 14

/-- Built cores of a die (R25, R67). -/
def built (die : Nat) : Nat := if isMarl die then 48 else 64

/-- Compute dies of the package. -/
def dies : Nat := 16

/-- Mesh columns of a die (R68). -/
def columns : Nat := 4

/-- Register shares of a core (R129). -/
def shares : Nat := 32

/-- Scratchpad units of 32,768 bits of a core (R190). -/
def scratchUnits : Nat := 512

/-- Default migration base (R353). -/
def migBase : Word := 0x00007E0000000000#64

/-- The device identity chain of certificate slot 0, fixed at manufacture (R338): its bits are each part's own (entry 41). -/
opaque identityChain : Nat

end Sys2Proof.Config
end

