-- ==== Sys2Proof/Machine/Bits.lean ====
section
/-!
DEFINITION. Bit fields, sign extension and the sparse maps every part of the model uses (R5, R6, R94).
-/

namespace Sys2Proof

/-- Bits lo+len−1:lo of w, as a number (R5). -/
def field (w lo len : Nat) : Nat := w / 2 ^ lo % 2 ^ len

/-- Bits lo+n−1:lo of w as a field of n bits. -/
def fld (n w lo : Nat) : BitVec n := BitVec.ofNat n (w / 2 ^ lo)

/-- Bit i of w. -/
def bitAt (w i : Nat) : Bool := w / 2 ^ i % 2 == 1

/-- w with bits lo+len−1:lo replaced by the low len bits of v (R6 WriteBits on a value). -/
def putField (w lo len v : Nat) : Nat :=
  w - field w lo len * 2 ^ lo + v % 2 ^ len * 2 ^ lo

/-- A mask of len ones from bit lo. -/
def ones (lo len : Nat) : Nat := (2 ^ len - 1) * 2 ^ lo

/-- The two's-complement value of the low w bits of v. -/
def sextNat (w v : Nat) : Int :=
  if w = 0 then 0 else
  if bitAt v (w - 1) then (v % 2 ^ w : Nat) - (2 ^ w : Nat) else (v % 2 ^ w : Nat)

/-- The low w bits of an integer (arithmetic modulo 2^w, R94). -/
def wrap (w : Nat) (i : Int) : Nat := (i % (2 ^ w : Nat)).toNat

/-- A field sign-extended to 64 bits (R94). -/
def sext {n : Nat} (v : BitVec n) : Word := v.signExtend 64

/-- A field zero-extended to 64 bits. -/
def zext {n : Nat} (v : BitVec n) : Word := v.setWidth 64

/-- ⌈a / b⌉. -/
def ceilDiv (a b : Nat) : Nat := (a + b - 1) / b

/-- Encoded element width to bits (R35). -/
def ewBits (ew : BitVec 2) : Nat := 8 * 2 ^ ew.toNat

/-- A sparse map: pairs in ascending key order; a key not listed holds the default. -/
abbrev Sparse (α : Type) := List (Nat × α)

/-- The value at key k, d where k is not listed. -/
def Sparse.get {α : Type} (d : α) : Sparse α → Nat → α
  | [], _ => d
  | (k', v) :: t, k => if k = k' then v else Sparse.get d t k

/-- The map with key k set to v. -/
def Sparse.put {α : Type} : Sparse α → Nat → α → Sparse α
  | [], k, v => [(k, v)]
  | (k', v') :: t, k, v =>
    if k < k' then (k, v) :: (k', v') :: t
    else if k = k' then (k, v) :: t
    else (k', v') :: Sparse.put t k v

/-- The map without key k. -/
def Sparse.del {α : Type} : Sparse α → Nat → Sparse α
  | [], _ => []
  | (k', v') :: t, k => if k = k' then Sparse.del t k else (k', v') :: Sparse.del t k

/-- Sorted lists of numbers as sets: insertion. -/
def insertNat : List Nat → Nat → List Nat
  | [], k => [k]
  | a :: t, k => if k < a then k :: a :: t else if k = a then a :: t else a :: insertNat t k

/-- Set membership by number. -/
def hasNat (l : List Nat) (k : Nat) : Bool := l.any (· == k)

/-- The first n elements' replacement at index i (nothing where i is out of range). -/
def setNth {α : Type} : List α → Nat → α → List α
  | [], _, _ => []
  | _ :: t, 0, v => v :: t
  | a :: t, i + 1, v => a :: setNth t i v

/-- Element i of a list, d where there is none. -/
def nth {α : Type} (d : α) (l : List α) (i : Nat) : α := (l[i]?).getD d

/-- The bits a, a+1, … of w below n as a list of indices whose bit is set. -/
def setBits (w n : Nat) : List Nat := (List.range n).filter (bitAt w)

/-- The count of set bits of w below n. -/
def popcount (w n : Nat) : Nat := (setBits w n).length

end Sys2Proof
end

