-- ==== Sys2Proof/Syntax.lean ====
section
/-!
DEFINITION. The instruction set as syntax: the operand forms of R28, R35 to R38, R106, R180, R221, and the one inductive of the opcode
table's rows. Fields are bit vectors of the encoded width; fields the spec marks "must be zero" are not kept (Decode refuses them nonzero).
-/

namespace Sys2Proof

/-- A scalar register number, x0 to x31 (R28). -/
abbrev Reg := BitVec 5

/-- Ordered long form of a scalar access (R106). `r` is rd, rs or the sc status register; `tail` is W1 6:0, an offset in bits, or for sc the
data register in 6:2 with 1:0 zero. -/
structure OrdForm where
  r : Reg
  base : Reg
  w1 : BitVec 6
  mask : BitVec 16
  cls : BitVec 4
  order : BitVec 2
  scope : BitVec 3
  tail : BitVec 7
deriving DecidableEq, Repr

/-- COPY (R221). `twoD` is bit 0 of A. -/
structure CopyForm where
  rd : Reg
  rdst : Reg
  rsrc : Reg
  twoD : BitVec 1
  rlen : Reg
  rc : Reg
  rv : Reg
  cls : BitVec 2
  ctx : BitVec 7
deriving DecidableEq, Repr

/-- COPY.MC (R221). -/
structure CopyMcForm where
  rd : Reg
  rtab : Reg
  rsrc : Reg
  rlen : Reg
  rv : Reg
  cls : BitVec 2
  ctx : BitVec 7
  n1 : BitVec 4
deriving DecidableEq, Repr

/-- The strand (9:7) and m (6) fields of a system form (R309). -/
structure StrandSel where
  strand : BitVec 3
  m : BitVec 1
deriving DecidableEq, Repr

/-- Format VA of a vector member (R35, R36). `f35` is bits 35:30. -/
structure VAForm where
  vd : BitVec 6
  vs1 : BitVec 6
  vs2 : BitVec 6
  f35 : BitVec 6
  mask : BitVec 3
  me : BitVec 1
  ew : BitVec 2
  os : BitVec 2
  rm : BitVec 3
  variant : BitVec 3
deriving DecidableEq, Repr

/-- Format VM of a vector member (R37). `hi3` is bits 47:45 (VWAITV places its condition in bit 46, R280), `mfmt` bits 17:15 (VWAITV: bT),
`scale` bits 2:0 (VWAITV: md). -/
structure VMForm where
  vd : BitVec 6
  hi3 : BitVec 3
  base : BitVec 3
  vs2 : BitVec 6
  f35 : BitVec 6
  mask : BitVec 3
  me : BitVec 1
  ew : BitVec 2
  w1 : BitVec 6
  mfmt : BitVec 3
  am : BitVec 3
  cls : BitVec 4
  order : BitVec 2
  scope : BitVec 3
  scale : BitVec 3
deriving DecidableEq, Repr

/-- Format VX of a vector member (R38, R184, R255). -/
structure VXForm where
  vd : BitVec 6
  vs1 : BitVec 6
  mask : BitVec 3
  me : BitVec 1
  ew : BitVec 2
  idx : BitVec 6
  sreg : BitVec 3
  param : BitVec 5
deriving DecidableEq, Repr

/-- A G1 member (R180). -/
structure G1Form where
  co : BitVec 3
  ca : BitVec 3
  cb : BitVec 3
  ew : BitVec 2
  mode : BitVec 3
deriving DecidableEq, Repr

/-- Operands of host command 0x07 (R332, R333). `core` is 64 × die + core. -/
structure SupPlace where
  fn : Nat
  core : Nat
  ctx : Nat
  asid : Nat
  desc : Word
  arg : Word
deriving DecidableEq, Repr

/-- What firmware settles at bring-up (R352, R353): where the capability lists stand (virtual and physical bit address), the migration base,
the cores that fail self-test, the package index, and what measuring the firmware gave: the hashes of measurement blocks 1 to 21. -/
structure BringUp where
  capVa : Word
  capPa : Nat
  migBase : Word
  failing : List Nat
  pkgIndex : BitVec 6
  firmware : List (BitVec 384)
deriving DecidableEq, Repr

/-- Where an SRAM soft error strikes (R306). `corrected`: ECC corrected it, in a core's SRAM where one is named (R354). `line` is a line of a scratchpad, by its number; `cacheLine` a line of
a core's line cache; `vreg` element byte of a strand's register; `acc` column of a row; `macro` cell; `noPoison` state of a group that
carries no poison bit. -/
inductive SoftError where
  | corrected (core : Option Nat)
  | scratch (line : Nat)
  | cacheLine (core line : Nat)
  | vreg (sid reg byte : Nat)
  | acc (core row col : Nat)
  | macroCell (core k n : Nat)
  | noPoison (group : Nat)
deriving DecidableEq, Repr

/-- What system software kills (R308, R328): one created group, or a whole gang. -/
inductive Kill where
  | group (n : Nat)
  | gang (n : Nat)
deriving DecidableEq, Repr

/-- What fyv's `rredlog` names (R292): a strand whose address space translates, and an area of that many bits. -/
structure RredArea where
  sid : Nat
  addr : Word
  bits : Nat
deriving DecidableEq, Repr

/-- What an SPDM request asks (R338): a measurement block, the certificate chain of a slot, or that the owner's chain be kept in a slot. -/
inductive SpdmReq where
  | measurement (block : Nat)
  | certificate (slot : Nat)
  | provision (slot chain : Nat)
deriving DecidableEq, Repr

/-- A die that leaves reset (R351), with the numbers of its cores that fail the repeated self-test (R352 step 5). -/
structure DieRelease where
  die : Nat
  failing : List Nat
deriving DecidableEq, Repr

/-- What command 0x07 with flag bit 0 set names (R332, R333): a core, and the context and address space of its supervisor strand. -/
structure SupRemove where
  core : Nat
  ctx : Nat
  asid : Nat
deriving DecidableEq, Repr

/-- fyv's breakpoints (R262, R291, R325): `set` and `delete` one at a line's address, of one group or of any; `migrate` and `resume` switch `break migrate`
and `break resume`; `reach`: a strand of a group stands at a line. -/
inductive Break where
  | set (group : Option Nat) (line : Word)
  | delete (group : Option Nat) (line : Word)
  | migrate (on : Bool)
  | resume (on : Bool)
  | reach (group : Nat) (line : Word)
deriving DecidableEq, Repr

/-- fyv's views of strands, convoys and save areas (R324), and of a CSR of each strand of a group (R325). A save area is read through a strand's address
space. -/
inductive FyvView where
  | strand (sid : Nat)
  | convoy (sid : Nat)
  | area (sid : Nat) (a : Word)
  | csr (group : Nat) (n : BitVec 12)
deriving DecidableEq, Repr

/-- fyv's views of a VAMO's round, of the link tags of the line that holds an address, and of a register with its valid bits (R290). -/
inductive VamoView where
  | vamo (sid : Nat)
  | tags (sid : Nat) (a : Word)
  | v (sid reg : Nat)
deriving DecidableEq, Repr

/-- TDISP states of a virtual function (R337). -/
inductive Tdisp where
  | unlocked
  | locked
  | run
  | error
deriving DecidableEq, Repr


/-- The instructions and events of spec/opcode_table.json, one constructor per row, in the table's order. Rows from `blockStart` on are
events: steps of the part that no encoding names (95_what_each_step_holds.md). -/
inductive Instr where
  | add (rd rs1 rs2 : Reg)  -- ADD (R96)
  | sub (rd rs1 rs2 : Reg)  -- SUB (R96)
  | and (rd rs1 rs2 : Reg)  -- AND (R96)
  | or (rd rs1 rs2 : Reg)  -- OR (R96)
  | xor (rd rs1 rs2 : Reg)  -- XOR (R96)
  | sll (rd rs1 rs2 : Reg)  -- SLL (R96)
  | srl (rd rs1 rs2 : Reg)  -- SRL (R96)
  | sra (rd rs1 rs2 : Reg)  -- SRA (R96)
  | slt (rd rs1 rs2 : Reg)  -- SLT (R96)
  | sltu (rd rs1 rs2 : Reg)  -- SLTU (R96)
  | addi (rd rs1 : Reg) (imm : BitVec 15)  -- ADDI (R97)
  | andi (rd rs1 : Reg) (imm : BitVec 15)  -- ANDI (R97)
  | ori (rd rs1 : Reg) (imm : BitVec 15)  -- ORI (R97)
  | xori (rd rs1 : Reg) (imm : BitVec 15)  -- XORI (R97)
  | slti (rd rs1 : Reg) (imm : BitVec 15)  -- SLTI (R97)
  | sltiu (rd rs1 : Reg) (imm : BitVec 15)  -- SLTIU (R97)
  | slli (rd rs1 : Reg) (sh : BitVec 6)  -- SLLI (R97)
  | srli (rd rs1 : Reg) (sh : BitVec 6)  -- SRLI (R97)
  | srai (rd rs1 : Reg) (sh : BitVec 6)  -- SRAI (R97)
  | lui (rd : Reg) (imm : BitVec 20)  -- LUI (R98)
  | apc (rd : Reg) (imm : BitVec 20)  -- APC (R98)
  | li (rd : Reg) (imm : BitVec 43)  -- LI (R99)
  | addiL (rd rs1 : Reg) (imm : BitVec 38)  -- ADDI_L (R99)
  | mul (rd rs1 rs2 : Reg)  -- MUL (R100)
  | mulh (rd rs1 rs2 : Reg)  -- MULH (R100)
  | mulhu (rd rs1 rs2 : Reg)  -- MULHU (R100)
  | div (rd rs1 rs2 : Reg)  -- DIV (R100)
  | divu (rd rs1 rs2 : Reg)  -- DIVU (R100)
  | rem (rd rs1 rs2 : Reg)  -- REM (R100)
  | remu (rd rs1 rs2 : Reg)  -- REMU (R100)
  | seq (rd rs1 rs2 : Reg)  -- SEQ (R101)
  | sne (rd rs1 rs2 : Reg)  -- SNE (R101)
  | sge (rd rs1 rs2 : Reg)  -- SGE (R101)
  | sgeu (rd rs1 rs2 : Reg)  -- SGEU (R101)
  | min (rd rs1 rs2 : Reg)  -- MIN (R101)
  | max (rd rs1 rs2 : Reg)  -- MAX (R101)
  | minu (rd rs1 rs2 : Reg)  -- MINU (R101)
  | maxu (rd rs1 rs2 : Reg)  -- MAXU (R101)
  | clz (rd rs1 : Reg)  -- CLZ (R102)
  | ctz (rd rs1 : Reg)  -- CTZ (R102)
  | cpop (rd rs1 : Reg)  -- CPOP (R102)
  | bfx (rd rs1 : Reg) (pos len1 : BitVec 6)  -- BFX (R103)
  | bfxs (rd rs1 : Reg) (pos len1 : BitVec 6)  -- BFXS (R103)
  | bfd (rd rs1 : Reg) (pos len1 : BitVec 6)  -- BFD (R103)
  | ldZ (r base : Reg) (w1 : BitVec 6) (off : BitVec 9)  -- LD_Z (R104)
  | ldS (r base : Reg) (w1 : BitVec 6) (off : BitVec 9)  -- LD_S (R104)
  | st (r base : Reg) (w1 : BitVec 6) (off : BitVec 9)  -- ST (R104)
  | ll (r base : Reg) (w1 : BitVec 6) (off : BitVec 9)  -- LL (R107)
  | sc (rd base rs2 : Reg) (w1 : BitVec 6)  -- SC (R108)
  | ldZOrdered (o : OrdForm)  -- LD_Z_ORDERED (R106)
  | ldSOrdered (o : OrdForm)  -- LD_S_ORDERED (R106)
  | stOrdered (o : OrdForm)  -- ST_ORDERED (R106)
  | llOrdered (o : OrdForm)  -- LL_ORDERED (R106)
  | scOrdered (o : OrdForm)  -- SC_ORDERED (R106)
  | beq (rs1 rs2 : Reg) (off : BitVec 15)  -- BEQ (R110)
  | bne (rs1 rs2 : Reg) (off : BitVec 15)  -- BNE (R110)
  | blt (rs1 rs2 : Reg) (off : BitVec 15)  -- BLT (R110)
  | bge (rs1 rs2 : Reg) (off : BitVec 15)  -- BGE (R110)
  | bltu (rs1 rs2 : Reg) (off : BitVec 15)  -- BLTU (R110)
  | bgeu (rs1 rs2 : Reg) (off : BitVec 15)  -- BGEU (R110)
  | j (off : BitVec 25)  -- J (R111)
  | call (off : BitVec 25)  -- CALL (R112)
  | jr (rs1 : Reg) (imm : BitVec 15)  -- JR (R111)
  | callr (k : BitVec 3) (rs1 : Reg) (imm : BitVec 15)  -- CALLR (R112)
  | ret  -- RET (R113)
  | csrrd (rd : Reg) (csr : BitVec 12)  -- CSRRD (R114)
  | csrwr (rd rs1 : Reg) (csr : BitVec 12)  -- CSRWR (R114)
  | csrmw (rd rs1 : Reg) (csr : BitVec 12)  -- CSRMW (R114)
  | setvl (rd rs1 : Reg) (ew : BitVec 2)  -- SETVL (R115)
  | setvlK (rd rs1 : Reg) (ew : BitVec 2)  -- SETVL_K (R115)
  | vcfg (n : BitVec 7)  -- VCFG (R41)
  | vblk (off : BitVec 25)  -- VBLK (R117)
  | vblkr (rs1 : Reg)  -- VBLKR (R117)
  | rqpop (rd : Reg)  -- RQPOP (R118)
  | smb (xc xa : Reg) (stride1 : BitVec 6) (off : BitVec 9)  -- SMB (R120)
  | smbLong (xc xa : Reg) (n1 : BitVec 2) (off : BitVec 12) (strides : BitVec 24)  -- SMB_LONG (R120)
  | waitc (l sc c m : BitVec 6)  -- WAITC (R121)
  | fence (scope : BitVec 3) (mask : BitVec 16)  -- FENCE (R277)
  | waita (rt rs1 rs2 : Reg) (cond : BitVec 2) (off : BitVec 8)  -- WAITA (R278)
  | tlwait (rn rt : Reg) (tl : BitVec 1) (ctx : BitVec 7) (im : BitVec 1) (lo : BitVec 6)  -- TLWAIT (R279)
  | barArv (rd : Reg) (kind : BitVec 1) (idx : BitVec 3)  -- BAR_ARV (R281)
  | barWt (rt : Reg) (kind : BitVec 1) (idx : BitVec 3)  -- BAR_WT (R281)
  | barInit (rs1 : Reg) (kind : BitVec 1) (idx level : BitVec 3)  -- BAR_INIT (R281)
  | trig  -- TRIG (R283)
  | exit  -- EXIT (R283)
  | join (rd rs1 rt : Reg)  -- JOIN (R284)
  | wmcfg (rs1 : Reg) (k : BitVec 2)  -- WMCFG (R285)
  | wmpub (rs1 rs2 : Reg)  -- WMPUB (R286)
  | strmPush (rd rs1 rs2 : Reg)  -- STRM_PUSH (R287)
  | progress  -- PROGRESS (R288)
  | launch (rd rb : Reg)  -- LAUNCH (R282)
  | copy (c : CopyForm)  -- COPY (R222)
  | copyMc (c : CopyMcForm)  -- COPY_MC (R223)
  | persist (rd ra rlen : Reg) (ctx : BitVec 7)  -- PERSIST (R224)
  | ecall (rs1 : Reg) (code : BitVec 15)  -- ECALL (R311)
  | tret  -- TRET (R310)
  | tretS (rd : Reg) (k : StrandSel)  -- TRET_S (R312)
  | hget (rd rs1 : Reg) (k : StrandSel)  -- HGET (R312)
  | hput (rs1 rs2 : Reg) (k : StrandSel)  -- HPUT (R312)
  | tren  -- TREN (R310)
  | idle (rd rt : Reg)  -- IDLE (R313)
  | yield  -- YIELD (R314)
  | tinvAll (rs1 rs2 : Reg) (scope : BitVec 3)  -- TINV_ALL (R315)
  | tinvAs (rs1 rs2 : Reg) (scope : BitVec 3)  -- TINV_AS (R315)
  | tinvPg (rs1 rs2 : Reg) (scope : BitVec 3)  -- TINV_PG (R315)
  | lcclean (rs1 rs2 : Reg)  -- LCCLEAN (R316)
  | lcinval (rs1 rs2 : Reg)  -- LCINVAL (R316)
  | ownhintDev (rs1 : Reg)  -- OWNHINT_DEV (R317)
  | ownhintHost (rs1 : Reg)  -- OWNHINT_HOST (R317)
  | vsave (rs1 rs2 : Reg) (k : StrandSel)  -- VSAVE (R319)
  | vrestore (rs1 rs2 : Reg) (k : StrandSel)  -- VRESTORE (R320)
  | vrestoreSt (rs1 rs2 : Reg) (k : StrandSel)  -- VRESTORE_ST (R320)
  | mcfg (geom : BitVec 3)  -- MCFG (R246)
  | mldb (rd rs rst : Reg) (fmt w1 : BitVec 3) (cls : BitVec 4)  -- MLDB (R247)
  | mldbX (rd rs rst ri rn : Reg) (fmt w1 : BitVec 3) (cls : BitVec 4)  -- MLDB_X (R248)
  | mma (rd : Reg) (row : BitVec 6) (slot : BitVec 4)  -- MMA (R250)
  | mvrdSgn (rd : Reg) (row : BitVec 6) (slot : BitVec 4)  -- MVRD_SGN (R250)
  | mvrdTopk (rd : Reg) (row : BitVec 6) (slot : BitVec 4)  -- MVRD_TOPK (R250)
  | mclr (rd : Reg) (row count1 : BitVec 6) (flags : BitVec 2)  -- MCLR (R251)
  | mstc (rd ra rst : Reg) (row count1 : BitVec 6) (fmt : BitVec 2) (cls : BitVec 4)  -- MSTC (R252)
  | mthr (rd : Reg) (row : BitVec 6)  -- MTHR (R253)
  | mthw (rs : Reg) (row : BitVec 6)  -- MTHW (R253)
  | mstat (rd : Reg) (sel : BitVec 3)  -- MSTAT (R254)
  | vadd (f : VAForm)  -- VADD (R156)
  | vsub (f : VAForm)  -- VSUB (R156)
  | vrsub (f : VAForm)  -- VRSUB (R156)
  | vand (f : VAForm)  -- VAND (R156)
  | vor (f : VAForm)  -- VOR (R156)
  | vxor (f : VAForm)  -- VXOR (R156)
  | vsll (f : VAForm)  -- VSLL (R156)
  | vsrl (f : VAForm)  -- VSRL (R156)
  | vsra (f : VAForm)  -- VSRA (R156)
  | vmin (f : VAForm)  -- VMIN (R156)
  | vmax (f : VAForm)  -- VMAX (R156)
  | vminu (f : VAForm)  -- VMINU (R156)
  | vmaxu (f : VAForm)  -- VMAXU (R156)
  | vmul (f : VAForm)  -- VMUL (R156)
  | vmulh (f : VAForm)  -- VMULH (R156)
  | vmulhu (f : VAForm)  -- VMULHU (R156)
  | vdiv (f : VAForm)  -- VDIV (R156)
  | vdivu (f : VAForm)  -- VDIVU (R156)
  | vrem (f : VAForm)  -- VREM (R156)
  | vremu (f : VAForm)  -- VREMU (R156)
  | vmadd (f : VAForm)  -- VMADD (R156)
  | vsadd (f : VAForm)  -- VSADD (R156)
  | vsaddu (f : VAForm)  -- VSADDU (R156)
  | vssub (f : VAForm)  -- VSSUB (R156)
  | vssubu (f : VAForm)  -- VSSUBU (R156)
  | vgadd (f : VAForm)  -- VGADD (R157)
  | vgsub (f : VAForm)  -- VGSUB (R157)
  | vgcy (f : VAForm)  -- VGCY (R157)
  | vgbw (f : VAForm)  -- VGBW (R157)
  | vmseq (f : VAForm)  -- VMSEQ (R158)
  | vmsne (f : VAForm)  -- VMSNE (R158)
  | vmslt (f : VAForm)  -- VMSLT (R158)
  | vmsltu (f : VAForm)  -- VMSLTU (R158)
  | vmsle (f : VAForm)  -- VMSLE (R158)
  | vmsleu (f : VAForm)  -- VMSLEU (R158)
  | vmsgt (f : VAForm)  -- VMSGT (R158)
  | vmsgtu (f : VAForm)  -- VMSGTU (R158)
  | vredsum (f : VAForm)  -- VREDSUM (R159)
  | vredmax (f : VAForm)  -- VREDMAX (R159)
  | vredmin (f : VAForm)  -- VREDMIN (R159)
  | vredmaxu (f : VAForm)  -- VREDMAXU (R159)
  | vredminu (f : VAForm)  -- VREDMINU (R159)
  | vredand (f : VAForm)  -- VREDAND (R159)
  | vredor (f : VAForm)  -- VREDOR (R159)
  | vredxor (f : VAForm)  -- VREDXOR (R159)
  | vfadd (f : VAForm)  -- VFADD (R160)
  | vfsub (f : VAForm)  -- VFSUB (R160)
  | vfmul (f : VAForm)  -- VFMUL (R160)
  | vfdiv (f : VAForm)  -- VFDIV (R160)
  | vfsqrt (f : VAForm)  -- VFSQRT (R160)
  | vfmin (f : VAForm)  -- VFMIN (R161)
  | vfmax (f : VAForm)  -- VFMAX (R161)
  | vfma (f : VAForm)  -- VFMA (R160)
  | vfms (f : VAForm)  -- VFMS (R160)
  | vfnma (f : VAForm)  -- VFNMA (R160)
  | vfsgnj (f : VAForm)  -- VFSGNJ (R160)
  | vfsgnjn (f : VAForm)  -- VFSGNJN (R160)
  | vfcvtF32Bf16 (f : VAForm)  -- VFCVT_F32_BF16 (R162)
  | vfcvtBf16F32 (f : VAForm)  -- VFCVT_BF16_F32 (R162)
  | vfcvtFI (f : VAForm)  -- VFCVT_F_I (R162)
  | vfcvtFU (f : VAForm)  -- VFCVT_F_U (R162)
  | vfcvtIF (f : VAForm)  -- VFCVT_I_F (R162)
  | vfcvtUF (f : VAForm)  -- VFCVT_U_F (R162)
  | vmfeq (f : VAForm)  -- VMFEQ (R163)
  | vmfne (f : VAForm)  -- VMFNE (R163)
  | vmflt (f : VAForm)  -- VMFLT (R163)
  | vmfle (f : VAForm)  -- VMFLE (R163)
  | vmfgt (f : VAForm)  -- VMFGT (R163)
  | vmfge (f : VAForm)  -- VMFGE (R163)
  | vmford (f : VAForm)  -- VMFORD (R163)
  | vmfclass (f : VAForm)  -- VMFCLASS (R163)
  | vfredsum (f : VAForm)  -- VFREDSUM (R164)
  | vfredmax (f : VAForm)  -- VFREDMAX (R164)
  | vfredmin (f : VAForm)  -- VFREDMIN (R164)
  | vfaddF64 (f : VAForm)  -- VFADD_F64 (R165)
  | vfsubF64 (f : VAForm)  -- VFSUB_F64 (R165)
  | vfmulF64 (f : VAForm)  -- VFMUL_F64 (R165)
  | vfdivF64 (f : VAForm)  -- VFDIV_F64 (R165)
  | vfsqrtF64 (f : VAForm)  -- VFSQRT_F64 (R165)
  | vfminF64 (f : VAForm)  -- VFMIN_F64 (R165)
  | vfmaxF64 (f : VAForm)  -- VFMAX_F64 (R165)
  | vfmaF64 (f : VAForm)  -- VFMA_F64 (R165)
  | vfmsF64 (f : VAForm)  -- VFMS_F64 (R165)
  | vfnmaF64 (f : VAForm)  -- VFNMA_F64 (R165)
  | vfsgnjF64 (f : VAForm)  -- VFSGNJ_F64 (R165)
  | vfsgnjnF64 (f : VAForm)  -- VFSGNJN_F64 (R165)
  | vfcvtF64F32 (f : VAForm)  -- VFCVT_F64_F32 (R165)
  | vfcvtF32F64 (f : VAForm)  -- VFCVT_F32_F64 (R165)
  | vfcvtFIF64 (f : VAForm)  -- VFCVT_F_I_F64 (R165)
  | vfcvtFUF64 (f : VAForm)  -- VFCVT_F_U_F64 (R165)
  | vfcvtIFF64 (f : VAForm)  -- VFCVT_I_F_F64 (R165)
  | vfcvtUFF64 (f : VAForm)  -- VFCVT_U_F_F64 (R165)
  | vmfeqF64 (f : VAForm)  -- VMFEQ_F64 (R165)
  | vmfneF64 (f : VAForm)  -- VMFNE_F64 (R165)
  | vmfltF64 (f : VAForm)  -- VMFLT_F64 (R165)
  | vmfleF64 (f : VAForm)  -- VMFLE_F64 (R165)
  | vmfgtF64 (f : VAForm)  -- VMFGT_F64 (R165)
  | vmfgeF64 (f : VAForm)  -- VMFGE_F64 (R165)
  | vmfordF64 (f : VAForm)  -- VMFORD_F64 (R165)
  | vmfclassF64 (f : VAForm)  -- VMFCLASS_F64 (R165)
  | vfredsumF64 (f : VAForm)  -- VFREDSUM_F64 (R165)
  | vfredmaxF64 (f : VAForm)  -- VFREDMAX_F64 (R165)
  | vfredminF64 (f : VAForm)  -- VFREDMIN_F64 (R165)
  | vqscale (f : VAForm)  -- VQSCALE (R166)
  | vreds (f : VAForm)  -- VREDS (R167)
  | vqapply (f : VAForm)  -- VQAPPLY (R168)
  | vqquant (f : VAForm)  -- VQQUANT (R168)
  | vtopk (f : VAForm)  -- VTOPK (R169)
  | vmand (f : VAForm)  -- VMAND (R170)
  | vmor (f : VAForm)  -- VMOR (R170)
  | vmxor (f : VAForm)  -- VMXOR (R170)
  | vmandn (f : VAForm)  -- VMANDN (R170)
  | vmorn (f : VAForm)  -- VMORN (R170)
  | vmnand (f : VAForm)  -- VMNAND (R170)
  | vmnor (f : VAForm)  -- VMNOR (R170)
  | vmxnor (f : VAForm)  -- VMXNOR (R170)
  | vmrel (f : VAForm)  -- VMREL (R171)
  | vmpopc (f : VAForm)  -- VMPOPC (R172)
  | vmfirst (f : VAForm)  -- VMFIRST (R172)
  | vmslide1 (f : VAForm)  -- VMSLIDE1 (R172)
  | vshiftUp (f : VAForm)  -- VSHIFT_UP (R173)
  | vshiftDn (f : VAForm)  -- VSHIFT_DN (R173)
  | vshiftInsUp (f : VAForm)  -- VSHIFT_INS_UP (R173)
  | vshiftInsDn (f : VAForm)  -- VSHIFT_INS_DN (R173)
  | vrotDn (f : VAForm)  -- VROT_DN (R173)
  | vrotUp (f : VAForm)  -- VROT_UP (R173)
  | vrgather (f : VAForm)  -- VRGATHER (R174)
  | vmv (f : VAForm)  -- VMV (R174)
  | vsel (f : VAForm)  -- VSEL (R175)
  | vcompress (f : VAForm)  -- VCOMPRESS (R176)
  | vexpand (f : VAForm)  -- VEXPAND (R176)
  | viota (f : VAForm)  -- VIOTA (R177)
  | vid (f : VAForm)  -- VID (R177)
  | vconfl (f : VAForm)  -- VCONFL (R178)
  | vsegscan (f : VAForm)  -- VSEGSCAN (R179)
  | visect (f : G1Form)  -- VISECT (R181)
  | vmerge (f : G1Form)  -- VMERGE (R181)
  | vmpopcRq (f : VXForm)  -- VMPOPC_RQ (R184)
  | vmfirstRq (f : VXForm)  -- VMFIRST_RQ (R184)
  | vrqb (f : VXForm)  -- VRQB (R184)
  | vrqe (f : VXForm)  -- VRQE (R184)
  | vsetlc (f : VXForm)  -- VSETLC (R184)
  | vsetvl (f : VXForm)  -- VSETVL (R184)
  | vld (f : VMForm)  -- VLD (R207)
  | vlds (f : VMForm)  -- VLDS (R207)
  | vldx (f : VMForm)  -- VLDX (R207)
  | vldff (f : VMForm)  -- VLDFF (R210)
  | vst (f : VMForm)  -- VST (R208)
  | vsts (f : VMForm)  -- VSTS (R208)
  | vstx (f : VMForm)  -- VSTX (R208)
  | vstr (f : VMForm)  -- VSTR (R209)
  | vlink (f : VMForm)  -- VLINK (R214)
  | vscond (f : VMForm)  -- VSCOND (R215)
  | vamoAdd (f : VMForm)  -- VAMO_ADD (R217)
  | vamoMin (f : VMForm)  -- VAMO_MIN (R217)
  | vamoMax (f : VMForm)  -- VAMO_MAX (R217)
  | vamoMinu (f : VMForm)  -- VAMO_MINU (R217)
  | vamoMaxu (f : VMForm)  -- VAMO_MAXU (R217)
  | vamoSwap (f : VMForm)  -- VAMO_SWAP (R217)
  | vamoCas (f : VMForm)  -- VAMO_CAS (R217)
  | vamoFadd (f : VMForm)  -- VAMO_FADD (R217)
  | rred (f : VMForm)  -- RRED (R220)
  | vwaitv (f : VMForm)  -- VWAITV (R280)
  | vtoa (f : VXForm)  -- VTOA (R256)
  | vtoaS (f : VXForm)  -- VTOA_S (R257)
  | vfromc (f : VXForm)  -- VFROMC (R258)
  | vthrmax (f : VXForm)  -- VTHRMAX (R259)
  | blockStart (sid : Nat)  -- BLOCK_START (R123)
  | convoyStripIssue (core : Nat) (elig : BitVec 8)  -- CONVOY_STRIP_ISSUE (R127)
  | memoryReply (sid : Nat)  -- MEMORY_REPLY (R211)
  | vamoCommit (sid : Nat)  -- VAMO_COMMIT (R218)
  | convoyRetire (sid : Nat)  -- CONVOY_RETIRE (R126)
  | trapNoticePush (sid : Nat)  -- TRAP_NOTICE_PUSH (R300)
  | forcedPreemption (sid : Nat)  -- FORCED_PREEMPTION (R303)
  | heldPreemptExpiry (sid : Nat)  -- HELD_PREEMPT_EXPIRY (R299)
  | watchdogWindowEnd (group : Nat)  -- WATCHDOG_WINDOW_END (R307)
  | migration (group : Nat)  -- MIGRATION (R71)
  | placement (window : Option Word)  -- PLACEMENT (R70)
  | gangAcceptance (die : Nat)  -- GANG_ACCEPTANCE (R53)
  | groupRetirement (group : Nat)  -- GROUP_RETIREMENT (R326)
  | joinStatusWrite (gang : Nat)  -- JOIN_STATUS_WRITE (R329)
  | groupKill (k : Kill)  -- GROUP_KILL (R308)
  | groupFaultEnd (group : Nat) (cause : BitVec 8)  -- GROUP_FAULT_END (R308)
  | streamLaunch (die stream : Nat)  -- STREAM_LAUNCH (R60)
  | streamCopy (die stream : Nat)  -- STREAM_COPY (R60)
  | streamWaitv (die stream : Nat)  -- STREAM_WAITV (R60)
  | streamSigv (die stream : Nat)  -- STREAM_SIGV (R60)
  | streamTrigwait (die stream : Nat)  -- STREAM_TRIGWAIT (R60)
  | streamCommandComplete (die stream : Nat)  -- STREAM_COMMAND_COMPLETE (R60)
  | streamWaitvTimeout (die stream : Nat)  -- STREAM_WAITV_TIMEOUT (R61)
  | registerAddressSpace (fn asid : Nat) (desc : Word)  -- REGISTER_ADDRESS_SPACE (R83)
  | registerStream (fn die stream : Nat) (ctl : Word) (asid : Nat)  -- REGISTER_STREAM (R332)
  | mapCopyContext (fn asid num die ctx : Nat)  -- MAP_COPY_CONTEXT (R196)
  | setStreamState (fn die stream : Nat) (state : BitVec 2)  -- SET_STREAM_STATE (R61)
  | setContextState (fn die ctx : Nat) (run clear : Bool)  -- SET_CONTEXT_STATE (R200)
  | pinOwnershipRegion (fn domain base : Nat)  -- PIN_OWNERSHIP_REGION (R334)
  | unpinOwnershipRegion (fn domain base : Nat)  -- UNPIN_OWNERSHIP_REGION (R334)
  | enableOwnershipDomain (fn domain : Nat)  -- ENABLE_OWNERSHIP_DOMAIN (R332)
  | disableOwnershipDomain (fn domain : Nat)  -- DISABLE_OWNERSHIP_DOMAIN (R334)
  | placeSupervisorStrand (p : SupPlace)  -- PLACE_SUPERVISOR_STRAND (R333)
  | removeSupervisorStrand (fn : Nat) (r : SupRemove)  -- REMOVE_SUPERVISOR_STRAND (R333)
  | copyOperationStart (die ctx : Nat)  -- COPY_OPERATION_START (R197)
  | copyOperationEnd (die ctx : Nat)  -- COPY_OPERATION_END (R197)
  | copyFaultStop (die ctx : Nat)  -- COPY_FAULT_STOP (R200)
  | copyMcDestinationComplete (die ctx dest : Nat)  -- COPY_MC_DESTINATION_COMPLETE (R201)
  | persistenceFlushAck (die ctx : Nat)  -- PERSISTENCE_FLUSH_ACK (R202)
  | rredUpdate (index : Nat)  -- RRED_UPDATE (R203)
  | ownershipTransferComplete (region : Nat)  -- OWNERSHIP_TRANSFER_COMPLETE (R335)
  | ownershipTransferTimeout (region : Nat)  -- OWNERSHIP_TRANSFER_TIMEOUT (R336)
  | hostRead (byte n : Nat)  -- HOST_READ (R274)
  | hostWrite (byte n : Nat) (value : BitVec 512)  -- HOST_WRITE (R274)
  | lineEviction (core line : Nat)  -- LINE_EVICTION (R189)
  | fetchFill (core line : Nat)  -- FETCH_FILL (R91)
  | codeObjectLoad (asid : Nat) (desc : Word) (len : Nat)  -- CODE_OBJECT_LOAD (R19)
  | rowClaim (core : Nat)  -- ROW_CLAIM (R228)
  | mldbComplete (core n : Nat)  -- MLDB_COMPLETE (R249)
  | checkPoint (core n : Nat)  -- CHECK_POINT (R237)
  | accumulatorRowWrite (core n : Nat)  -- ACCUMULATOR_ROW_WRITE (R231)
  | mclrComplete (core n : Nat)  -- MCLR_COMPLETE (R251)
  | mstcComplete (core n : Nat)  -- MSTC_COMPLETE (R252)
  | waitaSatisfied (sid : Nat)  -- WAITA_SATISFIED (R278)
  | tlwaitSatisfied (sid : Nat)  -- TLWAIT_SATISFIED (R271)
  | barrierArrival (sid : Nat)  -- BARRIER_ARRIVAL (R272)
  | barWtEnd (sid : Nat)  -- BAR_WT_END (R281)
  | joinSatisfied (sid : Nat)  -- JOIN_SATISFIED (R284)
  | rqpopEnd (sid : Nat)  -- RQPOP_END (R118)
  | waitcEnd (sid : Nat)  -- WAITC_END (R121)
  | shareGrant (sid : Nat)  -- SHARE_GRANT (R130)
  | copySlotFree (sid : Nat)  -- COPY_SLOT_FREE (R197)
  | watermarkWaitEnd (sid : Nat)  -- WATERMARK_WAIT_END (R65)
  | vwaitvElementSatisfied (sid elem : Nat)  -- VWAITV_ELEMENT_SATISFIED (R280)
  | waitTimeout (sid : Nat)  -- WAIT_TIMEOUT (R276)
  | watermarkTimeout (sid : Nat)  -- WATERMARK_TIMEOUT (R66)
  | vwaitvExpiry (sid : Nat)  -- VWAITV_EXPIRY (R280)
  | idleEnd (sid : Nat)  -- IDLE_END (R313)
  | preemptCsrWrite (sid : Nat) (value : Word)  -- PREEMPT_CSR_WRITE (R302)
  | wdwinWrite (sid : Nat) (value : Word)  -- WDWIN_WRITE (R307)
  | csrWrite (sid : Nat) (csr : BitVec 12) (value : Word)  -- CSR_WRITE (R44)
  | breakpoint (b : Break)  -- BREAKPOINT (R262)
  | fyvContinue (core : Nat)  -- CONTINUE (R262)
  | fyvPreempt (sid : Nat) (grace : BitVec 32)  -- FYV_PREEMPT (R323)
  | fyvView (v : FyvView)  -- FYV_VIEW (R324)
  | monitorTrace (core row : Nat)  -- MONITOR_TRACE (R263)
  | rredlog (a : RredArea)  -- RREDLOG (R292)
  | ctx (asid k : Nat)  -- CTX (R293)
  | vamoView (v : VamoView)  -- VAMO_VIEW (R290)
  | mrec (group : Nat)  -- MREC (R325)
  | xlate (sid : Nat) (addr : Word)  -- XLATE (R325)
  | hostrd (gang k n : Nat)  -- HOSTRD (R289)
  | hostwr (gang k n : Nat) (value : BitVec 512)  -- HOSTWR (R289)
  | powerGood (b : BringUp)  -- POWER_GOOD (R352)
  | thermalShutdown (die : Nat)  -- THERMAL_SHUTDOWN (R351)
  | dieResetRelease (r : DieRelease)  -- DIE_RESET_RELEASE (R351)
  | softError (e : SoftError)  -- SOFT_ERROR (R306)
  | kaolinUncorrectableError (line : Nat)  -- KAOLIN_UNCORRECTABLE_ERROR (R306)
  | coreWithdrawal (core : Nat) (faulted : Option Nat)  -- CORE_WITHDRAWAL (R354)
  | peerLinkLoss (peer : Nat)  -- PEER_LINK_LOSS (R340)
  | tdispErrorTransition (fn : Nat)  -- TDISP_ERROR_TRANSITION (R337)
  | spdmRequest (r : SpdmReq)  -- SPDM_REQUEST (R338)
  | firmwareImageUpdate (block : Nat) (hash : BitVec 384) (signed : Bool)  -- FIRMWARE_IMAGE_UPDATE (R338)
  | illegalEncoding  -- ILLEGAL_ENCODING (R49)
  | rowLeavesStage (core n : Nat)  -- ROW_LEAVES_STAGE (R231)
  | storePerformedAtHome (core line : Nat)  -- STORE_PERFORMED_AT_HOME (R267)
  | hostLinkTraining (gen : Nat)  -- HOST_LINK_TRAINING (R331)
  | tdispStateRequest (fn : Nat) (target : Tdisp)  -- TDISP_STATE_REQUEST (R337)
  | peerLinkReturn (peer : Nat)  -- PEER_LINK_RETURN (R340)
deriving DecidableEq, Repr

/-- The rows of the table that are events of the part and not words a strand fetches. ILLEGAL_ENCODING is what fetching a word of no instruction
gives. -/
def Instr.isEvent : Instr → Bool
  | .blockStart .. => true
  | .convoyStripIssue .. => true
  | .memoryReply .. => true
  | .vamoCommit .. => true
  | .convoyRetire .. => true
  | .trapNoticePush .. => true
  | .forcedPreemption .. => true
  | .heldPreemptExpiry .. => true
  | .watchdogWindowEnd .. => true
  | .migration .. => true
  | .placement .. => true
  | .gangAcceptance .. => true
  | .groupRetirement .. => true
  | .joinStatusWrite .. => true
  | .groupKill .. => true
  | .groupFaultEnd .. => true
  | .streamLaunch .. => true
  | .streamCopy .. => true
  | .streamWaitv .. => true
  | .streamSigv .. => true
  | .streamTrigwait .. => true
  | .streamCommandComplete .. => true
  | .streamWaitvTimeout .. => true
  | .registerAddressSpace .. => true
  | .registerStream .. => true
  | .mapCopyContext .. => true
  | .setStreamState .. => true
  | .setContextState .. => true
  | .pinOwnershipRegion .. => true
  | .unpinOwnershipRegion .. => true
  | .enableOwnershipDomain .. => true
  | .disableOwnershipDomain .. => true
  | .placeSupervisorStrand .. => true
  | .removeSupervisorStrand .. => true
  | .copyOperationStart .. => true
  | .copyOperationEnd .. => true
  | .copyFaultStop .. => true
  | .copyMcDestinationComplete .. => true
  | .persistenceFlushAck .. => true
  | .rredUpdate .. => true
  | .ownershipTransferComplete .. => true
  | .ownershipTransferTimeout .. => true
  | .hostRead .. => true
  | .hostWrite .. => true
  | .lineEviction .. => true
  | .fetchFill .. => true
  | .codeObjectLoad .. => true
  | .rowClaim .. => true
  | .mldbComplete .. => true
  | .checkPoint .. => true
  | .accumulatorRowWrite .. => true
  | .mclrComplete .. => true
  | .mstcComplete .. => true
  | .waitaSatisfied .. => true
  | .tlwaitSatisfied .. => true
  | .barrierArrival .. => true
  | .barWtEnd .. => true
  | .joinSatisfied .. => true
  | .rqpopEnd .. => true
  | .waitcEnd .. => true
  | .shareGrant .. => true
  | .copySlotFree .. => true
  | .watermarkWaitEnd .. => true
  | .vwaitvElementSatisfied .. => true
  | .waitTimeout .. => true
  | .watermarkTimeout .. => true
  | .vwaitvExpiry .. => true
  | .idleEnd .. => true
  | .preemptCsrWrite .. => true
  | .wdwinWrite .. => true
  | .csrWrite .. => true
  | .breakpoint .. => true
  | .fyvContinue .. => true
  | .fyvPreempt .. => true
  | .fyvView .. => true
  | .monitorTrace .. => true
  | .rredlog .. => true
  | .ctx .. => true
  | .vamoView .. => true
  | .mrec .. => true
  | .xlate .. => true
  | .hostrd .. => true
  | .hostwr .. => true
  | .powerGood .. => true
  | .thermalShutdown .. => true
  | .dieResetRelease .. => true
  | .softError .. => true
  | .kaolinUncorrectableError .. => true
  | .coreWithdrawal .. => true
  | .peerLinkLoss .. => true
  | .tdispErrorTransition .. => true
  | .spdmRequest .. => true
  | .firmwareImageUpdate .. => true
  | .rowLeavesStage .. => true
  | .storePerformedAtHome .. => true
  | .hostLinkTraining .. => true
  | .tdispStateRequest .. => true
  | .peerLinkReturn .. => true
  | _ => false

end Sys2Proof
end

