-- ==== Sys2Proof/Machine/Forms.lean ====
section
/-!
DEFINITION. What each encoded form's fields may hold: the field-use table of the vector members, the limits of the memory, transfer, merge
and scalar forms (R28, R36 to R38, R106, R119, R152, R180, R184, R204, R221, R243, R255, R275, R280, R309). A value outside is ILLEGAL (R49).
-/

namespace Sys2Proof

/-- A profile, by the bits of R15. -/
inductive Profile where
  | s1
  | v1
  | q1
  | m1
  | d1
  | g1
deriving DecidableEq, Repr

/-- The profile's bit in every profile mask (R15). -/
def Profile.bit : Profile → Nat
  | .s1 => 0
  | .v1 => 1
  | .q1 => 2
  | .m1 => 3
  | .d1 => 4
  | .g1 => 5

/-- What a register field names (R152). -/
inductive RegKind where
  | vec
  | mask
  | scale
  | none
deriving DecidableEq, Repr

/-- What bits 35:30 hold (R36, R155's table). -/
inductive F35 where
  | imm
  | vs3
  | limb
  | scale
  | maskReg
deriving DecidableEq, Repr

/-- What rm may hold: zero, a mode of R36, or (vsegscan) a mode for variant 101 and zero otherwise. -/
inductive RmUse where
  | zero
  | mode
  | scan
deriving DecidableEq, Repr

/-- Whether me may be set. -/
inductive MeUse where
  | any
  | zero
  | one
deriving DecidableEq, Repr

/-- os sets, bit i for code i (R36). -/
def allOs : Nat := 0xF
/-- os 00, 01, 10. -/
def regOs : Nat := 0x7
/-- os 00 only. -/
def vecOs : Nat := 0x1
/-- os 01, 10, 11. -/
def scalarOs : Nat := 0xE

/-- One row of the field-use table (R155). `src`, `dst`, `opw` give a width other than ew for vs1, vd and op2; `ews` and `variants` are sets by bit. -/
structure VASpec where
  op : Nat
  vd : RegKind := .vec
  vs1 : RegKind := .vec
  vs2 : RegKind := .vec
  os : Nat := allOs
  f35 : F35 := .imm
  variants : Nat := 1
  rm : RmUse := .zero
  ews : Nat := 0xF
  me : MeUse := .any
  src : Option Nat := none
  dst : Option Nat := none
  opw : Option Nat := none
  prof : Profile := .v1
  noOverlap : Bool := false
  units : Nat := 0
deriving DecidableEq, Repr

/-- A field that names a mask or scale register has its low three bits zero (R152). -/
def topThree (f : BitVec 6) : Bool := f.toNat % 8 == 0

/-- The register number in the top three bits (R152). -/
def topReg (f : BitVec 6) : BitVec 3 := BitVec.ofNat 3 (f.toNat / 8)

/-- A field's static legality for what it names. -/
def regFieldOk (k : RegKind) (f : BitVec 6) : Bool :=
  match k with
  | .vec => true
  | .mask => topThree f
  | .scale => topThree f
  | .none => f == 0


/-- The row of the field-use table of each VA member (R155 onward), with its fields. -/
def Instr.vaSpec : Instr → Option (VASpec × VAForm)
  | .vadd f => some ({ op := 0x1 }, f)
  | .vsub f => some ({ op := 0x2 }, f)
  | .vrsub f => some ({ op := 0x3 }, f)
  | .vand f => some ({ op := 0x4 }, f)
  | .vor f => some ({ op := 0x5 }, f)
  | .vxor f => some ({ op := 0x6 }, f)
  | .vsll f => some ({ op := 0x7 }, f)
  | .vsrl f => some ({ op := 0x8 }, f)
  | .vsra f => some ({ op := 0x9 }, f)
  | .vmin f => some ({ op := 0xA }, f)
  | .vmax f => some ({ op := 0xB }, f)
  | .vminu f => some ({ op := 0xC }, f)
  | .vmaxu f => some ({ op := 0xD }, f)
  | .vmul f => some ({ op := 0xE }, f)
  | .vmulh f => some ({ op := 0xF }, f)
  | .vmulhu f => some ({ op := 0x10 }, f)
  | .vdiv f => some ({ op := 0x11 }, f)
  | .vdivu f => some ({ op := 0x12 }, f)
  | .vrem f => some ({ op := 0x13 }, f)
  | .vremu f => some ({ op := 0x14 }, f)
  | .vmadd f => some ({ op := 0x15, os := regOs, f35 := .vs3 }, f)
  | .vsadd f => some ({ op := 0x16 }, f)
  | .vsaddu f => some ({ op := 0x17 }, f)
  | .vssub f => some ({ op := 0x18 }, f)
  | .vssubu f => some ({ op := 0x19 }, f)
  | .vgadd f => some ({ op := 0x1A, os := regOs, f35 := .limb, variants := 0x3F, me := .zero }, f)
  | .vgsub f => some ({ op := 0x1B, os := regOs, f35 := .limb, variants := 0x3F, me := .zero }, f)
  | .vgcy f => some ({ op := 0x1C, vd := .mask, os := regOs, f35 := .limb, variants := 0x3F, me := .zero }, f)
  | .vgbw f => some ({ op := 0x1D, vd := .mask, os := regOs, f35 := .limb, variants := 0x3F, me := .zero }, f)
  | .vmseq f => some ({ op := 0x80, vd := .mask }, f)
  | .vmsne f => some ({ op := 0x81, vd := .mask }, f)
  | .vmslt f => some ({ op := 0x82, vd := .mask }, f)
  | .vmsltu f => some ({ op := 0x83, vd := .mask }, f)
  | .vmsle f => some ({ op := 0x84, vd := .mask }, f)
  | .vmsleu f => some ({ op := 0x85, vd := .mask }, f)
  | .vmsgt f => some ({ op := 0x86, vd := .mask }, f)
  | .vmsgtu f => some ({ op := 0x87, vd := .mask }, f)
  | .vredsum f => some ({ op := 0xC0 }, f)
  | .vredmax f => some ({ op := 0xC1 }, f)
  | .vredmin f => some ({ op := 0xC2 }, f)
  | .vredmaxu f => some ({ op := 0xC3 }, f)
  | .vredminu f => some ({ op := 0xC4 }, f)
  | .vredand f => some ({ op := 0xC5 }, f)
  | .vredor f => some ({ op := 0xC6 }, f)
  | .vredxor f => some ({ op := 0xC7 }, f)
  | .vfadd f => some ({ op := 0x100, rm := .mode, ews := 0x6 }, f)
  | .vfsub f => some ({ op := 0x101, rm := .mode, ews := 0x6 }, f)
  | .vfmul f => some ({ op := 0x102, rm := .mode, ews := 0x6 }, f)
  | .vfdiv f => some ({ op := 0x103, rm := .mode, ews := 0x6 }, f)
  | .vfsqrt f => some ({ op := 0x104, vs2 := .none, os := vecOs, rm := .mode, ews := 0x6 }, f)
  | .vfmin f => some ({ op := 0x105, ews := 0x6 }, f)
  | .vfmax f => some ({ op := 0x106, ews := 0x6 }, f)
  | .vfma f => some ({ op := 0x107, os := regOs, f35 := .vs3, rm := .mode, ews := 0x6 }, f)
  | .vfms f => some ({ op := 0x108, os := regOs, f35 := .vs3, rm := .mode, ews := 0x6 }, f)
  | .vfnma f => some ({ op := 0x109, os := regOs, f35 := .vs3, rm := .mode, ews := 0x6 }, f)
  | .vfsgnj f => some ({ op := 0x10A, ews := 0x6 }, f)
  | .vfsgnjn f => some ({ op := 0x10B, ews := 0x6 }, f)
  | .vfcvtF32Bf16 f => some ({ op := 0x140, vs2 := .none, os := vecOs, ews := 0x4, src := (some 16) }, f)
  | .vfcvtBf16F32 f => some ({ op := 0x141, vs2 := .none, os := vecOs, rm := .mode, ews := 0x2, src := (some 32) }, f)
  | .vfcvtFI f => some ({ op := 0x142, vs2 := .none, os := vecOs, rm := .mode, ews := 0x6 }, f)
  | .vfcvtFU f => some ({ op := 0x143, vs2 := .none, os := vecOs, rm := .mode, ews := 0x6 }, f)
  | .vfcvtIF f => some ({ op := 0x144, vs2 := .none, os := vecOs, rm := .mode, ews := 0x6 }, f)
  | .vfcvtUF f => some ({ op := 0x145, vs2 := .none, os := vecOs, rm := .mode, ews := 0x6 }, f)
  | .vmfeq f => some ({ op := 0x160, vd := .mask, ews := 0x6 }, f)
  | .vmfne f => some ({ op := 0x161, vd := .mask, ews := 0x6 }, f)
  | .vmflt f => some ({ op := 0x162, vd := .mask, ews := 0x6 }, f)
  | .vmfle f => some ({ op := 0x163, vd := .mask, ews := 0x6 }, f)
  | .vmfgt f => some ({ op := 0x164, vd := .mask, ews := 0x6 }, f)
  | .vmfge f => some ({ op := 0x165, vd := .mask, ews := 0x6 }, f)
  | .vmford f => some ({ op := 0x166, vd := .mask, ews := 0x6 }, f)
  | .vmfclass f => some ({ op := 0x167, vd := .mask, vs2 := .none, os := vecOs, variants := 0xFF, ews := 0x6 }, f)
  | .vfredsum f => some ({ op := 0x170, rm := .mode, ews := 0x6 }, f)
  | .vfredmax f => some ({ op := 0x171, ews := 0x6 }, f)
  | .vfredmin f => some ({ op := 0x172, ews := 0x6 }, f)
  | .vfaddF64 f => some ({ op := 0x180, rm := .mode, ews := 0x8, prof := .d1 }, f)
  | .vfsubF64 f => some ({ op := 0x181, rm := .mode, ews := 0x8, prof := .d1 }, f)
  | .vfmulF64 f => some ({ op := 0x182, rm := .mode, ews := 0x8, prof := .d1 }, f)
  | .vfdivF64 f => some ({ op := 0x183, rm := .mode, ews := 0x8, prof := .d1 }, f)
  | .vfsqrtF64 f => some ({ op := 0x184, vs2 := .none, os := vecOs, rm := .mode, ews := 0x8, prof := .d1 }, f)
  | .vfminF64 f => some ({ op := 0x185, ews := 0x8, prof := .d1 }, f)
  | .vfmaxF64 f => some ({ op := 0x186, ews := 0x8, prof := .d1 }, f)
  | .vfmaF64 f => some ({ op := 0x187, os := regOs, f35 := .vs3, rm := .mode, ews := 0x8, prof := .d1 }, f)
  | .vfmsF64 f => some ({ op := 0x188, os := regOs, f35 := .vs3, rm := .mode, ews := 0x8, prof := .d1 }, f)
  | .vfnmaF64 f => some ({ op := 0x189, os := regOs, f35 := .vs3, rm := .mode, ews := 0x8, prof := .d1 }, f)
  | .vfsgnjF64 f => some ({ op := 0x18A, ews := 0x8, prof := .d1 }, f)
  | .vfsgnjnF64 f => some ({ op := 0x18B, ews := 0x8, prof := .d1 }, f)
  | .vfcvtF64F32 f => some ({ op := 0x1A0, vs2 := .none, os := vecOs, ews := 0x8, src := (some 32), prof := .d1 }, f)
  | .vfcvtF32F64 f => some ({ op := 0x1A1, vs2 := .none, os := vecOs, rm := .mode, ews := 0x4, src := (some 64), prof := .d1 }, f)
  | .vfcvtFIF64 f => some ({ op := 0x1A2, vs2 := .none, os := vecOs, rm := .mode, ews := 0x8, prof := .d1 }, f)
  | .vfcvtFUF64 f => some ({ op := 0x1A3, vs2 := .none, os := vecOs, rm := .mode, ews := 0x8, prof := .d1 }, f)
  | .vfcvtIFF64 f => some ({ op := 0x1A4, vs2 := .none, os := vecOs, rm := .mode, ews := 0x8, prof := .d1 }, f)
  | .vfcvtUFF64 f => some ({ op := 0x1A5, vs2 := .none, os := vecOs, rm := .mode, ews := 0x8, prof := .d1 }, f)
  | .vmfeqF64 f => some ({ op := 0x1B0, vd := .mask, ews := 0x8, prof := .d1 }, f)
  | .vmfneF64 f => some ({ op := 0x1B1, vd := .mask, ews := 0x8, prof := .d1 }, f)
  | .vmfltF64 f => some ({ op := 0x1B2, vd := .mask, ews := 0x8, prof := .d1 }, f)
  | .vmfleF64 f => some ({ op := 0x1B3, vd := .mask, ews := 0x8, prof := .d1 }, f)
  | .vmfgtF64 f => some ({ op := 0x1B4, vd := .mask, ews := 0x8, prof := .d1 }, f)
  | .vmfgeF64 f => some ({ op := 0x1B5, vd := .mask, ews := 0x8, prof := .d1 }, f)
  | .vmfordF64 f => some ({ op := 0x1B6, vd := .mask, ews := 0x8, prof := .d1 }, f)
  | .vmfclassF64 f => some ({ op := 0x1B7, vd := .mask, vs2 := .none, os := vecOs, variants := 0xFF, ews := 0x8, prof := .d1 }, f)
  | .vfredsumF64 f => some ({ op := 0x1B8, rm := .mode, ews := 0x8, prof := .d1 }, f)
  | .vfredmaxF64 f => some ({ op := 0x1B9, ews := 0x8, prof := .d1 }, f)
  | .vfredminF64 f => some ({ op := 0x1BA, ews := 0x8, prof := .d1 }, f)
  | .vqscale f => some ({ op := 0x1C0, vd := .scale, vs2 := .none, os := vecOs, variants := 0xFF, ews := 0x6, prof := .q1 }, f)
  | .vreds f => some ({ op := 0x1C1, f35 := .scale, variants := 0x3, ews := 0x3, dst := (some 32), opw := (some 32), prof := .q1 }, f)
  | .vqapply f => some ({ op := 0x1C2, vs2 := .none, os := vecOs, f35 := .scale, variants := 0x7, rm := .mode, ews := 0x6, prof := .q1 }, f)
  | .vqquant f => some ({ op := 0x1C3, vs2 := .none, os := vecOs, f35 := .scale, variants := 0xFF, ews := 0x1, src := (some 32), prof := .q1 }, f)
  | .vtopk f => some ({ op := 0x1E0, os := scalarOs, variants := 0xFF, ews := 0x4, noOverlap := true }, f)
  | .vmand f => some ({ op := 0x200, vd := .mask, vs1 := .mask, vs2 := .mask, os := vecOs, ews := 0x1, me := .zero, units := 2 }, f)
  | .vmor f => some ({ op := 0x201, vd := .mask, vs1 := .mask, vs2 := .mask, os := vecOs, ews := 0x1, me := .zero, units := 2 }, f)
  | .vmxor f => some ({ op := 0x202, vd := .mask, vs1 := .mask, vs2 := .mask, os := vecOs, ews := 0x1, me := .zero, units := 2 }, f)
  | .vmandn f => some ({ op := 0x203, vd := .mask, vs1 := .mask, vs2 := .mask, os := vecOs, ews := 0x1, me := .zero, units := 2 }, f)
  | .vmorn f => some ({ op := 0x204, vd := .mask, vs1 := .mask, vs2 := .mask, os := vecOs, ews := 0x1, me := .zero, units := 2 }, f)
  | .vmnand f => some ({ op := 0x205, vd := .mask, vs1 := .mask, vs2 := .mask, os := vecOs, ews := 0x1, me := .zero, units := 2 }, f)
  | .vmnor f => some ({ op := 0x206, vd := .mask, vs1 := .mask, vs2 := .mask, os := vecOs, ews := 0x1, me := .zero, units := 2 }, f)
  | .vmxnor f => some ({ op := 0x207, vd := .mask, vs1 := .mask, vs2 := .mask, os := vecOs, ews := 0x1, me := .zero, units := 2 }, f)
  | .vmrel f => some ({ op := 0x208, vd := .mask, vs1 := .mask, vs2 := .none, os := vecOs, variants := 0x1F, ews := 0x1, me := .zero, units := 2 }, f)
  | .vmpopc f => some ({ op := 0x20C, vs1 := .mask, vs2 := .none, os := vecOs, units := 2 }, f)
  | .vmfirst f => some ({ op := 0x20D, vs1 := .mask, vs2 := .none, os := vecOs, units := 2 }, f)
  | .vmslide1 f => some ({ op := 0x20E, vd := .mask, vs1 := .mask, vs2 := .none, os := vecOs, variants := 0xF, ews := 0x1, me := .zero, units := 2 }, f)
  | .vshiftUp f => some ({ op := 0x240, os := scalarOs, variants := 0x1, noOverlap := true, units := 2 }, f)
  | .vshiftDn f => some ({ op := 0x240, os := scalarOs, variants := 0x2, noOverlap := true, units := 2 }, f)
  | .vshiftInsUp f => some ({ op := 0x240, os := scalarOs, variants := 0x4, noOverlap := true, units := 2 }, f)
  | .vshiftInsDn f => some ({ op := 0x240, os := scalarOs, variants := 0x8, noOverlap := true, units := 2 }, f)
  | .vrotDn f => some ({ op := 0x241, os := scalarOs, variants := 0x1, noOverlap := true, units := 2 }, f)
  | .vrotUp f => some ({ op := 0x241, os := scalarOs, variants := 0x2, noOverlap := true, units := 2 }, f)
  | .vrgather f => some ({ op := 0x244, os := vecOs, noOverlap := true, units := 2 }, f)
  | .vsel f => some ({ op := 0x245, me := .one, units := 2 }, f)
  | .vcompress f => some ({ op := 0x246, vs2 := .none, os := vecOs, variants := 0x3, me := .one, noOverlap := true, units := 2 }, f)
  | .vexpand f => some ({ op := 0x247, vs2 := .none, os := vecOs, me := .one, noOverlap := true, units := 2 }, f)
  | .vmv f => some ({ op := 0x248, vs1 := .none, units := 2 }, f)
  | .viota f => some ({ op := 0x280, vs1 := .mask, vs2 := .none, os := vecOs, units := 2 }, f)
  | .vid f => some ({ op := 0x281, vs1 := .none, vs2 := .none, os := vecOs, units := 2 }, f)
  | .vconfl f => some ({ op := 0x282, vs2 := .none, os := vecOs, noOverlap := true, units := 2 }, f)
  | .vsegscan f => some ({ op := 0x283, vs2 := .none, os := vecOs, f35 := .maskReg, variants := 0xFF, rm := .scan, units := 2 }, f)
  | _ => none

/-- The row of the field-use table an opcode and a variant name; the variant decides only where members share an opcode (R155, R173). -/
def vaRow (op variant : Nat) : Option VASpec :=
  match op with
  | 0x1 => some { op := 0x1 }
  | 0x2 => some { op := 0x2 }
  | 0x3 => some { op := 0x3 }
  | 0x4 => some { op := 0x4 }
  | 0x5 => some { op := 0x5 }
  | 0x6 => some { op := 0x6 }
  | 0x7 => some { op := 0x7 }
  | 0x8 => some { op := 0x8 }
  | 0x9 => some { op := 0x9 }
  | 0xA => some { op := 0xA }
  | 0xB => some { op := 0xB }
  | 0xC => some { op := 0xC }
  | 0xD => some { op := 0xD }
  | 0xE => some { op := 0xE }
  | 0xF => some { op := 0xF }
  | 0x10 => some { op := 0x10 }
  | 0x11 => some { op := 0x11 }
  | 0x12 => some { op := 0x12 }
  | 0x13 => some { op := 0x13 }
  | 0x14 => some { op := 0x14 }
  | 0x15 => some { op := 0x15, os := regOs, f35 := .vs3 }
  | 0x16 => some { op := 0x16 }
  | 0x17 => some { op := 0x17 }
  | 0x18 => some { op := 0x18 }
  | 0x19 => some { op := 0x19 }
  | 0x1A => some { op := 0x1A, os := regOs, f35 := .limb, variants := 0x3F, me := .zero }
  | 0x1B => some { op := 0x1B, os := regOs, f35 := .limb, variants := 0x3F, me := .zero }
  | 0x1C => some { op := 0x1C, vd := .mask, os := regOs, f35 := .limb, variants := 0x3F, me := .zero }
  | 0x1D => some { op := 0x1D, vd := .mask, os := regOs, f35 := .limb, variants := 0x3F, me := .zero }
  | 0x80 => some { op := 0x80, vd := .mask }
  | 0x81 => some { op := 0x81, vd := .mask }
  | 0x82 => some { op := 0x82, vd := .mask }
  | 0x83 => some { op := 0x83, vd := .mask }
  | 0x84 => some { op := 0x84, vd := .mask }
  | 0x85 => some { op := 0x85, vd := .mask }
  | 0x86 => some { op := 0x86, vd := .mask }
  | 0x87 => some { op := 0x87, vd := .mask }
  | 0xC0 => some { op := 0xC0 }
  | 0xC1 => some { op := 0xC1 }
  | 0xC2 => some { op := 0xC2 }
  | 0xC3 => some { op := 0xC3 }
  | 0xC4 => some { op := 0xC4 }
  | 0xC5 => some { op := 0xC5 }
  | 0xC6 => some { op := 0xC6 }
  | 0xC7 => some { op := 0xC7 }
  | 0x100 => some { op := 0x100, rm := .mode, ews := 0x6 }
  | 0x101 => some { op := 0x101, rm := .mode, ews := 0x6 }
  | 0x102 => some { op := 0x102, rm := .mode, ews := 0x6 }
  | 0x103 => some { op := 0x103, rm := .mode, ews := 0x6 }
  | 0x104 => some { op := 0x104, vs2 := .none, os := vecOs, rm := .mode, ews := 0x6 }
  | 0x105 => some { op := 0x105, ews := 0x6 }
  | 0x106 => some { op := 0x106, ews := 0x6 }
  | 0x107 => some { op := 0x107, os := regOs, f35 := .vs3, rm := .mode, ews := 0x6 }
  | 0x108 => some { op := 0x108, os := regOs, f35 := .vs3, rm := .mode, ews := 0x6 }
  | 0x109 => some { op := 0x109, os := regOs, f35 := .vs3, rm := .mode, ews := 0x6 }
  | 0x10A => some { op := 0x10A, ews := 0x6 }
  | 0x10B => some { op := 0x10B, ews := 0x6 }
  | 0x140 => some { op := 0x140, vs2 := .none, os := vecOs, ews := 0x4, src := (some 16) }
  | 0x141 => some { op := 0x141, vs2 := .none, os := vecOs, rm := .mode, ews := 0x2, src := (some 32) }
  | 0x142 => some { op := 0x142, vs2 := .none, os := vecOs, rm := .mode, ews := 0x6 }
  | 0x143 => some { op := 0x143, vs2 := .none, os := vecOs, rm := .mode, ews := 0x6 }
  | 0x144 => some { op := 0x144, vs2 := .none, os := vecOs, rm := .mode, ews := 0x6 }
  | 0x145 => some { op := 0x145, vs2 := .none, os := vecOs, rm := .mode, ews := 0x6 }
  | 0x160 => some { op := 0x160, vd := .mask, ews := 0x6 }
  | 0x161 => some { op := 0x161, vd := .mask, ews := 0x6 }
  | 0x162 => some { op := 0x162, vd := .mask, ews := 0x6 }
  | 0x163 => some { op := 0x163, vd := .mask, ews := 0x6 }
  | 0x164 => some { op := 0x164, vd := .mask, ews := 0x6 }
  | 0x165 => some { op := 0x165, vd := .mask, ews := 0x6 }
  | 0x166 => some { op := 0x166, vd := .mask, ews := 0x6 }
  | 0x167 => some { op := 0x167, vd := .mask, vs2 := .none, os := vecOs, variants := 0xFF, ews := 0x6 }
  | 0x170 => some { op := 0x170, rm := .mode, ews := 0x6 }
  | 0x171 => some { op := 0x171, ews := 0x6 }
  | 0x172 => some { op := 0x172, ews := 0x6 }
  | 0x180 => some { op := 0x180, rm := .mode, ews := 0x8, prof := .d1 }
  | 0x181 => some { op := 0x181, rm := .mode, ews := 0x8, prof := .d1 }
  | 0x182 => some { op := 0x182, rm := .mode, ews := 0x8, prof := .d1 }
  | 0x183 => some { op := 0x183, rm := .mode, ews := 0x8, prof := .d1 }
  | 0x184 => some { op := 0x184, vs2 := .none, os := vecOs, rm := .mode, ews := 0x8, prof := .d1 }
  | 0x185 => some { op := 0x185, ews := 0x8, prof := .d1 }
  | 0x186 => some { op := 0x186, ews := 0x8, prof := .d1 }
  | 0x187 => some { op := 0x187, os := regOs, f35 := .vs3, rm := .mode, ews := 0x8, prof := .d1 }
  | 0x188 => some { op := 0x188, os := regOs, f35 := .vs3, rm := .mode, ews := 0x8, prof := .d1 }
  | 0x189 => some { op := 0x189, os := regOs, f35 := .vs3, rm := .mode, ews := 0x8, prof := .d1 }
  | 0x18A => some { op := 0x18A, ews := 0x8, prof := .d1 }
  | 0x18B => some { op := 0x18B, ews := 0x8, prof := .d1 }
  | 0x1A0 => some { op := 0x1A0, vs2 := .none, os := vecOs, ews := 0x8, src := (some 32), prof := .d1 }
  | 0x1A1 => some { op := 0x1A1, vs2 := .none, os := vecOs, rm := .mode, ews := 0x4, src := (some 64), prof := .d1 }
  | 0x1A2 => some { op := 0x1A2, vs2 := .none, os := vecOs, rm := .mode, ews := 0x8, prof := .d1 }
  | 0x1A3 => some { op := 0x1A3, vs2 := .none, os := vecOs, rm := .mode, ews := 0x8, prof := .d1 }
  | 0x1A4 => some { op := 0x1A4, vs2 := .none, os := vecOs, rm := .mode, ews := 0x8, prof := .d1 }
  | 0x1A5 => some { op := 0x1A5, vs2 := .none, os := vecOs, rm := .mode, ews := 0x8, prof := .d1 }
  | 0x1B0 => some { op := 0x1B0, vd := .mask, ews := 0x8, prof := .d1 }
  | 0x1B1 => some { op := 0x1B1, vd := .mask, ews := 0x8, prof := .d1 }
  | 0x1B2 => some { op := 0x1B2, vd := .mask, ews := 0x8, prof := .d1 }
  | 0x1B3 => some { op := 0x1B3, vd := .mask, ews := 0x8, prof := .d1 }
  | 0x1B4 => some { op := 0x1B4, vd := .mask, ews := 0x8, prof := .d1 }
  | 0x1B5 => some { op := 0x1B5, vd := .mask, ews := 0x8, prof := .d1 }
  | 0x1B6 => some { op := 0x1B6, vd := .mask, ews := 0x8, prof := .d1 }
  | 0x1B7 => some { op := 0x1B7, vd := .mask, vs2 := .none, os := vecOs, variants := 0xFF, ews := 0x8, prof := .d1 }
  | 0x1B8 => some { op := 0x1B8, rm := .mode, ews := 0x8, prof := .d1 }
  | 0x1B9 => some { op := 0x1B9, ews := 0x8, prof := .d1 }
  | 0x1BA => some { op := 0x1BA, ews := 0x8, prof := .d1 }
  | 0x1C0 => some { op := 0x1C0, vd := .scale, vs2 := .none, os := vecOs, variants := 0xFF, ews := 0x6, prof := .q1 }
  | 0x1C1 => some { op := 0x1C1, f35 := .scale, variants := 0x3, ews := 0x3, dst := (some 32), opw := (some 32), prof := .q1 }
  | 0x1C2 => some { op := 0x1C2, vs2 := .none, os := vecOs, f35 := .scale, variants := 0x7, rm := .mode, ews := 0x6, prof := .q1 }
  | 0x1C3 => some { op := 0x1C3, vs2 := .none, os := vecOs, f35 := .scale, variants := 0xFF, ews := 0x1, src := (some 32), prof := .q1 }
  | 0x1E0 => some { op := 0x1E0, os := scalarOs, variants := 0xFF, ews := 0x4, noOverlap := true }
  | 0x200 => some { op := 0x200, vd := .mask, vs1 := .mask, vs2 := .mask, os := vecOs, ews := 0x1, me := .zero, units := 2 }
  | 0x201 => some { op := 0x201, vd := .mask, vs1 := .mask, vs2 := .mask, os := vecOs, ews := 0x1, me := .zero, units := 2 }
  | 0x202 => some { op := 0x202, vd := .mask, vs1 := .mask, vs2 := .mask, os := vecOs, ews := 0x1, me := .zero, units := 2 }
  | 0x203 => some { op := 0x203, vd := .mask, vs1 := .mask, vs2 := .mask, os := vecOs, ews := 0x1, me := .zero, units := 2 }
  | 0x204 => some { op := 0x204, vd := .mask, vs1 := .mask, vs2 := .mask, os := vecOs, ews := 0x1, me := .zero, units := 2 }
  | 0x205 => some { op := 0x205, vd := .mask, vs1 := .mask, vs2 := .mask, os := vecOs, ews := 0x1, me := .zero, units := 2 }
  | 0x206 => some { op := 0x206, vd := .mask, vs1 := .mask, vs2 := .mask, os := vecOs, ews := 0x1, me := .zero, units := 2 }
  | 0x207 => some { op := 0x207, vd := .mask, vs1 := .mask, vs2 := .mask, os := vecOs, ews := 0x1, me := .zero, units := 2 }
  | 0x208 => some { op := 0x208, vd := .mask, vs1 := .mask, vs2 := .none, os := vecOs, variants := 0x1F, ews := 0x1, me := .zero, units := 2 }
  | 0x20C => some { op := 0x20C, vs1 := .mask, vs2 := .none, os := vecOs, units := 2 }
  | 0x20D => some { op := 0x20D, vs1 := .mask, vs2 := .none, os := vecOs, units := 2 }
  | 0x20E => some { op := 0x20E, vd := .mask, vs1 := .mask, vs2 := .none, os := vecOs, variants := 0xF, ews := 0x1, me := .zero, units := 2 }
  | 0x240 => (match variant with
    | 0 => some { op := 0x240, os := scalarOs, variants := 0x1, noOverlap := true, units := 2 }
    | 1 => some { op := 0x240, os := scalarOs, variants := 0x2, noOverlap := true, units := 2 }
    | 2 => some { op := 0x240, os := scalarOs, variants := 0x4, noOverlap := true, units := 2 }
    | 3 => some { op := 0x240, os := scalarOs, variants := 0x8, noOverlap := true, units := 2 }
    | _ => none)
  | 0x241 => (match variant with
    | 0 => some { op := 0x241, os := scalarOs, variants := 0x1, noOverlap := true, units := 2 }
    | 1 => some { op := 0x241, os := scalarOs, variants := 0x2, noOverlap := true, units := 2 }
    | _ => none)
  | 0x244 => some { op := 0x244, os := vecOs, noOverlap := true, units := 2 }
  | 0x245 => some { op := 0x245, me := .one, units := 2 }
  | 0x246 => some { op := 0x246, vs2 := .none, os := vecOs, variants := 0x3, me := .one, noOverlap := true, units := 2 }
  | 0x247 => some { op := 0x247, vs2 := .none, os := vecOs, me := .one, noOverlap := true, units := 2 }
  | 0x248 => some { op := 0x248, vs1 := .none, units := 2 }
  | 0x280 => some { op := 0x280, vs1 := .mask, vs2 := .none, os := vecOs, units := 2 }
  | 0x281 => some { op := 0x281, vs1 := .none, vs2 := .none, os := vecOs, units := 2 }
  | 0x282 => some { op := 0x282, vs2 := .none, os := vecOs, noOverlap := true, units := 2 }
  | 0x283 => some { op := 0x283, vs2 := .none, os := vecOs, f35 := .maskReg, variants := 0xFF, rm := .scan, units := 2 }
  | _ => none

/-- The opcode and form of each VM member (R204, R280). -/
def Instr.vmSpec : Instr → Option (Nat × VMForm)
  | .vld f => some (0x300, f)
  | .vlds f => some (0x300, f)
  | .vldx f => some (0x300, f)
  | .vldff f => some (0x300, f)
  | .vst f => some (0x301, f)
  | .vsts f => some (0x301, f)
  | .vstx f => some (0x301, f)
  | .vstr f => some (0x302, f)
  | .vlink f => some (0x340, f)
  | .vscond f => some (0x341, f)
  | .rred f => some (0x350, f)
  | .vwaitv f => some (0x360, f)
  | .vamoAdd f => some (0x342, f)
  | .vamoMin f => some (0x343, f)
  | .vamoMax f => some (0x344, f)
  | .vamoMinu f => some (0x345, f)
  | .vamoMaxu f => some (0x346, f)
  | .vamoSwap f => some (0x347, f)
  | .vamoCas f => some (0x348, f)
  | .vamoFadd f => some (0x349, f)
  | _ => none

/-- The opcode and form of each VX member (R184, R255). -/
def Instr.vxSpec : Instr → Option (Nat × VXForm)
  | .vmpopcRq f => some (0x380, f)
  | .vmfirstRq f => some (0x381, f)
  | .vrqb f => some (0x382, f)
  | .vrqe f => some (0x383, f)
  | .vsetlc f => some (0x384, f)
  | .vsetvl f => some (0x385, f)
  | .vtoa f => some (0x3A0, f)
  | .vtoaS f => some (0x3A1, f)
  | .vfromc f => some (0x3A2, f)
  | .vthrmax f => some (0x3A3, f)
  | _ => none

/-- The opcode and form of each G1 member (R180). -/
def Instr.g1Spec : Instr → Option (Nat × G1Form)
  | .visect f => some (0x2C0, f)
  | .vmerge f => some (0x2C1, f)
  | _ => none

/-- A rounding mode of R36: 000 to 100, or the dynamic 110. -/
def rmOk (rm : BitVec 3) : Bool := rm.toNat ≤ 4 || rm.toNat == 6

/-- Static legality of a VA member (R35, R36, R152 and its family's row). A member of R157 without carry-in may name any mask in mc (DESIGN CHOICE, entry 26). -/
def vaOk (p : VASpec) (f : VAForm) : Bool :=
  regFieldOk p.vd f.vd && regFieldOk p.vs1 f.vs1 &&
  bitAt p.os f.os.toNat &&
  (match f.os.toNat with
   | 0 => regFieldOk p.vs2 f.vs2
   | 1 => f.vs2.toNat < 8
   | _ => f.vs2 == 0) &&
  (match p.f35 with
   | .imm => f.os.toNat == 3 || f.f35 == 0
   | .vs3 => true
   | .limb => f.f35.toNat % 4 == 0
   | .scale => topThree f.f35
   | .maskReg => topThree f.f35) &&
  bitAt p.variants f.variant.toNat &&
  (match p.rm with
   | .zero => f.rm == 0
   | .mode => rmOk f.rm
   | .scan => if f.variant.toNat == 5 then rmOk f.rm else f.rm == 0) &&
  bitAt p.ews f.ew.toNat &&
  (f.me == 1 || f.mask == 0) &&
  (match p.me with
   | .any => true
   | .zero => f.me == 0
   | .one => f.me == 1) &&
  -- R179: variants 101 to 111 of vsegscan take ew 01 or 10
  (p.op != 0x283 || f.variant.toNat < 5 || bitAt 0x6 f.ew.toNat) &&
  -- R167: integers of ew 8 or 16 under variant 000, bf16 under 001
  (p.op != 0x1C1 || f.variant == 0 || f.ew.toNat == 1)

/-- order and scope of a vector member (R37, R205). -/
def vmOrderOk (f : VMForm) : Bool :=
  match f.order.toNat with
  | 0 => f.scope == 0
  | 1 => 1 ≤ f.scope.toNat && f.scope.toNat ≤ 5
  | 2 => 1 ≤ f.scope.toNat && f.scope.toNat ≤ 5
  | _ => false

/-- Width, format and ew of a vector memory member with z or s data: w at most ew (R134). -/
def vmPlainOk (f : VMForm) : Bool := f.mfmt.toNat ≤ 1 && f.w1.toNat < ewBits f.ew && f.scale == 0

/-- mfmt nq4 with width 4, or q with width 2 to 8 (R37). -/
def vmNarrowW (f : VMForm) : Bool :=
  (f.mfmt.toNat == 2 && f.w1.toNat == 3) || (f.mfmt.toNat == 3 && 1 ≤ f.w1.toNat && f.w1.toNat ≤ 7)

/-- The vs2 field under the address mode: zero, a stride b register, or an index vector (R37). -/
def vmVs2Ok (f : VMForm) : Bool :=
  match f.am.toNat with
  | 0 => f.vs2 == 0
  | 1 => f.vs2.toNat < 8
  | 2 => true
  | 3 => f.vs2 == 0
  | _ => false

/-- Static legality of a VM member (R37, R204 to R220, R280). -/
def vmOk (op : Nat) (f : VMForm) : Bool :=
  (f.me == 1 || f.mask == 0) && vmVs2Ok f && vmOrderOk f &&
  (op == 0x360 || f.hi3.toNat < 2) &&
  (match op with
   | 0x300 => f.order.toNat ≤ 1 &&
      (vmPlainOk f || (vmNarrowW f && (f.am.toNat == 0 || f.am.toNat == 3) &&
        (if f.mfmt.toNat == 2 then f.ew.toNat == 1 || f.ew.toNat == 2 else f.ew.toNat == 0)))
   | 0x301 => f.order.toNat != 1 && f.am.toNat ≤ 2 &&
      (vmPlainOk f || (vmNarrowW f && f.am.toNat == 0 && (f.ew.toNat == 1 || f.ew.toNat == 2)))
   | 0x302 => f.order.toNat != 1 && f.am.toNat == 0 && vmNarrowW f && f.ew.toNat == 0
   | 0x340 => f.order.toNat ≤ 1 && f.am.toNat ≤ 2 && vmPlainOk f
   | 0x341 => f.order.toNat != 1 && f.am.toNat ≤ 2 && vmPlainOk f && f.me == 1
   | 0x350 => f.order.toNat != 1 && f.am.toNat == 0 && f.w1.toNat == 31 &&
      (match f.mfmt.toNat with
       | 0 => (f.ew.toNat == 1 || f.ew.toNat == 2) && f.scale == 0
       | 2 => f.ew.toNat == 1
       | 3 => f.ew.toNat ≤ 1
       | _ => false)
   | 0x360 => f.hi3.toNat < 4 && f.order.toNat ≤ 1 && f.am.toNat ≤ 2 && f.ew.toNat == 3 && f.w1.toNat == 63
   | 0x349 => f.am.toNat ≤ 2 && f.mfmt == 0 && f.w1.toNat == 31 && f.ew.toNat == 2 && f.scale == 0
   | 0x343 => f.am.toNat ≤ 2 && vmPlainOk f && f.mfmt == 1
   | 0x344 => f.am.toNat ≤ 2 && vmPlainOk f && f.mfmt == 1
   | 0x345 => f.am.toNat ≤ 2 && vmPlainOk f && f.mfmt == 0
   | 0x346 => f.am.toNat ≤ 2 && vmPlainOk f && f.mfmt == 0
   | _ => f.am.toNat ≤ 2 && vmPlainOk f)

/-- The value field of vsetlc and vsetvl: bit 14 clear with a b register in 12:10, or set with zeros (R184). -/
def vxValueOk (p : BitVec 5) : Bool := p.toNat < 8 || p.toNat == 16

/-- Static legality of a VX member (R38, R184, R255). -/
def vxOk (op : Nat) (f : VXForm) : Bool :=
  (f.me == 1 || f.mask == 0) &&
  (match op with
   | 0x380 => f.vd == 0 && topThree f.vs1 && f.ew == 0 && f.idx == 0 && f.sreg == 0 && f.param == 0
   | 0x381 => f.vd == 0 && topThree f.vs1 && f.ew == 0 && f.idx == 0 && f.sreg == 0 && f.param == 0
   | 0x382 => f.vd == 0 && f.vs1 == 0 && f.me == 0 && f.ew == 0 && f.idx.toNat < 8 && f.sreg == 0 && f.param == 0
   | 0x383 => f.vd == 0 && f.idx.toNat < 8 && f.sreg == 0 && f.param == 0
   | 0x384 => f.vd == 0 && f.vs1 == 0 && f.me == 0 && f.ew == 0 && f.idx.toNat < 4 && f.sreg == 0 && vxValueOk f.param
   | 0x385 => f.vd == 0 && f.vs1 == 0 && f.me == 0 && f.idx == 0 && f.sreg == 0 && vxValueOk f.param
   | 0x3A0 => f.vd == 0 && f.ew.toNat == 1 && f.idx.toNat < 16 && f.sreg == 0 && 2 ≤ f.param.toNat && f.param.toNat ≤ 16
   | 0x3A1 => f.vd == 0 && f.ew == 0 && f.idx.toNat < 16 && 2 ≤ f.param.toNat && f.param.toNat ≤ 8
   | 0x3A2 => f.vs1 == 0 && f.ew.toNat == 2 && f.sreg == 0 && f.param == 0
   | 0x3A3 => f.vd == 0 && f.ew.toNat == 2 && f.sreg == 0 && f.param == 0
   | _ => false)

/-- Static legality of a G1 member (R180). -/
def g1Ok (op : Nat) (f : G1Form) : Bool :=
  f.co.toNat % 2 == 0 && f.ca.toNat % 2 == 0 && f.cb.toNat % 2 == 0 &&
  f.co != f.ca && f.co != f.cb && f.ca != f.cb &&
  (if op == 0x2C0 then f.mode == 0 else f.mode.toNat ≤ 2)

/-- order, scope and class mask of a scalar ordered form (R106). `ord` is the order the opcode allows beside 00. -/
def ordOk (ord : Nat) (o : OrdForm) : Bool :=
  if o.order == 0 then o.mask == 0 && o.scope == 0
  else o.order.toNat == ord && bitAt o.mask.toNat o.cls.toNat && 1 ≤ o.scope.toNat && o.scope.toNat ≤ 5

/-- m = 1 names the matrix control strand, and then strand is 000 (R309). -/
def selOk (k : StrandSel) : Bool := k.m == 0 || k.strand == 0

/-- fmt and width of MLDB (R243). -/
def mldbOk (fmt w1 : BitVec 3) : Bool :=
  match fmt.toNat with
  | 0 => w1 == 0
  | 2 => w1 == 0
  | 3 => w1 != 0
  | _ => false

/-- The strides of the long SMB above n are zero (R119). -/
def smbStridesOk (n1 : BitVec 2) (strides : BitVec 24) : Bool := strides.toNat < 2 ^ (6 * (n1.toNat + 1))

end Sys2Proof
end

