-- ==== Sys2Proof/WellFormed.lean ====
section
/-!
DEFINITION. Which instructions are well formed: every field within what its form's rule allows (R28, R49). Decode refuses a word that stands
for anything else, and the machine raises ILLEGAL there.
-/

namespace Sys2Proof

/-- Every field of the instruction holds a legal value. Forms with no limit of their own, and events, are well formed as they stand. -/
def Instr.wf (i : Instr) : Bool :=
  match i.vaSpec with
  | some (p, f) => vaOk p f
  | none =>
  match i with
  | .bfx _ _ pos len1 => pos.toNat + len1.toNat < 64
  | .bfxs _ _ pos len1 => pos.toNat + len1.toNat < 64
  | .bfd _ _ pos len1 => pos.toNat + len1.toNat < 64
  | .ldZOrdered o => ordOk 1 o
  | .ldSOrdered o => ordOk 1 o
  | .stOrdered o => ordOk 2 o
  | .llOrdered o => ordOk 1 o
  | .scOrdered o => ordOk 2 o && o.tail.toNat % 4 == 0
  | .smb xc xa stride1 _ => xc != 0 && xc != xa && (xa != 0 || stride1 == 0)
  | .smbLong xc xa n1 _ strides => xc != 0 && xa != 0 && xa.toNat + n1.toNat ≤ 31 &&
      (xc.toNat < xa.toNat || xa.toNat + n1.toNat < xc.toNat) && smbStridesOk n1 strides
  | .fence scope mask => scope.toNat ≤ 5 && mask != 0
  | .waita _ _ _ cond _ => cond.toNat ≤ 1
  | .tlwait _ _ tl cx _ _ => tl == 0 || cx == 0
  | .barArv _ kind idx => kind == 0 || idx.toNat < 4
  | .barWt _ kind idx => kind == 0 || idx.toNat < 4
  | .barInit _ kind idx level => if kind == 0 then level == 0 else idx.toNat < 4 && 2 ≤ level.toNat && level.toNat ≤ 5
  | .copy c => c.cls != 0 && (c.twoD == 0 || c.rlen.toNat ≤ 28)
  | .copyMc c => c.cls != 0
  | .tretS _ k => selOk k
  | .hget _ _ k => selOk k
  | .hput _ _ k => selOk k
  | .vsave _ _ k => selOk k
  | .vrestore _ _ k => selOk k
  | .vrestoreSt _ _ k => selOk k
  | .tinvAll _ _ scope => 1 ≤ scope.toNat && scope.toNat ≤ 4
  | .tinvAs _ _ scope => 1 ≤ scope.toNat && scope.toNat ≤ 4
  | .tinvPg _ _ scope => 1 ≤ scope.toNat && scope.toNat ≤ 4
  | .mcfg geom => 1 ≤ geom.toNat && geom.toNat ≤ 4
  | .mldb _ _ _ fmt w1 _ => mldbOk fmt w1
  | .mldbX _ _ _ _ _ fmt w1 _ => mldbOk fmt w1
  | .mclr _ row count1 flags => row.toNat + count1.toNat < 64 && flags != 0
  | .mstc _ _ _ row count1 fmt _ => row.toNat + count1.toNat < 64 && fmt.toNat ≤ 1
  | .mstat _ sel => sel.toNat ≤ 4
  | .vld f => vmOk 0x300 f && f.am.toNat == 0
  | .vlds f => vmOk 0x300 f && f.am.toNat == 1
  | .vldx f => vmOk 0x300 f && f.am.toNat == 2
  | .vldff f => vmOk 0x300 f && f.am.toNat == 3
  | .vst f => vmOk 0x301 f && f.am.toNat == 0
  | .vsts f => vmOk 0x301 f && f.am.toNat == 1
  | .vstx f => vmOk 0x301 f && f.am.toNat == 2
  | .vstr f => vmOk 0x302 f
  | .vlink f => vmOk 0x340 f
  | .vscond f => vmOk 0x341 f
  | .rred f => vmOk 0x350 f
  | .vwaitv f => vmOk 0x360 f
  | .vamoAdd f => vmOk 0x342 f
  | .vamoMin f => vmOk 0x343 f
  | .vamoMax f => vmOk 0x344 f
  | .vamoMinu f => vmOk 0x345 f
  | .vamoMaxu f => vmOk 0x346 f
  | .vamoSwap f => vmOk 0x347 f
  | .vamoCas f => vmOk 0x348 f
  | .vamoFadd f => vmOk 0x349 f
  | .vmpopcRq f => vxOk 0x380 f
  | .vmfirstRq f => vxOk 0x381 f
  | .vrqb f => vxOk 0x382 f
  | .vrqe f => vxOk 0x383 f
  | .vsetlc f => vxOk 0x384 f
  | .vsetvl f => vxOk 0x385 f
  | .vtoa f => vxOk 0x3A0 f
  | .vtoaS f => vxOk 0x3A1 f
  | .vfromc f => vxOk 0x3A2 f
  | .vthrmax f => vxOk 0x3A3 f
  | .visect f => g1Ok 0x2C0 f
  | .vmerge f => g1Ok 0x2C1 f
  | _ => true

end Sys2Proof
end

