-- ==== Sys2Proof/Decode.lean ====
section
/-!
DEFINITION. Decoding, total on any bits, and the encoder (R27 to R38, R45 to R49). A word is read field by field, and the reading is
accepted only when encoding it gives the word back (so every must-be-zero bit is zero) and its fields are legal; otherwise decoding
refuses by name.
-/

namespace Sys2Proof

/-- Why a word is no instruction (the rows of R49's table that decoding alone decides). -/
inductive DecodeError where
  /-- major 0x00 or 0x7E, the all-zero word, long opcode 0x000, vector opcode 0x000 -/
  | illegalForever
  /-- a reserved scalar major, long opcode or vector opcode -/
  | reserved
  /-- an unassigned opcode, func, op or variant inside an assigned range -/
  | unassigned
  /-- a must-be-zero field that is not zero -/
  | zeroField
  /-- a field value its table marks illegal -/
  | illegalField
  /-- too few bits for the word -/
  | short
deriving DecidableEq, Repr

/-- The words of an instruction: a 32-bit scalar word, a 64-bit long form (W0 in bits 31:0), a 64-bit vector member, or none (an event). -/
inductive Code where
  | word (w : Nat)
  | long (w : Nat)
  | member (w : Nat)
  | none
deriving DecidableEq, Repr

/-- Format I and every format with rd in 24:20, rs1 in 19:15 and 15 low bits (R28). -/
def encI (major : Nat) (rd rs1 : Reg) (low : Nat) : Nat :=
  major * 2 ^ 25 + rd.toNat * 2 ^ 20 + rs1.toNat * 2 ^ 15 + low

/-- Format R (R28). -/
def encR (major : Nat) (rd rs1 rs2 : Reg) (func : Nat) : Nat := encI major rd rs1 (rs2.toNat * 2 ^ 10 + func * 2 ^ 4)

/-- Format U (R28). -/
def encU (major : Nat) (rd : Reg) (imm : Nat) : Nat := major * 2 ^ 25 + rd.toNat * 2 ^ 20 + imm

/-- Format J, and every format with 25 low bits of its own (R28). -/
def encJ (major : Nat) (low : Nat) : Nat := major * 2 ^ 25 + low

/-- A long form from its long opcode, field A and W1 (R30). -/
def encL (op a b : Nat) : Nat := b * 2 ^ 32 + (0x7F * 2 ^ 25 + op * 2 ^ 16 + a)

/-- Field A of a matrix form with a row in 10:5 (R243). -/
def encMx (op : Nat) (rd : Reg) (row : BitVec 6) (low b : Nat) : Nat :=
  encL op (rd.toNat * 2 ^ 11 + row.toNat * 2 ^ 5 + low) b

/-- An ordered scalar access (R106). -/
def encOrd (op : Nat) (o : OrdForm) : Nat :=
  encL op (o.r.toNat * 2 ^ 11 + o.base.toNat * 2 ^ 6 + o.w1.toNat)
    (o.mask.toNat * 2 ^ 16 + o.cls.toNat * 2 ^ 12 + o.order.toNat * 2 ^ 10 + o.scope.toNat * 2 ^ 7 + o.tail.toNat)

/-- COPY (R221). -/
def encCopy (c : CopyForm) : Nat :=
  encL 0x050 (c.rd.toNat * 2 ^ 11 + c.rdst.toNat * 2 ^ 6 + c.rsrc.toNat * 2 + c.twoD.toNat)
    (c.rlen.toNat * 2 ^ 27 + c.rc.toNat * 2 ^ 22 + c.rv.toNat * 2 ^ 17 + c.cls.toNat * 2 ^ 15 + c.ctx.toNat * 2 ^ 8)

/-- COPY.MC (R221). -/
def encCopyMc (c : CopyMcForm) : Nat :=
  encL 0x051 (c.rd.toNat * 2 ^ 11 + c.rtab.toNat * 2 ^ 6 + c.rsrc.toNat * 2)
    (c.rlen.toNat * 2 ^ 27 + c.rv.toNat * 2 ^ 17 + c.cls.toNat * 2 ^ 15 + c.ctx.toNat * 2 ^ 8 + c.n1.toNat * 2 ^ 4)

/-- The strand and m fields (R309). -/
def encSel (k : StrandSel) : Nat := k.strand.toNat * 2 ^ 7 + k.m.toNat * 2 ^ 6

/-- A member word of format VA (R35, R36). -/
def encVA (op : Nat) (f : VAForm) : Nat :=
  op * 2 ^ 54 + f.vd.toNat * 2 ^ 48 + f.vs1.toNat * 2 ^ 42 + f.vs2.toNat * 2 ^ 36 + f.f35.toNat * 2 ^ 30 + f.mask.toNat * 2 ^ 27 +
    f.me.toNat * 2 ^ 26 + f.ew.toNat * 2 ^ 24 + f.os.toNat * 2 ^ 22 + f.rm.toNat * 2 ^ 19 + f.variant.toNat * 2 ^ 16

/-- A member word of format VM (R35, R37). -/
def encVM (op : Nat) (f : VMForm) : Nat :=
  op * 2 ^ 54 + f.vd.toNat * 2 ^ 48 + f.hi3.toNat * 2 ^ 45 + f.base.toNat * 2 ^ 42 + f.vs2.toNat * 2 ^ 36 + f.f35.toNat * 2 ^ 30 +
    f.mask.toNat * 2 ^ 27 + f.me.toNat * 2 ^ 26 + f.ew.toNat * 2 ^ 24 + f.w1.toNat * 2 ^ 18 + f.mfmt.toNat * 2 ^ 15 +
    f.am.toNat * 2 ^ 12 + f.cls.toNat * 2 ^ 8 + f.order.toNat * 2 ^ 6 + f.scope.toNat * 2 ^ 3 + f.scale.toNat

/-- A member word of format VX (R35, R38). -/
def encVX (op : Nat) (f : VXForm) : Nat :=
  op * 2 ^ 54 + f.vd.toNat * 2 ^ 48 + f.vs1.toNat * 2 ^ 42 + f.mask.toNat * 2 ^ 27 + f.me.toNat * 2 ^ 26 + f.ew.toNat * 2 ^ 24 +
    f.idx.toNat * 2 ^ 18 + f.sreg.toNat * 2 ^ 15 + f.param.toNat * 2 ^ 10

/-- A G1 member word (R180). -/
def encG1 (op : Nat) (f : G1Form) : Nat :=
  op * 2 ^ 54 + f.co.toNat * 2 ^ 51 + f.ca.toNat * 2 ^ 45 + f.cb.toNat * 2 ^ 39 + f.ew.toNat * 2 ^ 24 + f.mode.toNat * 2 ^ 21

/-- The words of an instruction, from the encoding tables of the spec; an event has none. -/
def encode : Instr → Code
  | .add rd rs1 rs2 => .word (encR 0x01 rd rs1 rs2 0)
  | .sub rd rs1 rs2 => .word (encR 0x01 rd rs1 rs2 1)
  | .and rd rs1 rs2 => .word (encR 0x01 rd rs1 rs2 2)
  | .or rd rs1 rs2 => .word (encR 0x01 rd rs1 rs2 3)
  | .xor rd rs1 rs2 => .word (encR 0x01 rd rs1 rs2 4)
  | .sll rd rs1 rs2 => .word (encR 0x01 rd rs1 rs2 5)
  | .srl rd rs1 rs2 => .word (encR 0x01 rd rs1 rs2 6)
  | .sra rd rs1 rs2 => .word (encR 0x01 rd rs1 rs2 7)
  | .slt rd rs1 rs2 => .word (encR 0x01 rd rs1 rs2 8)
  | .sltu rd rs1 rs2 => .word (encR 0x01 rd rs1 rs2 9)
  | .mul rd rs1 rs2 => .word (encR 0x0B rd rs1 rs2 0)
  | .mulh rd rs1 rs2 => .word (encR 0x0B rd rs1 rs2 1)
  | .mulhu rd rs1 rs2 => .word (encR 0x0B rd rs1 rs2 2)
  | .div rd rs1 rs2 => .word (encR 0x0B rd rs1 rs2 3)
  | .divu rd rs1 rs2 => .word (encR 0x0B rd rs1 rs2 4)
  | .rem rd rs1 rs2 => .word (encR 0x0B rd rs1 rs2 5)
  | .remu rd rs1 rs2 => .word (encR 0x0B rd rs1 rs2 6)
  | .seq rd rs1 rs2 => .word (encR 0x0D rd rs1 rs2 0)
  | .sne rd rs1 rs2 => .word (encR 0x0D rd rs1 rs2 1)
  | .sge rd rs1 rs2 => .word (encR 0x0D rd rs1 rs2 2)
  | .sgeu rd rs1 rs2 => .word (encR 0x0D rd rs1 rs2 3)
  | .min rd rs1 rs2 => .word (encR 0x0D rd rs1 rs2 4)
  | .max rd rs1 rs2 => .word (encR 0x0D rd rs1 rs2 5)
  | .minu rd rs1 rs2 => .word (encR 0x0D rd rs1 rs2 6)
  | .maxu rd rs1 rs2 => .word (encR 0x0D rd rs1 rs2 7)
  | .addi rd rs1 imm => .word (encI 0x02 rd rs1 imm.toNat)
  | .andi rd rs1 imm => .word (encI 0x03 rd rs1 imm.toNat)
  | .ori rd rs1 imm => .word (encI 0x04 rd rs1 imm.toNat)
  | .xori rd rs1 imm => .word (encI 0x05 rd rs1 imm.toNat)
  | .slti rd rs1 imm => .word (encI 0x06 rd rs1 imm.toNat)
  | .sltiu rd rs1 imm => .word (encI 0x07 rd rs1 imm.toNat)
  | .slli rd rs1 sh => .word (encI 0x08 rd rs1 (0 * 2 ^ 13 + sh.toNat))
  | .srli rd rs1 sh => .word (encI 0x08 rd rs1 (1 * 2 ^ 13 + sh.toNat))
  | .srai rd rs1 sh => .word (encI 0x08 rd rs1 (2 * 2 ^ 13 + sh.toNat))
  | .lui rd imm => .word (encU 0x09 rd imm.toNat)
  | .apc rd imm => .word (encU 0x0A rd imm.toNat)
  | .li rd imm => .long (encL 0x001 (rd.toNat * 2 ^ 11 + imm.toNat / 2 ^ 32) (imm.toNat % 2 ^ 32))
  | .addiL rd rs1 imm => .long (encL 0x002 (rd.toNat * 2 ^ 11 + rs1.toNat * 2 ^ 6 + imm.toNat / 2 ^ 32) (imm.toNat % 2 ^ 32))
  | .clz rd rs1 => .word (encR 0x0E rd rs1 0 0)
  | .ctz rd rs1 => .word (encR 0x0E rd rs1 0 1)
  | .cpop rd rs1 => .word (encR 0x0E rd rs1 0 2)
  | .bfx rd rs1 pos len1 => .word (encI 0x0C rd rs1 (pos.toNat * 2 ^ 9 + len1.toNat * 2 ^ 3 + 0 * 2))
  | .bfxs rd rs1 pos len1 => .word (encI 0x0C rd rs1 (pos.toNat * 2 ^ 9 + len1.toNat * 2 ^ 3 + 1 * 2))
  | .bfd rd rs1 pos len1 => .word (encI 0x0C rd rs1 (pos.toNat * 2 ^ 9 + len1.toNat * 2 ^ 3 + 2 * 2))
  | .ldZ r base w1 off => .word (encI 0x20 r base (w1.toNat * 2 ^ 9 + off.toNat))
  | .ldS r base w1 off => .word (encI 0x21 r base (w1.toNat * 2 ^ 9 + off.toNat))
  | .st r base w1 off => .word (encI 0x22 r base (w1.toNat * 2 ^ 9 + off.toNat))
  | .ll r base w1 off => .word (encI 0x23 r base (w1.toNat * 2 ^ 9 + off.toNat))
  | .sc rd base rs2 w1 => .word (encI 0x24 rd base (rs2.toNat * 2 ^ 10 + w1.toNat * 2 ^ 4))
  | .ldZOrdered o => .long (encOrd 0x010 o)
  | .ldSOrdered o => .long (encOrd 0x011 o)
  | .stOrdered o => .long (encOrd 0x012 o)
  | .llOrdered o => .long (encOrd 0x013 o)
  | .scOrdered o => .long (encOrd 0x014 o)
  | .beq rs1 rs2 off => .word (encI 0x30 rs1 rs2 off.toNat)
  | .bne rs1 rs2 off => .word (encI 0x31 rs1 rs2 off.toNat)
  | .blt rs1 rs2 off => .word (encI 0x32 rs1 rs2 off.toNat)
  | .bge rs1 rs2 off => .word (encI 0x33 rs1 rs2 off.toNat)
  | .bltu rs1 rs2 off => .word (encI 0x34 rs1 rs2 off.toNat)
  | .bgeu rs1 rs2 off => .word (encI 0x35 rs1 rs2 off.toNat)
  | .j off => .word (encJ 0x36 off.toNat)
  | .call off => .word (encJ 0x37 off.toNat)
  | .jr rs1 imm => .word (encI 0x38 0 rs1 imm.toNat)
  | .callr k rs1 imm => .word (encJ 0x39 (k.toNat * 2 ^ 20 + rs1.toNat * 2 ^ 15 + imm.toNat))
  | .ret => .word (encJ 0x3A 0)
  | .csrrd rd csr => .word (encI 0x63 rd 0 csr.toNat)
  | .csrwr rd rs1 csr => .word (encI 0x63 rd rs1 (1 * 2 ^ 13 + csr.toNat))
  | .csrmw rd rs1 csr => .word (encI 0x63 rd rs1 (2 * 2 ^ 13 + csr.toNat))
  | .setvl rd rs1 ew => .word (encI 0x40 rd rs1 (ew.toNat * 2 ^ 13))
  | .setvlK rd rs1 ew => .word (encI 0x40 rd rs1 (ew.toNat * 2 ^ 13 + 2 ^ 12))
  | .vcfg n => .word (encJ 0x41 (n.toNat * 2 ^ 8))
  | .vblk off => .word (encJ 0x42 off.toNat)
  | .vblkr rs1 => .word (encI 0x43 0 rs1 0)
  | .rqpop rd => .word (encI 0x44 rd 0 0)
  | .smb xc xa stride1 off => .word (encI 0x45 xc xa (stride1.toNat * 2 ^ 9 + off.toNat))
  | .smbLong xc xa n1 off strides => .long (encL 0x040 (xc.toNat * 2 ^ 11 + xa.toNat * 2 ^ 6 + n1.toNat * 2 ^ 4 + off.toNat / 2 ^ 8) (off.toNat % 2 ^ 8 * 2 ^ 24 + strides.toNat))
  | .waitc l sc c m => .word (encJ 0x46 (l.toNat * 2 ^ 18 + sc.toNat * 2 ^ 12 + c.toNat * 2 ^ 6 + m.toNat))
  | .fence scope mask => .word (encJ 0x50 (scope.toNat * 2 ^ 22 + mask.toNat))
  | .waita rt rs1 rs2 cond off => .word (encI 0x51 rt rs1 (rs2.toNat * 2 ^ 10 + cond.toNat * 2 ^ 8 + off.toNat))
  | .tlwait rn rt tl ctx im lo => .word (encI 0x52 rn rt (tl.toNat * 2 ^ 14 + ctx.toNat * 2 ^ 7 + im.toNat * 2 ^ 6 + lo.toNat))
  | .barArv rd kind idx => .word (encI 0x53 rd 0 (kind.toNat * 2 ^ 12 + idx.toNat * 2 ^ 9))
  | .barWt rt kind idx => .word (encI 0x53 rt 0 (1 * 2 ^ 13 + kind.toNat * 2 ^ 12 + idx.toNat * 2 ^ 9))
  | .barInit rs1 kind idx level => .word (encI 0x53 0 rs1 (2 * 2 ^ 13 + kind.toNat * 2 ^ 12 + idx.toNat * 2 ^ 9 + level.toNat * 2 ^ 6))
  | .trig => .word (encJ 0x54 0)
  | .exit => .word (encJ 0x55 0)
  | .join rd rs1 rt => .word (encI 0x56 rd rs1 (rt.toNat * 2 ^ 10))
  | .wmcfg rs1 k => .word (encI 0x57 0 rs1 (k.toNat * 2 ^ 13))
  | .wmpub rs1 rs2 => .word (encI 0x58 0 rs1 (rs2.toNat * 2 ^ 10))
  | .strmPush rd rs1 rs2 => .word (encI 0x59 rd rs1 (rs2.toNat * 2 ^ 10))
  | .progress => .word (encJ 0x5A 0)
  | .launch rd rb => .long (encL 0x053 (rd.toNat * 2 ^ 11 + rb.toNat * 2 ^ 6) 0)
  | .copy c => .long (encCopy c)
  | .copyMc c => .long (encCopyMc c)
  | .persist rd ra rlen ctx => .long (encL 0x052 (rd.toNat * 2 ^ 11 + ra.toNat * 2 ^ 6 + rlen.toNat * 2) (ctx.toNat * 2 ^ 8))
  | .ecall rs1 code => .word (encI 0x60 0 rs1 code.toNat)
  | .tret => .word (encJ 0x61 0)
  | .tretS rd k => .word (encI 0x61 rd 0 (encSel k + 1 * 2 ^ 4))
  | .hget rd rs1 k => .word (encI 0x61 rd rs1 (encSel k + 2 * 2 ^ 4))
  | .hput rs1 rs2 k => .word (encI 0x61 0 rs1 (rs2.toNat * 2 ^ 10 + encSel k + 3 * 2 ^ 4))
  | .tren => .word (encJ 0x62 0)
  | .idle rd rt => .word (encI 0x64 rd rt 0)
  | .yield => .word (encJ 0x65 0)
  | .tinvAll rs1 rs2 scope => .word (encI 0x66 0 rs1 (rs2.toNat * 2 ^ 10 + 0 * 2 ^ 8 + scope.toNat * 2 ^ 5))
  | .tinvAs rs1 rs2 scope => .word (encI 0x66 0 rs1 (rs2.toNat * 2 ^ 10 + 1 * 2 ^ 8 + scope.toNat * 2 ^ 5))
  | .tinvPg rs1 rs2 scope => .word (encI 0x66 0 rs1 (rs2.toNat * 2 ^ 10 + 2 * 2 ^ 8 + scope.toNat * 2 ^ 5))
  | .lcclean rs1 rs2 => .word (encI 0x67 0 rs1 (rs2.toNat * 2 ^ 10))
  | .lcinval rs1 rs2 => .word (encI 0x67 0 rs1 (rs2.toNat * 2 ^ 10 + 2 ^ 9))
  | .ownhintDev rs1 => .word (encI 0x68 0 rs1 0)
  | .ownhintHost rs1 => .word (encI 0x68 0 rs1 (2 ^ 14))
  | .vsave rs1 rs2 k => .word (encI 0x69 0 rs1 (rs2.toNat * 2 ^ 10 + encSel k))
  | .vrestore rs1 rs2 k => .word (encI 0x6A 0 rs1 (rs2.toNat * 2 ^ 10 + encSel k))
  | .vrestoreSt rs1 rs2 k => .word (encI 0x6A 0 rs1 (rs2.toNat * 2 ^ 10 + encSel k + 1 * 2 ^ 5))
  | .mcfg geom => .long (encL 0x080 geom.toNat 0)
  | .mldb rd rs rst fmt w1 cls => .long (encL 0x081 (rd.toNat * 2 ^ 11 + rs.toNat * 2 ^ 6 + rst.toNat * 2) (fmt.toNat * 2 ^ 29 + w1.toNat * 2 ^ 26 + cls.toNat * 2 ^ 22))
  | .mldbX rd rs rst ri rn fmt w1 cls => .long (encL 0x082 (rd.toNat * 2 ^ 11 + rs.toNat * 2 ^ 6 + rst.toNat * 2)
      (fmt.toNat * 2 ^ 29 + w1.toNat * 2 ^ 26 + cls.toNat * 2 ^ 22 + ri.toNat * 2 ^ 17 + rn.toNat * 2 ^ 12))
  | .mma rd row slot => .long (encMx 0x083 rd row (slot.toNat * 2) 0)
  | .mvrdSgn rd row slot => .long (encMx 0x084 rd row (slot.toNat * 2) 0)
  | .mvrdTopk rd row slot => .long (encMx 0x084 rd row (slot.toNat * 2) 1)
  | .mclr rd row count1 flags => .long (encMx 0x085 rd row 0 (count1.toNat * 2 ^ 2 + flags.toNat))
  | .mstc rd ra rst row count1 fmt cls => .long (encL 0x086 (rd.toNat * 2 ^ 11 + ra.toNat * 2 ^ 6 + rst.toNat * 2)
      (row.toNat * 2 ^ 26 + count1.toNat * 2 ^ 20 + fmt.toNat * 2 ^ 18 + cls.toNat * 2 ^ 14))
  | .mthr rd row => .long (encMx 0x087 rd row 0 0)
  | .mthw rs row => .long (encMx 0x088 rs row 0 0)
  | .mstat rd sel => .long (encL 0x089 (rd.toNat * 2 ^ 11 + sel.toNat) 0)
  | .vadd f => .member (encVA 0x1 f)
  | .vsub f => .member (encVA 0x2 f)
  | .vrsub f => .member (encVA 0x3 f)
  | .vand f => .member (encVA 0x4 f)
  | .vor f => .member (encVA 0x5 f)
  | .vxor f => .member (encVA 0x6 f)
  | .vsll f => .member (encVA 0x7 f)
  | .vsrl f => .member (encVA 0x8 f)
  | .vsra f => .member (encVA 0x9 f)
  | .vmin f => .member (encVA 0xA f)
  | .vmax f => .member (encVA 0xB f)
  | .vminu f => .member (encVA 0xC f)
  | .vmaxu f => .member (encVA 0xD f)
  | .vmul f => .member (encVA 0xE f)
  | .vmulh f => .member (encVA 0xF f)
  | .vmulhu f => .member (encVA 0x10 f)
  | .vdiv f => .member (encVA 0x11 f)
  | .vdivu f => .member (encVA 0x12 f)
  | .vrem f => .member (encVA 0x13 f)
  | .vremu f => .member (encVA 0x14 f)
  | .vmadd f => .member (encVA 0x15 f)
  | .vsadd f => .member (encVA 0x16 f)
  | .vsaddu f => .member (encVA 0x17 f)
  | .vssub f => .member (encVA 0x18 f)
  | .vssubu f => .member (encVA 0x19 f)
  | .vgadd f => .member (encVA 0x1A f)
  | .vgsub f => .member (encVA 0x1B f)
  | .vgcy f => .member (encVA 0x1C f)
  | .vgbw f => .member (encVA 0x1D f)
  | .vmseq f => .member (encVA 0x80 f)
  | .vmsne f => .member (encVA 0x81 f)
  | .vmslt f => .member (encVA 0x82 f)
  | .vmsltu f => .member (encVA 0x83 f)
  | .vmsle f => .member (encVA 0x84 f)
  | .vmsleu f => .member (encVA 0x85 f)
  | .vmsgt f => .member (encVA 0x86 f)
  | .vmsgtu f => .member (encVA 0x87 f)
  | .vredsum f => .member (encVA 0xC0 f)
  | .vredmax f => .member (encVA 0xC1 f)
  | .vredmin f => .member (encVA 0xC2 f)
  | .vredmaxu f => .member (encVA 0xC3 f)
  | .vredminu f => .member (encVA 0xC4 f)
  | .vredand f => .member (encVA 0xC5 f)
  | .vredor f => .member (encVA 0xC6 f)
  | .vredxor f => .member (encVA 0xC7 f)
  | .vfadd f => .member (encVA 0x100 f)
  | .vfsub f => .member (encVA 0x101 f)
  | .vfmul f => .member (encVA 0x102 f)
  | .vfdiv f => .member (encVA 0x103 f)
  | .vfsqrt f => .member (encVA 0x104 f)
  | .vfmin f => .member (encVA 0x105 f)
  | .vfmax f => .member (encVA 0x106 f)
  | .vfma f => .member (encVA 0x107 f)
  | .vfms f => .member (encVA 0x108 f)
  | .vfnma f => .member (encVA 0x109 f)
  | .vfsgnj f => .member (encVA 0x10A f)
  | .vfsgnjn f => .member (encVA 0x10B f)
  | .vfcvtF32Bf16 f => .member (encVA 0x140 f)
  | .vfcvtBf16F32 f => .member (encVA 0x141 f)
  | .vfcvtFI f => .member (encVA 0x142 f)
  | .vfcvtFU f => .member (encVA 0x143 f)
  | .vfcvtIF f => .member (encVA 0x144 f)
  | .vfcvtUF f => .member (encVA 0x145 f)
  | .vmfeq f => .member (encVA 0x160 f)
  | .vmfne f => .member (encVA 0x161 f)
  | .vmflt f => .member (encVA 0x162 f)
  | .vmfle f => .member (encVA 0x163 f)
  | .vmfgt f => .member (encVA 0x164 f)
  | .vmfge f => .member (encVA 0x165 f)
  | .vmford f => .member (encVA 0x166 f)
  | .vmfclass f => .member (encVA 0x167 f)
  | .vfredsum f => .member (encVA 0x170 f)
  | .vfredmax f => .member (encVA 0x171 f)
  | .vfredmin f => .member (encVA 0x172 f)
  | .vfaddF64 f => .member (encVA 0x180 f)
  | .vfsubF64 f => .member (encVA 0x181 f)
  | .vfmulF64 f => .member (encVA 0x182 f)
  | .vfdivF64 f => .member (encVA 0x183 f)
  | .vfsqrtF64 f => .member (encVA 0x184 f)
  | .vfminF64 f => .member (encVA 0x185 f)
  | .vfmaxF64 f => .member (encVA 0x186 f)
  | .vfmaF64 f => .member (encVA 0x187 f)
  | .vfmsF64 f => .member (encVA 0x188 f)
  | .vfnmaF64 f => .member (encVA 0x189 f)
  | .vfsgnjF64 f => .member (encVA 0x18A f)
  | .vfsgnjnF64 f => .member (encVA 0x18B f)
  | .vfcvtF64F32 f => .member (encVA 0x1A0 f)
  | .vfcvtF32F64 f => .member (encVA 0x1A1 f)
  | .vfcvtFIF64 f => .member (encVA 0x1A2 f)
  | .vfcvtFUF64 f => .member (encVA 0x1A3 f)
  | .vfcvtIFF64 f => .member (encVA 0x1A4 f)
  | .vfcvtUFF64 f => .member (encVA 0x1A5 f)
  | .vmfeqF64 f => .member (encVA 0x1B0 f)
  | .vmfneF64 f => .member (encVA 0x1B1 f)
  | .vmfltF64 f => .member (encVA 0x1B2 f)
  | .vmfleF64 f => .member (encVA 0x1B3 f)
  | .vmfgtF64 f => .member (encVA 0x1B4 f)
  | .vmfgeF64 f => .member (encVA 0x1B5 f)
  | .vmfordF64 f => .member (encVA 0x1B6 f)
  | .vmfclassF64 f => .member (encVA 0x1B7 f)
  | .vfredsumF64 f => .member (encVA 0x1B8 f)
  | .vfredmaxF64 f => .member (encVA 0x1B9 f)
  | .vfredminF64 f => .member (encVA 0x1BA f)
  | .vqscale f => .member (encVA 0x1C0 f)
  | .vreds f => .member (encVA 0x1C1 f)
  | .vqapply f => .member (encVA 0x1C2 f)
  | .vqquant f => .member (encVA 0x1C3 f)
  | .vtopk f => .member (encVA 0x1E0 f)
  | .vmand f => .member (encVA 0x200 f)
  | .vmor f => .member (encVA 0x201 f)
  | .vmxor f => .member (encVA 0x202 f)
  | .vmandn f => .member (encVA 0x203 f)
  | .vmorn f => .member (encVA 0x204 f)
  | .vmnand f => .member (encVA 0x205 f)
  | .vmnor f => .member (encVA 0x206 f)
  | .vmxnor f => .member (encVA 0x207 f)
  | .vmrel f => .member (encVA 0x208 f)
  | .vmpopc f => .member (encVA 0x20C f)
  | .vmfirst f => .member (encVA 0x20D f)
  | .vmslide1 f => .member (encVA 0x20E f)
  | .vshiftUp f => .member (encVA 0x240 f)
  | .vshiftDn f => .member (encVA 0x240 f)
  | .vshiftInsUp f => .member (encVA 0x240 f)
  | .vshiftInsDn f => .member (encVA 0x240 f)
  | .vrotDn f => .member (encVA 0x241 f)
  | .vrotUp f => .member (encVA 0x241 f)
  | .vrgather f => .member (encVA 0x244 f)
  | .vsel f => .member (encVA 0x245 f)
  | .vcompress f => .member (encVA 0x246 f)
  | .vexpand f => .member (encVA 0x247 f)
  | .vmv f => .member (encVA 0x248 f)
  | .viota f => .member (encVA 0x280 f)
  | .vid f => .member (encVA 0x281 f)
  | .vconfl f => .member (encVA 0x282 f)
  | .vsegscan f => .member (encVA 0x283 f)
  | .vld f => .member (encVM 0x300 f)
  | .vlds f => .member (encVM 0x300 f)
  | .vldx f => .member (encVM 0x300 f)
  | .vldff f => .member (encVM 0x300 f)
  | .vst f => .member (encVM 0x301 f)
  | .vsts f => .member (encVM 0x301 f)
  | .vstx f => .member (encVM 0x301 f)
  | .vstr f => .member (encVM 0x302 f)
  | .vlink f => .member (encVM 0x340 f)
  | .vscond f => .member (encVM 0x341 f)
  | .rred f => .member (encVM 0x350 f)
  | .vwaitv f => .member (encVM 0x360 f)
  | .vamoAdd f => .member (encVM 0x342 f)
  | .vamoMin f => .member (encVM 0x343 f)
  | .vamoMax f => .member (encVM 0x344 f)
  | .vamoMinu f => .member (encVM 0x345 f)
  | .vamoMaxu f => .member (encVM 0x346 f)
  | .vamoSwap f => .member (encVM 0x347 f)
  | .vamoCas f => .member (encVM 0x348 f)
  | .vamoFadd f => .member (encVM 0x349 f)
  | .vmpopcRq f => .member (encVX 0x380 f)
  | .vmfirstRq f => .member (encVX 0x381 f)
  | .vrqb f => .member (encVX 0x382 f)
  | .vrqe f => .member (encVX 0x383 f)
  | .vsetlc f => .member (encVX 0x384 f)
  | .vsetvl f => .member (encVX 0x385 f)
  | .vtoa f => .member (encVX 0x3A0 f)
  | .vtoaS f => .member (encVX 0x3A1 f)
  | .vfromc f => .member (encVX 0x3A2 f)
  | .vthrmax f => .member (encVX 0x3A3 f)
  | .visect f => .member (encG1 0x2C0 f)
  | .vmerge f => .member (encG1 0x2C1 f)
  | _ => .none

/-- The fields of an ordered scalar access (R106). -/
def ordOf (w x : Nat) : OrdForm :=
  { r := fld 5 w 11, base := fld 5 w 6, w1 := fld 6 w 0, mask := fld 16 x 16, cls := fld 4 x 12, order := fld 2 x 10,
    scope := fld 3 x 7, tail := fld 7 x 0 }

/-- The fields of COPY (R221). -/
def copyOf (w x : Nat) : CopyForm :=
  { rd := fld 5 w 11, rdst := fld 5 w 6, rsrc := fld 5 w 1, twoD := fld 1 w 0, rlen := fld 5 x 27, rc := fld 5 x 22,
    rv := fld 5 x 17, cls := fld 2 x 15, ctx := fld 7 x 8 }

/-- The fields of COPY.MC (R221). -/
def copyMcOf (w x : Nat) : CopyMcForm :=
  { rd := fld 5 w 11, rtab := fld 5 w 6, rsrc := fld 5 w 1, rlen := fld 5 x 27, rv := fld 5 x 17, cls := fld 2 x 15,
    ctx := fld 7 x 8, n1 := fld 4 x 4 }

/-- The strand and m fields (R309). -/
def selOf (w : Nat) : StrandSel := { strand := fld 3 w 7, m := fld 1 w 6 }

/-- The fields of a VA member (R35, R36). -/
def vaOf (w : Nat) : VAForm :=
  { vd := fld 6 w 48, vs1 := fld 6 w 42, vs2 := fld 6 w 36, f35 := fld 6 w 30, mask := fld 3 w 27, me := fld 1 w 26,
    ew := fld 2 w 24, os := fld 2 w 22, rm := fld 3 w 19, variant := fld 3 w 16 }

/-- The fields of a VM member (R35, R37). -/
def vmOf (w : Nat) : VMForm :=
  { vd := fld 6 w 48, hi3 := fld 3 w 45, base := fld 3 w 42, vs2 := fld 6 w 36, f35 := fld 6 w 30, mask := fld 3 w 27,
    me := fld 1 w 26, ew := fld 2 w 24, w1 := fld 6 w 18, mfmt := fld 3 w 15, am := fld 3 w 12, cls := fld 4 w 8,
    order := fld 2 w 6, scope := fld 3 w 3, scale := fld 3 w 0 }

/-- The fields of a VX member (R35, R38). -/
def vxOf (w : Nat) : VXForm :=
  { vd := fld 6 w 48, vs1 := fld 6 w 42, mask := fld 3 w 27, me := fld 1 w 26, ew := fld 2 w 24, idx := fld 6 w 18,
    sreg := fld 3 w 15, param := fld 5 w 10 }

/-- The fields of a G1 member (R180). -/
def g1Of (w : Nat) : G1Form :=
  { co := fld 3 w 51, ca := fld 3 w 45, cb := fld 3 w 39, ew := fld 2 w 24, mode := fld 3 w 21 }

/-- The instruction a scalar word names by its major opcode and function fields (R45). -/
def parseScalar (w : Nat) : Except DecodeError Instr :=
  let d := fld 5 w 20
  let a := fld 5 w 15
  let b := fld 5 w 10
  match field w 25 7 with
  | 0x00 => .error .illegalForever
  | 0x01 => match field w 4 6 with
    | 0 => .ok (.add d a b)
    | 1 => .ok (.sub d a b)
    | 2 => .ok (.and d a b)
    | 3 => .ok (.or d a b)
    | 4 => .ok (.xor d a b)
    | 5 => .ok (.sll d a b)
    | 6 => .ok (.srl d a b)
    | 7 => .ok (.sra d a b)
    | 8 => .ok (.slt d a b)
    | 9 => .ok (.sltu d a b)
    | _ => .error .unassigned
  | 0x02 => .ok (.addi d a (fld 15 w 0))
  | 0x03 => .ok (.andi d a (fld 15 w 0))
  | 0x04 => .ok (.ori d a (fld 15 w 0))
  | 0x05 => .ok (.xori d a (fld 15 w 0))
  | 0x06 => .ok (.slti d a (fld 15 w 0))
  | 0x07 => .ok (.sltiu d a (fld 15 w 0))
  | 0x08 => match field w 13 2 with
    | 0 => .ok (.slli d a (fld 6 w 0))
    | 1 => .ok (.srli d a (fld 6 w 0))
    | 2 => .ok (.srai d a (fld 6 w 0))
    | _ => .error .unassigned
  | 0x09 => .ok (.lui d (fld 20 w 0))
  | 0x0A => .ok (.apc d (fld 20 w 0))
  | 0x0B => match field w 4 6 with
    | 0 => .ok (.mul d a b)
    | 1 => .ok (.mulh d a b)
    | 2 => .ok (.mulhu d a b)
    | 3 => .ok (.div d a b)
    | 4 => .ok (.divu d a b)
    | 5 => .ok (.rem d a b)
    | 6 => .ok (.remu d a b)
    | _ => .error .unassigned
  | 0x0C => match field w 1 2 with
    | 0 => .ok (.bfx d a (fld 6 w 9) (fld 6 w 3))
    | 1 => .ok (.bfxs d a (fld 6 w 9) (fld 6 w 3))
    | 2 => .ok (.bfd d a (fld 6 w 9) (fld 6 w 3))
    | _ => .error .unassigned
  | 0x0D => match field w 4 6 with
    | 0 => .ok (.seq d a b)
    | 1 => .ok (.sne d a b)
    | 2 => .ok (.sge d a b)
    | 3 => .ok (.sgeu d a b)
    | 4 => .ok (.min d a b)
    | 5 => .ok (.max d a b)
    | 6 => .ok (.minu d a b)
    | 7 => .ok (.maxu d a b)
    | _ => .error .unassigned
  | 0x0E => match field w 4 6 with
    | 0 => .ok (.clz d a)
    | 1 => .ok (.ctz d a)
    | 2 => .ok (.cpop d a)
    | _ => .error .unassigned
  | 0x20 => .ok (.ldZ d a (fld 6 w 9) (fld 9 w 0))
  | 0x21 => .ok (.ldS d a (fld 6 w 9) (fld 9 w 0))
  | 0x22 => .ok (.st d a (fld 6 w 9) (fld 9 w 0))
  | 0x23 => .ok (.ll d a (fld 6 w 9) (fld 9 w 0))
  | 0x24 => .ok (.sc d a b (fld 6 w 4))
  | 0x30 => .ok (.beq d a (fld 15 w 0))
  | 0x31 => .ok (.bne d a (fld 15 w 0))
  | 0x32 => .ok (.blt d a (fld 15 w 0))
  | 0x33 => .ok (.bge d a (fld 15 w 0))
  | 0x34 => .ok (.bltu d a (fld 15 w 0))
  | 0x35 => .ok (.bgeu d a (fld 15 w 0))
  | 0x36 => .ok (.j (fld 25 w 0))
  | 0x37 => .ok (.call (fld 25 w 0))
  | 0x38 => .ok (.jr a (fld 15 w 0))
  | 0x39 => .ok (.callr (fld 3 w 20) a (fld 15 w 0))
  | 0x3A => .ok .ret
  | 0x40 => if bitAt w 12 then .ok (.setvlK d a (fld 2 w 13)) else .ok (.setvl d a (fld 2 w 13))
  | 0x41 => .ok (.vcfg (fld 7 w 8))
  | 0x42 => .ok (.vblk (fld 25 w 0))
  | 0x43 => .ok (.vblkr a)
  | 0x44 => .ok (.rqpop d)
  | 0x45 => .ok (.smb d a (fld 6 w 9) (fld 9 w 0))
  | 0x46 => .ok (.waitc (fld 6 w 18) (fld 6 w 12) (fld 6 w 6) (fld 6 w 0))
  | 0x50 => .ok (.fence (fld 3 w 22) (fld 16 w 0))
  | 0x51 => .ok (.waita d a b (fld 2 w 8) (fld 8 w 0))
  | 0x52 => .ok (.tlwait d a (fld 1 w 14) (fld 7 w 7) (fld 1 w 6) (fld 6 w 0))
  | 0x53 => match field w 13 2 with
    | 0 => .ok (.barArv d (fld 1 w 12) (fld 3 w 9))
    | 1 => .ok (.barWt d (fld 1 w 12) (fld 3 w 9))
    | 2 => .ok (.barInit a (fld 1 w 12) (fld 3 w 9) (fld 3 w 6))
    | _ => .error .unassigned
  | 0x54 => .ok .trig
  | 0x55 => .ok .exit
  | 0x56 => .ok (.join d a b)
  | 0x57 => .ok (.wmcfg a (fld 2 w 13))
  | 0x58 => .ok (.wmpub a b)
  | 0x59 => .ok (.strmPush d a b)
  | 0x5A => .ok .progress
  | 0x60 => .ok (.ecall a (fld 15 w 0))
  | 0x61 => match field w 4 2 with
    | 0 => .ok .tret
    | 1 => .ok (.tretS d (selOf w))
    | 2 => .ok (.hget d a (selOf w))
    | _ => .ok (.hput a b (selOf w))
  | 0x62 => .ok .tren
  | 0x63 => match field w 13 2 with
    | 0 => .ok (.csrrd d (fld 12 w 0))
    | 1 => .ok (.csrwr d a (fld 12 w 0))
    | 2 => .ok (.csrmw d a (fld 12 w 0))
    | _ => .error .unassigned
  | 0x64 => .ok (.idle d a)
  | 0x65 => .ok .yield
  | 0x66 => match field w 8 2 with
    | 0 => .ok (.tinvAll a b (fld 3 w 5))
    | 1 => .ok (.tinvAs a b (fld 3 w 5))
    | 2 => .ok (.tinvPg a b (fld 3 w 5))
    | _ => .error .unassigned
  | 0x67 => if bitAt w 9 then .ok (.lcinval a b) else .ok (.lcclean a b)
  | 0x68 => if bitAt w 14 then .ok (.ownhintHost a) else .ok (.ownhintDev a)
  | 0x69 => .ok (.vsave a b (selOf w))
  | 0x6A => if bitAt w 5 then .ok (.vrestoreSt a b (selOf w)) else .ok (.vrestore a b (selOf w))
  | 0x7E => .error .illegalForever
  | _ => .error .reserved

/-- The instruction a long form names by its long opcode (R46); `w` is W0 and `x` is W1. -/
def parseLong (w x : Nat) : Except DecodeError Instr :=
  let d := fld 5 w 11
  let a := fld 5 w 6
  match field w 16 9 with
  | 0x000 => .error .illegalForever
  | 0x001 => .ok (.li d (BitVec.ofNat 43 (field w 0 11 * 2 ^ 32 + x)))
  | 0x002 => .ok (.addiL d a (BitVec.ofNat 38 (field w 0 6 * 2 ^ 32 + x)))
  | 0x010 => .ok (.ldZOrdered (ordOf w x))
  | 0x011 => .ok (.ldSOrdered (ordOf w x))
  | 0x012 => .ok (.stOrdered (ordOf w x))
  | 0x013 => .ok (.llOrdered (ordOf w x))
  | 0x014 => .ok (.scOrdered (ordOf w x))
  | 0x040 => .ok (.smbLong d a (fld 2 w 4) (BitVec.ofNat 12 (field w 0 4 * 2 ^ 8 + field x 24 8)) (fld 24 x 0))
  | 0x050 => .ok (.copy (copyOf w x))
  | 0x051 => .ok (.copyMc (copyMcOf w x))
  | 0x052 => .ok (.persist d a (fld 5 w 1) (fld 7 x 8))
  | 0x053 => .ok (.launch d a)
  | 0x080 => .ok (.mcfg (fld 3 w 0))
  | 0x081 => .ok (.mldb d a (fld 5 w 1) (fld 3 x 29) (fld 3 x 26) (fld 4 x 22))
  | 0x082 => .ok (.mldbX d a (fld 5 w 1) (fld 5 x 17) (fld 5 x 12) (fld 3 x 29) (fld 3 x 26) (fld 4 x 22))
  | 0x083 => .ok (.mma d (fld 6 w 5) (fld 4 w 1))
  | 0x084 => match field x 0 2 with
    | 0 => .ok (.mvrdSgn d (fld 6 w 5) (fld 4 w 1))
    | 1 => .ok (.mvrdTopk d (fld 6 w 5) (fld 4 w 1))
    | _ => .error .illegalField
  | 0x085 => .ok (.mclr d (fld 6 w 5) (fld 6 x 2) (fld 2 x 0))
  | 0x086 => .ok (.mstc d a (fld 5 w 1) (fld 6 x 26) (fld 6 x 20) (fld 2 x 18) (fld 4 x 14))
  | 0x087 => .ok (.mthr d (fld 6 w 5))
  | 0x088 => .ok (.mthw d (fld 6 w 5))
  | 0x089 => .ok (.mstat d (fld 3 w 0))
  | n => if 0x08A ≤ n && n ≤ 0x0BF then .error .unassigned else .error .reserved

/-- The instruction a vector member word names by its opcode (R47, R155, R184, R204, R255). The
compiler has no more than 244 constructors that hold data, so this definition is for the kernel alone. -/
noncomputable def parseMember (w : Nat) : Except DecodeError Instr :=
  let va := vaOf w
  let vm := vmOf w
  match field w 54 10 with
  | 0x000 => .error .illegalForever
  | 0x001 => .ok (.vadd va)
  | 0x002 => .ok (.vsub va)
  | 0x003 => .ok (.vrsub va)
  | 0x004 => .ok (.vand va)
  | 0x005 => .ok (.vor va)
  | 0x006 => .ok (.vxor va)
  | 0x007 => .ok (.vsll va)
  | 0x008 => .ok (.vsrl va)
  | 0x009 => .ok (.vsra va)
  | 0x00A => .ok (.vmin va)
  | 0x00B => .ok (.vmax va)
  | 0x00C => .ok (.vminu va)
  | 0x00D => .ok (.vmaxu va)
  | 0x00E => .ok (.vmul va)
  | 0x00F => .ok (.vmulh va)
  | 0x010 => .ok (.vmulhu va)
  | 0x011 => .ok (.vdiv va)
  | 0x012 => .ok (.vdivu va)
  | 0x013 => .ok (.vrem va)
  | 0x014 => .ok (.vremu va)
  | 0x015 => .ok (.vmadd va)
  | 0x016 => .ok (.vsadd va)
  | 0x017 => .ok (.vsaddu va)
  | 0x018 => .ok (.vssub va)
  | 0x019 => .ok (.vssubu va)
  | 0x01A => .ok (.vgadd va)
  | 0x01B => .ok (.vgsub va)
  | 0x01C => .ok (.vgcy va)
  | 0x01D => .ok (.vgbw va)
  | 0x080 => .ok (.vmseq va)
  | 0x081 => .ok (.vmsne va)
  | 0x082 => .ok (.vmslt va)
  | 0x083 => .ok (.vmsltu va)
  | 0x084 => .ok (.vmsle va)
  | 0x085 => .ok (.vmsleu va)
  | 0x086 => .ok (.vmsgt va)
  | 0x087 => .ok (.vmsgtu va)
  | 0x0C0 => .ok (.vredsum va)
  | 0x0C1 => .ok (.vredmax va)
  | 0x0C2 => .ok (.vredmin va)
  | 0x0C3 => .ok (.vredmaxu va)
  | 0x0C4 => .ok (.vredminu va)
  | 0x0C5 => .ok (.vredand va)
  | 0x0C6 => .ok (.vredor va)
  | 0x0C7 => .ok (.vredxor va)
  | 0x100 => .ok (.vfadd va)
  | 0x101 => .ok (.vfsub va)
  | 0x102 => .ok (.vfmul va)
  | 0x103 => .ok (.vfdiv va)
  | 0x104 => .ok (.vfsqrt va)
  | 0x105 => .ok (.vfmin va)
  | 0x106 => .ok (.vfmax va)
  | 0x107 => .ok (.vfma va)
  | 0x108 => .ok (.vfms va)
  | 0x109 => .ok (.vfnma va)
  | 0x10A => .ok (.vfsgnj va)
  | 0x10B => .ok (.vfsgnjn va)
  | 0x140 => .ok (.vfcvtF32Bf16 va)
  | 0x141 => .ok (.vfcvtBf16F32 va)
  | 0x142 => .ok (.vfcvtFI va)
  | 0x143 => .ok (.vfcvtFU va)
  | 0x144 => .ok (.vfcvtIF va)
  | 0x145 => .ok (.vfcvtUF va)
  | 0x160 => .ok (.vmfeq va)
  | 0x161 => .ok (.vmfne va)
  | 0x162 => .ok (.vmflt va)
  | 0x163 => .ok (.vmfle va)
  | 0x164 => .ok (.vmfgt va)
  | 0x165 => .ok (.vmfge va)
  | 0x166 => .ok (.vmford va)
  | 0x167 => .ok (.vmfclass va)
  | 0x170 => .ok (.vfredsum va)
  | 0x171 => .ok (.vfredmax va)
  | 0x172 => .ok (.vfredmin va)
  | 0x180 => .ok (.vfaddF64 va)
  | 0x181 => .ok (.vfsubF64 va)
  | 0x182 => .ok (.vfmulF64 va)
  | 0x183 => .ok (.vfdivF64 va)
  | 0x184 => .ok (.vfsqrtF64 va)
  | 0x185 => .ok (.vfminF64 va)
  | 0x186 => .ok (.vfmaxF64 va)
  | 0x187 => .ok (.vfmaF64 va)
  | 0x188 => .ok (.vfmsF64 va)
  | 0x189 => .ok (.vfnmaF64 va)
  | 0x18A => .ok (.vfsgnjF64 va)
  | 0x18B => .ok (.vfsgnjnF64 va)
  | 0x1A0 => .ok (.vfcvtF64F32 va)
  | 0x1A1 => .ok (.vfcvtF32F64 va)
  | 0x1A2 => .ok (.vfcvtFIF64 va)
  | 0x1A3 => .ok (.vfcvtFUF64 va)
  | 0x1A4 => .ok (.vfcvtIFF64 va)
  | 0x1A5 => .ok (.vfcvtUFF64 va)
  | 0x1B0 => .ok (.vmfeqF64 va)
  | 0x1B1 => .ok (.vmfneF64 va)
  | 0x1B2 => .ok (.vmfltF64 va)
  | 0x1B3 => .ok (.vmfleF64 va)
  | 0x1B4 => .ok (.vmfgtF64 va)
  | 0x1B5 => .ok (.vmfgeF64 va)
  | 0x1B6 => .ok (.vmfordF64 va)
  | 0x1B7 => .ok (.vmfclassF64 va)
  | 0x1B8 => .ok (.vfredsumF64 va)
  | 0x1B9 => .ok (.vfredmaxF64 va)
  | 0x1BA => .ok (.vfredminF64 va)
  | 0x1C0 => .ok (.vqscale va)
  | 0x1C1 => .ok (.vreds va)
  | 0x1C2 => .ok (.vqapply va)
  | 0x1C3 => .ok (.vqquant va)
  | 0x1E0 => .ok (.vtopk va)
  | 0x200 => .ok (.vmand va)
  | 0x201 => .ok (.vmor va)
  | 0x202 => .ok (.vmxor va)
  | 0x203 => .ok (.vmandn va)
  | 0x204 => .ok (.vmorn va)
  | 0x205 => .ok (.vmnand va)
  | 0x206 => .ok (.vmnor va)
  | 0x207 => .ok (.vmxnor va)
  | 0x208 => .ok (.vmrel va)
  | 0x20C => .ok (.vmpopc va)
  | 0x20D => .ok (.vmfirst va)
  | 0x20E => .ok (.vmslide1 va)
  | 0x240 => match va.variant.toNat with
    | 0 => .ok (.vshiftUp va)
    | 1 => .ok (.vshiftDn va)
    | 2 => .ok (.vshiftInsUp va)
    | 3 => .ok (.vshiftInsDn va)
    | _ => .error .unassigned
  | 0x241 => match va.variant.toNat with
    | 0 => .ok (.vrotDn va)
    | 1 => .ok (.vrotUp va)
    | _ => .error .unassigned
  | 0x244 => .ok (.vrgather va)
  | 0x245 => .ok (.vsel va)
  | 0x246 => .ok (.vcompress va)
  | 0x247 => .ok (.vexpand va)
  | 0x248 => .ok (.vmv va)
  | 0x280 => .ok (.viota va)
  | 0x281 => .ok (.vid va)
  | 0x282 => .ok (.vconfl va)
  | 0x283 => .ok (.vsegscan va)
  | 0x2C0 => .ok (.visect (g1Of w))
  | 0x2C1 => .ok (.vmerge (g1Of w))
  | 0x300 => match vm.am.toNat with
    | 0 => .ok (.vld vm)
    | 1 => .ok (.vlds vm)
    | 2 => .ok (.vldx vm)
    | 3 => .ok (.vldff vm)
    | _ => .error .illegalField
  | 0x301 => match vm.am.toNat with
    | 0 => .ok (.vst vm)
    | 1 => .ok (.vsts vm)
    | 2 => .ok (.vstx vm)
    | _ => .error .illegalField
  | 0x302 => .ok (.vstr vm)
  | 0x340 => .ok (.vlink vm)
  | 0x341 => .ok (.vscond vm)
  | 0x342 => .ok (.vamoAdd vm)
  | 0x343 => .ok (.vamoMin vm)
  | 0x344 => .ok (.vamoMax vm)
  | 0x345 => .ok (.vamoMinu vm)
  | 0x346 => .ok (.vamoMaxu vm)
  | 0x347 => .ok (.vamoSwap vm)
  | 0x348 => .ok (.vamoCas vm)
  | 0x349 => .ok (.vamoFadd vm)
  | 0x350 => .ok (.rred vm)
  | 0x360 => .ok (.vwaitv vm)
  | 0x380 => .ok (.vmpopcRq (vxOf w))
  | 0x381 => .ok (.vmfirstRq (vxOf w))
  | 0x382 => .ok (.vrqb (vxOf w))
  | 0x383 => .ok (.vrqe (vxOf w))
  | 0x384 => .ok (.vsetlc (vxOf w))
  | 0x385 => .ok (.vsetvl (vxOf w))
  | 0x3A0 => .ok (.vtoa (vxOf w))
  | 0x3A1 => .ok (.vtoaS (vxOf w))
  | 0x3A2 => .ok (.vfromc (vxOf w))
  | 0x3A3 => .ok (.vthrmax (vxOf w))
  | n => if 0x3C0 ≤ n then .error .reserved else .error .unassigned

/-- A reading is accepted when it encodes back to the word it was read from and its fields are legal (R49). -/
def accept (c : Code) (r : Except DecodeError Instr) : Except DecodeError Instr :=
  match r with
  | .error e => .error e
  | .ok i => if encode i = c then (if i.wf then .ok i else .error .illegalField) else .error .zeroField

/-- Decode a 32-bit scalar word (R28, R45). -/
def decodeScalar (w : Nat) : Except DecodeError Instr :=
  if w = 0 then .error .illegalForever else accept (.word w) (parseScalar w)

/-- A scalar word introduces a long form when its major opcode is 0x7F (R30). -/
def isLongWord (w : Nat) : Bool := field w 25 7 == 0x7F

/-- Decode a 64-bit long form, W0 in bits 31:0 (R30, R46). -/
def decodeLong (w : Nat) : Except DecodeError Instr := accept (.long w) (parseLong (field w 0 32) (field w 32 32))

/-- Decode a vector member word (R35, R47). -/
noncomputable def decodeMember (w : Nat) : Except DecodeError Instr := accept (.member w) (parseMember w)

/-- Decode an instruction's words laid out as memory holds them: bit k of w is memory bit pc + k (R27, R30, R31). 32 bits are a scalar
word; a word whose major is 0x7F takes the next 32 bits as W1 (zero where they are not given); other 64-bit words are vector members. -/
noncomputable def decodeBits (nbits w : Nat) : Except DecodeError Instr :=
  if isLongWord w then decodeLong (field w 0 64)
  else if nbits ≤ 32 then (if nbits < 32 then .error .short else decodeScalar (field w 0 32))
  else decodeMember (field w 0 64)

/-- The instruction the decoder reads from a word of the opcode table, bits numbered as the table numbers them. -/
noncomputable def decodeTableWord (nbits w : Nat) : Option Instr :=
  match decodeBits nbits w with
  | .ok i => some i
  | .error _ => none

/-- A vector member word by its format: what the checks and probe passes of a convoy read (R34 to R38, R50). -/
inductive Member where
  | va (p : VASpec) (f : VAForm)
  | vm (op : Nat) (f : VMForm)
  | vx (op : Nat) (f : VXForm)
  | g1 (op : Nat) (f : G1Form)
  /-- a word that is no member: ILLEGAL (R49) -/
  | bad
deriving DecidableEq, Repr

/-- A member word's format and fields, where its opcode is assigned and its fields are legal; the words `decodeMember` accepts. -/
def memberOf (w : Nat) : Member :=
  let op := field w 54 10
  let f := vaOf w
  match vaRow op f.variant.toNat with
  | some p => if encVA op f = w && vaOk p f then .va p f else .bad
  | none =>
    if op = 0x2C0 || op = 0x2C1 then (if encG1 op (g1Of w) = w && g1Ok op (g1Of w) then .g1 op (g1Of w) else .bad)
    else if (0x300 ≤ op && op ≤ 0x302) || (0x340 ≤ op && op ≤ 0x349) || op = 0x350 || op = 0x360 then
      (if encVM op (vmOf w) = w && vmOk op (vmOf w) then .vm op (vmOf w) else .bad)
    else if (0x380 ≤ op && op ≤ 0x385) || (0x3A0 ≤ op && op ≤ 0x3A3) then
      (if encVX op (vxOf w) = w && vxOk op (vxOf w) then .vx op (vxOf w) else .bad)
    else .bad

/-- The fields of a convoy header word (R31, R32). -/
structure Header where
  kind : BitVec 3
  count : BitVec 2
  units : BitVec 8
  lc : BitVec 2
  back : BitVec 12
deriving DecidableEq, Repr

/-- The fields of a header word, whatever it holds in bits 16:12. -/
def headerOf (w : Nat) : Header :=
  { kind := fld 3 w 29, count := fld 2 w 27, units := fld 8 w 19, lc := fld 2 w 17, back := fld 12 w 0 }

/-- The units code of slot i (R32). -/
def Header.unit (h : Header) (i : Nat) : Nat := h.units.toNat / 2 ^ (2 * i) % 4

/-- A legal header: kind 101 to 111, slots above count 00, lc and back zero unless kind is 111, bits 16:12 zero (R32). -/
def headerOk (w : Nat) : Bool :=
  let h := headerOf w
  5 ≤ h.kind.toNat && h.units.toNat / 2 ^ (2 * (h.count.toNat + 1)) == 0 && field w 12 5 == 0 &&
    (h.kind.toNat == 7 || (h.lc == 0 && h.back == 0))

/-- The units code the vector map gives an opcode, none for 0x000 and 0x3C0 to 0x3FF (R34, R47). -/
def unitsOfOpcode (op : Nat) : Option Nat :=
  if op = 0 then none
  else if op < 0x200 then some 0
  else if op < 0x2C0 then some 2
  else if op < 0x380 then some 1
  else if op < 0x3C0 then some 3
  else none

/-- The profile a vector opcode's range belongs to (R47). -/
def profileOfOpcode (op : Nat) : Profile :=
  if 0x180 ≤ op && op ≤ 0x1BF then .d1
  else if 0x1C0 ≤ op && op ≤ 0x1DF then .q1
  else if 0x2C0 ≤ op && op ≤ 0x2FF then .g1
  else if 0x3A0 ≤ op && op ≤ 0x3BF then .m1
  else .v1

end Sys2Proof
end

