-- ==== Sys2Proof/Machine/State.lean ====
section
/-!
DEFINITION. The state of the machine, all of it plain data: every register, memory, queue, engine and record the spec names, and the model's
own fields (`agenda`, `pick`, `cur`, `freeCtr`, `seq`, `devIn`, `devOut`). Docstrings name the rule each field comes from.
-/

namespace Sys2Proof.Machine

/-- Why the machine stops. -/
inductive Fault where
  /-- Raised by `step` when the agenda gives a turn to a strand, vector unit or core that the package does not have. Safe: no chip has one. -/
  | noSuchAgent
deriving DecidableEq, Repr

/-- Why an instruction has no meaning in the model. -/
inductive Refusal where
  /-- Raised by `exec` for a row of the opcode table that is not modelled. Safe: nothing is claimed of it. -/
  | notModelled (mnemonic : String)
deriving DecidableEq, Repr

/-- Whose turn it is: a strand's scalar side, a strand's vector side, an event of the table, or nobody (time passes). -/
inductive Who where
  | strand (sid : Nat)
  | vector (sid : Nat)
  | event (i : Instr)
  | idle
deriving DecidableEq, Repr

/-- One entry of the agenda: whose turn it is, how many cycles have passed before it, and for a vector side which of the strand's convoys under way goes on, the
oldest first. -/
structure Turn where
  who : Who
  dt : Nat
  nth : Nat := 0
deriving DecidableEq, Repr

/-- A 64-bit word with its poison bit (R95, R118). -/
structure PWord where
  w : Word := 0
  p : Bool := false
deriving DecidableEq, Repr

/-- A register of the vector unit: its bits, and one poison bit for each byte of it (R154). -/
structure VReg where
  bits : Nat := 0
  pois : Nat := 0
deriving DecidableEq, Repr

/-- A watermark register: its five words (R65). -/
structure Wm where
  base : Word := 0
  w1 : Word := 0
  pub : Word := 0
  lim : Word := 0
  obs : Word := 0
deriving DecidableEq, Repr

/-- A strand context is free, runs, or has ended (R326). Parked and held are separate. -/
inductive Phase where
  | free
  | running
  | ended
deriving DecidableEq, Repr

/-- Accesses under way that a TINV waits for (R315): those of a convoy by strand, convoy number, slot, part and virtual address; matrix operations by core and
number; RRED members by number. -/
structure Flight where
  convs : List (Nat × Nat × Nat × Nat × Nat) := []
  mxs : List (Nat × Nat) := []
  mids : List Nat := []
deriving DecidableEq, Repr

/-- A wait in progress: the waiting instruction and the strand's cycle at its first cycle of waiting (R122, R276). -/
structure Wait where
  instr : Instr
  since : Nat
  /-- the phase a BAR.WT waits to pass, fixed at issue (R281) -/
  target : Nat := 0
  /-- what a TINV that has dropped its entries waits for -/
  flight : Option Flight := none
deriving DecidableEq, Repr

/-- Why a strand is held (R300, R311): its notice, whether it has been pushed, and whether an ECALL held it. -/
structure Hold where
  n0 : Word
  n1 : Word
  n2 : Word
  pushed : Bool := false
  service : Bool := false
deriving DecidableEq, Repr

/-- A queued block: address, argument snapshot, and the vl, ew, rounding mode and shares recorded with it (R117, R138). -/
structure QBlock where
  addr : Word
  args : List PWord
  vl : Nat
  ew : Nat
  rm : Nat
  g : Nat
deriving DecidableEq, Repr

/-- An entry of the vector issue queue: a block, or the point at which a SETVL declared every register dead (R115), with the shares that become
free there (R130). -/
inductive QItem where
  | block (b : QBlock)
  | dead (rel : Nat)
deriving DecidableEq, Repr

/-- The block in progress at vpc (R123, R318 words 21 to 23). `ff` is the vl a fault-only-first load of the block left (R44). -/
structure Blk where
  vl : Nat
  ew : Nat
  rm : Nat
  g : Nat
  ff : Option Nat := none
deriving DecidableEq, Repr

/-- The accumulator, threshold or slot effects a convoy applies when it retires, with the loop counter, vl, reply and flag effects. -/
inductive Staged where
  | lc (k : Nat) (w : Word)
  | vl (n : Nat) (ew : Option Nat)
  | push (w : PWord)
  | fill (slot : Nat) (scaled : Bool) (planes bits pois : Nat)
  | thr (row v : Nat)
deriving DecidableEq, Repr

/-- A translated bit: flat address, whether DEV, interleave, ownership domain. -/
structure Tr where
  fa : Nat
  dev : Bool := false
  il : Nat := 0
  dom : Nat := 0
deriving DecidableEq, Repr

/-- A translated part of an access: its offset and length in bits, its virtual address, its translation. -/
structure Piece where
  off : Nat
  len : Nat
  va : Nat
  tr : Tr
deriving DecidableEq, Repr

/-- A part of a memory member as its probe pass found it (R88): element e, or (2^20 + j) the trailer of record j, with its address. -/
structure Probe where
  id : Nat
  va : Nat
  ps : List Piece
deriving DecidableEq, Repr

/-- A head that a G1 member has read and not consumed (R183): its key, its poison, where it was read. -/
structure Head where
  key : Nat
  pois : Bool
  ps : List Piece
deriving DecidableEq, Repr

/-- What a started member still waits for: its parts not yet performed, in order, and whether the request for the first has been sent (R207, R211, R212, R290);
the round of a VAMO, its elements left, those whose link reads have been sent, and those of them whose replies have come (R218); VWAITV elements (R280); the
heads a merge has read and not consumed (R183). -/
inductive Pend where
  | none
  | elems (asked : Bool) (es : List Probe)
  | vamo (round : Nat) (left sent came : List Nat)
  | vwait (left : List Nat) (since : Nat)
  | heads (a b : Option Head)
deriving DecidableEq, Repr

/-- What a slot of a convoy has written (R324): file (0 vector, 1 mask, 2 scale) and register, the width of an element, the elements. -/
structure Wrote where
  slot : Nat
  file : Nat
  reg : Nat
  w : Nat
  es : List Nat
deriving DecidableEq, Repr

/-- What a trap gives back: the registers a convoy's members displaced (R296), as they stood when it began to issue. -/
structure Hist where
  v : Sparse VReg
  m : Sparse Nat
  sc : Sparse VReg
  blk : Blk
  /-- the link set that a VLINK of the convoy replaces (R214) -/
  vlinks : List (Nat × Word × Nat) := []
deriving DecidableEq, Repr

/-- A convoy in progress (R126): its words, the member it is at, strips issued, staged effects and history. -/
structure Conv where
  /-- the convoy's number, by State.seq -/
  num : Nat := 0
  addr : Word
  hdr : Header
  konst : Nat
  /-- the member words, as fetched at the convoy check -/
  words : List Nat
  strips : Nat
  issued : Nat := 0
  slot : Nat := 0
  pend : Pend := .none
  hist : Hist
  flags : Nat := 0
  staged : List Staged := []
  /-- a memory-writing, VAMO or DEV element has been performed (R303) -/
  performed : Bool := false
  /-- registers written, for vdirty at retirement -/
  dirty : List Nat := []
  /-- what the slots that have completed wrote, element by element (R324) -/
  wrote : List Wrote := []
  /-- the VAMO elements valid (R219) -/
  valid : List Nat := []
  /-- what the probe passes found, by slot -/
  probes : Sparse (List Probe) := []
  /-- slots whose addresses, elements or vl a value the probe pass cannot know decides: probed when they execute -/
  late : List Nat := []
deriving DecidableEq, Repr

/-- A convoy that has issued its last convoy strip before a later one of its strand, and has not retired (R126). Its members go on in the registers it has, `v`,
`m` and `sc`, its own results among them; `lc` to `vstate` are what the strand has again where it unwinds (R296), and `taken` is what has left the vector issue
queue since, which goes back there then. -/
structure Past where
  conv : Conv
  blk : Blk
  v : Sparse VReg := []
  m : Sparse Nat := []
  sc : Sparse VReg := []
  /-- the first cycle of a wait of its (watermark, VTOA) -/
  convWait : Option Nat := none
  b : Vector PWord 8
  lc : Vector Word 4
  vdirty : Word
  vstate : Nat
  estart : Nat
  taken : List QItem := []
deriving DecidableEq, Repr

/-- One strand context with its vector side. -/
structure Strand where
  phase : Phase := .free
  /-- runs at S level (R333) -/
  sup : Bool := false
  group : Option Nat := none
  /-- strand index within the group (R43 strandid) -/
  idx : Nat := 0
  asid : Nat := 0
  /-- x0 to x31 with their poison bits (R40, R95); entry 0 is never written -/
  x : Vector PWord 32 := Vector.replicate 32 {}
  pc : Word := 0
  wait : Option Wait := none
  hold : Option Hold := none
  /-- the scalar link: the address and width of the element (R107) -/
  link : Option (Nat × Nat) := none
  /-- the vector link set: element, Addr, width (R214) -/
  vlinks : List (Nat × Word × Nat) := []
  trig : Bool := false
  rq : List PWord := []
  wm : Vector Wm 4 := Vector.replicate 4 {}
  vl : Nat := 0
  smbVl : Nat := 0
  ew : Nat := 0
  n2 : Nat := 5
  g : Nat := 0
  /-- shares the strand holds, those of blocks queued before a SETVL included (R130) -/
  held : Nat := 0
  estart : Nat := 0
  vdirty : Word := 0
  vstate : Nat := 1
  lpart : Nat := 0
  share : Nat := 16
  fcsr : Word := 0
  tpc : Word := 0
  tcause : Word := 0
  taddr : Word := 0
  tinfo : Word := 0
  topen : Bool := true
  tvec : Word := 0
  preq : Bool := false
  grace : Nat := 65536
  /-- cycle at which the request flag was set (R302) -/
  reqAt : Nat := 0
  /-- a forced PREEMPT held under R299, with the cycle it fell due -/
  heldPre : Option Nat := none
  /-- added to the core's count in a read of cycle (R76) -/
  rebase : Word := 0
  /-- no scalar instruction issues before this cycle (R314) -/
  notBefore : Nat := 0
  v : Sparse VReg := []
  m : Sparse Nat := []
  sc : Sparse VReg := []
  b : Vector PWord 8 := Vector.replicate 8 {}
  lc : Vector Word 4 := Vector.replicate 4 0
  vpc : Word := 0
  queue : List QItem := []
  /-- the queue is stopped for the strand's own handler (R298) -/
  stopped : Bool := false
  blk : Option Blk := none
  /-- convoys that have issued before the one in progress and have not retired, oldest first -/
  past : List Past := []
  conv : Option Conv := none
  /-- the first cycle of a convoy's wait (watermark, VTOA, VFROMC) before its probe pass -/
  convWait : Option Nat := none
  /-- deficit in beats (R127) -/
  deficit : Nat := 0
deriving DecidableEq, Repr

/-- A core barrier register (R281): records are by strand context; 2^64 records a phase that completed on another core (R76). -/
structure CoreBar where
  c : Nat := 1
  a : Nat := 0
  P : Nat := 0
  recs : Sparse Nat := []
deriving DecidableEq, Repr

/-- A gang's barrier object once configured (R281); records are keyed by 16 × groupid + strand. -/
structure GangBar where
  level : Nat
  c : Nat
  a : Nat := 0
  P : Nat := 0
  inst : Nat
  recs : Sparse Nat := []
deriving DecidableEq, Repr

/-- A line of a line cache (R189): data, dirty bits, classes, poison. -/
structure CLine where
  data : Nat
  dirty : Nat := 0
  classes : Nat := 0
  pois : Bool := false
  /-- a poisoned store waits in the line for its write-back -/
  wpois : Bool := false
deriving DecidableEq, Repr

/-- A line of a fetch cache (R91, R93). -/
structure FLine where
  data : Nat
  pois : Bool
deriving DecidableEq, Repr

/-- A range entry as the walk read it (R84), with its address space. -/
structure Range where
  asid : Nat
  base : Nat
  len : Nat
  target : Nat
  attr : Nat
deriving DecidableEq, Repr

/-- A cached page entry: address space, its first virtual page, its length in 4 KiB pages, physical base, nw and nx (R86), and the bank of the page
store that holds it (R88). -/
structure PageEnt where
  asid : Nat
  vpage : Nat
  n : Nat
  phys : Nat
  nw : Bool
  nx : Bool
  bank : Nat := 0
deriving DecidableEq, Repr

/-- A row-buffer slot (R228, R232). `pois` has one bit for each element. -/
structure Slot where
  full : Bool := false
  scaled : Bool := false
  planes : Nat := 0
  claimed : Bool := false
  bits : Nat := 0
  pois : Nat := 0
deriving DecidableEq, Repr

/-- An accumulator row: 512 × 32 bits and one poison bit for each element. -/
structure AccRow where
  bits : Nat := 0
  pois : Nat := 0
deriving DecidableEq, Repr

/-- What a numbered matrix operation does (R244 to R252). Row moves hold the translations fixed at the check (R249). -/
inductive MxKind where
  | mldb (rows : List (Option Nat)) (fmt width cls : Nat) (pages : List (Nat × Nat))
  | row (acc slot : Nat) (pred : Option Bool)
  | mclr (row count flags : Nat)
  | mstc (row count : Nat) (bf16 : Bool) (dests : List Nat) (cls : Nat) (pages : List (Nat × Nat))
deriving DecidableEq, Repr

/-- A numbered matrix operation not yet complete: for a row, its stage, planes done, values, settled outputs and whether it has left. -/
structure MxOp where
  num : Nat
  kind : MxKind
  entered : Bool := false
  stage : Nat := 0
  plane : Nat := 0
  vals : Nat := 0
  pois : Nat := 0
  settled : Nat := 0
  left : Bool := false
  done : Bool := false
deriving DecidableEq, Repr

/-- A number of the bound monitor's trace (R263): exact, as m × 2^e, or an infinity, or a NaN. -/
inductive TraceNum where
  | fin (m e : Int)
  | inf (neg : Bool)
  | nan
deriving DecidableEq, Repr

/-- One check point of the bound monitor's trace (R263): stage, planes to come, threshold, and for each column S and R (as FP32; none for a column
settled before) and the word of a settlement made, else 0. -/
structure TraceEnt where
  stage : Nat
  p : Nat
  thr : Nat
  cols : List (Option (TraceNum × Nat) × Nat)
deriving DecidableEq, Repr

/-- Matrix state of a Loam core (R242). `bmat` holds the B elements as bf16, element (k, n) at 16 × (k × N + n). -/
structure Matrix where
  mcfg : Nat := 1
  bmat : Nat := 0
  bpois : Nat := 0
  acc : Sparse AccRow := []
  th : Sparse Nat := []
  slots : Sparse Slot := []
  issue : Nat := 0
  tlm : Nat := 0
  ops : List MxOp := []
  trace : Sparse (List TraceEnt) := []
  /-- VTOAs waiting for a slot, in the order in which they began to wait: slot and strand (R228) -/
  vtoaQ : List (Nat × Nat) := []
deriving DecidableEq, Repr

/-- An applied RRED packet in a memory unit's log (R292). -/
structure RredRec where
  cycle : Nat
  sender : Nat
  vl : Nat
  mask : Nat
  payload : List Nat
  /-- the super-scales the packet carries (R220) -/
  scales : List Nat := []
  /-- flat addresses of the elements applied -/
  dst : List Nat := []
  after : List Nat
deriving DecidableEq, Repr

/-- One core. -/
structure Core where
  /-- cycles of the package that this core did not count -/
  lag : Nat := 0
  cbs : Vector CoreBar 8 := Vector.replicate 8 {}
  lines : Sparse CLine := []
  fetch : Sparse FLine := []
  rlb : List Range := []
  pages : List PageEnt := []
  /-- pointer of the round robin (R127) -/
  rr : Nat := 0
  mx : Matrix := {}
  withdrawn : Bool := false
  /-- halted by fyv (R262) -/
  halted : Bool := false
  /-- cycles of its corrected memory errors, newest first, and a withdrawal is due (R354) -/
  ecc : List Nat := []
  due : Bool := false
  /-- logs of the core's scratchpad and K-channel (R292), newest last -/
  logS : List RredRec := []
  logK : List RredRec := []
  /-- how the last supervisor strand of the core ended: its function and cause, 0 for an exit (R333) -/
  supEnd : Option (Nat × Nat) := none
  /-- the function that placed the supervisor strand -/
  supFn : Nat := 0
deriving DecidableEq, Repr

/-- How a group ended (R308). -/
inductive EndKind where
  | normal
  | fault (cause : Nat)
  | killed
  | wdog
deriving DecidableEq, Repr

/-- Where a group is (R51, R71, R326). -/
inductive GPhase where
  | placed
  | migrating
  | waiting
  | ending
  | retired
deriving DecidableEq, Repr

/-- The watchdog states of R307. -/
inductive WdState where
  | off
  | armed
  | warned
deriving DecidableEq, Repr

/-- A group once it has been created (R51). -/
structure Group where
  gang : Nat
  gid : Nat
  phase : GPhase := .placed
  core : Nat := 0
  /-- strand contexts of its application strands, in strand order -/
  sids : List Nat := []
  /-- the group has a matrix program; it has been started -/
  matrix : Bool := false
  mstarted : Bool := false
  /-- no strand of the group executes before this cycle of its core: parked matrix state is being restored (R79) -/
  readyAt : Nat := 0
  endKind : Option EndKind := none
  trig : Bool := false
  /-- scratchpad units granted, and the virtual base of the window -/
  grant : List Nat := []
  window : Word := 0
  /-- killed while it moved: accesses that waited for its window find it unmapped (R73) -/
  unmapped : Bool := false
  wdwin : Word := 0x4000000#64
  /-- the core's cycle at the start of the window, and cycles of the window before that on another core -/
  wdStart : Nat := 0
  wdBase : Nat := 0
  wd : WdState := .armed
  progress : Bool := false
  /-- the migration in progress: trapping strand, convoy trapped, slot, address, needed profile, cycle at the stop -/
  migStrand : Nat := 0
  migConvoy : Bool := false
  migSlot : Nat := 0
  migAddr : Word := 0
  migProf : Nat := 0
  migCycle : Nat := 0
  migCost : Nat := 0
  /-- the source core, while a record exists -/
  migSrc : Nat := 0
  /-- strands and matrix state as recorded, with poison and liveness the record's words do not show (entry 8); the matrix part stays while the group runs on a
  Marl core (R77) -/
  saved : List Strand := []
  savedMcs : Option Strand := none
  savedMx : Option Matrix := none
  /-- arrivals carried: strand, barrier, whether the phase had completed (R76) -/
  savedBar : List (Nat × Nat × Bool) := []
deriving DecidableEq, Repr

/-- A gang (R51 to R57). -/
structure Gang where
  asid : Nat
  die : Nat
  origin : Nat
  desc : Word
  entry : Word
  /-- the matrix program's entry, where the code object gives one (R17) -/
  mentry : Option Word
  profiles : Nat
  minors : Nat
  migratable : Bool
  groups : Nat
  strands : Nat
  shares : Nat
  scratch : Nat
  prio : Nat
  resident : Bool
  join : Word
  arg : Word
  /-- groups created so far, and those counted by the join -/
  created : Nat := 0
  okEnds : Nat := 0
  firstFault : Option (Nat × Nat) := none
  /-- the package cycle of the first fault end: of ends in one cycle the lower groupid counts (R284) -/
  faultAt : Nat := 0
  /-- the launcher runs at S level (R54, R329) -/
  sup : Bool := false
  killed : Bool := false
  wdog : Bool := false
  ended : Nat := 0
  joined : Bool := false
  gbs : List (Option GangBar) := [none, none, none, none]
deriving DecidableEq, Repr

/-- A launch handed to a command processor and not yet collected (R282, R60): status none until accepted or refused. -/
structure Submit where
  die : Nat
  fromSid : Option Nat
  stream : Nat
  /-- the stream's maximum priority -/
  maxPrio : Nat := 3
  block : Word
  status : Option Nat := none
  statusAddr : Word := 0
  gang : Option Nat := none
deriving DecidableEq, Repr

/-- A stream command in progress (R60): opcode, fields, words, cycles counted, and the copy's number. -/
structure SCmd where
  op : Nat
  a : Nat
  w1 : Word
  w2 : Word
  w3 : Word
  /-- cycle of the timing core at which counting began, and cycles counted before that on another core -/
  since : Nat := 0
  base : Nat := 0
  num : Nat := 0
  status : Option Nat := none
deriving DecidableEq, Repr

/-- A registered stream (R58). -/
structure Stream where
  ctl : Word
  asid : Nat
  fn : Nat
  cmd : Option SCmd := none
  /-- gangs of accepted launches, newest first -/
  accepted : List Nat := []
deriving DecidableEq, Repr

/-- A destination of a copy: address, completion address where one is named, done, failed. -/
structure Dest where
  addr : Word
  comp : Option Word := none
  done : Bool := false
  failed : Bool := false
deriving DecidableEq, Repr

/-- Kinds of copy-engine operation. -/
inductive CopyKind where
  | copy
  | mc
  | persist
deriving DecidableEq, Repr

/-- An operation of a copy context (R197, R221). -/
structure CopyOp where
  num : Nat
  kind : CopyKind
  src : Word
  dests : List Dest
  len : Nat
  rows : Nat := 1
  sstr : Word := 0
  dstr : Word := 0
  cv : Word := 0
  cls : Nat
  asid : Nat
  sup : Bool
  /-- the core whose slot it holds, none for a stream's copy -/
  core : Option Nat
  sid : Option Nat := none
  group : Option Nat := none
  started : Bool := false
  acked : Bool := false
  /-- resumed by the operating system while its group moved: its accesses to the group's window wait (R73) -/
  later : Bool := false
  /-- peers whose last link was lost while the operation ran (R340) -/
  lost : List Nat := []
  /-- payload bits of a COPY.MC that the engine has read, and what they are, with a poison bit for each (R201) -/
  got : Nat := 0
  bits : Nat := 0
  pois : Nat := 0
deriving DecidableEq, Repr

/-- A copy context (R196). -/
structure CopyCtx where
  issue : Nat := 0
  timeline : Nat := 0
  stopped : Bool := false
  prog : Nat := 0
  err : Nat := 0
  ops : List CopyOp := []
  /-- numbers of the operations that failed, or completed with a failed destination (R61 COPYERR) -/
  failed : List Nat := []
deriving DecidableEq, Repr

/-- One die. -/
structure Die where
  streams : Sparse Stream := []
  ctxs : Sparse CopyCtx := []
  /-- class weights of classes 1 to 3 (R199) -/
  weights : Nat × Nat × Nat := (8, 4, 1)
  /-- issue stopped (R351); held in reset (R352) -/
  stopped : Bool := false
  inReset : Bool := false
  lag : Nat := 0
  /-- the capability list: virtual address and physical address of its first record (R23) -/
  capVa : Word := 0
  capPa : Nat := 0
  available : Nat := 0
deriving DecidableEq, Repr

/-- One element update of a RRED packet: destination (flat), exact value m × 2^e, kind (0 finite, 1 and 2 infinities, 3 NaN), poison. -/
structure RElem where
  dst : Nat
  m : Int
  e : Int
  sp : Nat
  p : Bool
deriving DecidableEq, Repr

/-- A RRED packet in flight (R203, R220). -/
structure RPacket where
  /-- number of the member that sent it, by State.seq -/
  mid : Nat
  /-- the strand that sent it, while it has its context -/
  sid : Option Nat
  sender : Nat
  unit : Nat
  vl : Nat
  mask : Nat
  payload : List Nat
  /-- super-scales carried (R220) -/
  scales : List Nat := []
  /-- ordering class of the member (R264) -/
  cls : Nat := 0
  /-- the sender's address space and the virtual addresses of the elements (R315) -/
  asid : Nat := 0
  vas : List Nat := []
  elems : List RElem
deriving DecidableEq, Repr

/-- An address-space registration (R83). -/
structure Space where
  desc : Word
  fn : Nat
deriving DecidableEq, Repr

/-- State of a 2 MiB ownership region (R334). -/
inductive Owner where
  | host
  | dev
  | pinned
deriving DecidableEq, Repr

/-- A transfer in progress (R335). -/
structure Transfer where
  region : Nat
  toDev : Bool
  /-- the functions whose command 0x05 pins the region when the transfer ends -/
  pins : List Nat := []
  /-- the core by whose cycles its limit counts, that core's cycle when counting began, and cycles counted before the core was last reset (R2, R336) -/
  core : Option Nat := none
  since : Nat := 0
  base : Nat := 0
  /-- the ownership domain of the range that names the region -/
  dom : Nat := 0
  /-- the accesses that joined it (R335): a strand's by its number; 2^21 + d is the command processor of die d, 2^20 + 128 × d + c its copy context c, and
  2^22 + 16 × (128 × d + c) + i destination i of that context's COPY.MC -/
  joined : List Nat := []
  /-- it has failed, and the accesses that joined raise OWNERSHIP (R336) -/
  failed : Bool := false
  /-- the owner has flipped, and the accesses that joined have not proceeded yet (R335 step 4) -/
  flipped : Bool := false
deriving DecidableEq, Repr

/-- A command of the host that may wait for words in a region on its way to the package (R332, R335): a stream's state, a supervisor strand placed. -/
inductive HostCmd where
  | streamState (die stream : Nat) (state : BitVec 2)
  | place (p : SupPlace)
deriving DecidableEq, Repr

/-- A host read that has not read all its words (R195): its first byte and length, the words left, its value and poison so far. -/
structure HostRd where
  byte : Nat
  n : Nat
  left : List Nat
  val : Nat := 0
  pois : Bool := false
deriving DecidableEq, Repr

/-- What fyv or the management controller printed: a tag and words. -/
structure View where
  what : String
  words : List Nat
deriving DecidableEq, Repr

/-- The machine. -/
structure State where
  /-- model: whose turns come next; empty means the default schedule -/
  agenda : List Turn := []
  /-- model: which convoy of a strand the turn goes on with -/
  pick : Nat := 0
  /-- model: the strand context whose turn it is -/
  cur : Nat := 0
  /-- model: counter of free values used -/
  freeCtr : Nat := 0
  /-- model: number of RRED members performed and convoys begun -/
  seq : Nat := 0
  /-- model: replies of devices behind DEV ranges, none an error response -/
  devIn : List (Option Word) := []
  /-- model: what was written to such devices: physical address, width, value -/
  devOut : List (Nat × Nat × Nat) := []
  /-- cycles of the package -/
  now : Nat := 0
  /-- memory at its homes, as bytes by flat address / 8 -/
  mem : List Host.Cell := []
  /-- poisoned lines at their homes, by flat line number (R95) -/
  poison : List Nat := []
  /-- link tags: line, strand and what the tag serves (0 the scalar link, 1 the vector link set, 2 a VAMO round), oldest first (R107, R214, R218) -/
  tags : List (Nat × Nat × Nat) := []
  /-- tags that are broken and whose link, link set or round still stands (R109, R290) -/
  broken : List (Nat × Nat × Nat) := []
  cores : Sparse Core := []
  strands : Sparse Strand := []
  groups : Sparse Group := []
  gangs : Sparse Gang := []
  dies : Sparse Die := []
  /-- launches handed to command processors and not collected (R60, R282) -/
  submits : List Submit := []
  packets : List RPacket := []
  spaces : Sparse Space := []
  /-- copy context map: 128 × address space + number, to 128 × die + context (R196) -/
  ctxMap : Sparse Nat := []
  owners : Sparse Owner := []
  transfers : List Transfer := []
  domains : List Nat := []
  /-- peers whose last link is lost (R340) -/
  peersDown : List Nat := []
  vfs : Sparse Tdisp := []
  /-- mailbox statuses by function, newest first (R332) -/
  mailbox : Sparse (List Nat) := []
  /-- supervisor removals that wait until no strand is held: core and function (R333) -/
  removals : List (Nat × Nat) := []
  /-- a function's command that waits for an ownership transfer, by function (R332, R335) -/
  hostCmds : Sparse HostCmd := []
  /-- how supervisor strands ended, by function, newest first: core and cause, 0 for an exit (R333) -/
  supEnds : Sparse (List (Nat × Nat)) := []
  /-- measurement blocks (R338) -/
  measures : Sparse (BitVec 384) := []
  /-- certificate chains the owner has provisioned, by slot 1 to 7 (R338); slot 0 is Config.identityChain -/
  certs : Sparse Nat := []
  linkRate : Nat := 0
  booted : Bool := false
  migBase : Word := Config.migBase
  pkg : Nat := 0
  pkgVa : Word := 0
  pkgPa : Nat := 0
  /-- loaded code objects: address space, descriptor, length (R19) -/
  objects : List (Nat × Word × Nat) := []
  /-- fyv's settings `break migrate` and `break resume` (R325) -/
  brkMigrate : Bool := false
  /-- fyv's breakpoints: the group where one is named, and the address of the line (R291) -/
  breaks : List (Option Nat × Word) := []
  brkResume : Bool := false
  /-- host reads under way, which are not atomic (R195) -/
  hostReads : List HostRd := []
  views : List View := []
deriving DecidableEq, Repr

/-- The machine before power-good (R352 step 1): all dies held in reset, no strand placed, nothing in memory. -/
def State.reset : State :=
  { dies := (List.range 16).map fun d => (d, { inReset := true }) }

end Sys2Proof.Machine
end

