-- ==== Sys2Proof/Machine/Base.lean ====
section
/-!
DEFINITION. Reading and replacing the parts of State: strands, cores, dies, groups, gangs; cycles; hierarchy (R67, R68); general registers (R29).
-/

namespace Sys2Proof.Machine

/-- The result of an instruction or event. -/
abbrev Res := Host.Outcome State Fault Refusal

/-- Core number (64 × die + core) of a strand context number (16 × core + context; context 8 is the matrix control strand). -/
def coreOf (sid : Nat) : Nat := sid / 16

/-- Context number of a strand within its core. -/
def ctxOf (sid : Nat) : Nat := sid % 16

/-- The strand context of context `c` of core `k`. -/
def sidOf (k c : Nat) : Nat := 16 * k + c

/-- The matrix control strand of a core. -/
def mcsOf (k : Nat) : Nat := 16 * k + 8

/-- Die of a core. -/
def dieOf (k : Nat) : Nat := k / 64

/-- The core is one the package was built with (R67). -/
def coreBuilt (k : Nat) : Bool := dieOf k < 16 && k % 64 < Config.built (dieOf k)

/-- A strand context exists: contexts 0 to 7 of every core, and 8 on a Loam core. -/
def sidExists (sid : Nat) : Bool :=
  coreBuilt (coreOf sid) && (ctxOf sid < 8 || (ctxOf sid == 8 && !Config.isMarl (dieOf (coreOf sid))))

/-- The core is a Loam core. -/
def isLoam (k : Nat) : Bool := !Config.isMarl (dieOf k)

/-- Strand context `k`. -/
def State.strand (s : State) (k : Nat) : Strand := Sparse.get {} s.strands k
/-- Replace strand context `k`. -/
def State.setStrand (s : State) (k : Nat) (t : Strand) : State := { s with strands := Sparse.put s.strands k t }
/-- The strand whose turn it is. -/
def State.me (s : State) : Strand := s.strand s.cur
/-- Replace the strand whose turn it is. -/
def State.setMe (s : State) (t : Strand) : State := s.setStrand s.cur t
/-- Core `k`. -/
def State.core (s : State) (k : Nat) : Core := Sparse.get {} s.cores k
/-- Replace core `k`. -/
def State.setCore (s : State) (k : Nat) (c : Core) : State := { s with cores := Sparse.put s.cores k c }
/-- Die `d`. -/
def State.die (s : State) (d : Nat) : Die := Sparse.get {} s.dies d
/-- Replace die `d`. -/
def State.setDie (s : State) (d : Nat) (x : Die) : State := { s with dies := Sparse.put s.dies d x }
/-- Group `n`, when it exists. -/
def State.group? (s : State) (n : Nat) : Option Group := Sparse.get none (s.groups.map fun p => (p.1, some p.2)) n
/-- Replace group `n`. -/
def State.setGroup (s : State) (n : Nat) (g : Group) : State := { s with groups := Sparse.put s.groups n g }
/-- Gang `n`, when it exists. -/
def State.gang? (s : State) (n : Nat) : Option Gang := Sparse.get none (s.gangs.map fun p => (p.1, some p.2)) n
/-- Replace gang `n`. -/
def State.setGang (s : State) (n : Nat) (g : Gang) : State := { s with gangs := Sparse.put s.gangs n g }
/-- Change strand `k`. -/
def State.modStrand (s : State) (k : Nat) (f : Strand → Strand) : State := s.setStrand k (f (s.strand k))
/-- Change core `k`. -/
def State.modCore (s : State) (k : Nat) (f : Core → Core) : State := s.setCore k (f (s.core k))
/-- Change die `d`. -/
def State.modDie (s : State) (d : Nat) (f : Die → Die) : State := s.setDie d (f (s.die d))
/-- Change group `n` where it exists. -/
def State.modGroup (s : State) (n : Nat) (f : Group → Group) : State :=
  match s.group? n with
  | some g => s.setGroup n (f g)
  | none => s
/-- Change gang `n` where it exists. -/
def State.modGang (s : State) (n : Nat) (f : Gang → Gang) : State :=
  match s.gang? n with
  | some g => s.setGang n (f g)
  | none => s
/-- Change the matrix state of core `k`. -/
def State.modMx (s : State) (k : Nat) (f : Matrix → Matrix) : State := s.modCore k fun c => { c with mx := f c.mx }
/-- The core of the strand whose turn it is. -/
def State.myCore (s : State) : Nat := coreOf s.cur
/-- The group of strand `k`, when it has one. -/
def State.groupOf (s : State) (k : Nat) : Option Group := (s.strand k).group.bind s.group?
/-- The gang of strand `k`, when it has one. -/
def State.gangOf (s : State) (k : Nat) : Option Gang := (s.groupOf k).bind fun g => s.gang? g.gang

/-- Cycles that core `k` has counted (R2, R351, R262). -/
def State.coreCycle (s : State) (k : Nat) : Nat := s.now - (s.die (dieOf k)).lag - (s.core k).lag

/-- The timing core of a die (R60): its lowest-numbered core that is not withdrawn. -/
def State.timingCore (s : State) (d : Nat) : Nat :=
  ((((List.range (Config.built d)).map (64 * d + ·)).find? fun k => !(s.core k).withdrawn)).getD (64 * d)

/-- The core issues nothing: its die is stopped or in reset, or fyv halts it (R262, R351). -/
def State.frozen (s : State) (k : Nat) : Bool :=
  (s.die (dieOf k)).stopped || (s.die (dieOf k)).inReset || (s.core k).halted

/-- Two cores lie in one instance of a level: 1 core, 2 quad, 3 die, 4 package, 5 pod (R67, R68). -/
def sameInst (level a b : Nat) : Bool :=
  match level with
  | 0 => a == b
  | 1 => a == b
  | 2 => a / 4 == b / 4
  | 3 => dieOf a == dieOf b
  | _ => true

/-- The instance number of a core at a level. -/
def instOf (level k : Nat) : Nat :=
  match level with
  | 1 => k
  | 2 => k / 4
  | 3 => dieOf k
  | _ => 0

/-- Mesh column and row of a core's quad (R68). -/
def quadPos (k : Nat) : Nat × Nat := (k % 64 / 4 % Config.columns, k % 64 / 4 / Config.columns)

/-- |a − b|. -/
def absDiff (a b : Nat) : Nat := (a - b) + (b - a)

/-- Quad distance q (R62). -/
def quadDist (a b : Nat × Nat) : Nat := absDiff a.1 b.1 + absDiff a.2 b.2

/-- Die boundaries d between two compute dies (R349). -/
def dieDist (a b : Nat) : Nat := absDiff (a % 4) (b % 4) + absDiff (a / 4) (b / 4)

/-- Numbers below `n` that are the contexts of a core: application contexts, then the matrix control strand. -/
def coreSids (k : Nat) : List Nat := (List.range 9).map (sidOf k)

/-- General register r with its poison: x0 reads zero, without poison (R29, R95). -/
def Strand.getX (t : Strand) (r : Reg) : PWord := if r = 0 then {} else t.x[r.toNat]'(r.isLt)

/-- Write general register r; x0 discards the write (R29). -/
def Strand.setX (t : Strand) (r : Reg) (v : PWord) : Strand := if r = 0 then t else { t with x := t.x.set r.toNat v r.isLt }

/-- Value of register r of the strand whose turn it is. -/
def State.rx (s : State) (r : Reg) : Word := (s.me.getX r).w

/-- Poison of register r of the strand whose turn it is. -/
def State.px (s : State) (r : Reg) : Bool := (s.me.getX r).p

/-- Write register r of the strand whose turn it is. -/
def State.wx (s : State) (r : Reg) (v : Word) (p : Bool := false) : State := s.setMe (s.me.setX r { w := v, p := p })

/-- Move the pc of the strand whose turn it is past an instruction of n bits, and clear its wait (R94, R122). -/
def State.adv (s : State) (n : Nat) : State :=
  s.setMe { s.me with pc := s.me.pc + BitVec.ofNat 64 n, wait := none }

/-- Set the pc of the strand whose turn it is. -/
def State.goto (s : State) (a : Word) : State := s.setMe { s.me with pc := a, wait := none }

/-- Bits of a vector register with g shares and N = 2^n2 registers (R41). -/
def regBits (g n2 : Nat) : Nat := g * 262144 / 2 ^ n2

/-- The largest vl at an element width (R115). -/
def maxVl (g n2 ewb : Nat) : Nat := if g = 0 then 0 else g * 262144 / (2 ^ n2 * ewb)

/-- Element width in bits of an ew code held as a number. -/
def ewOf (code : Nat) : Nat := 8 * 2 ^ code

/-- The convoys of a strand that have issued a strip and have not retired, oldest first (R126). -/
def Strand.convs (t : Strand) : List Conv := t.past.map (·.conv) ++ t.conv.toList

/-- The member in progress is a VWAITV that waits (R280). -/
def Conv.vwaits (c : Conv) : Bool :=
  match c.pend with
  | .vwait _ _ => true
  | _ => false

/-- A strand is parked while it waits for hardware or is held (R122, R300). -/
def Strand.parked (t : Strand) : Bool :=
  t.wait.isSome || t.convWait.isSome || t.hold.isSome || t.convs.any Conv.vwaits || t.past.any fun p => p.convWait.isSome

/-- The strand's vector side holds nothing queued and nothing in progress. -/
def Strand.vecIdle (t : Strand) : Bool := t.queue.isEmpty && t.blk.isNone && t.past.isEmpty

/-- The waits of R41, R44, R132 and R138 for queued blocks are over: nothing is queued, or the queue is stopped for the strand's handler (R298). -/
def Strand.vecDone (t : Strand) : Bool := t.vecIdle || t.stopped

/-- Make the strand wait with its pc on the instruction, counting from its first cycle of waiting (R276). -/
def State.park (s : State) (i : Instr) : State :=
  let t := s.me
  match t.wait with
  | some w => if w.instr = i then s else s.setMe { t with wait := some { instr := i, since := s.coreCycle s.myCore } }
  | none => s.setMe { t with wait := some { instr := i, since := s.coreCycle s.myCore } }

/-- The instruction a strand waits on. -/
def Strand.waitsOn (t : Strand) : Option Instr := t.wait.map fun w => w.instr

/-- Cycles the strand has waited on instruction i, none where it is not waiting on it. -/
def State.waited (s : State) (i : Instr) : Option Nat :=
  match s.me.wait with
  | some w => if w.instr = i then some (s.coreCycle s.myCore - w.since) else none
  | none => none

/-- The wait's limit has expired (R276): a limit of 0 never does. -/
def State.expired (s : State) (i : Instr) (lim : Word) : Bool :=
  lim != 0 && (match s.waited i with
    | some n => lim.toNat ≤ n
    | none => false)

/-- A satisfied wait of a strand of the group, or another progress event, is recorded (R307). -/
def State.progress (s : State) (sid : Nat) : State :=
  match (s.strand sid).group with
  | some n => s.modGroup n fun g => { g with progress := true }
  | none => s

/-- The group's matrix control strand runs on its core: started, and not parked on a Marl core (R63, R77). -/
def Group.mcsRuns (g : Group) : Bool := g.mstarted && g.savedMcs.isNone

/-- The strand may issue: it runs, is not held, its core issues, and its group is on the core and restored there (R71, R79, R262, R300, R351). -/
def State.canIssue (s : State) (sid : Nat) : Bool :=
  let t := s.strand sid
  t.phase == .running && t.hold.isNone && !s.frozen (coreOf sid) &&
    (match t.group with
     | none => true
     | some n => (match s.group? n with
       | some g => g.phase == .placed && g.readyAt ≤ s.coreCycle g.core
       | none => false))

/-- Print a view. -/
def State.view (s : State) (what : String) (ws : List Nat) : State := { s with views := s.views ++ [{ what := what, words := ws }] }

/-- Take the next free value (entry 2). -/
def State.fresh (s : State) : Word × State := (Config.freeWord s.freeCtr, { s with freeCtr := s.freeCtr + 1 })

end Sys2Proof.Machine
end

