-- ==== Sys2Proof/Machine/Mem.lean ====
section
/-!
DEFINITION. Memory at its homes (R80 to R82, R186): bytes by flat address, poison by line (R95), link tags by line (R107, R109). A flat
address is space × 2^64 + physical bit address: space 0 is the device's own map (R186), 1 host memory, 2 CXL memory.
-/

namespace Sys2Proof.Machine

/-- What an unlisted byte of memory reads as (entry 6: power-on contents are not stated). -/
def emptyByte : BitVec 8 := 0

/-- Bytes k to k + n − 1 of a sorted list of cells, little-endian (R81). -/
def Mem.readBytes : List Host.Cell → Nat → Nat → Nat
  | [], _, _ => 0
  | (a, b) :: t, k, n =>
    if a < k then Mem.readBytes t k n
    else if a < k + n then b.toNat * 2 ^ (8 * (a - k)) + Mem.readBytes t k n
    else 0

/-- The cells that bytes k to k + n − 1 of v need: none where the byte is what an unlisted one reads as. -/
def Mem.cells (k n v : Nat) : List Host.Cell :=
  (List.range n).filterMap fun i =>
    let b := BitVec.ofNat 8 (v / 2 ^ (8 * i))
    if b = emptyByte then none else some (k + i, b)

/-- Memory with bytes k to k + n − 1 replaced by v. -/
def Mem.writeBytes (m : List Host.Cell) (k n v : Nat) : List Host.Cell :=
  m.takeWhile (fun c => c.1 < k) ++ Mem.cells k n v ++ m.dropWhile (fun c => c.1 < k + n)

/-- Bits fa to fa + w − 1 (R6 ReadBits). -/
def Mem.readBits (m : List Host.Cell) (fa w : Nat) : Nat :=
  Mem.readBytes m (fa / 8) (ceilDiv (fa % 8 + w) 8) / 2 ^ (fa % 8) % 2 ^ w

/-- Memory with bits fa to fa + w − 1 replaced where the mask has a one (R6 WriteBits). -/
def Mem.writeMasked (m : List Host.Cell) (fa w v mask : Nat) : List Host.Cell :=
  let k := fa / 8
  let n := ceilDiv (fa % 8 + w) 8
  let old := Mem.readBytes m k n
  let lo := fa % 8
  let o := old / 2 ^ lo % 2 ^ w
  let mk := mask % 2 ^ w
  Mem.writeBytes m k n (putField old lo w ((o &&& (mk ^^^ (2 ^ w - 1))) ||| (v &&& mk)))

/-- Memory with bits fa to fa + w − 1 replaced by v. -/
def Mem.writeBits (m : List Host.Cell) (fa w v : Nat) : List Host.Cell :=
  let k := fa / 8
  let n := ceilDiv (fa % 8 + w) 8
  Mem.writeBytes m k n (putField (Mem.readBytes m k n) (fa % 8) w v)

/-- The canonical form: addresses strictly rising, no cell equal to what an unlisted byte reads as. -/
def Mem.wf : List Host.Cell → Bool
  | [] => true
  | [(_, b)] => b != emptyByte
  | (a, b) :: (a', b') :: t => b != emptyByte && a < a' && Mem.wf ((a', b') :: t)

/-- The lines an access touches. -/
def linesOf (fa w : Nat) : List Nat := if w = 0 then [] else (List.range ((fa + w - 1) / 512 - fa / 512 + 1)).map (· + fa / 512)

/-- Bits fa to fa + w − 1 at their home. -/
def State.home (s : State) (fa w : Nat) : Nat := Mem.readBits s.mem fa w

/-- A line of the access is poisoned at its home. -/
def State.homePois (s : State) (fa w : Nat) : Bool := (linesOf fa w).any (hasNat s.poison)

/-- Add a broken tag. -/
def addBroken (l : List (Nat × Nat × Nat)) (t : Nat × Nat × Nat) : List (Nat × Nat × Nat) := if l.contains t then l else l ++ [t]

/-- Break the tags that meet a condition; a broken tag stays to be seen until what it served is gone (R290). -/
def State.breakAll (s : State) (gone : Nat × Nat × Nat → Bool) : State :=
  { s with tags := s.tags.filter (fun t => !gone t), broken := (s.tags.filter gone).foldl addBroken s.broken }

/-- Break every tag on a line (R109: a write at the line's home). -/
def State.breakTags (s : State) (line : Nat) : State := s.breakAll fun t => t.1 == line

/-- Break every tag a strand holds (R109: a trap, a pre-emption, a migration). -/
def State.dropTags (s : State) (sid : Nat) : State := s.breakAll fun t => t.2.1 == sid

/-- Break every tag on the lines of an ownership region (R109: a transfer of the region). -/
def State.dropRegionTags (s : State) (region : Nat) : State := s.breakAll fun t => t.1 / 32768 == region

/-- The link, link set or round that a strand's tags of a kind served is gone, and with it the broken ones. -/
def State.forgetBroken (s : State) (kind sid : Nat) : State := { s with broken := s.broken.filter fun t => !(t.2.1 == sid && t.2.2 == kind) }

/-- What a tag serves: the scalar link (R107). -/
def linkTag : Nat := 0
/-- What a tag serves: the vector link set (R214). -/
def vlinkTag : Nat := 1
/-- What a tag serves: a VAMO round (R218). -/
def amoTag : Nat := 2

/-- The strand's tag of a kind on the line is in place. -/
def State.tagged (s : State) (kind line sid : Nat) : Bool := s.tags.contains (line, sid, kind)

/-- The strands that hold a tag on a line, the one with the oldest tag first. -/
def tagHolders (ts : List (Nat × Nat × Nat)) (line : Nat) : List Nat := ((ts.filter fun t => t.1 == line).map (·.2.1)).eraseDups

/-- Place a strand's tag on a line. A line holds the tags of eight strands, scalar links counted: a ninth breaks the oldest (R107, R214). -/
def State.placeTag (s : State) (kind line sid : Nat) : State :=
  let ts := s.tags.filter fun t => t != (line, sid, kind)
  let others := (tagHolders ts line).filter (· != sid)
  let ts := match others with
    | o :: _ => if 8 ≤ others.length then ts.filter fun t => !(t.1 == line && t.2.1 == o) else ts
    | [] => ts
  { s with tags := ts ++ [(line, sid, kind)]
           broken := (s.tags.filter fun t => t != (line, sid, kind) && !ts.contains t).foldl addBroken (s.broken.filter (· != (line, sid, kind))) }

/-- Mark or clear the poison of a line at its home. -/
def State.setPoison (s : State) (line : Nat) (p : Bool) : State :=
  { s with poison := if p then insertNat s.poison line else s.poison.filter (· != line) }

/-- Write bits at their home: the tags on the lines break (R109), poisoned data poisons the lines, and unpoisoned data that writes every bit of
a line clears its poison (R95). -/
def State.homeWrite (s : State) (fa w v : Nat) (p : Bool := false) : State :=
  let s := { s with mem := Mem.writeBits s.mem fa w v }
  (linesOf fa w).foldl (fun s l =>
    let s := s.breakTags l
    if p then s.setPoison l true
    else if fa ≤ l * 512 && (l + 1) * 512 ≤ fa + w then s.setPoison l false else s) s

/-- Write the masked bits of one line at its home (a write-back, R189). `p` poisons the line; a whole line of data that nothing poisoned clears its
poison (`clean`). -/
def State.homeWriteLine (s : State) (line data mask : Nat) (p clean : Bool) : State :=
  if mask = 0 then s else
  let s := ({ s with mem := Mem.writeMasked s.mem (line * 512) 512 data mask }).breakTags line
  if p then s.setPoison line true else if clean && mask = 2 ^ 512 - 1 then s.setPoison line false else s

/-- The lines that writes have covered, as a mask for each line, and those written with poisoned data. -/
abbrev Cover := Sparse Nat

/-- Add bits fa to fa + w − 1 to a cover. -/
def Cover.add (c : Cover) (fa w : Nat) : Cover :=
  (linesOf fa w).foldl (fun c l =>
    let lo := max fa (l * 512) - l * 512
    let hi := min (fa + w) ((l + 1) * 512) - l * 512
    Sparse.put c l (Sparse.get 0 c l ||| ones lo (hi - lo))) c

/-- The lines a cover writes whole. -/
def Cover.whole (c : Cover) : List Nat := (c.filter fun p => p.2 == 2 ^ 512 - 1).map (·.1)

end Sys2Proof.Machine
end

