-- ==== Sys2Proof/Machine/Xlate.lean ====
section
/-!
DEFINITION. Translation (R80, R83 to R87, R186, R187, R191), the permission and ownership checks of an access (R85, R105, R334 to R336), and the
address ranges every address space has: the capability lists (R24), the migration range (R353) and a group's scratchpad window (R73, R76).
-/

namespace Sys2Proof.Machine

/-- The core a device physical address names (R186). -/
def coreOfPhys (p : Nat) : Nat := p / 2 ^ 32 % 1024

/-- The physical space of a device address (R186). -/
def spaceOfPhys (p : Nat) : Nat := p / 2 ^ 58

/-- The peer package of a physical address (R339). -/
def peerOf (fa : Nat) : Nat := field fa 52 6

/-- A device physical address exists (R186, R187, R354). -/
def physOk (s : State) (p : Nat) : Bool :=
  let k := coreOfPhys p
  match spaceOfPhys p with
  | 0 => field p 42 16 == 0 && coreBuilt k
  | 1 => field p 42 16 == 0 && coreBuilt k && field p 24 8 == 0 && !(s.core k).withdrawn
  | 2 => field p 42 10 == 0 && coreBuilt k
  | _ => false

/-- A device physical address in Kaolin. -/
def kaolinOk (s : State) (p : Nat) : Bool := spaceOfPhys p == 0 && physOk s p

/-- Core at position `i` of the package set, counting from die d on (R187). -/
def pkgCoreFrom : List Nat → Nat → Nat
  | [], i => i
  | d :: t, i => if i < Config.built d then 64 * d + i else pkgCoreFrom t (i - Config.built d)

/-- Core at position i of the package set. -/
def pkgCore (i : Nat) : Nat := pkgCoreFrom (List.range 16) i

/-- Position of a core in the package set. -/
def pkgPos (k : Nat) : Nat := ((List.range (dieOf k)).map Config.built).sum + k % 64

/-- Cores in a striping set (R187). -/
def stripeCount (il k : Nat) : Nat :=
  match il with
  | 1 => 4
  | 2 => Config.built (dieOf k)
  | _ => 960

/-- Position of core k in its striping set. -/
def stripePos (il k : Nat) : Nat :=
  match il with
  | 1 => k % 4
  | 2 => k % 64
  | _ => pkgPos k

/-- Core at position i of the striping set of core k. -/
def stripeCore (il k i : Nat) : Nat :=
  match il with
  | 1 => k / 4 * 4 + i
  | 2 => dieOf k * 64 + i
  | _ => pkgCore i

/-- The location offset o of a range with target t names under an interleave (R187). -/
def locate (il t o : Nat) : Nat :=
  if 1 ≤ il && il ≤ 3 then
    let k := coreOfPhys t
    let n := stripeCount il k
    let st := o / 2 ^ 15
    stripeCore il k ((stripePos il k + st) % n) * 2 ^ 32 + (t % 2 ^ 32 + st / n * 2 ^ 15 + o % 2 ^ 15)
  else t + o

/-- Attribute fields of a range entry (R84). -/
def Range.il (e : Range) : Nat := field e.attr 2 3
/-- paged -/
def Range.paged (e : Range) : Bool := bitAt e.attr 1
/-- dev -/
def Range.dev (e : Range) : Bool := bitAt e.attr 10
/-- ownership domain -/
def Range.dom (e : Range) : Nat := field e.attr 12 16
/-- page levels -/
def Range.levels (e : Range) : Nat := field e.attr 28 3

/-- A range entry's fields are legal (R84, R86, R187). -/
def Range.ok (s : State) (e : Range) : Bool :=
  e.base % 2 ^ 15 == 0 && e.base < 2 ^ 61 && e.len != 0 && e.len % 2 ^ 15 == 0 && e.base + e.len ≤ 2 ^ 61 &&
  e.il != 7 && !(e.paged && (e.il == 1 || e.il == 2 || e.il == 3 || e.il == 6)) &&
  field e.attr 31 33 == 0 && !bitAt e.attr 11 && (e.dom == 0 || e.il == 4 || e.il == 5) &&
  (if e.paged then
    e.target % 2 ^ 15 == 0 && 1 ≤ e.levels && e.levels ≤ 5 && e.len ≤ 2 ^ (15 + 9 * e.levels)
   else e.levels == 0 &&
    (match e.il with
     | 4 => true
     | 5 => true
     | 0 => (spaceOfPhys e.target == 0 && physOk s e.target && e.target % 2 ^ 32 + e.len ≤ 2 ^ 32) ||
        (spaceOfPhys e.target == 1 && field e.target 42 16 == 0 && coreBuilt (coreOfPhys e.target) && field e.target 24 8 == 0 &&
          e.target % 2 ^ 24 + e.len ≤ 2 ^ 24)
     | 6 => spaceOfPhys e.target == 2 && physOk s e.target && e.target % 2 ^ 32 + e.len ≤ 2 ^ 32
     | il => kaolinOk s e.target && e.target % 2 ^ 15 == 0 &&
        e.target % 2 ^ 32 + ((e.len / 2 ^ 15 - 1) / stripeCount il (coreOfPhys e.target) + 1) * 2 ^ 15 ≤ 2 ^ 32))

/-- The page that holds offset o of a paged range (R86): its physical base, its length in 4 KiB pages, nw, nx. -/
def pageWalk (s : State) : Nat → Nat → Nat → Option (Nat × Nat × Bool × Bool)
  | 0, _, _ => none
  | k + 1, tbl, o =>
    if !kaolinOk s tbl then none else
    let e := s.home (tbl + 64 * (o / 2 ^ (15 + 9 * k) % 512)) 64
    let pa := field e 15 46 * 2 ^ 15
    if !bitAt e 0 || field e 61 3 != 0 || field e 5 10 != 0 then none else
    match field e 1 2 with
    | 0 => if k = 0 then none else pageWalk s k pa o
    | 1 => if k = 0 then some (pa, 1, bitAt e 3, bitAt e 4) else none
    | 2 => if k = 0 && pa % 2 ^ 19 == 0 then some (pa, 16, bitAt e 3, bitAt e 4) else none
    | _ => if k = 1 && pa % 2 ^ 24 == 0 then some (pa, 512, bitAt e 3, bitAt e 4) else none

/-- Who makes an access: its core (for the lookaside buffer and the reach of scratchpads), address space, level, group. -/
structure Agent where
  core : Nat
  /-- the core's own lookaside buffer and line cache serve the access -/
  onCore : Bool := true
  asid : Nat
  sup : Bool := false
  group : Option Nat := none
  /-- the strand that makes it, where one does; 2^21 + d for the command processor of die d, 2^20 + p for copy context p of the package, p = 128 × d + c,
  and 2^22 + 16 × p + i for destination i of its operation -/
  sid : Option Nat := none
  /-- the page-store bank that serves an element of an indexed member (R88) -/
  bank : Option Nat := none
  /-- a copy of the group that was resumed while the group moved (R73) -/
  later : Bool := false
  /-- not on the core, but at work for it: the core gives up the lines it writes (R273: copy payload and completion words) -/
  gives : Bool := false
  /-- translations are walked afresh: an access of several parts, which must not mix old and new contents (R87) -/
  walk : Bool := false
deriving DecidableEq, Repr

/-- What an access needs (R85, R191, R216, R247). -/
structure Want where
  r : Bool := false
  w : Bool := false
  x : Bool := false
  vx : Bool := false
  /-- DEV memory raises PROTECT -/
  noDev : Bool := false
  /-- host and CXL ranges raise PROTECT -/
  noHost : Bool := false
  /-- peer ranges are admitted -/
  peer : Bool := false
  /-- every scratchpad is in reach -/
  far : Bool := false
  /-- a fetch: no ownership transfer, no line cache -/
  fetch : Bool := false
  /-- many elements at once: they may lie in ranges that differ -/
  many : Bool := false
deriving DecidableEq, Repr

/-- A load. -/
def Want.load : Want := { r := true }
/-- A store. -/
def Want.store : Want := { w := true }
/-- ll and sc: both permissions, and DEV raises PROTECT (R85, R109). -/
def Want.rmw : Want := { r := true, w := true, noDev := true }
/-- VLINK, VSCOND and VAMO (R216). -/
def Want.vlink : Want := { r := true, w := true, noDev := true, noHost := true }
/-- A load at the home that DEV memory refuses (R278, R285, R287). -/
def Want.homeLoad : Want := { r := true, noDev := true }
/-- RRED (R220). -/
def Want.rred : Want := { r := true, w := true, noDev := true, noHost := true, peer := true, far := true }
/-- Scalar fetch. -/
def Want.fetchX : Want := { x := true, noDev := true, fetch := true }
/-- Vector fetch. -/
def Want.fetchVx : Want := { vx := true, noDev := true, fetch := true }

/-- Why a translation fails, or must wait for a group in migration (R73). -/
inductive XErr where
  | translate
  | protect
  | wait
deriving DecidableEq, Repr

/-- The range table entry read at index i of a table (R84). Poison of a descriptor's, an entry's or a page entry's line is not looked at (DESIGN CHOICE,
entry 43). -/
def State.readRange (s : State) (asid tbl i : Nat) : Range :=
  let a := tbl + 256 * i
  { asid := asid, base := s.home a 64, len := s.home (a + 64) 64, target := s.home (a + 128) 64, attr := s.home (a + 192) 64 }

/-- The range covers address a and is valid. -/
def Range.covers (e : Range) (a : Nat) : Bool := bitAt e.attr 0 && e.base ≤ a && a < e.base + e.len

/-- Search n entries of a table from index i (R85): in an overlap, or past a misordered entry, the first in table order that covers the address (DESIGN
CHOICE, entry 43; R84 leaves it to the part). -/
def State.findEntry (s : State) (asid tbl a : Nat) : Nat → Nat → Option Range
  | 0, _ => none
  | n + 1, i =>
    let e := s.readRange asid tbl i
    if e.covers a then some e else State.findEntry s asid tbl a n (i + 1)

/-- An address-space descriptor is one that registration accepts (R83). -/
def State.descOk (s : State) (desc : Word) : Bool :=
  let d := desc.toNat
  let tbl := s.home d 64
  let w1 := s.home (d + 64) 64
  field w1 11 53 == 0 && w1 ≤ 1024 && tbl % 256 == 0 && kaolinOk s tbl

/-- The access may use the lookaside buffer and the page store of its core. -/
def Agent.stored (ag : Agent) : Bool := ag.onCore && !ag.walk

/-- The range of an address: from the lookaside buffer of the core, else by a walk, which fills it (R83, R85, R87). A full buffer gives up its oldest
entry (DESIGN CHOICE, entry 43). -/
def State.findRange (s : State) (ag : Agent) (a : Nat) : State × Option Range :=
  match (if ag.stored then (s.core ag.core).rlb.find? fun e => e.asid == ag.asid && e.covers a else none) with
  | some e => (s, some e)
  | none =>
    match Sparse.get none (s.spaces.map fun p => (p.1, some p.2)) ag.asid with
    | none => (s, none)
    | some sp =>
      if !s.descOk sp.desc then (s, none) else
      match s.findEntry ag.asid (s.home sp.desc.toNat 64) a (s.home (sp.desc.toNat + 64) 64) 0 with
      | none => (s, none)
      | some e =>
        if ag.stored then
          (s.modCore ag.core fun c =>
            let l := c.rlb ++ [e]
            { c with rlb := if 32 < l.length then l.drop 1 else l }, some e)
        else (s, some e)

/-- A cached page entry holds a virtual page. -/
def PageEnt.holds (p : PageEnt) (asid vp : Nat) : Bool := p.asid == asid && p.vpage ≤ vp && vp < p.vpage + p.n

/-- Add an entry to a page store of 16 banks of 8: a full bank gives up its oldest (R88; DESIGN CHOICE which, entry 43). -/
def addPage (l : List PageEnt) (e : PageEnt) : List PageEnt :=
  let l := l ++ [e]
  let mine := l.filter fun p => p.bank == e.bank
  match mine with
  | o :: _ => if 8 < mine.length then l.erase o else l
  | [] => l

/-- The page-store bank an access uses: that of its element for an indexed member (R88), else by page number (DESIGN CHOICE, entry 43). -/
def Agent.bankOf (ag : Agent) (vp : Nat) : Nat := ag.bank.getD (vp % 16)

/-- The 4 KiB page of an address of a paged range: from the page store, else by a walk, which fills it with what of the page lies in the range (R86, R88). -/
def State.findPage (s : State) (ag : Agent) (e : Range) (a : Nat) : State × Option (Nat × Bool × Bool) :=
  let vp := a / 2 ^ 15
  match (if ag.stored then (s.core ag.core).pages.find? fun p => p.holds ag.asid vp && p.bank == ag.bankOf vp else none) with
  | some p => (s, some (p.phys + (vp - p.vpage) * 2 ^ 15, p.nw, p.nx))
  | none =>
    let o := (a - e.base) / 2 ^ 15
    match pageWalk s e.levels e.target (a - e.base) with
    | none => (s, none)
    | some (pa, n, nw, nx) =>
      let r := some (pa + o % n * 2 ^ 15, nw, nx)
      if ag.stored then
        let vpage := vp - o % n
        let x : PageEnt := { asid := ag.asid, vpage := vpage, n := min n ((e.base + e.len) / 2 ^ 15 - vpage), phys := pa, nw := nw, nx := nx
                             bank := ag.bankOf vp }
        (s.modCore ag.core fun c => { c with pages := addPage c.pages x }, r)
      else (s, r)

/-- The flat address of an address of an interleave: spaces 1 and 2 are host and CXL memory. -/
def flatOf (il phys : Nat) : Nat := if il = 4 then 2 ^ 64 + phys else if il = 5 then 2 * 2 ^ 64 + phys else phys

/-- Number of 4 KiB pages a group's scratchpad window has. -/
def Group.windowBits (g : Group) : Nat := g.grant.length * 32768

/-- The group whose scratchpad window holds the address in the agent's address space, its own group first. -/
def State.windowGroup (s : State) (ag : Agent) (a : Nat) : Option Group :=
  let hit := fun (g : Group) =>
    g.phase != .retired && g.window.toNat ≤ a && a < g.window.toNat + g.windowBits &&
      (match s.gang? g.gang with
       | some q => q.asid == ag.asid
       | none => false)
  match (ag.group.bind s.group?).filter hit with
  | some g => some g
  | none => (s.groups.map (·.2)).find? hit

/-- Where die lists and the package list stand (R23 to R26): the flat address of an address of a capability list. Die d's list is at its own
base, the package list at its own, each within one page. -/
def State.capAddr (s : State) (a : Nat) : Option Nat :=
  if !s.booted then none
  else if s.pkgVa.toNat ≤ a && a < s.pkgVa.toNat + 2 ^ 15 then some (s.pkgPa + (a - s.pkgVa.toNat))
  else
    match (s.dies.map (·.2)).find? fun d => d.capVa != 0 && d.capVa.toNat ≤ a && a < d.capVa.toNat + 2 ^ 15 with
    | some d => some (d.capPa + (a - d.capVa.toNat))
    | none => none

/-- The agent reaches the scratchpad of core k (R191). -/
def Agent.reaches (ag : Agent) (want : Want) (k : Nat) : Bool := want.far || (ag.onCore && sameInst 2 ag.core k)

/-- PROTECT where the scratchpad is out of reach, else the translation. -/
def reachCheck (ag : Agent) (want : Want) (t : Tr) : Except XErr Tr :=
  if t.fa < 2 ^ 61 && spaceOfPhys t.fa == 1 && !ag.reaches want (coreOfPhys t.fa) then .error .protect else .ok t

/-- Where a range puts an address (R84, R86, R187): the physical address, and nw and nx of its page, none where a walk fails. -/
def State.pagePart (s : State) (ag : Agent) (e : Range) (a : Nat) : State × Option (Nat × Bool × Bool) :=
  if e.paged then
    match s.findPage ag e a with
    | (s, some (p, nw, nx)) => (s, some (p + a % 2 ^ 15, nw, nx))
    | (s, none) => (s, none)
  else (s, some (locate e.il e.target (a - e.base), false, false))

/-- Translate one bit (R85). While a group moves, accesses to its window wait, and find it unmapped where the group is killed before it resumes (R73); those of
the group's own copies that drain first (R71 step 3) go on at the source (DEDUCED, entry 37). -/
def State.xlate (s : State) (ag : Agent) (want : Want) (a : Nat) : State × Except XErr Tr :=
  if 2 ^ 61 ≤ a then (s, .error .translate) else
  match s.capAddr a with
  | some p => (s, if want.w || want.x || want.vx then .error .protect else .ok { fa := p })
  | none =>
  if s.booted && s.migBase.toNat ≤ a && a < s.migBase.toNat + 2 ^ 36 then
    (s, if want.w || want.x || want.vx || !ag.sup then .error .protect
        else .ok { fa := locate 3 (2 ^ 32 - 2 ^ 27) (a - s.migBase.toNat), il := 3 })
  else
  match s.windowGroup ag a with
  | some g =>
    let o := a - g.window.toNat
    let later := ag.later || ag.group.bind s.group? != some g
    (s, if (s.core g.core).withdrawn || (g.unmapped && later) then .error .translate
        else if want.x || want.vx then .error .protect
        else if g.phase == .waiting || (g.phase == .migrating && later) then .error .wait
        else reachCheck ag want { fa := 2 ^ 58 + g.core * 2 ^ 32 + nth 0 g.grant (o / 32768) * 32768 + o % 32768 })
  | none =>
  match s.findRange ag a with
  | (s, none) => (s, .error .translate)
  | (s, some e) =>
    if !e.ok s then (s, .error .translate) else
    match s.pagePart ag e a with
    | (s, none) => (s, .error .translate)
    | (s, some (p, nw, nx)) =>
      if e.il != 4 && e.il != 5 && !(physOk s p && (spaceOfPhys p == 2) == (e.il == 6)) then (s, .error .translate) else
      let bad := (!ag.sup && !bitAt e.attr 9) || (want.r && !bitAt e.attr 5) || (want.w && (!bitAt e.attr 6 || nw)) ||
        (want.x && (!bitAt e.attr 7 || nx)) || (want.vx && (!bitAt e.attr 8 || nx)) ||
        (e.il == 6 && !want.peer) || (want.noDev && e.dev) || (want.noHost && (e.il == 4 || e.il == 5))
      (s, if bad then .error .protect else reachCheck ag want { fa := flatOf e.il p, dev := e.dev, il := e.il, dom := e.dom })

/-- The parts of an access of w bits at a, one for each 4 KiB page: virtual address, offset, length. -/
def parts (a w : Nat) : List (Nat × Nat × Nat) :=
  let o := a % 2 ^ 15
  (List.range (if o + w ≤ 2 ^ 15 then 1 else ceilDiv (o + w) (2 ^ 15))).map fun i =>
    let lo := i * 2 ^ 15 - o
    ((a + lo) % 2 ^ 64, lo, min w ((i + 1) * 2 ^ 15 - o) - lo)

/-- What CheckAccess answers (R105): the parts, a cause with taddr, or a wait (a transfer or a group's migration). -/
inductive Chk where
  | ok (ps : List Piece)
  | trap (cause : Nat) (addr : Nat)
  | wait
deriving DecidableEq, Repr

/-- Translate parts one by one. -/
def State.xlateEach (s : State) (ag : Agent) (want : Want) : List (Nat × Nat × Nat) → State × List (Nat × Nat × Nat × Except XErr Tr)
  | [] => (s, [])
  | (va, off, len) :: t =>
    let r := s.xlate ag want va
    let q := State.xlateEach r.1 ag want t
    (q.1, (va, off, len, r.2) :: q.2)

/-- Translate the parts of an access: one of several parts walks the tables for each, so that no two of its bits mix old and new contents (R87). -/
def State.xlateParts (s : State) (ag : Agent) (want : Want) (l : List (Nat × Nat × Nat)) :
    State × List (Nat × Nat × Nat × Except XErr Tr) :=
  s.xlateEach { ag with walk := ag.walk || 1 < l.length } want l

/-- An agent, by the number under which it joins ownership transfers, still makes its accesses: a strand that runs and is not held, a command processor that
executes, a copy context with an operation in progress. -/
def State.asks (s : State) (k : Nat) : Bool :=
  let ctx := fun (pc : Nat) =>
    let c := Sparse.get {} (s.die (pc / 128)).ctxs (pc % 128)
    !c.stopped && !(s.die (pc / 128)).inReset && (c.ops.head?.map (·.started)).getD false
  if k < 2 ^ 20 then (s.strand k).phase == .running && (s.strand k).hold.isNone
  else if k < 2 ^ 21 then ctx (k - 2 ^ 20)
  else if k < 2 ^ 22 then !(s.die (k - 2 ^ 21)).stopped && !(s.die (k - 2 ^ 21)).inReset
  else ctx ((k - 2 ^ 22) / 16)

/-- Accesses that a transfer toward the device held have not proceeded (R335 step 4). -/
def State.owed (s : State) (region : Nat) : Bool := s.transfers.any fun t => t.region == region && t.flipped && t.joined.any s.asks

/-- The transfer has begun and is not over: one toward the host that was asked for while another toward the device ran begins once the accesses which that one
held have proceeded (R335). -/
def State.runs (s : State) (t : Transfer) : Bool := !t.failed && !t.flipped && (t.toDev || !s.owed t.region)

/-- An ownership transfer of a region is in progress. -/
def State.transferring (s : State) (region : Nat) : Bool := s.transfers.any fun t => t.region == region && s.runs t

/-- Ownership region of a flat address (R334). -/
def regionOf (fa : Nat) : Nat := fa / 2 ^ 24

/-- State of an ownership region: HOST where nothing else is recorded (R334). -/
def State.owner (s : State) (region : Nat) : Owner := Sparse.get .host s.owners region

/-- The strand's access joined a transfer of the region that failed (R336). -/
def State.joinedFailed (s : State) (sid : Option Nat) (region : Nat) : Bool :=
  match sid with
  | none => false
  | some k => s.transfers.any fun t => t.region == region && t.failed && hasNat t.joined k

/-- The ownership check of one part (R105, R334 to R336): 0 the device owns it, 1 a transfer is needed or runs, 2 it fails at once, or the
transfer the access joined has failed. -/
def State.ownCheck (s : State) (ag : Agent) (t : Tr) : Nat :=
  if t.il != 4 && t.il != 5 then 0
  else if !hasNat s.domains t.dom || s.owner (regionOf t.fa) == .pinned then 2
  else if s.joinedFailed ag.sid (regionOf t.fa) then 2
  else if s.transferring (regionOf t.fa) then 1
  else if s.owner (regionOf t.fa) == .dev then 0
  else 1

/-- Start a transfer where none of the region runs or waits; a request in its direction joins the one that does (R335). Its limit counts cycles of the core
that asked (R336), of the package where the host did. -/
def State.startTransfer (s : State) (region : Nat) (toDev : Bool) (sid : Option Nat := none) (core : Option Nat := none) (dom : Nat := 0) : State :=
  let s := if s.transfers.any fun t => t.region == region && !t.failed && !t.flipped then s else { s with transfers := s.transfers ++
    [{ region := region, toDev := toDev, core := core, since := (core.map s.coreCycle).getD s.now, dom := dom }] }
  match sid with
  | none => s
  | some k => { s with transfers := s.transfers.map fun t =>
      if t.region == region && !t.failed && !t.flipped && t.toDev == toDev then { t with joined := insertNat t.joined k } else t }

/-- The core by whose cycles an agent's waits count (R2): its own, or the core it works for; where there is none, for a command processor and a stream's copy,
the timing core of its die, by which R60 has their limits count (DESIGN CHOICE, entry 36). -/
def State.clockOf (s : State) (ag : Agent) : Nat := if ag.onCore || ag.gives then ag.core else s.timingCore (dieOf ag.core)

/-- An access starts, or joins, the transfer of the region of a piece toward the device. -/
def State.askRegion (s : State) (ag : Agent) (t : Tr) : State := s.startTransfer (regionOf t.fa) true ag.sid (some (s.clockOf ag)) t.dom

/-- An access that raises OWNERSHIP has had its answer from the failed transfers it joined. -/
def State.leaveFailed (s : State) (sid : Option Nat) : State :=
  match sid with
  | none => s
  | some k => { s with transfers := (s.transfers.map fun t =>
      if t.failed then { t with joined := t.joined.filter (· != k) } else t).filter fun t => !t.failed || !t.joined.isEmpty }

/-- An access that a transfer held proceeds (R335 step 4). -/
def State.proceed (s : State) (sid : Option Nat) (ps : List Piece) : State :=
  match sid with
  | none => s
  | some k => { s with transfers := (s.transfers.map fun t =>
      if t.flipped && ps.any (fun p => regionOf p.tr.fa == t.region) then { t with joined := t.joined.filter (· != k) } else t).filter fun t =>
        !t.flipped || !t.joined.isEmpty }

/-- A piece of host or CXL memory cut where it crosses into the next ownership region (R334: 2 MiB). -/
def Piece.byRegion (p : Piece) : List Piece :=
  let k := 2 ^ 24 - p.tr.fa % 2 ^ 24
  if (p.tr.il == 4 || p.tr.il == 5) && k < p.len then
    [{ p with len := k }, { off := p.off + k, len := p.len - k, va := (p.va + k) % 2 ^ 64, tr := { p.tr with fa := p.tr.fa + k } }]
  else [p]

/-- The pieces a translation gave, where every part succeeded. -/
def okParts (l : List (Nat × Nat × Nat × Except XErr Tr)) : List Piece :=
  l.flatMap fun p =>
    match p.2.2.2 with
    | .ok t => Piece.byRegion { off := p.2.1, len := p.2.2.1, va := p.1, tr := t }
    | .error _ => []

/-- The first part that failed in a way, by its virtual address. -/
def firstErr (e : XErr) (l : List (Nat × Nat × Nat × Except XErr Tr)) : Option Nat :=
  (l.find? fun p =>
    match p.2.2.2 with
    | .ok _ => false
    | .error e' => e == e').map (·.1)

/-- CheckAccess (R105) of w bits at a, from TRANSLATE on. -/
def State.check (s : State) (ag : Agent) (want : Want) (a w : Nat) : State × Chk :=
  if w = 0 then (s, .ok []) else
  let r := s.xlateParts ag want (parts a w)
  let s := r.1
  match firstErr .translate r.2 with
  | some v => (s, .trap 5 v)
  | none =>
  match firstErr .protect r.2 with
  | some v => (s, .trap 6 v)
  | none =>
  match firstErr .wait r.2 with
  | some _ => (s, .wait)
  | none =>
  let ps := okParts r.2
  match ps with
  | [] => (s, .ok [])
  | p :: t =>
    if !want.many && t.any fun q => q.tr.dev != p.tr.dev || q.tr.il != p.tr.il || q.tr.dom != p.tr.dom then (s, .trap 4 a)
    else if want.fetch then (s, .ok ps)
    else
      match ps.find? fun q => s.ownCheck ag q.tr == 2 with
      | some q => (s.leaveFailed ag.sid, .trap 7 q.va)
      | none =>
      match ps.find? fun q => s.ownCheck ag q.tr == 1 with
      | some q => (s.askRegion ag q.tr, .wait)
      | none => (s.proceed ag.sid ps, .ok ps)

/-- Of the answers of the checks of an access's runs, the one the access gives (R105): ALIGN that needs no translation, TRANSLATE, PROTECT, ALIGN across
ranges, OWNERSHIP, of one cause that of the lowest address; then a wait. `early` says which ALIGN comes first. -/
def worstChk (l : List Chk) (early : List Nat := []) : Chk :=
  let lowest := fun (c : Nat) => (l.filterMap fun k =>
    match k with
    | .trap d a => if d = c then some a else none
    | _ => none).foldl (fun (m : Option Nat) a => some (match m with
      | some b => min a b
      | none => a)) none
  match early.foldl (fun (m : Option Nat) a => some (min a (m.getD a))) none with
  | some a => .trap 4 a
  | none =>
    match [5, 6, 4, 7].filterMap fun c => (lowest c).map fun a => (c, a) with
    | x :: _ => .trap x.1 x.2
    | [] => if l.contains .wait then .wait else .ok (l.flatMap fun k =>
        match k with
        | .ok ps => ps
        | _ => [])

/-- Check the parts of an access that ask for different permissions: one answer, in R105's order, for all of it. -/
def State.checkAll (s : State) (ag : Agent) (l : List (Want × Nat × Nat)) : State × Chk :=
  let r := l.foldl (fun (r : State × List Chk) x => let q := r.1.check ag x.1 x.2.1 x.2.2; (q.1, r.2 ++ [q.2])) (s, [])
  (r.1, worstChk r.2)

end Sys2Proof.Machine
end

