-- ==== Sys2Proof/Machine/Access.lean ====
section
/-!
DEFINITION. Performing accesses (R104, R189, R267, R273): the line caches, which are not coherent, the fetch caches (R91 to R93), DEV memory (R90), and what
releases and acquires do to line caches (R269).
-/

namespace Sys2Proof.Machine

/-- Lines of this translation go through a line cache (R189): IDEM Kaolin, host and CXL memory. -/
def Tr.cached (t : Tr) : Bool := !t.dev && (2 ^ 64 ≤ t.fa || spaceOfPhys t.fa == 0)

/-- Device memory whose device is outside the part: a DEV range of host or CXL memory (R90). -/
def Tr.device (t : Tr) : Bool := t.dev && 2 ^ 64 ≤ t.fa

/-- The part of bits fa to fa + w − 1 that lies in a line: offset in the line, offset in the access, length. -/
def lineSlice (fa w line : Nat) : Nat × Nat × Nat :=
  let lo := max fa (line * 512)
  let hi := min (fa + w) ((line + 1) * 512)
  (lo - line * 512, lo - fa, hi - lo)

/-- The line as the core's cache holds it, or as a fill brings it from its home. -/
def State.cacheLine (s : State) (k line : Nat) : CLine :=
  match Sparse.get none ((s.core k).lines.map fun p => (p.1, some p.2)) line with
  | some l => l
  | none => { data := s.home (line * 512) 512, pois := hasNat s.poison line }

/-- Write back the dirty bits of one line, bit-masked, to its home (R189). The line stays, clean. -/
def State.writeBackOne (s : State) (k line : Nat) : State :=
  match Sparse.get none ((s.core k).lines.map fun p => (p.1, some p.2)) line with
  | none => s
  | some l =>
    let s := s.homeWriteLine line l.data l.dirty l.wpois (!l.pois)
    s.modCore k fun c => { c with lines := Sparse.put c.lines line { l with dirty := 0, wpois := false } }

/-- The classes whose stores must come home with those of the classes of a mask: dirty lines share them (n rounds). -/
def Core.together (c : Core) : Nat → Nat → Nat
  | 0, m => m
  | n + 1, m => c.together n (c.lines.foldl (fun m p => if p.2.dirty != 0 && (p.2.classes &&& m) != 0 then m ||| p.2.classes else m) m)

/-- Write back the dirty lines of the classes of a mask, with every dirty line that shares a class with one of them: stores of one class reach their homes
in program order (R264), so they go in one step. -/
def State.classBack (s : State) (k mask : Nat) : State :=
  let m := (s.core k).together 16 mask
  (((s.core k).lines.filter fun p => p.2.dirty != 0 && (p.2.classes &&& m) != 0).map (·.1)).foldl (fun s l => s.writeBackOne k l) s

/-- Write back a line (R189), and what R264 makes come home with it. -/
def State.writeBack (s : State) (k line : Nat) : State :=
  match Sparse.get none ((s.core k).lines.map fun p => (p.1, some p.2)) line with
  | none => s
  | some l => if l.dirty = 0 then s else (s.classBack k l.classes).writeBackOne k line

/-- Drop a line after writing its dirty bits back (R189: no dirty bit is ever dropped unwritten). -/
def State.evict (s : State) (k line : Nat) : State :=
  let s := s.writeBack k line
  s.modCore k fun c => { c with lines := Sparse.del c.lines line }

/-- Lines a 256 KiB line cache holds (R189). -/
def cacheLines : Nat := 4096

/-- Make room for a line in a full line cache: the line of the lowest address leaves (DESIGN CHOICE which, entry 44). -/
def State.makeRoom (s : State) (k : Nat) : State :=
  match (s.core k).lines with
  | l :: _ => if cacheLines ≤ (s.core k).lines.length then s.evict k l.1 else s
  | [] => s

/-- Fill a line for an access of class cls (R189). A line that only other classes filled or wrote leaves first and is filled anew, so that no access
reads what an acquire of its class would have dropped (DEDUCED, entry 44). -/
def State.fill (s : State) (k cls line : Nat) : State :=
  if (s.core k).lines.any fun p => p.1 == line && bitAt p.2.classes cls then s
  else
    let s := (s.evict k line).makeRoom k
    let l : CLine := { data := s.home (line * 512) 512, pois := hasNat s.poison line, classes := 2 ^ cls }
    s.modCore k fun c => { c with lines := Sparse.put c.lines line l }

/-- Read bits through the line cache of core k, filling lines of class cls: value and poison. -/
def State.cacheRead (s : State) (k cls fa w : Nat) : State × Nat × Bool :=
  (linesOf fa w).foldl (fun (r : State × Nat × Bool) line =>
    let s := r.1.fill k cls line
    let l := s.cacheLine k line
    let sl := lineSlice fa w line
    (s, r.2.1 + field l.data sl.1 sl.2.2 * 2 ^ sl.2.1, r.2.2 || l.pois)) (s, 0, false)

/-- Write bits into the line cache of core k as dirty bits of class cls (R189). -/
def State.cacheWrite (s : State) (k cls fa w v : Nat) (p : Bool) : State :=
  (linesOf fa w).foldl (fun s line =>
    let s := s.fill k cls line
    let l := s.cacheLine k line
    let sl := lineSlice fa w line
    s.modCore k fun c => { c with lines := Sparse.put c.lines line { l with
      data := putField l.data sl.1 sl.2.2 (v / 2 ^ sl.2.1), dirty := l.dirty ||| ones sl.1 sl.2.2,
      pois := p || (l.pois && sl.2.2 != 512), wpois := p || (l.wpois && sl.2.2 != 512) } }) s

/-- The lines of core k that hold a class of the mask. -/
def State.classLines (s : State) (k mask : Nat) : List Nat :=
  ((s.core k).lines.filter fun p => (p.2.classes &&& mask) != 0).map (·.1)

/-- What a release of these classes does to the line cache at a scope (R269): quad scope and wider write back. -/
def State.relCache (s : State) (k mask scope : Nat) : State :=
  if scope < 2 then s else (s.classLines k mask).foldl (fun s l => s.writeBack k l) s

/-- What an acquire of these classes does to the line cache at a scope (R269): quad scope and wider write back dirty bits and drop the lines. -/
def State.acqCache (s : State) (k mask scope : Nat) : State :=
  if scope < 2 then s else (s.classLines k mask).foldl (fun s l => s.evict k l) s

/-- Every ordering class. -/
def allClasses : Nat := 0xFFFF

/-- The result of reading parts: a value with its poison, or an error response of a device at an address (R90). -/
inductive RdRes where
  | ok (v : Nat) (p : Bool)
  | err (addr : Nat)
deriving DecidableEq, Repr

/-- A reply of a device behind a DEV range of host or CXL memory: the next of devIn, or a free value where none is given (entry 3). -/
def State.devRead (s : State) : State × Option Word :=
  match s.devIn with
  | r :: t => ({ s with devIn := t }, r)
  | [] => (s.fresh.2, some s.fresh.1)

/-- Read w bits from a device, as loads of at most 64 bits from the lowest address on; none where one of them is answered with an error. -/
def State.devReads (s : State) (w : Nat) : Nat → State × Option Nat
  | 0 => (s, some 0)
  | n + 1 =>
    match s.devRead with
    | (s, none) => (s, none)
    | (s, some v) =>
      match State.devReads s (w - 64) n with
      | (s, none) => (s, none)
      | (s, some r) => (s, some (v.toNat % 2 ^ min w 64 + r * 2 ^ 64))

/-- Read one translated part (R104, R189, R90). `atHome` reads at the home, after the core has written back and dropped its copy (R273); so does a DEV range of
Kaolin, whose lines an IDEM range may have brought into the cache (R265, R266). -/
def State.readPiece (s : State) (ag : Agent) (cls : Nat) (atHome : Bool) (p : Piece) : State × RdRes :=
  if p.tr.device then
    match s.devReads p.len (ceilDiv p.len 64) with
    | (s, some w) => (s, .ok w false)
    | (s, none) => (s, .err p.va)
  else if p.tr.cached && ag.onCore && !atHome then
    let r := s.cacheRead ag.core cls p.tr.fa p.len
    (r.1, .ok r.2.1 r.2.2)
  else
    let s := if ag.onCore && (atHome || p.tr.dev) then (linesOf p.tr.fa p.len).foldl (fun s l => s.evict ag.core l) s else s
    (s, .ok (s.home p.tr.fa p.len) (s.homePois p.tr.fa p.len))

/-- Read translated parts. -/
def State.readPieces (s : State) (ag : Agent) (cls : Nat) (atHome : Bool) : List Piece → State × RdRes
  | [] => (s, .ok 0 false)
  | p :: t =>
    match s.readPiece ag cls atHome p with
    | (s, .err a) => (s, .err a)
    | (s, .ok v q) =>
      match State.readPieces s ag cls atHome t with
      | (s, .err a) => (s, .err a)
      | (s, .ok v' q') => (s, .ok (v * 2 ^ p.off + v') (q || q'))

/-- A strand's own tags on the lines break at its own store (R109). -/
def State.ownStore (s : State) (sid : Option Nat) (fa w : Nat) : State :=
  match sid with
  | none => s
  | some k => s.breakAll fun t => t.2.1 == k && (linesOf fa w).any (· == t.1)

/-- A write to a device: the next entry of devIn says how it is answered, none an error response; it is performed where none is left (entry 3). -/
def State.devWrite (s : State) (fa w v : Nat) : State × Bool :=
  match s.devIn with
  | none :: t => ({ s with devIn := t }, false)
  | _ => ({ s with devIn := s.devIn.tail, devOut := s.devOut ++ [(fa, w, v)] }, true)

/-- Write w bits to a device, as stores of at most 64 bits from the lowest address on, up to one that is answered with an error. -/
def State.devWrites (s : State) (fa w v : Nat) : Nat → State × Bool
  | 0 => (s, true)
  | n + 1 =>
    match s.devWrite fa (min w 64) (v % 2 ^ min w 64) with
    | (s, false) => (s, false)
    | (s, true) => State.devWrites s (fa + 64) (w - 64) (v / 2 ^ 64) n

/-- Write one translated part of a value (R104, R189, R90): none where a device answers with an error. A write that no line cache holds follows the earlier
stores of its class home (R264). -/
def State.writePiece (s : State) (ag : Agent) (sid : Option Nat) (cls : Nat) (atHome : Bool) (v : Nat) (pz : Bool) (p : Piece) : State × Bool :=
  let v := v / 2 ^ p.off % 2 ^ p.len
  let s := s.ownStore sid p.tr.fa p.len
  if p.tr.cached && ag.onCore && !atHome then (s.cacheWrite ag.core cls p.tr.fa p.len v pz, true)
  else
    let s := if ag.onCore then s.classBack ag.core (2 ^ cls) else s
    if p.tr.device then s.devWrites p.tr.fa p.len v (ceilDiv p.len 64)
    else
      let s := if (ag.onCore && (atHome || p.tr.dev)) || ag.gives then (linesOf p.tr.fa p.len).foldl (fun s l => s.evict ag.core l) s else s
      (s.homeWrite p.tr.fa p.len v pz, true)

/-- Write translated parts in order; the address of the part whose device answers with an error. -/
def State.writePieces (s : State) (ag : Agent) (sid : Option Nat) (cls : Nat) (atHome : Bool) (v : Nat) (pz : Bool) :
    List Piece → State × Option Nat
  | [] => (s, none)
  | p :: t =>
    match s.writePiece ag sid cls atHome v pz p with
    | (s, true) => State.writePieces s ag sid cls atHome v pz t
    | (s, false) => (s, some p.va)

/-- Translated parts cut at line boundaries. -/
def linePieces (ps : List Piece) : List Piece :=
  ps.flatMap fun p => (linesOf p.tr.fa p.len).map fun l =>
    let sl := lineSlice p.tr.fa p.len l
    { off := p.off + sl.2.1, len := sl.2.2, va := (p.va + sl.2.1) % 2 ^ 64, tr := { p.tr with fa := p.tr.fa + sl.2.1 } }

/-- Write an area with one poison bit for each byte of it, line by line: a poisoned byte poisons its line (R95, R319). -/
def State.writeArea (s : State) (ag : Agent) (sid : Option Nat) (cls bits pois : Nat) (ps : List Piece) : State :=
  (linePieces ps).foldl (fun s p =>
    (s.writePiece ag sid cls false bits (field pois (p.off / 8) (ceilDiv (p.off % 8 + p.len) 8) != 0) p).1) s

/-- Read an area, line by line: its bits, and a poison bit for each byte, set for the bytes of a poisoned line (R320). -/
def State.readArea (s : State) (ag : Agent) (cls : Nat) (ps : List Piece) : State × Nat × Nat :=
  (linePieces ps).foldl (fun (r : State × Nat × Nat) p =>
    match r.1.readPiece ag cls false p with
    | (s, .ok v q) => (s, r.2.1 + v * 2 ^ p.off, r.2.2 ||| if q then ones (p.off / 8) (ceilDiv (p.off % 8 + p.len) 8) else 0)
    | (s, .err _) => (s, r.2)) (s, 0, 0)

/-- The lines of translated parts. -/
def pieceLines (ps : List Piece) : List Nat := ps.flatMap fun q => linesOf q.tr.fa q.len

/-- The lines of translated parts, as a cover. -/
def coverPieces (c : Cover) (ps : List Piece) : Cover := ps.foldl (fun c p => c.add p.tr.fa p.len) c

/-- Lines that one member, copy or store has written whole with unpoisoned data lose their poison (R95, entry 11). -/
def State.clearCovered (s : State) (ag : Agent) (c : Cover) : State :=
  c.whole.foldl (fun s l =>
    if ag.onCore && ((s.core ag.core).lines.any fun p => p.1 == l) then
      s.modCore ag.core fun q => { q with lines := q.lines.map fun p =>
        if p.1 = l && p.2.dirty == 2 ^ 512 - 1 then (p.1, { p.2 with pois := false, wpois := false }) else p }
    else s.setPoison l false) s

/-- The agent a strand is. -/
def State.agentOf (s : State) (sid : Nat) : Agent :=
  let t := s.strand sid
  { core := coreOf sid, asid := t.asid, sup := t.sup, group := t.group, sid := some sid }

/-- The agent of the strand whose turn it is. -/
def State.myAgent (s : State) : Agent := s.agentOf s.cur

/-- A line of the core's fetch cache, filled from memory where it is absent (R91). No line leaves the cache but by an instruction or event that drops it: where
R92 lets a core go on with old bits, it does (DESIGN CHOICE, entry 44). -/
def State.fetchLine (s : State) (k line : Nat) : State × FLine :=
  match Sparse.get none ((s.core k).fetch.map fun p => (p.1, some p.2)) line with
  | some l => (s, l)
  | none =>
    let l : FLine := { data := s.home (line * 512) 512, pois := hasNat s.poison line }
    (s.modCore k fun c => { c with fetch := Sparse.put c.fetch line l }, l)

/-- What fetching answers: bits, or a cause with taddr. -/
inductive Fetch where
  | ok (v : Nat)
  | trap (cause addr : Nat)
deriving DecidableEq, Repr

/-- Bits of a word from the lines of the fetch cache they lie in; none where one of those lines is poisoned (R91, R93). -/
def State.fetchParts (s : State) (k : Nat) : List Piece → State × Option Nat
  | [] => (s, some 0)
  | p :: t =>
    let r := s.fetchLine k (p.tr.fa / 512)
    if r.2.pois then (r.1, none)
    else
      match State.fetchParts r.1 k t with
      | (s, some v) => (s, some (field r.2.data (p.tr.fa % 512) p.len * 2 ^ p.off + v))
      | (s, none) => (s, none)

/-- Fetch 32 bits at a (R27, R91, R93): a word may lie in two lines, where a range's target is no multiple of 32. `vx` says vector fetch. A range that names a
scratchpad and grants X or VX is fetched from, though R91 names only Kaolin, host and CXL memory (DESIGN CHOICE, entry 20). -/
def State.fetch32 (s : State) (ag : Agent) (vx : Bool) (a : Nat) : State × Fetch :=
  match s.check ag (if vx then Want.fetchVx else Want.fetchX) a 32 with
  | (s, .trap c v) => (s, .trap c v)
  | (s, .wait) => (s, .trap 5 a)
  | (s, .ok ps) =>
    match s.fetchParts ag.core (linePieces ps) with
    | (s, some v) => (s, .ok v)
    | (s, none) => (s, .trap 9 a)

/-- Fetch n 32-bit words at a: the words so far as one number, or the first word that cannot be fetched. -/
def State.fetchWords (s : State) (ag : Agent) (vx : Bool) (a : Nat) : Nat → State × Fetch
  | 0 => (s, .ok 0)
  | n + 1 =>
    match s.fetch32 ag vx a with
    | (s, .trap c v) => (s, .trap c v)
    | (s, .ok v) =>
      match State.fetchWords s ag vx ((a + 32) % 2 ^ 64) n with
      | (s, .trap c x) => (s, .trap c x)
      | (s, .ok v') => (s, .ok (v + v' * 2 ^ 32))

end Sys2Proof.Machine
end

