-- ==== Sys2Proof/Machine/Ops.lean ====
section
/-!
DEFINITION. The shared operations: profiles (R16), the frame of CALL and RET (R112, R113), taking a trap and returning from one (R294 to R300, R310), holding a
strand and its notice (R300, R311), the end of a supervisor strand (R333), unwinding a convoy (R296).
-/

namespace Sys2Proof.Machine

/-- Profiles a die carries, by the bits of R15 (R26). -/
def dieProfiles (d : Nat) : Nat := if Config.isMarl d then 0x37 else 0x0F

/-- The die carries a profile. -/
def dieHas (d : Nat) (p : Profile) : Bool := bitAt (dieProfiles d) p.bit

/-- The fate of an opcode of a profile in a strand (R16): it executes, raises ILLEGAL, or raises MIGRATE. -/
inductive Fate where
  | runs
  | illegal
  | migrate
deriving DecidableEq, Repr

/-- R16. A supervisor strand belongs to no gang, declares nothing and never migrates (R333, entry 12). -/
def State.fate (s : State) (sid : Nat) (p : Profile) : Fate :=
  let d := dieOf (coreOf sid)
  if (s.strand sid).sup then (if dieHas d p then .runs else .illegal)
  else
    match s.gangOf sid with
    | none => .illegal
    | some q =>
      if p != .s1 && !bitAt q.profiles p.bit then .illegal
      else if dieHas d p then .runs
      else if q.migratable then .migrate
      else .illegal

/-- The supervisor strand of a core (R333). -/
def State.supOf (s : State) (k : Nat) : Option Nat :=
  ((List.range 8).map (sidOf k)).find? fun sid => (s.strand sid).sup && (s.strand sid).phase == .running

/-- Group index of a strand, 0 for one that has no group. -/
def State.gidOf (s : State) (sid : Nat) : Nat :=
  match s.groupOf sid with
  | some g => g.gid
  | none => 0

/-- The strand, mcs and group fields of a notice (R300, R311). The strand index is the context number (entry 13). -/
def State.noticeId (s : State) (sid : Nat) : Nat :=
  (if ctxOf sid = 8 then 2 ^ 19 else ctxOf sid * 2 ^ 16) + s.gidOf sid * 2 ^ 20

/-- A notice of a strand before it on the core waits: notices go in strand order, the matrix control strand's last (R333; DESIGN CHOICE where they do
not follow a placement, entry 13). -/
def State.noticeAhead (s : State) (sid : Nat) : Bool :=
  (List.range (ctxOf sid)).any fun c => match (s.strand (sidOf (coreOf sid) c)).hold with
    | some h => !h.pushed
    | none => false

/-- Push a held strand's notice into the supervisor strand's reply queue when it has three free entries (R300). -/
def State.pushNotice (s : State) (sid : Nat) : State :=
  match (s.strand sid).hold, s.supOf (coreOf sid) with
  | some h, some p =>
    let t := s.strand p
    if h.pushed || 13 < t.rq.length || s.noticeAhead sid then s
    else
      let s := s.setStrand p { t with rq := t.rq ++ [{ w := h.n0 }, { w := h.n1 }, { w := h.n2 }] }
      s.modStrand sid fun t => { t with hold := some { h with pushed := true } }
  | _, _ => s

/-- A strand waits on no row-buffer slot any more, but for slots that it keeps (R228). -/
def State.leaveSlots (s : State) (sid : Nat) (keep : List Nat) : State :=
  if (s.core (coreOf sid)).mx.vtoaQ.any fun q => q.2 == sid then
    s.modMx (coreOf sid) fun m => { m with vtoaQ := keep.map (fun i => (i, sid)) ++ m.vtoaQ.filter fun q => q.2 != sid }
  else s

/-- The slots that a convoy fills as it retires (R228). -/
def Conv.fills (c : Conv) : List Nat :=
  c.staged.filterMap fun e =>
    match e with
    | .fill i .. => some i
    | _ => none

/-- The convoy in progress unwinds (R296): the displaced registers and the block's vl come back, and nothing staged happens. -/
def Strand.dropConv (t : Strand) : Strand :=
  let t := { t with convWait := none }
  match t.conv with
  | none => t
  | some c =>
    { t with
      v := c.hist.v, m := c.hist.m, sc := c.hist.sc, vlinks := c.hist.vlinks, conv := none, blk := t.blk.map fun _ => c.hist.blk }

/-- A convoy that has not retired unwinds with all after it, those in `ps` among them (R296, R303). -/
def Strand.backTo (t : Strand) (p : Past) (ps : List Past) : Strand :=
  { t with
    v := p.conv.hist.v, m := p.conv.hist.m, sc := p.conv.hist.sc, vlinks := p.conv.hist.vlinks, blk := some p.conv.hist.blk
    vpc := p.conv.addr, b := p.b, lc := p.lc, vdirty := p.vdirty, vstate := p.vstate, estart := p.estart
    queue := (p :: ps).flatMap (·.taken) ++ t.queue }

/-- The convoy is a G1 member's, which retires partially at any merge boundary (R182). -/
def Conv.isMerge (c : Conv) : Bool :=
  match c.words with
  | [w] => field w 55 9 == 0x160
  | _ => false

/-- The convoy has performed an element of R303: it runs to its retirement whatever stops the strand. -/
def Conv.stays (c : Conv) : Bool := c.performed && !c.isMerge

/-- The oldest convoy behind the one in progress, where it stays. -/
def Strand.stayer (t : Strand) : Option Past := t.past.head?.filter (·.conv.stays)

/-- Every convoy that has not retired unwinds, but one behind the one in progress that stays: it is the oldest, since a member that writes memory waits until every
earlier convoy has retired (R297). -/
def Strand.unwound (t : Strand) : Strand :=
  let u := t.dropConv
  match u.past with
  | [] => u
  | p :: ps =>
    if !p.conv.stays then { u.backTo p ps with past := [] }
    else match ps with
      | [] => u
      | q :: qs => { u.backTo q qs with past := [p] }

/-- Unwind a strand's convoys (R296). -/
def State.unwind (s : State) (sid : Nat) : State :=
  (s.leaveSlots sid ((s.strand sid).stayer.map (·.conv.fills)).toList.flatten).modStrand sid Strand.unwound

/-- The convoy in progress has performed an element of R303. -/
def Strand.convPerforming (t : Strand) : Bool := t.conv.any Conv.stays

/-- A convoy of the strand has performed an element of R303: it runs to its retirement whatever stops the strand. -/
def Strand.performing (t : Strand) : Bool := t.convs.any Conv.stays

/-- A strand's vector queue is stopped (R298, R300): the convoy in progress unwinds, but one that has performed a memory-writing or DEV element runs
to its retirement (R297, R303). -/
def State.quiesce (s : State) (sid : Nat) : State :=
  if (s.strand sid).convPerforming then s else s.unwind sid

/-- Hold a strand with a notice, and push the notice if there is room (R300, R311). -/
def State.holdStrand (s : State) (sid : Nat) (h : Hold) : State :=
  ((s.quiesce sid).modStrand sid fun t => { t with hold := some h, wait := none, convWait := none }).pushNotice sid

/-- Every strip of the convoy has issued and every member has completed, its pushes aside (R126). -/
def Conv.complete (c : Conv) : Bool := c.strips ≤ c.issued && c.words.length ≤ c.slot && c.pend == .none

/-- A convoy that runs to its retirement whatever stops the strand has accesses left to perform (R303). -/
def Strand.storing (t : Strand) : Bool := t.convs.any fun c => c.stays && !c.complete

/-- The class of a matrix operation's loads or stores (R247, R252). -/
def MxOp.cls? (o : MxOp) : Option Nat :=
  match o.kind with
  | .mldb _ _ _ cls _ => some cls
  | .mstc _ _ _ _ cls _ => some cls
  | _ => none

/-- The matrix control strand has a matrix operation whose accesses of a class of the mask are not performed (R133, R247, R252, R264). -/
def State.mxAccesses (s : State) (sid mask : Nat) : Bool :=
  ctxOf sid == 8 && (s.core (coreOf sid)).mx.ops.any fun o => !o.done &&
    (match o.cls? with
     | some c => bitAt mask c
     | none => false)

/-- Columns N of a geometry code (R243). -/
def geomN (g : Nat) : Nat := 1024 / 2 ^ g

/-- The runs of a source row of N elements at r (R146, R247): address, element width, length. fmt 0 is bf16, 2 nq4, 3 q. -/
def rowRuns (fmt w N r : Nat) : List (Nat × Nat × Nat) :=
  if fmt = 0 then [(r, 16, 16 * N)]
  else (List.range (ceilDiv N 256)).flatMap fun j =>
    let a := (r + j * (256 * w + 64)) % 2 ^ 64
    [(a, w, min 256 (N - 256 * j) * w), ((a + 256 * w) % 2 ^ 64, 64, 64)]

/-- The pages a matrix operation found when it was checked (R249). -/
def MxOp.pages (o : MxOp) : List (Nat × Nat) :=
  match o.kind with
  | .mldb _ _ _ _ pages => pages
  | .mstc _ _ _ _ _ pages => pages
  | _ => []

/-- The runs of bits a matrix operation loads or stores, each by its address and length, at N columns (R247, R252). -/
def MxOp.runs (o : MxOp) (N : Nat) : List (Nat × Nat) :=
  match o.kind with
  | .mldb rows fmt w _ _ => (rows.filterMap id).flatMap fun r => (rowRuns fmt w N r).map fun x => (x.1, x.2.2)
  | .mstc _ _ bf dests _ _ => dests.map fun a => (a, (if bf then 16 else 32) * N)
  | _ => []

/-- A matrix operation's rows touch bits of a piece. -/
def MxOp.touches (o : MxOp) (N : Nat) (p : Piece) : Bool :=
  o.pages.any fun g =>
    let lo := max p.tr.fa g.2
    let hi := min (p.tr.fa + p.len) (g.2 + 2 ^ 15)
    lo < hi && (o.runs N).any fun r => g.1 * 2 ^ 15 + (lo - g.2) < r.1 + r.2 && r.1 < g.1 * 2 ^ 15 + (hi - g.2)

/-- A packet updates bits of a piece. -/
def RPacket.touches (k : RPacket) (p : Piece) : Bool := k.elems.any fun e => e.dst < p.tr.fa + p.len && p.tr.fa < e.dst + 32

/-- A row of a matrix operation of the matrix control strand that is not complete touches a bit of these pieces (R265). -/
def State.mxBits (s : State) (sid : Nat) (ps : List Piece) : Bool :=
  ctxOf sid == 8 &&
    (let m := (s.core (coreOf sid)).mx
     m.ops.any fun o => !o.done && ps.any (o.touches (geomN m.mcfg)))

/-- An earlier access of the strand to a bit of these pieces is not performed: a RRED update in flight, or a row of a matrix operation (R265). -/
def State.bitsPending (s : State) (sid : Nat) (ps : List Piece) : Bool :=
  (s.packets.any fun k => k.sid == some sid && ps.any k.touches) || s.mxBits sid ps

/-- An earlier access of the strand in a class of the mask is a RRED update in flight, or a matrix operation's (R264). -/
def State.classPending (s : State) (sid mask : Nat) : Bool :=
  (s.packets.any fun p => p.sid == some sid && bitAt mask p.cls) || s.mxAccesses sid mask

/-- An earlier access of the strand keeps one of its frame's waiting, which are of class c0 (R112, R264, R265). -/
def State.frameHeld (s : State) (sid : Nat) (ps : List Piece) : Bool :=
  (s.strand sid).storing || s.classPending sid 1 || s.bitsPending sid ps

/-- What a frame operation answers. -/
inductive FrameRes where
  | ok
  | trap (cause : Nat) (addr : Word)
  | wait
deriving DecidableEq, Repr

/-- Push a return address and vector-state word as CALL does (R112). -/
def State.pushFrame (s : State) (sid : Nat) (ra : Word) (k : Nat) : State × FrameRes :=
  let t := s.strand sid
  let x2 := t.getX 2
  if x2.p then (s, .trap 8 0)
  else if x2.w.toNat % 64 ≠ 0 then (s, .trap 4 (x2.w - 128#64))
  else
    let a := x2.w - 128#64
    let ag := s.agentOf sid
    match s.check ag .store a.toNat 128 with
    | (s, .trap c v) => (s, .trap c (BitVec.ofNat 64 v))
    | (s, .wait) => (s, .wait)
    | (s, .ok ps) =>
      if s.frameHeld sid ps then (s, .wait) else
      let vsw := t.vl + t.ew * 2 ^ 20 + k * 2 ^ 22
      match s.writePieces ag (some sid) 0 false (vsw + ra.toNat * 2 ^ 64) false ps with
      | (s, some v) => (s, .trap 6 (BitVec.ofNat 64 v))
      | (s, none) => (s.modStrand sid fun t => t.setX 2 { w := a }, .ok)

/-- Pop a frame as RET does (R113): pc, vl and ew from it, x2 past it. -/
def State.popFrame (s : State) (sid : Nat) : State × FrameRes :=
  let t := s.strand sid
  let x2 := t.getX 2
  if x2.p then (s, .trap 8 0) else
  let ag := s.agentOf sid
  match s.check ag .load x2.w.toNat 128 with
  | (s, .trap c v) => (s, .trap c (BitVec.ofNat 64 v))
  | (s, .wait) => (s, .wait)
  | (s, .ok ps) =>
    if s.frameHeld sid ps then (s, .wait) else
    match s.readPieces ag 0 false ps with
    | (s, .err v) => (s, .trap 6 (BitVec.ofNat 64 v))
    | (s, .ok v p) =>
      let ra := v / 2 ^ 64
      if p then (s, .trap 8 0)
      else if ra % 32 ≠ 0 then (s, .trap 4 (BitVec.ofNat 64 ra))
      else
        let ew := field v 20 2
        let vl := min (field v 0 20) (maxVl t.g t.n2 (ewOf ew))
        (s.modStrand sid fun t =>
          { t.setX 2 { w := x2.w + 128#64 } with vl := vl, smbVl := vl, ew := ew, pc := BitVec.ofNat 64 ra, wait := none }, .ok)

/-- A cause as it is raised: code, taddr, and for a convoy its slot, element and whether a memory member stopped partway (R294, R295). -/
structure Cause where
  code : Nat
  addr : Word := 0
  convoy : Bool := false
  slot : Nat := 0
  elem : Option Nat := none
  part : Bool := false
  async : Bool := false
deriving DecidableEq, Repr

/-- tinfo (R295). -/
def Cause.info (c : Cause) : Word :=
  BitVec.ofNat 64 ((if c.convoy then c.slot + 4 else 0) +
    (match c.elem with
     | some e => 8 + 16 * (e % 2 ^ 20)
     | none => 0) + (if c.part then 2 ^ 24 else 0))

/-- tcause (R295). -/
def Cause.word (c : Cause) (toSup : Bool) : Word :=
  BitVec.ofNat 64 (c.code + (if c.async then 2 ^ 8 else 0) + (if toSup then 2 ^ 9 else 0))

/-- The cause goes to the supervisor strand by its own level (R294). -/
def supLevel (code : Nat) : Bool := code == 5 || code == 7 || code == 9 || code == 12 || code == 14 || code == 15

/-- Write the trap state registers and close the window (R298, R300). -/
def State.writeTrap (s : State) (sid : Nat) (a : Word) (c : Cause) (toSup : Bool) : State :=
  s.modStrand sid fun t => { t with tpc := a, tcause := c.word toSup, taddr := c.addr, tinfo := c.info, topen := false }

/-- The accesses of a strand that ownership transfers hold are given up (R308, R335): it executes them again, or never. -/
def State.asksNo (s : State) (sid : Nat) : State :=
  { s with transfers := (s.transfers.map fun t => { t with joined := t.joined.filter (· != sid) }).filter fun t =>
      !(t.failed || t.flipped) || !t.joined.isEmpty }

/-- What a strand issued and leaves behind goes on without it: RRED packets, copies, and an unanswered LAUNCH is dropped (R197, R308). -/
def State.detach (s : State) (sid : Nat) : State :=
  { s with
    packets := s.packets.map fun p => if p.sid = some sid then { p with sid := none } else p
    submits := s.submits.filter fun u => u.fromSid != some sid
    dies := s.dies.map fun d => (d.1, { d.2 with ctxs := d.2.ctxs.map fun c =>
      (c.1, { c.2 with ops := c.2.ops.map fun o => if o.sid = some sid then { o with sid := none } else o }) }) }

/-- A strand that waits on a LAUNCH is stopped (R122, R282): one that has its answer completes first, and one that has none gives its submission
up, and executes again from its start. -/
def State.settleLaunch (s : State) (sid : Nat) : State :=
  match s.submits.find? fun u => u.fromSid == some sid with
  | none => s
  | some u =>
    let s1 : State := { s with submits := s.submits.erase u }
    match u.status, (s.strand sid).waitsOn with
    | some c, some (.launch rd _) =>
      s1.modStrand sid fun t => { t.setX rd { w := BitVec.ofNat 64 c } with pc := t.pc + 64#64, wait := none }
    | _, _ => s1

/-- What broken tags of a strand served is gone. -/
def State.dropBroken (s : State) (sid : Nat) : State := { s with broken := s.broken.filter fun t => t.2.1 != sid }

/-- The teardown of one strand context (R327 steps 1, 2, 4, 6): queues, watermarks, tags, shares, core barrier records. -/
def State.freeContext (s : State) (sid : Nat) : State :=
  let gr := (s.strand sid).grace
  let s := s.detach sid
  let s := (s.dropTags sid).leaveSlots sid []
  let s := s.asksNo sid
  let s := s.modCore (coreOf sid) fun c => { c with cbs := c.cbs.map fun b => { b with recs := Sparse.del b.recs (ctxOf sid) } }
  (s.setStrand sid { grace := gr }).dropBroken sid

/-- Write back every dirty line of a core (R327 step 3; other dirty bits may be written back with a group's). -/
def State.cleanCore (s : State) (k : Nat) : State :=
  ((s.core k).lines.map (·.1)).foldl (fun s l => s.writeBack k l) s

/-- The supervisor strand of a core ends (R333): its context is torn down, its cause recorded for the function that placed it, and the held
strands keep their notices for the next supervisor strand. -/
def State.endSupervisor (s : State) (k : Nat) (cause : Nat) : State :=
  match s.supOf k with
  | none => s
  | some p =>
    let s := (s.cleanCore k).freeContext p
    let fn := (s.core k).supFn
    let s := s.modCore k fun c => { c with supEnd := some (fn, cause) }
    let s : State := { s with supEnds := Sparse.put s.supEnds fn ((k, cause) :: Sparse.get [] s.supEnds fn) }
    (coreSids k).foldl (fun s sid => s.modStrand sid fun t =>
      match t.hold with
      | some h => { t with hold := some { h with pushed := false } }
      | none => t) s

/-- A trap goes to the supervisor strand (R300): the strand is held at its pc; `inner` is nonzero for DOUBLE_TRAP, which leaves the trap state. -/
def State.supTrap (s : State) (sid : Nat) (a : Word) (c : Cause) (inner : Nat) : State :=
  let s := if inner = 0 then s.writeTrap sid a c true else s
  let code := if inner = 0 then c.code else 14
  s.holdStrand sid {
    n0 := BitVec.ofNat 64 (code + inner * 2 ^ 8 + s.noticeId sid + 2 ^ 63)
    n1 := a
    n2 := c.addr }

/-- TAKE A TRAP: cause c of strand sid, raised by the instruction or convoy at a (R298 to R300, R333). The pc of the strand is its resume pc. Link
tags of the strand break (R109) and its wait is over (R122). Where the frame's memory needs an ownership transfer first, or an earlier access keeps it
waiting (R264, R265), the trap has not happened yet, and the answer is false. -/
def State.tryTrap (s : State) (sid : Nat) (a : Word) (c : Cause) : State × Bool :=
  let t := s.strand sid
  let s0 := s
  let s := ((((s.dropTags sid).forgetBroken linkTag sid).quiesce sid).modStrand sid fun t => { t with wait := none, convWait := none, link := none }).asksNo sid
  if t.sup && (supLevel c.code || t.tvec == 0 || !t.topen) then (s.endSupervisor (coreOf sid) c.code, true)
  else if !t.topen then (s.supTrap sid a c c.code, true)
  else if supLevel c.code || t.tvec == 0 then (s.supTrap sid a c 0, true)
  else
    let s1 := (s.writeTrap sid a c false).modStrand sid fun t => { t with stopped := true }
    match s1.pushFrame sid t.pc 0 with
    | (s2, .ok) => (s2.modStrand sid fun t => { t with pc := t.tvec }, true)
    | (s2, .wait) => ({ s0 with transfers := s2.transfers, cores := s2.cores }, false)
    | (s2, .trap code v) =>
      if t.sup then (s2.endSupervisor (coreOf sid) code, true)
      else (s2.supTrap sid a { code := code, addr := v } code, true)

/-- Take a trap, or wait for the memory its frame needs. -/
def State.takeTrap (s : State) (sid : Nat) (a : Word) (c : Cause) : State := (s.tryTrap sid a c).1

/-- A cause whose delivery is asynchronous, with the strand's scalar resume pc as tpc (R294, R295). -/
def State.asyncTrap (s : State) (sid code : Nat) : State := s.takeTrap sid (s.strand sid).pc { code := code, async := true }

/-- The instruction at the pc of the strand whose turn it is raises a cause: nothing of it takes effect, and pc keeps its address (R94). -/
def State.trap (s : State) (code : Nat) (addr : Word := 0) : Res := .next (s.takeTrap s.cur s.me.pc { code := code, addr := addr })

/-- A forced PREEMPT is delivered: the flag clears (R302, R303). -/
def State.takePreempt (s : State) (sid : Nat) : State :=
  let s := (s.settleLaunch sid).modStrand sid fun t => { t with preq := false, heldPre := none }
  s.asyncTrap sid 15

/-- A forced PREEMPT held under R299 is taken once the window reopens (R310). -/
def State.takeHeld (s : State) (sid : Nat) : State :=
  match (s.strand sid).heldPre with
  | some _ => s.takePreempt sid
  | none => s

/-- RETURN FROM A TRAP (R310): the frame popped, the window open, the vector queue free to issue, a held asynchronous cause taken. -/
def State.trapReturn (s : State) (sid : Nat) : State × FrameRes :=
  match s.popFrame sid with
  | (s, .ok) => ((s.modStrand sid fun t => { t with topen := true, stopped := false }).takeHeld sid, .ok)
  | r => r

/-- MIGRATE is taken (R71): the group stops, and the part moves it. -/
def State.takeMigrate (s : State) (sid : Nat) (a : Word) (convoy : Bool) (slot : Nat) (p : Profile) : State :=
  match (s.strand sid).group with
  | none => s
  | some n => s.modGroup n fun g => { g with
      phase := .migrating, migStrand := (s.strand sid).idx + (if ctxOf sid = 8 then 8 else 0), migConvoy := convoy, migSlot := slot,
      migAddr := a, migProf := p.bit, migCycle := s.coreCycle (coreOf sid) }

/-- The end of a profile's check for the scalar instruction of the strand whose turn it is: none where it runs. -/
def State.profile (s : State) (p : Profile) : Option Res :=
  match s.fate s.cur p with
  | .runs => none
  | .illegal => some (s.trap 1)
  | .migrate => some (.next (s.takeMigrate s.cur s.me.pc false 0 p))

/-- What CheckAccess's failure does to the strand whose turn it is: a trap, or nothing yet (the instruction executes again). -/
def State.failed (s : State) : Chk → Res
  | .trap c a => s.trap c (BitVec.ofNat 64 a)
  | _ => .next s

/-- The convoy at vpc of a strand traps (R49, R50, R296): once every earlier convoy has retired it unwinds, and the cause is taken with the scalar pc as resume
pc (R298). -/
def State.convoyTrap (s : State) (sid : Nat) (c : Cause) : State :=
  if !(s.strand sid).past.isEmpty then s else ((s.unwind sid).settleLaunch sid).takeTrap sid (s.strand sid).vpc { c with convoy := true }

/-- Opcode of a member word. -/
def opOf (w : Nat) : Nat := field w 54 10

/-- A member that loads: it counts under WAITC l until its destination is written (R121, R280). -/
def isLoadOp (op : Nat) : Bool := op == 0x300 || op == 0x340 || op == 0x360

/-- A member that writes memory (R34). -/
def isStoreOp (op : Nat) : Bool := op == 0x301 || op == 0x302 || (0x341 ≤ op && op ≤ 0x349) || op == 0x350 || op == 0x2C0 || op == 0x2C1

/-- A member that counts under WAITC m until its convoy retires (R256, R258). -/
def isMatrixOp (op : Nat) : Bool := op == 0x3A0 || op == 0x3A1 || op == 0x3A2

/-- The classes of some member words, as a mask; a merge's accesses are of class c0 (R183). -/
def wordClasses (ws : List Nat) : Nat :=
  ws.foldl (fun m w => match memberOf w with
    | .vm _ f => m ||| 2 ^ f.cls.toNat
    | .g1 _ _ => m ||| 1
    | _ => m) 0

/-- The members of a convoy that have not completed. -/
def Conv.rest (c : Conv) : List Nat := c.words.drop c.slot

/-- The classes of a convoy's members that have not completed (R133). -/
def Conv.classes (c : Conv) : Nat := wordClasses c.rest

/-- The class mask of a convoy's acquires that have not completed (R39, R205). -/
def Conv.acquires (c : Conv) : Nat :=
  if c.rest.any fun w => (match memberOf w with
    | .vm _ f => f.order == 1
    | _ => false) then field c.konst 16 16 else 0

/-- A slot whose parts the convoy check has not found, and which has not completed. -/
def Conv.blind (c : Conv) : Bool := c.late.any fun i => c.slot ≤ i && !(c.probes.any fun p => p.1 == i)

/-- The parts that the members of a convoy have translated and may still access, each with its slot. -/
def Conv.open (c : Conv) : List (Nat × Probe) :=
  let here := Sparse.get [] c.probes c.slot
  let cur := match c.pend with
    | .elems _ es => es
    | .vamo _ left _ _ => here.filter fun p => hasNat left p.id
    | .vwait left _ => here.filter fun p => hasNat left p.id
    | _ => here
  cur.map (fun p => (c.slot, p)) ++ (c.probes.filter fun p => c.slot < p.1).flatMap fun p => p.2.map fun q => (p.1, q)

/-- The pieces share bits. -/
def Piece.meets (a b : Piece) : Bool := a.tr.fa < b.tr.fa + b.len && b.tr.fa < a.tr.fa + a.len

/-- A later access of the strand, of a class and to some pieces, waits for an access of an earlier convoy: one of its class, or with bits in common, an acquire of its
class, or one whose address is not known (R264, R265, R269). -/
def Conv.holdsUp (c : Conv) (cls : Nat) (ps : List Piece) : Bool :=
  !c.complete && (c.isMerge || c.blind || bitAt c.classes cls || bitAt c.acquires cls ||
    c.open.any fun q => q.2.ps.any fun a => ps.any a.meets)

/-- The convoy is the last its block executes: it ends the block (R33). -/
def Conv.final (c : Conv) : Bool := c.hdr.kind == 6

/-- The blocks among some items of a queue. -/
def blocksOf (q : List QItem) : List QBlock :=
  q.filterMap fun i =>
    match i with
    | .block b => some b
    | .dead _ => none

/-- Member words at a of a convoy, as a fetch of them finds them now; none where one cannot be fetched. -/
def State.peekWords (s : State) (ag : Agent) (a : Nat) : Nat → Option (List Nat)
  | 0 => some []
  | n + 1 =>
    match (s.fetchWords ag true (a % 2 ^ 64) 2).2 with
    | .ok w => (State.peekWords s ag (a + 64) n).map (w :: ·)
    | .trap _ _ => none

/-- The members that a block may still run, each with its convoy's constant, read in its code from a on; `lo` is the lowest target of a loop-back convoy met, and the
code from there is read too. None for code that cannot be read, or has no end within the fuel. -/
def State.codeFrom (s : State) (ag : Agent) : Nat → Nat → Nat → List (Nat × Nat) → Nat → Option (List (Nat × Nat))
  | 0, _, _, _, _ => none
  | n + 1, start, lo, l, a =>
    match s.peekWords ag a 1 with
    | some [w] =>
      let h := headerOf (w % 2 ^ 32)
      let k := h.count.toNat + 1
      if !headerOk (w % 2 ^ 32) then none else
      match s.peekWords ag (a + 64) k with
      | none => none
      | some ws =>
        let l := l ++ ws.map fun x => (x, w / 2 ^ 32)
        let lo := if h.kind = 7 then min lo (a - 64 * h.back.toNat) else lo
        if h.kind = 6 then (if lo < start then State.codeFrom s ag n lo lo l lo else some l)
        else State.codeFrom s ag n start lo l (a + 64 + 64 * k)
    | _ => none

/-- Convoys that `codeFrom` reads. -/
def codeFuel : Nat := 4096

/-- The members of a block from address a on. -/
def State.blockCode (s : State) (ag : Agent) (a : Nat) : Option (List (Nat × Nat)) := s.codeFrom ag codeFuel a a [] a

/-- The members of the convoys that a convoy's block may still run after it. -/
def State.codeAfter (s : State) (ag : Agent) (c : Conv) : Option (List (Nat × Nat)) :=
  let a := c.addr.toNat + 64 + 64 * c.words.length
  if c.final then some [] else s.codeFrom ag codeFuel a (if c.hdr.kind = 7 then c.addr.toNat - 64 * c.hdr.back.toNat else a) [] a

/-- The members ahead in the block in progress. -/
def State.blockAhead (s : State) (sid : Nat) : Option (List (Nat × Nat)) :=
  let t := s.strand sid
  let ag := s.agentOf sid
  match t.blk, t.conv with
  | none, _ => some []
  | some _, none => s.blockCode ag t.vpc.toNat
  | some _, some c => s.codeAfter ag c

/-- The classes of some code; code that is not known counts for every class (DEDUCED, entry 10). -/
def codeClasses (l : Option (List (Nat × Nat))) : Nat :=
  match l with
  | some l => wordClasses (l.map (·.1))
  | none => allClasses

/-- The classes of the convoys of a strand that have not begun: those of its blocks that are queued, and those ahead in the block in progress. -/
def State.classesAhead (s : State) (sid : Nat) : Nat :=
  (blocksOf (s.strand sid).queue).foldl (fun m b => m ||| codeClasses (s.blockCode (s.agentOf sid) b.addr.toNat)) (codeClasses (s.blockAhead sid))

/-- Every load and store of the strand's queued blocks in a class of the mask has been performed (R133). A stopped queue's convoys that have not begun have
joined no class, and are left out (R133, R298; DEDUCED, entry 10). -/
def State.vecClasses (s : State) (sid mask : Nat) : Bool :=
  let t := s.strand sid
  (t.convs.all fun c => (c.classes &&& mask) == 0) && (t.stopped || t.vecIdle || (s.classesAhead sid &&& mask) == 0)

/-- Every earlier access of the strand in a class of the mask has been performed: those of its blocks, its RRED updates, and for the matrix control strand the
loads and stores of its matrix operations (R133, R203, R264, R268, R269). -/
def State.classesDone (s : State) (sid mask : Nat) : Bool :=
  s.vecClasses sid mask && !s.classPending sid mask

/-- Every block that the strand queued has retired, and no RRED packet of it is in flight (R64, R272). -/
def State.vectorDone (s : State) (sid : Nat) : Bool := (s.strand sid).vecIdle && !(s.packets.any fun p => p.sid == some sid)

/-- Every earlier access of the strand has been performed. -/
def State.accessesDone (s : State) (sid : Nat) : Bool := s.classesDone sid allClasses

/-- A release of these classes at a scope by the strand whose turn it is (R269), once its earlier accesses are performed. -/
def State.release (s : State) (mask scope : Nat) : State := s.relCache s.myCore mask scope

/-- An acquire of these classes at a scope by the strand whose turn it is (R269). -/
def State.acquire (s : State) (mask scope : Nat) : State := s.acqCache s.myCore mask scope

end Sys2Proof.Machine
end

