-- ==== Sys2Proof/Machine/Operands.lean ====
section
/-!
DEFINITION. The operand forms of scalar instructions: immediates, effective addresses, branch and transfer targets (R27, R28, R94), and the
operands of SMB (R119).
-/

namespace Sys2Proof.Machine

/-- The signed shift-left-15 immediate of lui and apc (R98). -/
def uimm (imm : BitVec 20) : Word := (imm ++ 0#15).signExtend 64

/-- A signed offset in 32-bit words, in bits (R27). -/
def wordOff {n : Nat} (off : BitVec n) : Word := sext off * 32#64

/-- A signed offset in 64-bit words, in bits (R275). -/
def dwordOff {n : Nat} (off : BitVec n) : Word := sext off * 64#64

/-- Effective address of an M-format access (R104). -/
def State.ea (s : State) {n : Nat} (base : Reg) (off : BitVec n) : Word := s.rx base + sext off

/-- Width of an access from its width − 1 field. -/
def widthOf {n : Nat} (w1 : BitVec n) : Nat := w1.toNat + 1

/-- A transfer target is a multiple of 32 (R27). -/
def aligned32 (a : Word) : Bool := a.toNat % 32 == 0

/-- The sign- or zero-extended value of a load (R104). -/
def extendLoad (signed : Bool) (w v : Nat) : Word :=
  if signed then BitVec.ofInt 64 (sextNat w v) else BitVec.ofNat 64 v

/-- The strides of a long SMB, one for each address register (R119). -/
def smbStrides (n1 : BitVec 2) (strides : BitVec 24) : List Nat := (List.range (n1.toNat + 1)).map fun i => field strides.toNat (6 * i) 6 + 1

end Sys2Proof.Machine
end

