-- ==== Sys2Proof/Machine/ScalarAlu.lean ====
section
/-!
DEFINITION. Scalar arithmetic, shifts, compares, counts and bit fields (R94 to R103). A result is poisoned when a source is (R95).
-/

namespace Sys2Proof.Machine

/-- A condition as a word. -/
def flag (b : Bool) : Word := if b then 1 else 0

/-- An operation of two registers of 32 bits' length (R94, R95). -/
def State.alu2 (s : State) (rd rs1 rs2 : Reg) (f : Word → Word → Word) : Res :=
  .next ((s.wx rd (f (s.rx rs1) (s.rx rs2)) (s.px rs1 || s.px rs2)).adv 32)

/-- An operation of one register (R94, R95). -/
def State.alu1 (s : State) (rd rs1 : Reg) (f : Word → Word) : Res := .next ((s.wx rd (f (s.rx rs1)) (s.px rs1)).adv 32)

/-- Signed division toward zero (R100). −2^63 ÷ −1 wraps to −2^63. -/
def divS (a b : Word) : Word := if b = 0 then BitVec.allOnes 64 else BitVec.ofInt 64 (a.toInt.tdiv b.toInt)

/-- Unsigned division (R100). -/
def divU (a b : Word) : Word := if b = 0 then BitVec.allOnes 64 else BitVec.ofNat 64 (a.toNat / b.toNat)

/-- Zeros above the highest set bit of 64 (R102). -/
def clz64 (a : Word) : Word := BitVec.ofNat 64 (if a = 0 then 64 else 63 - Nat.log2 a.toNat)

/-- Zeros below the lowest set bit of 64 (R102). -/
def ctz64 (a : Word) : Word := BitVec.ofNat 64 (((List.range 64).find? fun i => bitAt a.toNat i).getD 64)

/-- x[rd] = a + b (R96). -/
def execAdd (rd rs1 rs2 : Reg) (s : State) : Res := s.alu2 rd rs1 rs2 fun a b => a + b

/-- x[rd] = a − b (R96). -/
def execSub (rd rs1 rs2 : Reg) (s : State) : Res := s.alu2 rd rs1 rs2 fun a b => a - b

/-- x[rd] = a AND b (R96). -/
def execAnd (rd rs1 rs2 : Reg) (s : State) : Res := s.alu2 rd rs1 rs2 fun a b => a &&& b

/-- x[rd] = a OR b (R96). -/
def execOr (rd rs1 rs2 : Reg) (s : State) : Res := s.alu2 rd rs1 rs2 fun a b => a ||| b

/-- x[rd] = a XOR b (R96). -/
def execXor (rd rs1 rs2 : Reg) (s : State) : Res := s.alu2 rd rs1 rs2 fun a b => a ^^^ b

/-- x[rd] = a << (b mod 64) (R96). -/
def execSll (rd rs1 rs2 : Reg) (s : State) : Res := s.alu2 rd rs1 rs2 fun a b => a <<< (b.toNat % 64)

/-- x[rd] = a >> (b mod 64), zeros in (R96). -/
def execSrl (rd rs1 rs2 : Reg) (s : State) : Res := s.alu2 rd rs1 rs2 fun a b => a >>> (b.toNat % 64)

/-- x[rd] = a >> (b mod 64), bit 63 in (R96). -/
def execSra (rd rs1 rs2 : Reg) (s : State) : Res := s.alu2 rd rs1 rs2 fun a b => a.sshiftRight (b.toNat % 64)

/-- x[rd] = 1 where signed a < b (R96). -/
def execSlt (rd rs1 rs2 : Reg) (s : State) : Res := s.alu2 rd rs1 rs2 fun a b => flag (a.slt b)

/-- x[rd] = 1 where unsigned a < b (R96). -/
def execSltu (rd rs1 rs2 : Reg) (s : State) : Res := s.alu2 rd rs1 rs2 fun a b => flag (a.ult b)

/-- x[rd] = a + i (R97). -/
def execAddi (rd rs1 : Reg) (imm : BitVec 15) (s : State) : Res := s.alu1 rd rs1 fun a => a + sext imm

/-- x[rd] = a AND i (R97). -/
def execAndi (rd rs1 : Reg) (imm : BitVec 15) (s : State) : Res := s.alu1 rd rs1 fun a => a &&& sext imm

/-- x[rd] = a OR i (R97). -/
def execOri (rd rs1 : Reg) (imm : BitVec 15) (s : State) : Res := s.alu1 rd rs1 fun a => a ||| sext imm

/-- x[rd] = a XOR i (R97). -/
def execXori (rd rs1 : Reg) (imm : BitVec 15) (s : State) : Res := s.alu1 rd rs1 fun a => a ^^^ sext imm

/-- x[rd] = 1 where signed a < i (R97). -/
def execSlti (rd rs1 : Reg) (imm : BitVec 15) (s : State) : Res := s.alu1 rd rs1 fun a => flag (a.slt (sext imm))

/-- x[rd] = 1 where unsigned a < i (R97). -/
def execSltiu (rd rs1 : Reg) (imm : BitVec 15) (s : State) : Res := s.alu1 rd rs1 fun a => flag (a.ult (sext imm))

/-- x[rd] = a << n (R97). -/
def execSlli (rd rs1 : Reg) (sh : BitVec 6) (s : State) : Res := s.alu1 rd rs1 fun a => a <<< sh.toNat

/-- x[rd] = a >> n, zeros in (R97). -/
def execSrli (rd rs1 : Reg) (sh : BitVec 6) (s : State) : Res := s.alu1 rd rs1 fun a => a >>> sh.toNat

/-- x[rd] = a >> n, bit 63 in (R97). -/
def execSrai (rd rs1 : Reg) (sh : BitVec 6) (s : State) : Res := s.alu1 rd rs1 fun a => a.sshiftRight sh.toNat

/-- x[rd] = sext(imm << 15) (R98). -/
def execLui (rd : Reg) (imm : BitVec 20) (s : State) : Res := .next ((s.wx rd (uimm imm)).adv 32)

/-- x[rd] = pc + sext(imm << 15), pc its own address (R98). -/
def execApc (rd : Reg) (imm : BitVec 20) (s : State) : Res := .next ((s.wx rd (s.me.pc + uimm imm)).adv 32)

/-- x[rd] = sext(imm), a long form (R99). -/
def execLi (rd : Reg) (imm : BitVec 43) (s : State) : Res := .next ((s.wx rd (sext imm)).adv 64)

/-- x[rd] = x[rs1] + sext(imm), a long form (R99). -/
def execAddiL (rd rs1 : Reg) (imm : BitVec 38) (s : State) : Res := .next ((s.wx rd (s.rx rs1 + sext imm) (s.px rs1)).adv 64)

/-- x[rd] = low 64 bits of a × b (R100). -/
def execMul (rd rs1 rs2 : Reg) (s : State) : Res := s.alu2 rd rs1 rs2 fun a b => a * b

/-- x[rd] = bits 127:64 of signed a × signed b (R100). -/
def execMulh (rd rs1 rs2 : Reg) (s : State) : Res := s.alu2 rd rs1 rs2 fun a b => BitVec.ofInt 64 (a.toInt * b.toInt / 2 ^ 64)

/-- x[rd] = bits 127:64 of unsigned a × unsigned b (R100). -/
def execMulhu (rd rs1 rs2 : Reg) (s : State) : Res := s.alu2 rd rs1 rs2 fun a b => BitVec.ofNat 64 (a.toNat * b.toNat / 2 ^ 64)

/-- x[rd] = signed a ÷ b toward zero; all ones for b = 0; −2^63 ÷ −1 gives −2^63 (R100). -/
def execDiv (rd rs1 rs2 : Reg) (s : State) : Res := s.alu2 rd rs1 rs2 fun a b => divS a b

/-- x[rd] = unsigned a ÷ b; all ones for b = 0 (R100). -/
def execDivu (rd rs1 rs2 : Reg) (s : State) : Res := s.alu2 rd rs1 rs2 fun a b => divU a b

/-- x[rd] = a − b × div(a, b); a for b = 0 (R100). -/
def execRem (rd rs1 rs2 : Reg) (s : State) : Res := s.alu2 rd rs1 rs2 fun a b => a - b * divS a b

/-- x[rd] = a − b × divu(a, b); a for b = 0 (R100). -/
def execRemu (rd rs1 rs2 : Reg) (s : State) : Res := s.alu2 rd rs1 rs2 fun a b => a - b * divU a b

/-- x[rd] = 1 where a = b (R101). -/
def execSeq (rd rs1 rs2 : Reg) (s : State) : Res := s.alu2 rd rs1 rs2 fun a b => flag (a == b)

/-- x[rd] = 1 where a ≠ b (R101). -/
def execSne (rd rs1 rs2 : Reg) (s : State) : Res := s.alu2 rd rs1 rs2 fun a b => flag (a != b)

/-- x[rd] = 1 where signed a ≥ b (R101). -/
def execSge (rd rs1 rs2 : Reg) (s : State) : Res := s.alu2 rd rs1 rs2 fun a b => flag (b.sle a)

/-- x[rd] = 1 where unsigned a ≥ b (R101). -/
def execSgeu (rd rs1 rs2 : Reg) (s : State) : Res := s.alu2 rd rs1 rs2 fun a b => flag (b.ule a)

/-- the signed smaller (R101). -/
def execMin (rd rs1 rs2 : Reg) (s : State) : Res := s.alu2 rd rs1 rs2 fun a b => if a.slt b then a else b

/-- the signed larger (R101). -/
def execMax (rd rs1 rs2 : Reg) (s : State) : Res := s.alu2 rd rs1 rs2 fun a b => if a.slt b then b else a

/-- the unsigned smaller (R101). -/
def execMinu (rd rs1 rs2 : Reg) (s : State) : Res := s.alu2 rd rs1 rs2 fun a b => if a.ult b then a else b

/-- the unsigned larger (R101). -/
def execMaxu (rd rs1 rs2 : Reg) (s : State) : Res := s.alu2 rd rs1 rs2 fun a b => if a.ult b then b else a

/-- leading zeros of a, 64 for 0 (R102). -/
def execClz (rd rs1 : Reg) (s : State) : Res := s.alu1 rd rs1 fun a => clz64 a

/-- trailing zeros of a, 64 for 0 (R102). -/
def execCtz (rd rs1 : Reg) (s : State) : Res := s.alu1 rd rs1 fun a => ctz64 a

/-- set bits of a (R102). -/
def execCpop (rd rs1 : Reg) (s : State) : Res := s.alu1 rd rs1 fun a => BitVec.ofNat 64 (popcount a.toNat 64)

/-- bits pos+len−1:pos of a, zero-extended (R103). -/
def execBfx (rd rs1 : Reg) (pos len1 : BitVec 6) (s : State) : Res := s.alu1 rd rs1 fun a => BitVec.ofNat 64 (field a.toNat pos.toNat (len1.toNat + 1))

/-- bits pos+len−1:pos of a, sign-extended (R103). -/
def execBfxs (rd rs1 : Reg) (pos len1 : BitVec 6) (s : State) : Res := s.alu1 rd rs1 fun a => BitVec.ofInt 64 (sextNat (len1.toNat + 1) (field a.toNat pos.toNat (len1.toNat + 1)))

/-- x[rd] with bits pos+len−1:pos replaced by the low bits of a; x[rd] is a source (R103). -/
def execBfd (rd rs1 : Reg) (pos len1 : BitVec 6) (s : State) : Res := s.alu2 rd rd rs1 fun t a => BitVec.ofNat 64 (putField t.toNat pos.toNat (len1.toNat + 1) a.toNat)

end Sys2Proof.Machine
end

