-- ==== Sys2Proof/Machine/ScalarMem.lean ====
section
/-!
DEFINITION. Scalar loads and stores, their ordered forms, load-link and store-conditional (R104 to R109, R269). A scalar access is held until the
strand's earlier blocks have retired (a choice R265 leaves to the part; entry 10); in a handler, whose queue is stopped, until the convoy that runs on has.
-/

namespace Sys2Proof.Machine

/-- The ordering part of an access: its class, order (0 none, 1 acquire, 2 release), scope and class mask (R106). -/
structure Order where
  cls : Nat := 0
  order : Nat := 0
  scope : Nat := 0
  mask : Nat := 0
deriving DecidableEq, Repr

/-- The ordering fields of an ordered long form (R106). -/
def orderOf (o : OrdForm) : Order := { cls := o.cls.toNat, order := o.order.toNat, scope := o.scope.toNat, mask := o.mask.toNat }

/-- The acquire of an access, once it is performed (R269). -/
def State.acqOf (s : State) (o : Order) : State := if o.order = 1 then s.acquire o.mask o.scope else s

/-- A scalar access cannot be performed yet: earlier blocks have not retired, a convoy that runs to its retirement goes on, a RRED update or a matrix operation of
its class is not performed, or a release waits (R264, R265, R269). -/
def State.heldBack (s : State) (o : Order) : Bool :=
  !s.me.vecDone || s.me.storing || s.classPending s.cur (2 ^ o.cls) || (o.order == 2 && !s.classesDone s.cur o.mask)

/-- The element crosses a line (R105 ALIGN of ll and sc, R195), by its virtual address: the test comes before translation (DEDUCED, entry 25). An element that lies
in one virtual line and two physical ones, of a host or CXL range whose target is no multiple of 512, has a tag on both. -/
def crossesLine (a w : Nat) : Bool := a % 512 + w > 512

/-- A scalar load of w bits at a into rd (R104). -/
def State.load (s : State) (len : Nat) (signed : Bool) (rd base : Reg) (a : Word) (w : Nat) (o : Order) : Res :=
  if s.px base then s.trap 8
  else if s.heldBack o then .next s
  else
    match s.check s.myAgent .load a.toNat w with
    | (s, .ok ps) =>
      if s.bitsPending s.cur ps then .next s else
      (match s.readPieces s.myAgent o.cls false ps with
       | (s, .err v) => s.trap 6 (BitVec.ofNat 64 v)
       | (s, .ok v p) => .next (((s.acqOf o).wx rd (extendLoad signed w v) p).adv len))
    | (s, c) => s.failed c

/-- A scalar store of the low w bits of r at a (R104). A release first writes back, and its own bits reach the home (R267, R269). -/
def State.store (s : State) (len : Nat) (r base : Reg) (a : Word) (w : Nat) (o : Order) : Res :=
  if s.px base then s.trap 8
  else if s.heldBack o then .next s
  else
    match s.check s.myAgent .store a.toNat w with
    | (s, .ok ps) =>
      if s.bitsPending s.cur ps then .next s else
      let s := if o.order = 2 then s.release o.mask o.scope else s
      (match s.writePieces s.myAgent (some s.cur) o.cls false (s.rx r).toNat (s.px r) ps with
       | (s, some v) => s.trap 6 (BitVec.ofNat 64 v)
       | (s, none) =>
         let s := if o.order = 2 && 2 ≤ o.scope then
             ps.foldl (fun s p => (linesOf p.tr.fa p.len).foldl (fun s l => s.writeBack s.myCore l) s) s else s
         .next (s.adv len))
    | (s, c) => s.failed c

/-- ll (R107): a load at the home that sets the strand's link and places its tag. The tag of a link before it stays on its line, and counts among the eight of R214
(DESIGN CHOICE, entry 25). -/
def State.loadLink (s : State) (len : Nat) (rd base : Reg) (a : Word) (w : Nat) (o : Order) : Res :=
  if s.px base then s.trap 8
  else if crossesLine a.toNat w then s.trap 4 a
  else if s.heldBack o then .next s
  else
    match s.check s.myAgent .rmw a.toNat w with
    | (s, .ok ps) =>
      if s.bitsPending s.cur ps then .next s else
      (match s.readPieces s.myAgent o.cls true ps with
       | (s, .err v) => s.trap 6 (BitVec.ofNat 64 v)
       | (s, .ok v p) =>
         let s := (pieceLines ps).foldl (fun s l => s.placeTag linkTag l s.cur) (s.forgetBroken linkTag s.cur)
         let s := s.setMe { s.me with link := some (a.toNat, w) }
         .next (((s.acqOf o).wx rd (BitVec.ofNat 64 v) p).adv len))
    | (s, c) => s.failed c

/-- sc (R108): succeeds only with a matching link whose tag is in place; either way the link clears. -/
def State.storeCond (s : State) (len : Nat) (rd rs2 base : Reg) (w : Nat) (o : Order) : Res :=
  let a := s.rx base
  if s.px base then s.trap 8
  else if crossesLine a.toNat w then s.trap 4 a
  else if s.heldBack o then .next s
  else
    match s.check s.myAgent .rmw a.toNat w with
    | (s, .ok ps) =>
      if s.bitsPending s.cur ps then .next s else
      let s := if o.order = 2 then s.release o.mask o.scope else s
      let s := (pieceLines ps).foldl (fun s l => s.evict s.myCore l) s
      if s.me.link = some (a.toNat, w) && (pieceLines ps).all (fun l => s.tagged linkTag l s.cur) then
        let r := s.writePieces s.myAgent (some s.cur) o.cls true (s.rx rs2).toNat (s.px rs2) ps
        .next ((((r.1.setMe { r.1.me with link := none }).forgetBroken linkTag s.cur).wx rd 0).adv len)
      else .next ((((s.setMe { s.me with link := none }).forgetBroken linkTag s.cur).wx rd 1).adv len)
    | (s, c) => s.failed c

/-- ld.zN (R104). -/
def execLdZ (r base : Reg) (w1 : BitVec 6) (off : BitVec 9) (s : State) : Res := s.load 32 false r base (s.ea base off) (widthOf w1) {}

/-- ld.sN (R104). -/
def execLdS (r base : Reg) (w1 : BitVec 6) (off : BitVec 9) (s : State) : Res := s.load 32 true r base (s.ea base off) (widthOf w1) {}

/-- st.zN and st.sN (R104). -/
def execSt (r base : Reg) (w1 : BitVec 6) (off : BitVec 9) (s : State) : Res := s.store 32 r base (s.ea base off) (widthOf w1) {}

/-- ll.zN (R107). -/
def execLl (r base : Reg) (w1 : BitVec 6) (off : BitVec 9) (s : State) : Res := s.loadLink 32 r base (s.ea base off) (widthOf w1) {}

/-- sc.zN (R108). -/
def execSc (rd base rs2 : Reg) (w1 : BitVec 6) (s : State) : Res := s.storeCond 32 rd rs2 base (widthOf w1) {}

/-- The ordered long form of ld.z (R106). -/
def execLdZOrdered (o : OrdForm) (s : State) : Res := s.load 64 false o.r o.base (s.ea o.base o.tail) (widthOf o.w1) (orderOf o)

/-- The ordered long form of ld.s (R106). -/
def execLdSOrdered (o : OrdForm) (s : State) : Res := s.load 64 true o.r o.base (s.ea o.base o.tail) (widthOf o.w1) (orderOf o)

/-- The ordered long form of st (R106). -/
def execStOrdered (o : OrdForm) (s : State) : Res := s.store 64 o.r o.base (s.ea o.base o.tail) (widthOf o.w1) (orderOf o)

/-- The ordered long form of ll (R106, R107). -/
def execLlOrdered (o : OrdForm) (s : State) : Res := s.loadLink 64 o.r o.base (s.ea o.base o.tail) (widthOf o.w1) (orderOf o)

/-- The ordered long form of sc (R106, R108); its data register is in bits 6:2 of W1. -/
def execScOrdered (o : OrdForm) (s : State) : Res :=
  s.storeCond 64 o.r (BitVec.ofNat 5 (o.tail.toNat / 4)) o.base (widthOf o.w1) (orderOf o)

end Sys2Proof.Machine
end

