-- ==== Sys2Proof/Machine/Control.lean ====
section
/-!
DEFINITION. Branches, jumps, calls and returns (R27, R110 to R113), and CSR access (R43, R44, R114).
-/

namespace Sys2Proof.Machine

/-- A conditional branch (R110): a poisoned comparand raises POISON_CONTROL (R95). -/
def State.branch (s : State) (rs1 rs2 : Reg) (off : BitVec 15) (c : Word → Word → Bool) : Res :=
  if s.px rs1 || s.px rs2 then s.trap 8
  else if c (s.rx rs1) (s.rx rs2) then .next (s.goto (s.me.pc + wordOff off))
  else .next (s.adv 32)

/-- beq (R110). -/
def execBeq (rs1 rs2 : Reg) (off : BitVec 15) (s : State) : Res := s.branch rs1 rs2 off fun a b => a == b
/-- bne (R110). -/
def execBne (rs1 rs2 : Reg) (off : BitVec 15) (s : State) : Res := s.branch rs1 rs2 off fun a b => a != b
/-- blt (R110). -/
def execBlt (rs1 rs2 : Reg) (off : BitVec 15) (s : State) : Res := s.branch rs1 rs2 off fun a b => a.slt b
/-- bge (R110). -/
def execBge (rs1 rs2 : Reg) (off : BitVec 15) (s : State) : Res := s.branch rs1 rs2 off fun a b => b.sle a
/-- bltu (R110). -/
def execBltu (rs1 rs2 : Reg) (off : BitVec 15) (s : State) : Res := s.branch rs1 rs2 off fun a b => a.ult b
/-- bgeu (R110). -/
def execBgeu (rs1 rs2 : Reg) (off : BitVec 15) (s : State) : Res := s.branch rs1 rs2 off fun a b => b.ule a

/-- j (R111). -/
def execJ (off : BitVec 25) (s : State) : Res := .next (s.goto (s.me.pc + wordOff off))

/-- jr (R111): a poisoned target raises POISON_CONTROL, a target that is not a multiple of 32 ALIGN (R27). -/
def execJr (rs1 : Reg) (imm : BitVec 15) (s : State) : Res :=
  let a := s.rx rs1 + sext imm
  if s.px rs1 then s.trap 8 else if aligned32 a then .next (s.goto a) else s.trap 4 a

/-- The frame at a cannot be accessed yet, by what R264 and R265 order before it (class c0). -/
def State.frameWaits (s : State) (want : Want) (a : Word) : Bool :=
  s.heldBack {} ||
    (match (s.check s.myAgent want a.toNat 128).2 with
     | .ok ps => s.bitsPending s.cur ps
     | _ => false)

/-- Push the frame of a call and transfer (R112). -/
def State.doCall (s : State) (target : Word) (k : Nat) : Res :=
  if s.frameWaits .store (s.rx 2 - 128#64) then .next s
  else
    match s.pushFrame s.cur (s.me.pc + 32#64) k with
    | (s, .ok) => .next (s.goto target)
    | (s, .wait) => .next s
    | (s, .trap c a) => s.trap c a

/-- call (R112). -/
def execCall (off : BitVec 25) (s : State) : Res := s.doCall (s.me.pc + wordOff off) 0

/-- callr (R112): the target is checked before anything is pushed, so its ALIGN comes before the causes of x2 and of the frame (DESIGN CHOICE, entry 39: R112 gives
the check no place). -/
def execCallr (k : BitVec 3) (rs1 : Reg) (imm : BitVec 15) (s : State) : Res :=
  let a := s.rx rs1 + sext imm
  if s.px rs1 then s.trap 8 else if aligned32 a then s.doCall a k.toNat else s.trap 4 a

/-- ret (R113). -/
def execRet (s : State) : Res :=
  if s.frameWaits .load (s.rx 2) then .next s
  else
    match s.popFrame s.cur with
    | (s, .ok) => .next s
    | (s, .wait) => .next s
    | (s, .trap c a) => s.trap c a

/-- What a level may do with a CSR (R43): 0 nothing, 1 read, 2 read and write; none for a number not listed. -/
def csrAccess (n : Nat) (sup : Bool) : Option Nat :=
  if n ≤ 0x001 then some 1
  else if n = 0x002 then some 2
  else if n ≤ 0x006 then some (if sup then 2 else 1)
  else if n = 0x007 then some 2
  else if n < 0x010 then none
  else if n ≤ 0x013 then some 2
  else if n = 0x014 then some 1
  else if n = 0x015 then some 2
  else if n = 0x016 then some (if sup then 2 else 0)
  else if n = 0x017 then some (if sup then 2 else 1)
  else if 0x020 ≤ n && n ≤ 0x024 then some 1
  else if n = 0x030 then some 1
  else if (0x040 ≤ n && n ≤ 0x044) || (0x048 ≤ n && n ≤ 0x04F) then some (if sup then 2 else 0)
  else if 0x060 ≤ n && n ≤ 0x063 then some 1
  else none

/-- A CSR whose access waits until the strand's earlier blocks have retired (R44); fcsr too, whose flags join at retirement (R138). -/
def csrWaits (n : Nat) : Bool := n == 2 || n == 3 || n == 4 || n == 7 || (0x040 ≤ n && n ≤ 0x04F)

/-- vtype (R43). -/
def Strand.vtype (t : Strand) : Nat := t.ew + t.n2 * 2 ^ 2 + t.g * 2 ^ 5

/-- coreid (R43). -/
def State.coreId (s : State) (k : Nat) : Nat := k % 64 + dieOf k * 2 ^ 6 + s.pkg * 2 ^ 10

/-- The strand with its vector state as the last retired convoy left it (R298). -/
def Strand.lastRetired (t : Strand) : Strand :=
  match t.past with
  | p :: _ => { t with vpc := p.conv.addr, b := p.b, lc := p.lc, vdirty := p.vdirty, vstate := p.vstate, estart := p.estart }
  | [] => t

/-- The value of CSR n of strand sid, with its poison (b registers alone carry poison). A number not listed reads 0 here. -/
def State.csrGet (s : State) (sid n : Nat) : PWord :=
  let t := (s.strand sid).lastRetired
  let k := coreOf sid
  let nat := fun (v : Nat) => ({ w := BitVec.ofNat 64 v } : PWord)
  if n = 0x000 then nat t.vl
  else if n = 0x001 then nat t.vtype
  else if n = 0x002 then nat t.estart
  else if n = 0x003 then { w := t.vdirty }
  else if n = 0x004 then nat t.vstate
  else if n = 0x005 then nat t.lpart
  else if n = 0x006 then nat t.share
  else if n = 0x007 then { w := t.fcsr }
  else if n = 0x010 then { w := t.tpc }
  else if n = 0x011 then { w := t.tcause }
  else if n = 0x012 then { w := t.taddr }
  else if n = 0x013 then { w := t.tinfo }
  else if n = 0x014 then nat (if t.topen then 1 else 0)
  else if n = 0x015 then { w := t.tvec }
  else if n = 0x016 then nat (t.grace + if t.preq then 2 ^ 63 else 0)
  else if n = 0x017 then (match s.groupOf sid with
    | some g => { w := g.wdwin }
    | none => {})
  else if n = 0x020 then { w := (s.die (dieOf k)).capVa }
  else if n = 0x021 then { w := BitVec.ofNat 64 (s.coreCycle k) + t.rebase }
  else if n = 0x022 then nat (s.coreId k)
  else if n = 0x023 then nat (s.gidOf sid)
  else if n = 0x024 then nat (if ctxOf sid = 8 then 8 else t.idx)
  else if n = 0x030 then nat (if isLoam k then (s.core k).mx.mcfg else 0)
  else if n = 0x040 then { w := t.vpc }
  else if 0x041 ≤ n && n ≤ 0x044 then { w := t.lc.toList.getD (n - 0x041) 0 }
  else if 0x048 ≤ n && n ≤ 0x04F then t.b.toList.getD (n - 0x048) {}
  else if 0x060 ≤ n && n ≤ 0x063 then
    let m := t.wm.toList.getD (n - 0x060) {}
    nat (field m.w1.toNat 56 8 * 2 ^ 56 + field m.obs.toNat 0 56)
  else {}

/-- The value is within the CSR's legal range (R43, R44, R295, R302): 1 to 255 for share, five rm codes for fcsr, and so on. -/
def csrLegal (n : Nat) (v : Word) : Bool :=
  let x := v.toNat
  if n = 0x004 then x ≤ 2
  else if n = 0x005 then x ≤ 32
  else if n = 0x006 then 1 ≤ x && x ≤ 255
  else if n = 0x007 then x < 2 ^ 13 && field x 3 5 == 0 && field x 0 3 ≤ 4
  else if n = 0x011 then x < 2 ^ 10
  else if n = 0x013 then x < 2 ^ 25
  else if n = 0x015 then x % 32 == 0
  else if n = 0x016 then field x 32 31 == 0
  else true

/-- Write preempt (R302): the grace window, and the request flag. A write that sets the flag starts its time anew, a request pending before it
or not (R323); one that clears it withdraws the request, held or not (DEDUCED, entry 46). -/
def State.setPreempt (s : State) (sid : Nat) (v : Word) : State :=
  s.modStrand sid fun t =>
    { t with grace := field v.toNat 0 32, preq := bitAt v.toNat 63, heldPre := none,
             reqAt := if bitAt v.toNat 63 then s.coreCycle (coreOf sid) else t.reqAt }

/-- Write wdwin (R307): one value for the group, whose new window starts in state ARMED; 0 turns the watchdog off. -/
def State.setWdwin (s : State) (sid : Nat) (v : Word) : State :=
  match (s.strand sid).group with
  | none => s
  | some n => s.modGroup n fun g =>
      { g with wdwin := v, wd := if v = 0 then .off else .armed, progress := false, wdStart := s.coreCycle (coreOf sid), wdBase := 0 }

/-- A written CSR in what the last retired convoy left, as a stopped queue's reads find it (R298). -/
def Past.setCsr (q : Past) (n : Nat) (v : Word) (p : Bool) : Past :=
  if n = 0x002 then { q with estart := v.toNat }
  else if n = 0x003 then { q with vdirty := v }
  else if n = 0x004 then { q with vstate := v.toNat }
  else if n = 0x040 then { q with conv := { q.conv with addr := v } }
  else if h : 0x041 ≤ n ∧ n ≤ 0x044 then { q with lc := q.lc.set (n - 0x041) v (by omega) }
  else if h : 0x048 ≤ n ∧ n ≤ 0x04F then { q with b := q.b.set (n - 0x048) { w := v, p := p } (by omega) }
  else q

/-- Write a CSR of strand sid, legal and writable as the caller has checked. -/
def State.csrSet (s : State) (sid n : Nat) (v : Word) (p : Bool) : State :=
  let x := v.toNat
  if n = 0x016 then s.setPreempt sid v
  else if n = 0x017 then s.setWdwin sid v
  else s.modStrand sid fun t =>
    let t := { t with past := t.past.modifyHead fun q => q.setCsr n v p }
    if n = 0x002 then { t with estart := x }
    else if n = 0x003 then { t with vdirty := v }
    else if n = 0x004 then { t with vstate := x }
    else if n = 0x005 then { t with lpart := x }
    else if n = 0x006 then { t with share := x }
    else if n = 0x007 then { t with fcsr := v }
    else if n = 0x010 then { t with tpc := v }
    else if n = 0x011 then { t with tcause := v }
    else if n = 0x012 then { t with taddr := v }
    else if n = 0x013 then { t with tinfo := v }
    else if n = 0x015 then { t with tvec := v }
    else if n = 0x040 then { t with vpc := v }
    else if h : 0x041 ≤ n ∧ n ≤ 0x044 then { t with lc := t.lc.set (n - 0x041) v (by omega) }
    else if h : 0x048 ≤ n ∧ n ≤ 0x04F then { t with b := t.b.set (n - 0x048) { w := v, p := p } (by omega) }
    else t

/-- Read a CSR of the strand whose turn it is into rd, and with `new` write it (R114). A vpc that is not a multiple of 64 raises ALIGN (R31). A
b register is written unpoisoned, bits that CSRMW keeps of a poisoned value included (DESIGN CHOICE, entry 39). -/
def State.csrOp (s : State) (rd : Reg) (csr : BitVec 12) (new : Option (Word → Word)) (poisoned : Bool) : Res :=
  let n := csr.toNat
  match csrAccess n s.me.sup with
  | none => s.trap 1
  | some lv =>
    if lv = 0 || (new.isSome && lv < 2) then s.trap 1
    else if poisoned then s.trap 8
    else if csrWaits n && !s.me.vecDone then .next s
    else
      let old := s.csrGet s.cur n
      match new with
      | none => .next ((s.wx rd old.w old.p).adv 32)
      | some f =>
        let v := f old.w
        if !csrLegal n v then s.trap 1
        else if n = 0x040 && v.toNat % 64 != 0 then s.trap 4 v
        else .next (((s.csrSet s.cur n v false).wx rd old.w old.p).adv 32)

/-- csrrd (R114). -/
def execCsrrd (rd : Reg) (csr : BitVec 12) (s : State) : Res := s.csrOp rd csr none false

/-- csrwr (R114). -/
def execCsrwr (rd rs1 : Reg) (csr : BitVec 12) (s : State) : Res := s.csrOp rd csr (some fun _ => s.rx rs1) (s.px rs1)

/-- csrmw (R114): a masked write; x[rd] is the data and x[rs1] the mask. -/
def execCsrmw (rd rs1 : Reg) (csr : BitVec 12) (s : State) : Res :=
  s.csrOp rd csr (some fun t => (t &&& ~~~ (s.rx rs1)) ||| (s.rx rd &&& s.rx rs1)) (s.px rs1 || s.px rd)

end Sys2Proof.Machine
end

