-- ==== Sys2Proof/Machine/Flags.lean ====
section
/-!
DEFINITION. The floating flags, as they stand in fcsr bits 12:8 (R43, R137), and rounding modes (R36, R136).
-/

namespace Sys2Proof.Machine

/-- NV, fcsr bit 8. -/
def fNV : Nat := 2 ^ 8
/-- OF, fcsr bit 9. -/
def fOF : Nat := 2 ^ 9
/-- UF, fcsr bit 10. -/
def fUF : Nat := 2 ^ 10
/-- NX, fcsr bit 11. -/
def fNX : Nat := 2 ^ 11
/-- DZ, fcsr bit 12. -/
def fDZ : Nat := 2 ^ 12

/-- A flag where a condition holds. -/
def flagIf (b : Bool) (f : Nat) : Nat := if b then f else 0

/-- Round up in magnitude (R136): the mode (0 RNE, 1 RMM, 2 RUP, 3 RDN, 4 RTZ), the sign, and what is left over, rem / den of a unit above q. -/
def roundsUp (rm : Nat) (neg : Bool) (q rem den : Nat) : Bool :=
  match rm with
  | 0 => den < 2 * rem || (den == 2 * rem && q % 2 == 1)
  | 1 => den ≤ 2 * rem
  | 2 => rem != 0 && !neg
  | 3 => rem != 0 && neg
  | _ => false

/-- An overflowing result becomes an infinity (R136), else the largest finite value. -/
def overflowsToInf (rm : Nat) (neg : Bool) : Bool :=
  match rm with
  | 0 => true
  | 1 => true
  | 2 => !neg
  | 3 => neg
  | _ => false

end Sys2Proof.Machine
end

