-- ==== Sys2Proof/Machine/Float.lean ====
section
/-!
DEFINITION. Floating numbers (R135 to R142): formats, exact values, the one rounding of every result, arithmetic, compares, conversions, vNaNs.
-/

namespace Sys2Proof.Machine

/-- A floating format (R135): width, exponent bits, fraction bits. -/
structure Fmt where
  w : Nat
  eb : Nat
  fb : Nat
deriving DecidableEq, Repr

/-- bf16 (R135). -/
def bf16 : Fmt := { w := 16, eb := 8, fb := 7 }
/-- f32 (R135). -/
def f32 : Fmt := { w := 32, eb := 8, fb := 23 }
/-- f64 (R135). -/
def f64 : Fmt := { w := 64, eb := 11, fb := 52 }

/-- The format of a register element width. -/
def fmtOf (w : Nat) : Fmt := if w = 16 then bf16 else if w = 32 then f32 else f64

/-- Exponent bias. -/
def Fmt.bias (F : Fmt) : Nat := 2 ^ (F.eb - 1) - 1
/-- Bits of +∞. -/
def Fmt.inf (F : Fmt) : Nat := (2 ^ F.eb - 1) * 2 ^ F.fb
/-- Bits of the canonical quiet NaN (R135). -/
def Fmt.qnan (F : Fmt) : Nat := F.inf + 2 ^ (F.fb - 1)
/-- The sign bit's weight. -/
def Fmt.sign (F : Fmt) : Nat := 2 ^ (F.w - 1)
/-- A sign bit. -/
def Fmt.signIf (F : Fmt) (neg : Bool) : Nat := if neg then F.sign else 0

/-- The exact value (−1)^neg × n / d × 2^e of a finite number; n = 0 is a zero with its sign. -/
structure Ex where
  neg : Bool := false
  n : Nat
  d : Nat := 1
  e : Int := 0
deriving DecidableEq, Repr

/-- What floating bits stand for. -/
inductive FVal where
  | nan (signalling : Bool)
  | inf (neg : Bool)
  | fin (x : Ex)
deriving DecidableEq, Repr

/-- The bits hold a NaN. -/
def Fmt.isNan (F : Fmt) (b : Nat) : Bool := F.inf < b % F.sign
/-- The bits hold a signalling NaN. -/
def Fmt.isSnan (F : Fmt) (b : Nat) : Bool := F.isNan b && !bitAt b (F.fb - 1)
/-- The bits hold an infinity. -/
def Fmt.isInf (F : Fmt) (b : Nat) : Bool := b % F.sign == F.inf
/-- The sign bit. -/
def Fmt.isNeg (F : Fmt) (b : Nat) : Bool := bitAt b (F.w - 1)

/-- The value of floating bits; subnormals count at their value (R136). -/
def Fmt.val (F : Fmt) (b : Nat) : FVal :=
  if F.isNan b then .nan (F.isSnan b)
  else if F.isInf b then .inf (F.isNeg b)
  else
    let ex := field b F.fb F.eb
    let m := field b 0 F.fb
    .fin { neg := F.isNeg b, n := if ex = 0 then m else m + 2 ^ F.fb, e := (max ex 1 : Int) - F.bias - F.fb }

/-- A result and the flags it raises. -/
abbrev FRes := Nat × Nat

/-- An integer as an exact value. -/
def Ex.ofInt (i : Int) : Ex := { neg := i < 0, n := i.natAbs }

/-- The signed numerator over d × 2^−k after scaling to the exponent e0 ≤ e. -/
def Ex.at (x : Ex) (e0 : Int) : Int := let a : Int := (x.n * 2 ^ (x.e - e0).toNat : Nat); if x.neg then -a else a

/-- Exact sum of two values; `zneg` is the sign of an exact zero result. -/
def Ex.add (x y : Ex) (zneg : Bool) : Ex :=
  let e := min x.e y.e
  let s := x.at e * y.d + y.at e * x.d
  if s = 0 then { neg := if x.n = 0 && y.n = 0 && x.neg == y.neg then x.neg else zneg, n := 0 }
  else { neg := s < 0, n := s.natAbs, d := x.d * y.d, e := e }

/-- Exact product. -/
def Ex.mul (x y : Ex) : Ex := { neg := x.neg != y.neg, n := x.n * y.n, d := x.d * y.d, e := x.e + y.e }

/-- Exact quotient by a nonzero value. -/
def Ex.div (x y : Ex) : Ex := { neg := x.neg != y.neg, n := x.n * y.d, d := x.d * y.n, e := x.e - y.e }

/-- The opposite value. -/
def Ex.opp (x : Ex) : Ex := { x with neg := !x.neg }

/-- x times 2^k. -/
def Ex.scale (x : Ex) (k : Int) : Ex := { x with e := x.e + k }

/-- Exact comparison x < y by value, zeros of both signs equal. -/
def Ex.lt (x y : Ex) : Bool :=
  let e := min x.e y.e
  x.at e * y.d < y.at e * x.d

/-- Exact comparison x = y by value. -/
def Ex.eq (x y : Ex) : Bool := !x.lt y && !y.lt x

/-- |x|. -/
def Ex.abs (x : Ex) : Ex := { x with neg := false }

/-- ⌊log2 |x|⌋ of a nonzero value. -/
def Ex.log2 (x : Ex) : Int :=
  let l : Int := (Nat.log2 x.n : Int) - Nat.log2 x.d
  let big := if 0 ≤ l then x.d * 2 ^ l.toNat ≤ x.n else x.d ≤ x.n * 2 ^ (-l).toNat
  x.e + (if big then l else l - 1)

/-- |x| in units of 2^u: whole units, remainder and denominator. -/
def Ex.units (x : Ex) (u : Int) : Nat × Nat × Nat :=
  let n := if u ≤ x.e then x.n * 2 ^ (x.e - u).toNat else x.n
  let d := if u ≤ x.e then x.d else x.d * 2 ^ (u - x.e).toNat
  (n / d, n % d, d)

/-- |x| rounded to whole units of 2^u in a mode, and whether it was inexact. -/
def Ex.roundUnits (x : Ex) (rm : Nat) (u : Int) : Nat × Bool :=
  let q := x.units u
  (q.1 + (if roundsUp rm x.neg q.1 q.2.1 q.2.2 then 1 else 0), q.2.1 != 0)

/-- The exact value x rounded once to a format (R136), with OF, UF and NX (R137). -/
def Fmt.round (F : Fmt) (rm : Nat) (x : Ex) : FRes :=
  if x.n = 0 then (F.signIf x.neg, 0) else
  let ex := x.log2
  let emin : Int := 1 - F.bias
  let u := max ex emin - F.fb
  let r := x.roundUnits rm u
  let bits := (u + F.fb + F.bias - 1).toNat * 2 ^ F.fb + r.1
  if F.inf ≤ bits then
    (F.signIf x.neg + (if overflowsToInf rm x.neg then F.inf else F.inf - 1), fOF + fNX)
  else
    let tiny := ex < emin && !(ex == emin - 1 && (x.roundUnits rm (ex - F.fb)).1 == 2 ^ (F.fb + 1))
    (F.signIf x.neg + bits, flagIf r.2 fNX + flagIf (tiny && r.2) fUF)

/-- A NaN result: canonical and quiet (R139); NV where an operand is signalling or the operation is invalid. -/
def Fmt.nanRes (F : Fmt) (nv : Bool) : FRes := (F.qnan, flagIf nv fNV)

/-- a + b (R136, R160). -/
def Fmt.add (F : Fmt) (rm a b : Nat) : FRes :=
  match F.val a, F.val b with
  | .nan s, y => F.nanRes (s || y == .nan true)
  | _, .nan s => F.nanRes s
  | .inf s, .inf t => if s == t then (F.signIf s + F.inf, 0) else F.nanRes true
  | .inf s, _ => (F.signIf s + F.inf, 0)
  | _, .inf t => (F.signIf t + F.inf, 0)
  | .fin x, .fin y => F.round rm (x.add y (rm == 3))

/-- b with its sign inverted. -/
def Fmt.flip (F : Fmt) (b : Nat) : Nat := b ^^^ F.sign

/-- a − b; a NaN operand is treated as in a sum. -/
def Fmt.sub (F : Fmt) (rm a b : Nat) : FRes := F.add rm a (F.flip b)

/-- a × b. -/
def Fmt.mul (F : Fmt) (rm a b : Nat) : FRes :=
  match F.val a, F.val b with
  | .nan s, y => F.nanRes (s || y == .nan true)
  | _, .nan s => F.nanRes s
  | .inf s, .inf t => (F.signIf (s != t) + F.inf, 0)
  | .inf s, .fin y => if y.n = 0 then F.nanRes true else (F.signIf (s != y.neg) + F.inf, 0)
  | .fin x, .inf t => if x.n = 0 then F.nanRes true else (F.signIf (x.neg != t) + F.inf, 0)
  | .fin x, .fin y => F.round rm (x.mul y)

/-- a ÷ b. -/
def Fmt.div (F : Fmt) (rm a b : Nat) : FRes :=
  match F.val a, F.val b with
  | .nan s, y => F.nanRes (s || y == .nan true)
  | _, .nan s => F.nanRes s
  | .inf _, .inf _ => F.nanRes true
  | .inf s, .fin y => (F.signIf (s != y.neg) + F.inf, 0)
  | .fin x, .inf t => (F.signIf (x.neg != t), 0)
  | .fin x, .fin y =>
    if y.n = 0 then (if x.n = 0 then F.nanRes true else (F.signIf (x.neg != y.neg) + F.inf, fDZ))
    else F.round rm (x.div y)

/-- ⌊√n⌋ by bits k − 1 down to 0 added to r. -/
def isqrtFrom (n : Nat) : Nat → Nat → Nat
  | 0, r => r
  | k + 1, r => isqrtFrom n k (if (r + 2 ^ k) * (r + 2 ^ k) ≤ n then r + 2 ^ k else r)

/-- ⌊√n⌋. -/
def isqrt (n : Nat) : Nat := isqrtFrom n (Nat.log2 n / 2 + 1) 0

/-- √x for positive x = n × 2^e, to well over the bits of a format, a last bit of 1 standing for a remainder. -/
def Ex.sqrt (x : Ex) : Ex :=
  let k : Nat := 128 + (if x.e % 2 = 0 then 0 else 1)
  let m := x.n * 2 ^ k
  let r := isqrt m
  { n := 2 * r + (if r * r = m then 0 else 1), e := (x.e - k) / 2 - 1 }

/-- √a (R160). -/
def Fmt.sqrt (F : Fmt) (rm a : Nat) : FRes :=
  match F.val a with
  | .nan s => F.nanRes s
  | .inf s => if s then F.nanRes true else (F.inf, 0)
  | .fin x => if x.n = 0 then (a % 2 ^ F.w, 0) else if x.neg then F.nanRes true else F.round rm x.sqrt

/-- (a × b) + c with one rounding; `np` negates the product and `nc` the addend (R160). -/
def Fmt.fma (F : Fmt) (rm : Nat) (np nc : Bool) (a b c : Nat) : FRes :=
  let c := if nc then F.flip c else c
  let snan := F.isSnan a || F.isSnan b || F.isSnan c
  let prodNeg := (F.isNeg a != F.isNeg b) != np
  let zinf := fun (x y : FVal) => match x, y with
    | .inf _, .fin z => z.n == 0
    | _, _ => false
  let bad := zinf (F.val a) (F.val b) || zinf (F.val b) (F.val a)
  if F.isNan a || F.isNan b then F.nanRes snan
  else if bad then F.nanRes true
  else if F.isNan c then F.nanRes snan
  else if F.isInf a || F.isInf b then
    (if F.isInf c && F.isNeg c != prodNeg then F.nanRes true else (F.signIf prodNeg + F.inf, 0))
  else
    match F.val a, F.val b, F.val c with
    | .fin x, .fin y, .fin z =>
      let p := x.mul y
      F.round rm (({ p with neg := prodNeg } : Ex).add z (rm == 3))
    | _, _, _ => (c % 2 ^ F.w, 0)

/-- An order of non-NaN bits in which −0 lies below +0 (R161): the bits as a signed magnitude. -/
def Fmt.key (F : Fmt) (b : Nat) : Int := if F.isNeg b then -1 - (b % F.sign : Nat) else (b % F.sign : Nat)

/-- vfmin and vfmax (R161). -/
def Fmt.minmax (F : Fmt) (isMax : Bool) (a b : Nat) : FRes :=
  let fl := flagIf (F.isSnan a || F.isSnan b) fNV
  if F.isNan a && F.isNan b then (F.qnan, fl)
  else if F.isNan a then (b, fl)
  else if F.isNan b then (a, fl)
  else if isMax then (if F.key a < F.key b then (b, fl) else (a, fl))
  else (if F.key b < F.key a then (b, fl) else (a, fl))

/-- a < b by value, −0 equal to +0; false beside a NaN. -/
def Fmt.lt (F : Fmt) (a b : Nat) : Bool :=
  !F.isNan a && !F.isNan b && !(a % F.sign == 0 && b % F.sign == 0) && F.key a < F.key b

/-- a = b by value. -/
def Fmt.eq (F : Fmt) (a b : Nat) : Bool := !F.isNan a && !F.isNan b && !F.lt a b && !F.lt b a

/-- a with the sign of b, or its inverse (R160). -/
def Fmt.sgnj (F : Fmt) (inv : Bool) (a b : Nat) : Nat := a % F.sign + F.signIf (F.isNeg b != inv)

/-- A conversion between formats (R139, R142): every NaN becomes the canonical quiet NaN, a signalling one with NV. -/
def Fmt.convert (S D : Fmt) (rm a : Nat) : FRes :=
  match S.val a with
  | .nan s => D.nanRes s
  | .inf s => (D.signIf s + D.inf, 0)
  | .fin x => D.round rm x

/-- A conversion to an integer of w bits (R142). -/
def Fmt.toInt (F : Fmt) (rm : Nat) (signed : Bool) (w a : Nat) : FRes :=
  let hi : Int := if signed then 2 ^ (w - 1) - 1 else 2 ^ w - 1
  let lo : Int := if signed then -(2 ^ (w - 1)) else 0
  match F.val a with
  | .nan _ => (0, fNV)
  | .inf s => (wrap w (if s then lo else hi), fNV)
  | .fin x =>
    let r := x.roundUnits rm 0
    let i : Int := if x.neg then -(r.1 : Int) else r.1
    if hi < i then (wrap w hi, fNV) else if i < lo then (wrap w lo, fNV) else (wrap w i, flagIf r.2 fNX)

/-- A conversion from an integer (R142). -/
def Fmt.ofInt (F : Fmt) (rm : Nat) (i : Int) : FRes := F.round rm (Ex.ofInt i)

/-- The word is a vNaN (R140). -/
def isVNan (b : Nat) : Bool := field b 23 8 == 255 && !bitAt b 22 && bitAt b 21 && field b 0 10 == 0

/-- A vNaN (R140). -/
def vNan (verdict : Bool) (planes segment : Nat) : Nat :=
  (if verdict then 2 ^ 31 else 0) + 255 * 2 ^ 23 + 2 ^ 21 + planes % 32 * 2 ^ 16 + segment % 64 * 2 ^ 10

/-- An f32 word as an f64 operand (R39): values exact; a NaN keeps its sign, quiet bit and fraction. -/
def widenConst (b : Nat) : Nat :=
  if f32.isNan b then f64.signIf (f32.isNeg b) + f64.inf + field b 0 23 * 2 ^ 29
  else (Fmt.convert f32 f64 0 b).1

/-- Exact floating bits of a small integer (the imm6 of a floating member, R152). -/
def Fmt.small (F : Fmt) (i : Int) : Nat := (F.ofInt 0 i).1

end Sys2Proof.Machine
end

