-- ==== Sys2Proof/Machine/VecCouple.lean ====
section
/-!
DEFINITION. The strand's side of the vector unit: setvl, vcfg, vblk, rqpop, smb, waitc (R41, R115 to R122, R129 to R132).
-/

namespace Sys2Proof.Machine

/-- Shares of a core that no strand holds (R129, R130). -/
def State.freeShares (s : State) (k : Nat) : Nat := Config.shares - ((coreSids k).map fun sid => (s.strand sid).held).sum

/-- Every vector, mask and scale register declared dead (R41, R115): they read as zero, vdirty is 0, vstate clean. -/
def Strand.declareDead (t : Strand) : Strand := { t with v := [], m := [], sc := [], vdirty := 0, vstate := 1 }

/-- Items that leave the queue, noted with the newest convoy that waits to retire. -/
def addTaken : List Past → List QItem → List Past
  | [], _ => []
  | [p], l => [{ p with taken := p.taken ++ l }]
  | p :: ps, l => p :: addTaken ps l

/-- Pass the SETVL boundaries at the head of a queue with no block before them in progress (R115). The shares one gives up become free once every block before it
has retired (R130). -/
def Strand.passDeadFrom (t : Strand) : List QItem → Strand
  | .dead rel :: q => Strand.passDeadFrom
    { t.declareDead with held := if t.past.isEmpty then t.held - rel else t.held, past := addTaken t.past [.dead rel], queue := q } q
  | _ => t

/-- Pass the SETVL boundaries at the head of the queue where no block is in progress. -/
def Strand.passDead (t : Strand) : Strand := if t.blk.isSome then t else t.passDeadFrom t.queue

/-- setvl (R115): a pending pre-emption traps first; then the shares in force become the grant, every register dead, and vl is granted. -/
def execSetvl (rd rs1 : Reg) (ew : BitVec 2) (s : State) : Res :=
  let t := s.me
  if t.preq then (s.setMe { t with preq := false, heldPre := none }).trap 15
  else if s.px rs1 then s.trap 8
  else
    let g := t.lpart
    if t.g < g && s.freeShares s.myCore < g - t.g then .next (s.park (.setvl rd rs1 ew))
    else
      let vl := min (s.rx rs1).toNat (maxVl g t.n2 (ewOf ew.toNat))
      let t := { t with g := g, held := t.held + (g - t.g), queue := t.queue ++ [QItem.dead (t.g - g)],
                        vl := vl, smbVl := vl, ew := ew.toNat }
      .next (((s.setMe t.passDead).wx rd (BitVec.ofNat 64 vl)).adv 32)

/-- setvl.k (R115): vl and ew alone; VEC_ABSENT while vstate is off (R305), which a poisoned x[rs1] comes before (DESIGN CHOICE, entry 39). -/
def execSetvlK (rd rs1 : Reg) (ew : BitVec 2) (s : State) : Res :=
  let t := s.me
  if s.px rs1 then s.trap 8
  else if t.vstate = 0 then s.trap 12
  else
    let vl := min (s.rx rs1).toNat (maxVl t.g t.n2 (ewOf ew.toNat))
    .next (((s.setMe { t with vl := vl, smbVl := vl, ew := ew.toNat }).wx rd (BitVec.ofNat 64 vl)).adv 32)

/-- log2 of a legal register count, none for any other (R41). -/
def vcfgLog (n : Nat) : Option Nat :=
  if n = 4 then some 2 else if n = 8 then some 3 else if n = 16 then some 4 else if n = 32 then some 5 else if n = 64 then some 6 else none

/-- vcfg (R41, R116): waits for the strand's blocks, which does not park it (R122); in a handler whose queue is stopped it raises ILLEGAL (R298). -/
def execVcfg (n : BitVec 7) (s : State) : Res :=
  match vcfgLog n.toNat with
  | none => s.trap 1
  | some k =>
    if s.me.stopped then s.trap 1
    else if !s.me.vecIdle then .next s
    else .next ((s.setMe { s.me.declareDead with vl := 0, smbVl := 0, n2 := k }).adv 32)

/-- Blocks that hold an entry of the vector issue queue: those that have not started, and those that have and would be queued again if a convoy before them
unwound, for R304 and R318 have room for eight (DEDUCED, entry 42). -/
def Strand.queued (t : Strand) : Nat := (blocksOf (t.past.flatMap (·.taken) ++ t.queue)).length

/-- Queue the block at a target (R117, R31); parked while 8 blocks are queued (R122). `i` is the instruction. -/
def State.queueBlock (s : State) (i : Instr) (a : Word) : Res :=
  let t := s.me
  if t.stopped then s.trap 1
  else if a.toNat % 64 ≠ 0 then s.trap 4 a
  else if 8 ≤ t.queued then .next (s.park i)
  else
    let args := (List.range 8).map fun k => t.getX (BitVec.ofNat 5 (8 + k))
    let b : QBlock := { addr := a, args := args, vl := t.vl, ew := t.ew, rm := field t.fcsr.toNat 0 3, g := t.g }
    .next ((s.setMe { t with queue := t.queue ++ [QItem.block b] }).adv 32)

/-- vblk (R117). -/
def execVblk (off : BitVec 25) (s : State) : Res := s.queueBlock (.vblk off) (s.me.pc + wordOff off)

/-- vblkr (R117). A poisoned rs1 raises POISON_CONTROL before a stopped queue's ILLEGAL (DESIGN CHOICE, entry 39: R298 gives no order). -/
def execVblkr (rs1 : Reg) (s : State) : Res := if s.px rs1 then s.trap 8 else s.queueBlock (.vblkr rs1) (s.rx rs1)

/-- rqpop (R118): the oldest word of the reply queue, parked while it is empty. -/
def execRqpop (rd : Reg) (s : State) : Res :=
  match s.me.rq with
  | [] => .next (s.park (.rqpop rd))
  | w :: q => .next (((s.setMe { s.me with rq := q }).wx rd w.w w.p).adv 32)

/-- The effect of both forms of SMB (R120). -/
def State.smb (s : State) (len : Nat) (xc xa : Reg) (strides : List Nat) (off : Word) : Res :=
  let v := BitVec.ofNat 64 s.me.smbVl
  let regs := (List.range strides.length).map fun i => BitVec.ofNat 5 (xa.toNat + i)
  if s.px xc || regs.any s.px then s.trap 8
  else
    let c := s.rx xc - v
    let s' := (regs.zip strides).foldl (fun s' p => s'.wx p.1 (s.rx p.1 + v * BitVec.ofNat 64 p.2)) (s.wx xc c)
    if BitVec.slt 0 c then .next (s'.goto (s.me.pc + off)) else .next (s'.adv len)

/-- smb, the short form (R119, R120): xa = x0 names no address register. -/
def execSmb (xc xa : Reg) (stride1 : BitVec 6) (off : BitVec 9) (s : State) : Res :=
  s.smb 32 xc xa (if xa = 0 then [] else [stride1.toNat + 1]) (wordOff off)

/-- smb, the long form (R119, R120). -/
def execSmbLong (xc xa : Reg) (n1 : BitVec 2) (off : BitVec 12) (strides : BitVec 24) (s : State) : Res :=
  s.smb 64 xc xa (smbStrides n1 strides) (wordOff off)

/-- The members of the strand's convoys of a class that have not been performed, or (`whole`) have not retired. -/
def Strand.outstanding (t : Strand) (f : Nat → Bool) (whole : Bool) : Nat :=
  (t.convs.map fun c => ((if whole then c.words else c.rest).filter fun w => f (opOf w)).length).sum

/-- Copy operations of a strand whose timeline has not passed them (R121, R197). -/
def State.copiesOf (s : State) (sid : Nat) : Nat :=
  (s.dies.map fun d => (d.2.ctxs.map fun c => (c.2.ops.filter fun o => o.sid == some sid).length).sum).sum

/-- RRED members of a strand with an update not yet performed (R203). -/
def State.rredsOf (s : State) (sid : Nat) : Nat := (((s.packets.filter fun p => p.sid == some sid).map (·.mid)).eraseDups).length

/-- The four counts WAITC tests (R121, R132). -/
def State.counts (s : State) (sid : Nat) : Nat × Nat × Nat × Nat :=
  let t := s.strand sid
  (t.outstanding isLoadOp false, t.outstanding isStoreOp false + s.rredsOf sid, s.copiesOf sid,
    t.outstanding isMatrixOp true + (if ctxOf sid = 8 then ((s.core (coreOf sid)).mx.ops.filter fun o => !o.done).length else 0))

/-- Every block queued before has issued the last strip of its final convoy, or the queue is stopped (R132, R298). -/
def Strand.allIssued (t : Strand) : Bool :=
  t.stopped || ((blocksOf t.queue).isEmpty &&
    (match t.blk, t.conv with
     | none, _ => true
     | some _, some c => c.hdr.kind == 6 && c.strips ≤ c.issued
     | some _, none => false))

/-- waitc (R121, R132): a field of 63 sets no limit, and with four of them nothing is waited for. -/
def execWaitc (l sc c m : BitVec 6) (s : State) : Res :=
  if l == 63 && sc == 63 && c == 63 && m == 63 then .next (s.adv 32)
  else
    let n := s.counts s.cur
    let ok := fun (f : BitVec 6) (n : Nat) => f == 63 || n ≤ f.toNat
    if s.me.allIssued && ok l n.1 && ok sc n.2.1 && ok c n.2.2.1 && ok m n.2.2.2 then .next (s.adv 32)
    else .next (s.park (.waitc l sc c m))

end Sys2Proof.Machine
end

