-- ==== Sys2Proof/Machine/VecCore.lean ====
section
/-!
DEFINITION. What every vector member obeys (R151 to R154): elements of registers, active elements, operands, poison, and how a member's results
enter its strand.
-/

namespace Sys2Proof.Machine

/-- Element e of a register at width w. -/
def VReg.get (r : VReg) (w e : Nat) : Nat := field r.bits (e * w) w

/-- Element e of a register is poisoned. -/
def VReg.poi (r : VReg) (w e : Nat) : Bool := field r.pois (e * (w / 8)) (w / 8) != 0

/-- A register with element e written, with its poison. -/
def VReg.set (r : VReg) (w e v : Nat) (p : Bool) : VReg :=
  { bits := putField r.bits (e * w) w v, pois := putField r.pois (e * (w / 8)) (w / 8) (if p then 2 ^ (w / 8) - 1 else 0) }

/-- What a member reads: its strand, the vl of its block, the rounding mode recorded with the block, the convoy constant. -/
structure Env where
  t : Strand
  vl : Nat
  rm : Nat
  konst : Nat

/-- Bits of one vector register. -/
def Env.len (c : Env) : Nat := regBits c.t.g c.t.n2

/-- VLMAX at a width (R173). -/
def Env.vlmax (c : Env) (w : Nat) : Nat := c.len / w

/-- The vector register a field names. -/
def Env.reg (c : Env) (r : BitVec 6) : VReg := Sparse.get {} c.t.v r.toNat

/-- The mask register a number names. -/
def Env.maskReg (c : Env) (k : Nat) : Nat := Sparse.get 0 c.t.m k

/-- The mask register a field of a member word names, in its top three bits (R152). -/
def Env.maskField (c : Env) (f : BitVec 6) : Nat := c.maskReg (topReg f).toNat

/-- Block argument k. -/
def Env.arg (c : Env) (k : Nat) : PWord := c.t.b.toList.getD k {}

/-- Element e is active (R151). -/
def Env.active (c : Env) (mask : BitVec 3) (me : BitVec 1) (e : Nat) : Bool := e < c.vl && (me == 0 || bitAt (c.maskReg mask.toNat) e)

/-- The active elements, ascending. -/
def Env.actives (c : Env) (mask : BitVec 3) (me : BitVec 1) : List Nat := (List.range c.vl).filter (c.active mask me)

/-- An operand: the value and poison of each element. -/
structure Opnd where
  val : Nat → Nat
  poi : Nat → Bool

/-- A vector register as an operand at width w. -/
def Env.vec (c : Env) (r : BitVec 6) (w : Nat) : Opnd := { val := (c.reg r).get w, poi := (c.reg r).poi w }

/-- The same value for every element. -/
def Opnd.const (v : Nat) (p : Bool := false) : Opnd := { val := fun _ => v, poi := fun _ => p }

/-- op2 of an integer member at width w (R39, R152). -/
def Env.op2 (c : Env) (f : VAForm) (w : Nat) : Opnd :=
  match f.os.toNat with
  | 0 => c.vec f.vs2 w
  | 1 => .const ((c.arg f.vs2.toNat).w.toNat % 2 ^ w) (c.arg f.vs2.toNat).p
  | 2 => .const (if w ≤ 16 then c.konst % 2 ^ w else wrap w (sextNat 32 c.konst))
  | _ => .const (wrap w (sextNat 6 f.f35.toNat))

/-- op2 of a floating member at width w (R39, R152). -/
def Env.fop2 (c : Env) (f : VAForm) (w : Nat) : Opnd :=
  match f.os.toNat with
  | 0 => c.vec f.vs2 w
  | 1 => .const ((c.arg f.vs2.toNat).w.toNat % 2 ^ w) (c.arg f.vs2.toNat).p
  | 2 => .const (if w = 64 then widenConst c.konst else c.konst % 2 ^ w)
  | _ => .const ((fmtOf w).small (sextNat 6 f.f35.toNat))

/-- op2 as an unsigned count (R173): a b register as 64 bits, the constant as 32 bits, imm6 as 0 to 63. -/
def Env.count (c : Env) (f : VAForm) : PWord :=
  match f.os.toNat with
  | 1 => c.arg f.vs2.toNat
  | 2 => { w := BitVec.ofNat 64 c.konst }
  | _ => { w := BitVec.ofNat 64 f.f35.toNat }

/-- The member's rounding mode: its own, or the one recorded with its block (R36, R138). -/
def Env.mode (c : Env) (rm : BitVec 3) : Nat := if rm = 6 then c.rm else rm.toNat

/-- What a member writes: vector, mask and scale registers whole, flags, and what waits for its convoy's retirement. -/
structure MOut where
  v : List (Nat × VReg) := []
  m : List (Nat × Nat) := []
  sc : List (Nat × VReg) := []
  flags : Nat := 0
  staged : List Staged := []
deriving DecidableEq, Repr

/-- A member's results, or the cause it raises with its element (R50). -/
inductive MRes where
  | ok (o : MOut)
  | trap (code : Nat) (elem : Option Nat)
deriving DecidableEq, Repr

/-- A meaning of a VA member: what it computes from what it reads. -/
abbrev Sem := VAForm → Env → MRes

/-- The first of these elements whose operand is poisoned raises POISON_CONTROL (R154), else the member goes on. -/
def guardPoison (es : List Nat) (ops : List Opnd) (r : MRes) : MRes :=
  match es.find? fun e => ops.any fun o => o.poi e with
  | some e => .trap 8 (some e)
  | none => r

/-- The first of these elements whose f32 operand is a vNaN raises VERDICT_CONSUMED (R141), else the member goes on. -/
def guardVerdict (es : List Nat) (w : Nat) (ops : List Opnd) (r : MRes) : MRes :=
  if w != 32 then r else
  match es.find? fun e => ops.any fun o => isVNan (o.val e) with
  | some e => .trap 10 (some e)
  | none => r

/-- Write the results of some elements into vector register vd at width w: value, flags and poison of each. -/
def Env.writeElems (c : Env) (vd : BitVec 6) (w : Nat) (es : List Nat) (g : Nat → FRes) (p : Nat → Bool) : MOut :=
  if es.isEmpty then {} else
  let r := es.foldl (fun (r : VReg × Nat) e => (r.1.set w e (g e).1 (p e), r.2 ||| (g e).2)) (c.reg vd, 0)
  { v := [(vd.toNat, r.1)], flags := r.2 }

/-- Write mask bits of some elements. -/
def putBits (m : Nat) (es : List Nat) (g : Nat → Bool) : Nat := es.foldl (fun m e => putField m e 1 (if g e then 1 else 0)) m

/-- Write mask register md at some elements, with flags. -/
def Env.writeMask (c : Env) (vd : BitVec 6) (es : List Nat) (g : Nat → Bool) (flags : Nat := 0) : MOut :=
  if es.isEmpty then {} else { m := [((topReg vd).toNat, putBits (c.maskField vd) es g)], flags := flags }

/-- Flags that some elements raise, joined. -/
def joinFlags (es : List Nat) (g : Nat → Nat) : Nat := es.foldl (fun a e => a ||| g e) 0

/-- Write element 0 of vd (reductions, vmpopc, vmfirst): nothing at vl = 0 (R151). -/
def Env.writeZero (c : Env) (vd : BitVec 6) (w v : Nat) (p : Bool) (flags : Nat := 0) : MRes :=
  .ok (if c.vl = 0 then {} else { v := [(vd.toNat, (c.reg vd).set w 0 v p)], flags := flags })

/-- Sub-scale code of block k in a scale register (R41). -/
def scaleCode (r : VReg) (k : Nat) : Nat := r.get 8 k

/-- Where super-scale j stands, as a 32-bit element of the scale register: E / 8 bits of codes come first (R41). -/
def Env.superAt (c : Env) (j : Nat) : Nat := maxVl c.t.g c.t.n2 8 / 256 + j

/-- Super-scale j of a scale register (R41). -/
def Env.super (c : Env) (r : VReg) (j : Nat) : Nat := r.get 32 (c.superAt j)

/-- The scale register a number names. -/
def Env.scaleReg (c : Env) (k : Nat) : VReg := Sparse.get {} c.t.sc k

/-- The code or super-scale of element e is poisoned. -/
def Env.scalePoi (c : Env) (r : VReg) (e : Nat) : Bool := r.poi 8 (e / 64) || r.poi 32 (c.superAt (e / 256))

/-- What the strand's member reads, where a block and a convoy are in progress: the shares are the block's (R130). -/
def Strand.env (t : Strand) (b : Blk) (k : Conv) : Env := { t := { t with g := b.g }, vl := b.vl, rm := b.rm, konst := k.konst }

/-- Blocks of record j that elements below vl touch (R147). -/
def touchedBlocks (vl j : Nat) : Nat := min 4 (ceilDiv (vl - 256 * j) 64)

/-- The elements of vd that a VA member writes (R151): element 0 of a reduction and of a count or index of a mask, every element below vl of a limb sum and of VSEL,
the leading ones of a compression, the ranks of VTOPK, the active ones of any other. -/
def Env.vecElems (c : Env) (op : Nat) (f : VAForm) : List Nat :=
  let es := c.actives f.mask f.me
  if (0xC0 ≤ op && op ≤ 0xC7) || (0x170 ≤ op && op ≤ 0x172) || (0x1B8 ≤ op && op ≤ 0x1BA) || op = 0x1C1 || op = 0x20C || op = 0x20D then [0]
  else if op = 0x1A || op = 0x1B || op = 0x245 then List.range c.vl
  else if op = 0x246 then List.range es.length
  else if op = 0x1E0 then
    let k := f.variant.toNat + 1
    (List.range (ceilDiv c.vl (max 1 (min ((c.op2 f 32).val 0) c.vl)))).flatMap fun h => ((List.range k).map (h * k + ·)).filter (· < c.vl)
  else es

/-- The width of the elements of vd that a VA member writes (R153, R167 to R169). -/
def vecWidth (p : VASpec) (f : VAForm) : Nat := if p.op = 0x1E0 then 32 else p.dst.getD (ewBits f.ew)

/-- The scale entries of a record among the elements below vl: its codes, or its super-scale, as elements of the scale register. -/
def Env.records (c : Env) (js : List Nat) (n : Nat → Nat) : List (Nat × List Nat) :=
  [(8, js.flatMap fun j => (List.range (n j)).map (4 * j + ·)), (32, js.map c.superAt)]

/-- What a member that ends with this result has written: file and register, the width of an element, the elements; a memory member has the parts `ps` performed. -/
def memberNotes (m : Member) (c : Env) (o : MOut) (ps : List Probe) : List (Nat × Nat × Nat × List Nat) :=
  match m with
  | .va p f =>
    o.v.map (fun r => (0, r.1, vecWidth p f, c.vecElems p.op f)) ++
    o.m.map (fun r => (1, r.1, 1, if p.me = .zero then List.range c.vl else c.actives f.mask f.me)) ++
    o.sc.flatMap fun r => (c.records (List.range (ceilDiv c.vl 256)) fun _ => 4).map fun x => (2, r.1, x)
  | .vm op f =>
    let es := (ps.filter (·.id < 2 ^ 20)).map (·.id)
    let js := (ps.filter (2 ^ 20 ≤ ·.id)).map (·.id - 2 ^ 20)
    (if op = 0x300 || op = 0x340 || (0x342 ≤ op && op ≤ 0x349) || op = 0x360 then [(0, f.vd.toNat, ewBits f.ew, es)] else []) ++
    (if op = 0x300 then (c.records js (touchedBlocks c.vl)).map (fun x => (2, f.scale.toNat, x)) else []) ++
    o.m.map fun r => (1, r.1, 1, if op = 0x360 then List.range c.vl
      else (List.range c.vl).filter fun e => bitAt (c.maskReg r.1) e && !bitAt r.2 e)
  | .vx _ f => o.v.map fun r => (0, r.1, 32, c.actives f.mask f.me)
  | _ => []

/-- What the member at a convoy's current slot has written, with this result of it and these parts performed. -/
def Conv.notes (k : Conv) (c : Env) (o : MOut) (ps : List Probe) : List Wrote :=
  ((memberNotes (memberOf (nth 0 k.words k.slot)) c o ps).filter fun x => !x.2.2.2.isEmpty).map fun x =>
    { slot := k.slot, file := x.1, reg := x.2.1, w := x.2.2.1, es := x.2.2.2 }

/-- The member at the strand's current slot ends with this result: what it has written. -/
def Strand.notes (t : Strand) (o : MOut) : List Wrote :=
  match t.conv, t.blk with
  | some k, some b => k.notes (t.env b k) o (Sparse.get [] k.probes k.slot)
  | _, _ => []

/-- What a convoy has written so far (R324): its completed slots, and the elements that the one in progress has performed. -/
def Conv.soFar (k : Conv) (c : Env) : List Wrote :=
  let parts := fun (left : List Nat) => (Sparse.get [] k.probes k.slot).filter fun p => !hasNat left p.id
  k.wrote ++ match k.pend with
    | .elems _ es => k.notes c {} (parts (es.map (·.id)))
    | .vamo _ left _ _ => k.notes c {} (parts left)
    | .vwait left _ => k.notes c {} (parts left) ++ match memberOf (nth 0 k.words k.slot) with
      | .vm _ f => [{ slot := k.slot, file := 1, reg := f.scale.toNat, w := 1, es := (parts left).map (·.id) }]
      | _ => []
    | _ => []

/-- The strand with a member's writes: registers, flags and staged effects, with the written registers noted for vdirty (R296), and the elements (R324). -/
def Strand.apply (t : Strand) (o : MOut) : Strand :=
  { t with
    v := o.v.foldl (fun v p => Sparse.put v p.1 p.2) t.v
    m := o.m.foldl (fun m p => Sparse.put m p.1 p.2) t.m
    sc := o.sc.foldl (fun q p => Sparse.put q p.1 p.2) t.sc
    conv := t.conv.map fun k => { k with
      flags := k.flags ||| o.flags, staged := k.staged ++ o.staged
      dirty := o.v.foldl (fun d p => insertNat d p.1) k.dirty, wrote := k.wrote ++ t.notes o } }

/-- The member in progress is done: the convoy goes on to its next slot (R126). -/
def Strand.nextSlot (t : Strand) : Strand := { t with conv := t.conv.map fun k => { k with slot := k.slot + 1, pend := .none } }

/-- The member at the strand's current slot ends with this result: its writes, or the trap of its convoy (R50, R296). With no convoy in progress
a member word does nothing. -/
def State.member (s : State) (f : Env → MRes) : Res :=
  match s.me.blk, s.me.conv with
  | some b, some k =>
    (match f (s.me.env b k) with
     | .ok o => .next (s.setMe (s.me.apply o).nextSlot)
     | .trap code e => .next (s.convoyTrap s.cur { code := code, slot := k.slot, elem := e }))
  | _, _ => .next s

/-- A VA member runs. -/
def State.va (s : State) (g : Sem) (f : VAForm) : Res := s.member (g f)

end Sys2Proof.Machine
end

