-- ==== Sys2Proof/Machine/Narrow.lean ====
section
/-!
DEFINITION. Narrow formats and block scales (R143 to R150): the nq4 codebook, scaled values, the scale pass, narrowing to nq4 and q codes.
-/

namespace Sys2Proof.Machine

/-- The codebook as bf16 bits, code 0 first (R143). -/
def codebook : List Nat :=
  [0xBF80, 0xBF32, 0xBF06, 0xBECA, 0xBE92, 0xBE3C, 0xBDB8, 0x0000, 0x3DA2, 0x3E24, 0x3E7C, 0x3EAC, 0x3EE2, 0x3F10, 0x3F39, 0x3F80]

/-- The value of an nq4 code as bf16 bits (R143). -/
def codeBf16 (code : Nat) : Nat := codebook.getD code 0

/-- The exact value of finite floating bits; zero for anything else. -/
def Fmt.fin (F : Fmt) (b : Nat) : Ex :=
  match F.val b with
  | .fin x => x
  | _ => { n := 0 }

/-- A narrow target (R166): variant 0 nq4, variants 1 to 7 q2 to q8. -/
structure Target where
  nq4 : Bool
  w : Nat
deriving DecidableEq, Repr

/-- The target a variant of VQSCALE or VQQUANT names (R166). -/
def targetOf (variant : Nat) : Target := if variant = 0 then { nq4 := true, w := 4 } else { nq4 := false, w := variant + 1 }

/-- The target a memory member's format names (R37). -/
def targetOfMem (f : VMForm) : Target := { nq4 := f.mfmt == 2, w := f.w1.toNat + 1 }

/-- Qmax (R144). -/
def Target.qmax (t : Target) : Nat := if t.nq4 then 1 else 2 ^ (t.w - 1) - 1

/-- What scaling gives (R148): a NaN, signalling where the super-scale is so (R137), an infinity, a zero, or an exact value. -/
def scaled (q : FVal) (code sup : Nat) : FVal :=
  if code = 255 || f32.isNan sup then .nan (f32.isSnan sup)
  else
    match q, f32.val sup with
    | .fin x, .inf t => if x.n = 0 then .fin { n := 0 } else .inf (x.neg != t)
    | .fin x, .fin y =>
      if x.n = 0 || y.n = 0 then .fin { n := 0 } else .fin ((x.mul y).scale ((code : Int) - 127))
    | .inf s, .fin y => if y.n = 0 then .nan true else .inf (s != y.neg)
    | .inf s, .inf t => .inf (s != t)
    | .nan _, .fin y => if y.n = 0 then .fin { n := 0 } else .nan false
    | .nan _, _ => .nan false
    | .inf _, .nan _ => .nan false
    | .fin _, .nan _ => .nan false

/-- A scaled value rounded to a format by its consumer (R148): ∞ × 0 sets NV. -/
def roundScaled (F : Fmt) (rm : Nat) (v : FVal) : FRes :=
  match v with
  | .nan s => F.nanRes s
  | .inf s => (F.signIf s + F.inf, 0)
  | .fin x => F.round rm x

/-- The divisor 2^(c − 127) × S of a narrowing, exact, for finite S (R150). -/
def divisor (code sup : Nat) : Ex := (f32.fin sup).scale ((code : Int) - 127)

/-- The nq4 code nearest to y; a tie goes to the smaller magnitude (R150). -/
def nearestCode (y : Ex) : Nat :=
  let dist := fun (c : Nat) => (y.add (bf16.fin (codeBf16 c)).opp false).abs
  (List.range 15).foldl (fun best k =>
    let c := k + 1
    let d := dist c
    let b := dist best
    if d.lt b || (d.eq b && (bf16.fin (codeBf16 c)).abs.lt (bf16.fin (codeBf16 best)).abs) then c else best) 0

/-- What narrowing stores for a y beyond every code of its sign, or an infinite one (R150). -/
def Target.sat (t : Target) (neg : Bool) : Nat :=
  if t.nq4 then (if neg then 0 else 15) else (if neg then 2 ^ (t.w - 1) else 2 ^ (t.w - 1) - 1)

/-- The code or integer a narrowing stores for element bits x of format F under a code and a super-scale, w bits wide, with its flags (R150): a saturating
finite quotient is inexact, so that it sets NX with OF (R137; DEDUCED, entry 17), but beyond the codes of nq4 it sets no flag. A signalling NaN, of the element or
of the super-scale, and ∞ / ∞ set NV (R137). -/
def narrow (t : Target) (F : Fmt) (x code sup : Nat) : FRes :=
  let zeroCode := if t.nq4 then 7 else 0
  let satFlag := flagIf (!t.nq4) fOF
  if code = 255 || f32.isNan sup then (zeroCode, flagIf (F.isSnan x || f32.isSnan sup) fNV)
  else
    match F.val x, f32.val sup with
    | .nan _, _ => (zeroCode, fNV)
    | .inf s, _ => (t.sat (s != f32.isNeg sup), fOF + flagIf (f32.isInf sup) fNV)
    | .fin _, .inf _ => (zeroCode, 0)
    | .fin a, _ =>
      if f32.isInf sup || sup % f32.sign = 0 then
        (if a.n = 0 then ((Config.zeroQuotient t.w).toNat % 2 ^ t.w, fNV) else (t.sat (a.neg != f32.isNeg sup), fDZ + satFlag))
      else
        let y := a.div (divisor code sup)
        if t.nq4 then
          if (Ex.ofInt 1).lt y then (15, 0)
          else if y.lt (Ex.ofInt (-1)) then (0, 0)
          else
            let c := nearestCode y
            (c, flagIf (!y.eq (bf16.fin (codeBf16 c))) fNX)
        else
          let r := y.roundUnits 0 0
          let i : Int := if y.neg then -(r.1 : Int) else r.1
          let hi : Int := (2 ^ (t.w - 1) : Nat) - 1
          let lo : Int := -(2 ^ (t.w - 1) : Nat)
          if hi < i then (t.sat false, fOF + fNX) else if i < lo then (t.sat true, fOF + fNX) else (wrap t.w i, flagIf r.2 fNX)

/-- The largest |x| of some finite elements; zero of none (R149). -/
def maxAbs (F : Fmt) (xs : List Nat) : Ex :=
  (xs.filter fun x => !F.isNan x && !F.isInf x).foldl (fun m x => if m.lt (F.fin x).abs then (F.fin x).abs else m) { n := 0 }

/-- The super-scale of a superblock (R149): M / Qmax rounded up to f32, with the flags of the rounding (R137); 1.0 where M is 0. -/
def superRound (t : Target) (m : Ex) : FRes := if m.n = 0 then (0x3F800000, 0) else f32.round 2 (m.div (Ex.ofInt t.qmax))

/-- The super-scale of a superblock. -/
def superFor (t : Target) (m : Ex) : Nat := (superRound t m).1

/-- The sub-scale code of a block: the least c with m ≤ Qmax × 2^(c − 127) × S (R149). -/
def codeFor (t : Target) (m : Ex) (sup : Nat) : Nat :=
  ((List.range 255).find? fun c => !((divisor c sup).mul (Ex.ofInt t.qmax)).lt m).getD 254

end Sys2Proof.Machine
end

