-- ==== Sys2Proof/Machine/VecNarrow.lean ====
section
/-!
DEFINITION. The Q1 members vqscale, vreds, vqapply, vqquant (R149, R166 to R168).
-/

namespace Sys2Proof.Machine

/-- The active elements of a run of elements. -/
def within (es : List Nat) (lo n : Nat) : List Nat := es.filter fun e => lo ≤ e && e < lo + n

/-- vqscale (R166): codes and super-scales of every superblock that holds an element below vl, from its active elements. -/
def vqscaleSem : Sem := fun f c =>
  let w := ewBits f.ew
  let F := fmtOf w
  let t := targetOf f.variant.toNat
  let a := c.vec f.vs1 w
  let es := c.actives f.mask f.me
  let k := (topReg f.vd).toNat
  let r := (List.range (ceilDiv c.vl 256)).foldl (fun (r : VReg × Nat) j =>
    let sb := within es (256 * j) 256
    let sup := superFor t (maxAbs F (sb.map a.val))
    let q := (List.range 4).foldl (fun (q : VReg × Nat) i =>
      let b := within sb (256 * j + 64 * i) 64
      let bad := b.any fun e => F.isNan (a.val e) || F.isInf (a.val e)
      (q.1.set 8 (4 * j + i) (if bad then 255 else codeFor t (maxAbs F (b.map a.val)) sup) (b.any a.poi), q.2 ||| flagIf bad fNV)) r
    (q.1.set 32 (c.superAt j) sup (sb.any a.poi), q.2 ||| (superRound t (maxAbs F (sb.map a.val))).2)) (c.scaleReg k, 0)
  guardVerdict es w [a] (.ok (if c.vl = 0 then {} else { sc := [(k, r.1)], flags := r.2 }))

/-- vqscale runs (R151). -/
def execVqscale (f : VAForm) (s : State) : Res := s.va vqscaleSem f

/-- A sum of values in progress: exact while finite, with the infinities and NaNs met (IEEE 754 for them, R167). -/
structure Acc where
  x : Ex := { n := 0 }
  pinf : Bool := false
  ninf : Bool := false
  nan : Bool := false
  snan : Bool := false
deriving DecidableEq, Repr

/-- Add a value to a sum. -/
def Acc.add (a : Acc) (v : FVal) : Acc :=
  match v with
  | .nan s => { a with nan := true, snan := a.snan || s }
  | .inf s => if s then { a with ninf := true } else { a with pinf := true }
  | .fin x => { a with x := a.x.add x false }

/-- What the sum stands for. -/
def Acc.val (a : Acc) : FVal :=
  if a.nan || (a.pinf && a.ninf) then .nan false else if a.pinf then .inf false else if a.ninf then .inf true else .fin a.x

/-- NV of the sum: a signalling element, or infinities of both signs. -/
def Acc.flags (a : Acc) : Nat := flagIf (a.snan || (a.pinf && a.ninf)) fNV

/-- An element of vreds or vqapply at its unscaled value: an integer of w bits, or bf16. -/
def unscaled (isInt : Bool) (w v : Nat) : FVal := if isInt then .fin (Ex.ofInt (sextNat w v)) else bf16.val v

/-- t of one superblock of vreds (R167): the scaled block sums, a NaN noted, and flags. -/
def redsT (r : VReg) (isInt : Bool) (w : Nat) (a : Opnd) (es : List Nat) (j : Nat) : Acc × Nat :=
  (List.range 4).foldl (fun (q : Acc × Nat) i =>
    let b := within es (256 * j + 64 * i) 64
    let bs := b.foldl (fun s e => s.add (unscaled isInt w (a.val e))) ({} : Acc)
    let code := scaleCode r (4 * j + i)
    let t := match bs.val with
      | .nan _ => { q.1 with nan := true }
      | .inf s => if code = 255 then { q.1 with nan := true } else q.1.add (.inf s)
      | .fin x => if code = 255 then { q.1 with nan := true } else q.1.add (.fin (x.scale ((code : Int) - 127)))
    (t, q.2 ||| bs.flags)) ({}, 0)

/-- u of one superblock (R167), with its flags: infinities of both signs that met in t raise NV whatever makes u a NaN, and so does a
signalling super-scale (R137). -/
def redsU (t : Acc) (sup : Nat) : FRes :=
  if t.nan || f32.isNan sup then (f32.qnan, t.flags ||| flagIf (f32.isSnan sup) fNV)
  else
    match t.val, f32.val sup with
    | .nan _, _ => (f32.qnan, t.flags)
    | .fin x, .fin y => if x.n = 0 || y.n = 0 then (0, 0) else f32.round 0 (x.mul y)
    | .fin x, .inf s => if x.n = 0 then (0, 0) else (f32.signIf (x.neg != s) + f32.inf, 0)
    | .inf s, .fin y => if y.n = 0 then (f32.qnan, fNV) else (f32.signIf (s != y.neg) + f32.inf, 0)
    | .inf s, .inf u => (f32.signIf (s != u) + f32.inf, 0)
    | _, .nan _ => (f32.qnan, 0)

/-- The superblocks whose super-scale a member reads, by an element below vl of each: a vNaN there is consumed (R141, entry 17). -/
def Env.superVerdict (c : Env) (r : VReg) (vl : Nat) : Option Nat :=
  ((List.range (ceilDiv vl 256)).find? fun j => isVNan (c.super r j)).map (256 * ·)

/-- vreds (R167). -/
def vredsSem : Sem := fun f c =>
  let w := ewBits f.ew
  let isInt := f.variant == 0
  let a := c.vec f.vs1 w
  let b := c.fop2 { f with ew := 2 } 32
  let es := c.actives f.mask f.me
  let r := c.scaleReg (topReg f.f35).toNat
  if c.vl != 0 && isVNan (b.val 0) then .trap 10 none
  else
    match c.superVerdict r c.vl with
    | some e => .trap 10 (some e)
    | none =>
      let out := (List.range (ceilDiv c.vl 256)).foldl (fun (o : FRes) j =>
        let t := redsT r isInt w a es j
        let u := redsU t.1 (c.super r j)
        let v := f32.add 0 o.1 u.1
        (v.1, o.2 ||| t.2 ||| u.2 ||| v.2)) (b.val 0, 0)
      c.writeZero f.vd 32 out.1 (b.poi 0 || es.any a.poi || (List.range (4 * ceilDiv c.vl 256)).any fun k => c.scalePoi r (64 * k)) out.2

/-- vreds runs (R151). -/
def execVreds (f : VAForm) (s : State) : Res := s.va vredsSem f

/-- Source width of a vqapply kind (R168). -/
def applyWidth (variant : Nat) : Nat := if variant = 0 then 8 else 16

/-- vqapply (R168): the scaled value of R148, rounded in the member's mode. -/
def vqapplySem : Sem := fun f c =>
  let w := ewBits f.ew
  let sw := applyWidth f.variant.toNat
  let isInt := f.variant != 2
  let a := c.vec f.vs1 sw
  let es := c.actives f.mask f.me
  let r := c.scaleReg (topReg f.f35).toNat
  match es.find? fun e => isVNan (c.super r (e / 256)) with
  | some e => .trap 10 (some e)
  | none =>
    .ok (c.writeElems f.vd w es (fun e =>
      let q := unscaled isInt sw (a.val e)
      let v := roundScaled (fmtOf w) (c.mode f.rm) (scaled q (scaleCode r (e / 64)) (c.super r (e / 256)))
      (v.1, v.2 ||| flagIf (q == .nan true) fNV)) fun e => a.poi e || c.scalePoi r e)

/-- vqapply runs (R151). -/
def execVqapply (f : VAForm) (s : State) : Res := s.va vqapplySem f

/-- vqquant (R168): the code or integer a narrowing store would store, as an element of 8 bits (a q integer sign-extended). -/
def vqquantSem : Sem := fun f c =>
  let t := targetOf f.variant.toNat
  let a := c.vec f.vs1 32
  let es := c.actives f.mask f.me
  let r := c.scaleReg (topReg f.f35).toNat
  match es.find? fun e => isVNan (a.val e) || isVNan (c.super r (e / 256)) with
  | some e => .trap 10 (some e)
  | none =>
    .ok (c.writeElems f.vd 8 es (fun e =>
      let v := narrow t f32 (a.val e) (scaleCode r (e / 64)) (c.super r (e / 256))
      (if t.nq4 then v.1 else wrap 8 (sextNat t.w v.1), v.2)) fun e => a.poi e || c.scalePoi r e)

/-- vqquant runs (R151). -/
def execVqquant (f : VAForm) (s : State) : Res := s.va vqquantSem f

end Sys2Proof.Machine
end

