-- ==== Sys2Proof/Machine/Probe.lean ====
section
/-!
DEFINITION. What a memory member does before any element of it is performed: element addresses (R37, R206), record trailers (R146), operand checks (R95, R141,
R154), watermarks (R65, R66) and probe passes (R88, R105, R210).
-/

namespace Sys2Proof

/-- Memory width of a member (R37). -/
def VMForm.width (f : VMForm) : Nat := f.w1.toNat + 1

/-- A load or store of superblock records (R146). -/
def VMForm.records (op : Nat) (f : VMForm) : Bool := op ≤ 0x302 && (f.mfmt == 2 || f.mfmt == 3)

/-- The member reads scale entries of its scale register (R150, R220). -/
def VMForm.scales (op : Nat) (f : VMForm) : Bool := (op == 0x301 || op == 0x350) && (f.mfmt == 2 || f.mfmt == 3)

end Sys2Proof

namespace Sys2Proof.Machine

/-- A member whose bits 35:30 name a register: its offset comes from the constant alone (R204, R280). -/
def offsetFromConst (op : Nat) : Bool := (0x342 ≤ op && op ≤ 0x349) || op == 0x360

/-- Address of element 0 (R37). -/
def Env.ea (c : Env) (op : Nat) (f : VMForm) : Word :=
  (c.arg f.base.toNat).w + (if offsetFromConst op then 0 else sext f.f35) +
    (if f.hi3.toNat % 2 = 1 then sext (BitVec.ofNat 16 c.konst) else 0)

/-- The b register that holds a stride (R37). -/
def Env.stride (c : Env) (f : VMForm) : PWord := c.arg (f.vs2.toNat % 8)

/-- Addr(e) (R206): addresses wrap modulo 2^64. -/
def Env.elemAddr (c : Env) (op : Nat) (f : VMForm) (e : Nat) : Nat :=
  let a0 := c.ea op f
  let w := f.width
  (if f.records op then a0 + BitVec.ofNat 64 (e / 256 * (256 * w + 64) + e % 256 * w)
   else if f.am = 1 then a0 + BitVec.ofNat 64 e * (c.stride f).w
   else if f.am = 2 then a0 + BitVec.ofNat 64 ((c.vec f.vs2 64).val e)
   else a0 + BitVec.ofNat 64 (e * w)).toNat

/-- The trailer of record j (R146). -/
def Env.trailerAddr (c : Env) (op : Nat) (f : VMForm) (j : Nat) : Nat :=
  (c.ea op f + BitVec.ofNat 64 (j * (256 * f.width + 64) + 256 * f.width)).toNat

/-- Probe numbers from here on are trailers. -/
def trailerId (j : Nat) : Nat := 2 ^ 20 + j

/-- The probe is a trailer's. -/
def Probe.trailer (p : Probe) : Bool := 2 ^ 20 ≤ p.id

/-- The element a probe is reported under: a trailer's under the first of its record (R146). -/
def reportId (id : Nat) : Nat := if 2 ^ 20 ≤ id then 256 * (id - 2 ^ 20) else id

/-- The probe belongs to elements below vl. -/
def Probe.below (vl : Nat) (p : Probe) : Bool := reportId p.id < vl

/-- What a member's probe pass examines, in order (R88, R146): number, address, width. -/
def Env.probeItems (c : Env) (op : Nat) (f : VMForm) : List (Nat × Nat × Nat) :=
  let es := c.actives f.mask f.me
  let item := fun e => (e, c.elemAddr op f e, f.width)
  if f.records op then
    (List.range (ceilDiv c.vl 256)).flatMap fun j =>
      (within es (256 * j) 256).map item ++ [(trailerId j, c.trailerAddr op f j, 64)]
  else es.map item

/-- What a member's accesses need (R85, R90, R210, R216, R220, R280). DEV memory serves only a member alone in its convoy. -/
def wantOf (op : Nat) (f : VMForm) (alone : Bool) : Want :=
  match op with
  | 0x300 => { Want.load with noDev := !alone || f.am == 3 }
  | 0x301 => { Want.store with noDev := !alone }
  | 0x302 => { Want.store with noDev := !alone }
  | 0x350 => .rred
  | 0x360 => .homeLoad
  | _ => .vlink

/-- An element that raises ALIGN by its own address (R195, R214, R280). -/
def misaligned (op a w : Nat) : Bool :=
  if op = 0x360 then a % 64 != 0 else if op ≤ 0x302 then false else crossesLine a w

/-- The member's a0 is misaligned (R146, R220). -/
def Env.baseMisaligned (c : Env) (op : Nat) (f : VMForm) : Bool :=
  (f.records op && (c.ea op f).toNat % 64 != 0) || (op == 0x350 && (c.ea op f).toNat % 32 != 0)

/-- The data a narrowing store, rred or vamo.fadd reads (R207, R217, R220). -/
def Env.vmData (c : Env) (op : Nat) (f : VMForm) : Opnd := c.vec (if offsetFromConst op then f.f35 else f.vd) (ewBits f.ew)

/-- POISON_CONTROL or VERDICT_CONSUMED of a member's operands, with its element (R95, R141, R154, R206, R220, R280). `known` says that its mask and
index are, `data` that its data is. -/
def vmCheck (op : Nat) (f : VMForm) (c : Env) (known : Bool) (data : Bool := true) : Option (Nat × Option Nat) :=
  let es := c.actives f.mask f.me
  let x := c.vmData op f
  let r := c.scaleReg f.scale.toNat
  if (c.arg f.base.toNat).p || (f.am == 1 && (c.stride f).p) || (op == 0x360 && (c.arg f.mfmt.toNat).p) then some (8, none)
  else if !known then none
  else
    match es.find? fun e => (f.am == 2 && (c.vec f.vs2 64).poi e) || (data && op == 0x360 && x.poi e) with
    | some e => some (8, some e)
    | none =>
      if !data then none else
      let verdict := fun e =>
        ((op == 0x349 || (op == 0x350 && f.ew == 2) || (f.scales op && op == 0x301 && f.ew == 2)) && isVNan (x.val e)) ||
          (f.scales op && isVNan (c.super r (e / 256)))
      (es.find? verdict).map fun e => (10, some e)

/-- What a probe pass answers: what it found and the vl it leaves, a cause, or a wait for an ownership transfer or a group's migration. -/
inductive Probed where
  | ok (ps : List Probe) (vl : Nat)
  | trap (c : Cause)
  | wait
deriving DecidableEq, Repr

/-- Probing a list: what it found before the first fault, the fault's cause, address and number. -/
inductive Probing where
  | ok (ps : List Probe)
  | fault (ps : List Probe) (code addr id : Nat)
  | wait
deriving DecidableEq, Repr

/-- The agent that makes an element's access: an indexed member's elements go through their banks of the page store (R88). -/
def Agent.forElem (ag : Agent) (f : VMForm) (id : Nat) : Agent := if f.am = 2 then { ag with bank := some (id % 32 / 2) } else ag

/-- Translate and check items in order (R88, R105). -/
def State.probeList (s : State) (ag : Agent) (want : Want) (op : Nat) (f : VMForm) : List (Nat × Nat × Nat) → State × Probing
  | [] => (s, .ok [])
  | (id, a, w) :: t =>
    if misaligned op a w then (s, .fault [] 4 a id)
    else
      match s.check (ag.forElem f id) want a w with
      | (s, .trap code v) => (s, .fault [] code v id)
      | (s, .wait) => (s, .wait)
      | (s, .ok ps) =>
        (match State.probeList s ag want op f t with
         | (s, .ok l) => (s, .ok ({ id := id, va := a, ps := ps } :: l))
         | (s, .fault l code v i) => (s, .fault ({ id := id, va := a, ps := ps } :: l) code v i)
         | (s, .wait) => (s, .wait))

/-- A probe fault as a cause. -/
def probeCause (code addr id : Nat) : Cause := { code := code, addr := BitVec.ofNat 64 addr, elem := some (reportId id) }

/-- The probe pass of a member (R88, R146, R210). Where a fault-only-first load of records faults at an element inside a record whose trailer faults too, the
trailer's fault counts (DEDUCED, entry 23): vl becomes the record's first element, or the convoy traps where that is element 0. -/
def State.probeMember (s : State) (ag : Agent) (c : Env) (op : Nat) (f : VMForm) (alone : Bool) : State × Probed :=
  let want := wantOf op f alone
  if c.baseMisaligned op f then (s, .trap { code := 4, addr := c.ea op f })
  else
    match s.probeList ag want op f (c.probeItems op f) with
    | (s, .ok ps) => (s, .ok ps c.vl)
    | (s, .wait) => (s, .wait)
    | (s, .fault ps code v id) =>
      if op != 0x300 || f.am != 3 || reportId id = 0 || (c.actives f.mask f.me).head? = some id then (s, .trap (probeCause code v id))
      else if 2 ^ 20 ≤ id || !f.records op || id % 256 = 0 then (s, .ok (ps.filter (·.below (reportId id))) (reportId id))
      else
        -- the trailer of the record that holds the last elements below the fault
        let j := id / 256
        match s.probeList ag want op f [(trailerId j, c.trailerAddr op f j, 64)] with
        | (s, .ok l) => (s, .ok (ps ++ l) id)
        | (s, .wait) => (s, .wait)
        | (s, .fault _ code v i) =>
          if j = 0 then (s, .trap (probeCause code v i)) else (s, .ok (ps.filter (·.below (256 * j))) (256 * j))

/-- The watermark is armed (R65). -/
def Wm.armed (m : Wm) : Bool := m.w1.msb

/-- The count an element of w bits at a needs of a watermark; 0 where it lies outside the range (R65). -/
def Wm.need (m : Wm) (a w : Nat) : Nat :=
  let lo := m.base.toNat
  let u := field m.w1.toNat 56 6 + 1
  let hi := lo + field m.w1.toNat 0 56 * u
  if m.armed && a < hi && lo < a + w then (min (a + w) hi - 1 - lo) / u + 1 else 0

/-- The member is one that watermarks check (R65, R207, R214). -/
def checksWm (op : Nat) : Bool := op == 0x300 || op == 0x340

/-- What a watermark check answers. -/
inductive WmRes where
  | ok
  | wait
  | trap (c : Cause)
deriving DecidableEq, Repr

/-- Check some elements against watermark k of strand sid (R65, R66): a load with an element in its range reads the published count at its home, and waits
while an element needs more. A poisoned publication word leaves the observed count as it was, and one that cannot be translated or read raises that access's cause,
with its address in the word and no element (DESIGN CHOICE, entry 14). -/
def State.wmOne (s : State) (sid waited : Nat) (op : Nat) (f : VMForm) (es : List (Nat × Nat × Nat)) (k : Fin 4) : State × WmRes :=
  let m := (s.strand sid).wm[k]
  let short := fun (obs : Nat) => es.find? fun e => obs < m.need e.2.1 e.2.2
  if es.all fun e => m.need e.2.1 e.2.2 == 0 then (s, .ok)
  else
    let ag := s.agentOf sid
    match s.check ag .homeLoad m.pub.toNat 64 with
    | (s, .trap code v) => (s, .trap { code := code, addr := BitVec.ofNat 64 v })
    | (s, .wait) => (s, .wait)
    | (s, .ok ps) =>
      match s.readPieces ag 0 true ps with
      | (s, .err v) => (s, .trap { code := 6, addr := BitVec.ofNat 64 v })
      | (s, .ok v p) =>
        let obs := if p then m.obs else BitVec.ofNat 64 (min v (field m.w1.toNat 0 56))
        let s := s.modStrand sid fun t => { t with wm := t.wm.set k { m with obs := obs } }
        match short obs.toNat with
        | none => (s, .ok)
        | some e =>
          if m.lim != 0 && m.lim.toNat ≤ waited then
            (s, .trap { code := 16, addr := m.pub, elem := some (if op == 0x300 && f.am == 3 then 0 else e.1) })
          else (s, .wait)

/-- Cycles the strand's convoy has waited. -/
def State.convWaited (s : State) (sid : Nat) : Nat :=
  match (s.strand sid).convWait with
  | some c => s.coreCycle (coreOf sid) - c
  | none => 0

/-- Check a load member's elements against every watermark of its strand. -/
def State.wmCheck (s : State) (sid : Nat) (c : Env) (op : Nat) (f : VMForm) : State × WmRes :=
  if !checksWm op then (s, .ok) else
  let es := (c.actives f.mask f.me).map fun e => (e, c.elemAddr op f e, f.width)
  ([0, 1, 2, 3] : List (Fin 4)).foldl (fun (r : State × WmRes) k =>
    match r.2 with
    | .trap _ => r
    | old =>
      match r.1.wmOne sid (s.convWaited sid) op f es k with
      | (s, .ok) => (s, old)
      | q => q) (s, .ok)

/-- The convoy of a strand waits, from this cycle if it has not waited yet (R65, R228, R258). -/
def State.convWaits (s : State) (sid : Nat) : State :=
  s.modStrand sid fun t => if t.convWait.isSome then t else { t with convWait := some (s.coreCycle (coreOf sid)) }

/-- The wait of a strand's convoy is over; a watermark wait counts as progress (R65, R307). -/
def State.convGoes (s : State) (sid : Nat) (wm : Bool) : State :=
  if (s.strand sid).convWait.isNone then s
  else (if wm then s.progress sid else s).modStrand sid fun t => { t with convWait := none }

/-- The lines of a load's element, or trailer, of w bits that lies in a watermark's range are dropped first: the acquire of R65. -/
def State.wmAcquire (s : State) (p : Probe) (w : Nat) : State :=
  if s.me.wm.toList.any fun m => m.need p.va w != 0 then
    p.ps.foldl (fun s q => (linesOf q.tr.fa q.len).foldl (fun s l => s.evict s.myCore l) s) s
  else s

end Sys2Proof.Machine
end

