-- ==== Sys2Proof/Machine/System.lean ====
section
/-!
DEFINITION. System instructions (R309 to R322): traps and their return, held strands, waiting, translation and line-cache upkeep, ownership hints, saving and
restoring vector state.
-/

namespace Sys2Proof.Machine

/-- The strand that the strand and m fields name (R309). -/
def State.selSid (s : State) (k : StrandSel) : Nat := if k.m == 1 then mcsOf s.myCore else sidOf s.myCore k.strand.toNat

/-- ecall (R311): the strand is held past the ecall with a service notice; the supervisor strand raises ILLEGAL. -/
def execEcall (rs1 : Reg) (code : BitVec 15) (s : State) : Res :=
  if s.me.sup then s.trap 1
  else if s.px rs1 then s.trap 8
  else
    let h : Hold := { n0 := BitVec.ofNat 64 (code.toNat + s.noticeId s.cur), n1 := s.me.pc, n2 := s.rx rs1, service := true }
    .next ((s.adv 32).holdStrand s.cur h)

/-- tret (R310). -/
def execTret (s : State) : Res :=
  if s.frameWaits .load (s.rx 2) then .next s
  else
    match s.trapReturn s.cur with
    | (s, .ok) => .next s
    | (s, .wait) => .next s
    | (s, .trap c a) => s.trap c a

/-- tret.s (R312): release held strand K; x[rd] says whether it was held. -/
def execTretS (rd : Reg) (k : StrandSel) (s : State) : Res :=
  if !s.me.sup then s.trap 1
  else
    let sid := s.selSid k
    match (s.strand sid).hold with
    | none => .next ((s.wx rd 0).adv 32)
    | some h =>
      let s := (s.wx rd 1).adv 32
      let s := s.modStrand sid fun t => { t with hold := none, stopped := false, topen := t.topen || !h.service }
      .next (if h.service then s else s.takeHeld sid)

/-- What a selector of hget and hput names (R312). -/
inductive Item where
  | csr (n : Nat)
  | x (r : Reg)
  | pc
  | bad
deriving DecidableEq, Repr

/-- The item of a selector: every bit that names nothing is zero (R312). -/
def itemOf (v : Word) : Item :=
  let x := v.toNat
  match x / 2 ^ 12 with
  | 0 => .csr (x % 2 ^ 12)
  | 1 => if x % 2 ^ 12 < 32 then .x (BitVec.ofNat 5 x) else .bad
  | 2 => if x % 2 ^ 12 = 0 then .pc else .bad
  | _ => .bad

/-- The vector side of a held strand has not reached its convoy boundary: a convoy runs on to its retirement, or waits for it (R303). -/
def State.offBoundary (s : State) (sid : Nat) : Bool := (s.strand sid).conv.isSome || !(s.strand sid).past.isEmpty

/-- hget (R312): an S-level read of held strand K, whose vector side stands at a convoy boundary. -/
def execHget (rd rs1 : Reg) (k : StrandSel) (s : State) : Res :=
  let sid := s.selSid k
  if !s.me.sup then s.trap 1
  else if s.px rs1 then s.trap 8
  else if (s.strand sid).hold.isNone then s.trap 1
  else if s.offBoundary sid then .next s
  else
    match itemOf (s.rx rs1) with
    | .bad => s.trap 1
    | .pc => .next ((s.wx rd (s.strand sid).pc).adv 32)
    | .x r => .next ((s.wx rd ((s.strand sid).getX r).w ((s.strand sid).getX r).p).adv 32)
    | .csr n =>
      match csrAccess n true with
      | none => s.trap 1
      | some lv => if lv = 0 then s.trap 1 else .next ((s.wx rd (s.csrGet sid n).w (s.csrGet sid n).p).adv 32)

/-- hput (R312): an S-level write of held strand K, whose vector side stands at a convoy boundary. -/
def execHput (rs1 rs2 : Reg) (k : StrandSel) (s : State) : Res :=
  let sid := s.selSid k
  let v := s.rx rs2
  if !s.me.sup then s.trap 1
  else if s.px rs1 || s.px rs2 then s.trap 8
  else if (s.strand sid).hold.isNone then s.trap 1
  else if s.offBoundary sid then .next s
  else
    match itemOf (s.rx rs1) with
    | .bad => s.trap 1
    | .pc => if aligned32 v then .next ((s.modStrand sid fun t => { t with pc := v }).adv 32) else s.trap 4 v
    | .x r => .next ((s.modStrand sid fun t => t.setX r { w := v }).adv 32)
    | .csr n =>
      if csrAccess n true != some 2 || !csrLegal n v then s.trap 1
      else if n = 0x040 && v.toNat % 64 != 0 then s.trap 4 v
      else .next ((s.csrSet sid n v false).adv 32)

/-- tren (R310): the window opens, and a held asynchronous cause is taken before the next instruction. -/
def execTren (s : State) : Res := .next (((s.setMe { s.me with topen := true }).adv 32).takeHeld s.cur)

/-- idle (R313). -/
def execIdle (rd rt : Reg) (s : State) : Res :=
  if s.px rt then s.trap 8
  else if !s.me.rq.isEmpty then .next ((s.wx rd 0).adv 32)
  else if s.me.preq then .next ((s.wx rd 1).adv 32)
  else if s.expired (.idle rd rt) (s.rx rt) then .next ((s.wx rd 2).adv 32)
  else .next (s.park (.idle rd rt))

/-- yield (R314): the deficit is 0 and the next scalar instruction issues no earlier than the next cycle. -/
def execYield (s : State) : Res :=
  .next ((s.setMe { s.me with deficit := 0, notBefore := s.coreCycle s.myCore + 1 }).adv 32)

/-- A numbered matrix move that has been checked and has not finished its accesses (R249). -/
def MxOp.moving (o : MxOp) : Bool := !o.done && o.cls?.isSome

/-- What the members of a convoy have translated and may still access: slot, part and virtual address. -/
def Conv.translated (c : Conv) : List (Nat × Nat × Nat) := c.open.flatMap fun q => q.2.ps.map fun y => (q.1, q.2.id, y.va)

/-- The accesses that are translated and not finished (R315, R249): those of members of convoys and RRED updates in flight, of the address spaces and virtual addresses
that `via` names on a core, and every checked matrix move of the cores that `hit` names. -/
def State.flights (s : State) (hit : Nat → Bool) (via : Nat → Nat → Nat → Bool) : Flight :=
  { convs := s.strands.flatMap fun p => p.2.convs.flatMap fun c =>
      (c.translated.filter fun x => via (coreOf p.1) p.2.asid x.2.2).map fun x => (p.1, c.num, x)
    mxs := s.cores.flatMap fun c => if hit c.1 then (c.2.mx.ops.filter MxOp.moving).map fun o => (c.1, o.num) else []
    mids := (s.packets.filter fun p => p.vas.any (via p.sender p.asid)).map (·.mid) }

/-- Accesses of a flight are all finished. -/
def State.landed (s : State) (f : Flight) : Bool :=
  f.convs.all (fun x => (s.strand x.1).convs.all fun c => c.num != x.2.1 || !c.translated.contains x.2.2) &&
  f.mxs.all (fun x => (s.core x.1).mx.ops.all fun o => o.num != x.2 || o.done) &&
  f.mids.all fun m => s.packets.all fun p => p.mid != m

/-- Drop cached translations on every core of the issuing core's instance of a scope (R315), then wait, parked, for the accesses under way that were translated
through them: those of the space whose address a dropped entry covers, or, where no entry is left, the range that the tables now give for the address named
(DEDUCED, entry 38); and for every checked matrix move of those cores (R249). `i` is the instruction, `names` says which addresses of which space it names. -/
def State.tinv (s : State) (i : Instr) (scope : BitVec 3) (dropR : Range → Bool) (dropP : PageEnt → Bool) (names : Nat → Nat → Bool) : Res :=
  match s.me.wait.bind fun w => if w.instr = i then w.flight else none with
  | some f => if s.landed f then .next (s.adv 32) else .next s
  | none =>
    let hit := fun k => sameInst scope.toNat s.myCore k
    let drop := fun (c : Core) => { c with rlb := c.rlb.filter fun e => !dropR e, pages := c.pages.filter fun e => !dropP e }
    let f := s.flights hit fun k asid va => hit k &&
      (names asid va || (s.core k).rlb.any (fun e => dropR e && e.asid == asid && e.covers va) ||
        (s.core k).pages.any fun e => dropP e && e.holds asid (va / 2 ^ 15))
    let s : State := { s with cores := s.cores.map fun c => (c.1, if hit c.1 then drop c.2 else c.2) }
    if f = {} then .next (s.adv 32)
    else
      let s := s.park i
      .next (s.setMe { s.me with wait := s.me.wait.map fun w => { w with flight := some f } })

/-- tinv.all (R315). -/
def execTinvAll (rs1 rs2 : Reg) (scope : BitVec 3) (s : State) : Res :=
  if !s.me.sup then s.trap 1 else s.tinv (.tinvAll rs1 rs2 scope) scope (fun _ => true) (fun _ => true) (fun _ _ => true)

/-- tinv.as (R315): the entries of address space x[rs1]. -/
def execTinvAs (rs1 rs2 : Reg) (scope : BitVec 3) (s : State) : Res :=
  let n := (s.rx rs1).toNat
  if !s.me.sup then s.trap 1
  else if s.px rs1 then s.trap 8
  else if 4095 < n then s.trap 1
  else s.tinv (.tinvAs rs1 rs2 scope) scope (fun e => e.asid == n) (fun e => e.asid == n) (fun asid _ => asid == n)

/-- tinv.pg (R315): what translates bit x[rs1] of address space x[rs2]. -/
def execTinvPg (rs1 rs2 : Reg) (scope : BitVec 3) (s : State) : Res :=
  let a := (s.rx rs1).toNat
  let n := (s.rx rs2).toNat
  if !s.me.sup then s.trap 1
  else if s.px rs1 || s.px rs2 then s.trap 8
  else if 4095 < n then s.trap 1
  else
    let e := (s.findRange { s.myAgent with walk := true, asid := n } a).2
    s.tinv (.tinvPg rs1 rs2 scope) scope (fun e => e.asid == n && e.base ≤ a && a < e.base + e.len) (fun e => e.holds n (a / 2 ^ 15))
      fun asid va => asid == n && (va / 2 ^ 15 == a / 2 ^ 15 || e.any fun r => r.asid == n && r.covers va)

/-- Act on the lines of each page of a virtual range that translates (R316). -/
def State.eachLine (s : State) (a len : Nat) (f : State → Nat → State) : State :=
  (parts a len).foldl (fun s p =>
    match s.xlate s.myAgent {} p.1 with
    | (s, .ok t) => (linesOf t.fa p.2.2).foldl f s
    | (s, .error _) => s) s

/-- n bits at a lie in part among len bits at lo. -/
def meetsRange (lo len a n : Nat) : Bool := a < lo + len && lo < a + n

/-- A member of code not yet begun, run with some block arguments at a vl of at most vl, may access bits of a range: its active elements are not known, nor is the
address of an indexed element, or of any where a G1 member may move the arguments (`moved`) (DEDUCED, entry 10). -/
def mayTouch (c : Env) (moved : Bool) (lo len w : Nat) : Bool :=
  match memberOf w with
  | .vm op f =>
    moved || f.am == 2 || ((List.range c.vl).any fun e => meetsRange lo len (c.elemAddr op f e) f.width) ||
      (f.records op && (List.range (ceilDiv c.vl 256)).any fun j => meetsRange lo len (c.trailerAddr op f j) 64)
  | .g1 _ _ => true
  | _ => false

/-- Some code, run with a block's arguments, may access bits of a range; code that is not known may. -/
def codeTouches (t : Strand) (b : Vector PWord 8) (vl lo len : Nat) (l : Option (List (Nat × Nat))) : Bool :=
  match l with
  | none => true
  | some l =>
    let moved := l.any fun x => match memberOf x.1 with
      | .g1 _ _ => true
      | _ => false
    let vl := if l.any fun x => opOf x.1 == 0x385 then maxVl t.g t.n2 8 else vl
    l.any fun x => mayTouch { t := { t with b := b }, vl := vl, rm := 0, konst := x.2 } moved lo len x.1

/-- A convoy under way has an access to bits of a range left: one whose address is not known counts. -/
def Conv.touches (c : Conv) (lo len : Nat) : Bool :=
  !c.complete && (c.isMerge || c.blind || c.open.any fun q => q.2.ps.any fun y => meetsRange lo len y.va y.len)

/-- Every earlier access of a strand to some bits of its virtual memory has been performed (R316): those of its convoys under way, of the code ahead in its block in
progress and in its queued blocks, a stopped queue's among them, of its RRED updates and of its matrix operations. -/
def State.rangeDone (s : State) (sid lo len : Nat) : Bool :=
  let t := s.strand sid
  !(t.convs.any fun c => c.touches lo len) &&
  !(codeTouches t t.b ((t.blk.map (·.vl)).getD 0) lo len (s.blockAhead sid)) &&
  !((blocksOf t.queue).any fun q =>
    codeTouches { t with g := q.g } (Vector.ofFn fun i => q.args.getD i.val {}) q.vl lo len (s.blockCode (s.agentOf sid) q.addr.toNat)) &&
  !(s.packets.any fun k => k.sid == some sid && k.vas.any fun a => meetsRange lo len a 32) &&
  !(ctxOf sid == 8 && (let m := (s.core (coreOf sid)).mx
    m.ops.any fun o => !o.done && (o.runs (geomN m.mcfg)).any fun r => meetsRange lo len r.1 r.2))

/-- The common part of lcclean and lcinval (R316). -/
def State.lineOp (s : State) (rs1 rs2 : Reg) (f : State → Nat → State) : Res :=
  let len := (s.rx rs2).toNat
  if s.px rs1 || s.px rs2 then s.trap 8
  else if 2 ^ 48 ≤ len then s.trap 1
  else if len != 0 && !s.rangeDone s.cur (s.rx rs1).toNat len then .next s
  else .next ((s.eachLine (s.rx rs1).toNat len f).adv 32)

/-- lcclean (R316). -/
def execLcclean (rs1 rs2 : Reg) (s : State) : Res := s.lineOp rs1 rs2 fun s l => s.writeBack s.myCore l

/-- lcinval (R316): also drops the line and the core's fetch-cache line (R92). -/
def execLcinval (rs1 rs2 : Reg) (s : State) : Res :=
  s.lineOp rs1 rs2 fun s l => (s.evict s.myCore l).modCore s.myCore fun c => { c with fetch := Sparse.del c.fetch l }

/-- Start the transfer an ownership hint asks for, where that side is not the owner (R317). -/
def State.ownhint (s : State) (rs1 : Reg) (toDev : Bool) : Res :=
  if s.px rs1 then s.trap 8
  else
    match s.xlate s.myAgent {} (s.rx rs1).toNat with
    | (s, .ok t) =>
      let r := regionOf t.fa
      if (t.il == 4 || t.il == 5) && hasNat s.domains t.dom && s.owner r == (if toDev then Owner.host else Owner.dev) then
        .next ((s.startTransfer r toDev none (some s.myCore) t.dom).adv 32)
      else .next (s.adv 32)
    | (s, .error _) => .next (s.adv 32)

/-- ownhint.dev (R317). -/
def execOwnhintDev (rs1 : Reg) (s : State) : Res := s.ownhint rs1 true

/-- ownhint.host (R317). -/
def execOwnhintHost (rs1 : Reg) (s : State) : Res := s.ownhint rs1 false

/-- 64-bit words laid one after another from word 0, with one poison bit for each byte of a poisoned word. -/
def packWords (ws : List PWord) : Nat × Nat :=
  ws.foldr (fun w (r : Nat × Nat) => (w.w.toNat + r.1 * 2 ^ 64, (if w.p then 0xFF else 0) + r.2 * 2 ^ 8)) (0, 0)

/-- A word without poison. -/
def pw (n : Nat) : PWord := { w := BitVec.ofNat 64 n }

/-- A list of words cut or padded with zeros to n. -/
def padWords (n : Nat) (ws : List PWord) : List PWord := (ws ++ List.replicate n (pw 0)).take n

/-- ew and rounding mode of a block as one word (R318). -/
def ewRm (ew rm : Nat) : Nat := ew + rm * 4

/-- The blocks of a save area, at most 8 (R318): those of the queue, which a held strand's unwound convoys have given back. -/
def Strand.unstarted (t : Strand) : List QBlock := (blocksOf t.queue).take 8

/-- Words 0 to 175 of a save area: header, block state, reply queue, watermarks, queued blocks (R318). -/
def Strand.saveWords (t : Strand) (mask : Nat) : List PWord :=
  [pw mask, pw t.vl, pw t.vtype, pw t.estart, { w := t.vdirty }, pw t.vstate, pw t.lpart, pw t.share] ++
  [{ w := t.vpc }] ++ t.lc.toList.map (fun w => { w := w }) ++ t.b.toList ++
  (match t.blk with
   | some b => [pw 1, pw b.vl, pw (ewRm b.ew b.rm)]
   | none => [pw 0, pw 0, pw 0]) ++
  padWords 24 (pw t.rq.length :: t.rq) ++
  padWords 24 (t.wm.toList.flatMap fun m => [{ w := m.base }, { w := m.w1 }, { w := m.pub }, { w := m.lim }, { w := m.obs }]) ++
  padWords 104 (pw t.unstarted.length ::
    t.unstarted.flatMap fun b => [{ w := b.addr }] ++ b.args ++ [pw b.vl, pw (ewRm b.ew b.rm), pw 0])

/-- Bits of one mask register and one scale register (R41). -/
def maskBits (g n2 : Nat) : Nat := g * 32768 / 2 ^ n2
/-- Bits of one scale register (R41). -/
def scaleBits (g n2 : Nat) : Nat := g * 8192 / 2 ^ n2

/-- The mask and scale part of an area: m0 to m7, then s0 to s7 (R75, R318). -/
def Strand.maskScale (t : Strand) : Nat × Nat :=
  let mb := maskBits t.g t.n2
  let sb := scaleBits t.g t.n2
  let ms := (List.range 8).map fun i => Sparse.get 0 t.m i % 2 ^ mb
  let ss := (List.range 8).map fun i => Sparse.get {} t.sc i
  (ms.foldr (fun v r => v + r * 2 ^ mb) 0 + (ss.foldr (fun v r => v.bits % 2 ^ sb + r * 2 ^ sb) 0) * 2 ^ (8 * mb),
   (ss.foldr (fun v r => v.pois % 2 ^ (sb / 8) + r * 2 ^ (sb / 8)) 0) * 2 ^ mb)

/-- V of R318: where the register slots of a save area begin. -/
def saveV (g n2 : Nat) : Nat := 11264 + 8 * (g * 40960 / 2 ^ n2)

/-- Accesses of a save area. -/
def Want.area (w : Bool) : Want := { r := !w, w := w, noDev := true, many := true }

/-- The translated parts of a check that succeeded. -/
def Chk.pieces (c : Chk) : List Piece :=
  match c with
  | .ok ps => ps
  | _ => []

/-- Check len0 bits of a save area at a, and its slots of the selected registers, len bits each from base on: every bit before any is performed, the cause that of
R105's order over all of it (R318, R321). -/
def State.checkArea (s : State) (want : Want) (a len0 base len : Nat) (regs : List Nat) : State × Except Chk (List Piece × List (Nat × List Piece)) :=
  let c := s.check s.myAgent want a len0
  let r := regs.foldl (fun (r : State × List (Nat × Chk)) i =>
    let q := r.1.check s.myAgent want ((base + i * len) % 2 ^ 64) len
    (q.1, r.2 ++ [(i, q.2)])) (c.1, [])
  match worstChk (c.2 :: r.2.map (·.2)) with
  | .ok _ => (r.1, .ok (c.2.pieces, r.2.map fun x => (x.1, x.2.pieces)))
  | k => (r.1, .error k)

/-- The registers whose slots a save area of a strand holds and a mask selects. -/
def areaRegs (len mask n2 : Nat) : List Nat := if len = 0 then [] else setBits mask (2 ^ n2)

/-- What every save and restore checks first (R309, R321): level, operands, target, base; none where it may go on. -/
def State.saveGuard (s : State) (rs1 rs2 : Reg) (sid : Nat) : Option Res :=
  if !s.me.sup then some (s.trap 1)
  else if s.px rs1 || s.px rs2 then some (s.trap 8)
  else if (s.strand sid).hold.isNone then some (s.trap 1)
  else if (s.rx rs1).toNat % 512 ≠ 0 then some (s.trap 4 (s.rx rs1))
  else if s.heldBack {} || s.offBoundary sid then some (.next s)
  else none

/-- An earlier access of the supervisor strand to bits of an area is not performed (R265). -/
def State.slotsPending (s : State) (ps : List Piece) (slots : List (Nat × List Piece)) : Bool :=
  s.bitsPending s.cur (ps ++ slots.flatMap (·.2))

/-- vsave (R318, R319). -/
def execVsave (rs1 rs2 : Reg) (k : StrandSel) (s : State) : Res :=
  let sid := s.selSid k
  match s.saveGuard rs1 rs2 sid with
  | some r => r
  | none =>
    let t := s.strand sid
    let a := (s.rx rs1).toNat
    let mask := (s.rx rs2).toNat % 2 ^ (2 ^ t.n2)
    let v := saveV t.g t.n2
    let len := regBits t.g t.n2
    match s.checkArea (.area true) a v (a + v) len (areaRegs len mask t.n2) with
    | (s, .error c) => s.failed c
    | (s, .ok (ps, slots)) =>
      if s.slotsPending ps slots then .next s else
      let t := s.strand sid
      let vd := t.vdirty &&& ~~~ (BitVec.ofNat 64 mask)
      let t := { t with vdirty := vd, vstate := if vd = 0 && t.vstate = 2 then 1 else t.vstate }
      let s := s.setStrand sid t
      let hd := packWords (t.saveWords mask)
      let ms := t.maskScale
      let s := s.writeArea s.myAgent (some s.cur) 0 (hd.1 + ms.1 * 2 ^ 11264) (hd.2 + ms.2 * 2 ^ 1408) ps
      let s := slots.foldl (fun s q =>
        let r := Sparse.get {} t.v q.1
        s.writeArea s.myAgent (some s.cur) 0 r.bits r.pois q.2) s
      .next (s.adv 32)

/-- Write restored register slots into a strand, clearing the vdirty bits the mask selects (R320). -/
def State.restoreSlots (s : State) (sid mask : Nat) (slots : List (Nat × List Piece)) : State :=
  (slots.foldl (fun s q =>
    let r := s.readArea s.myAgent 0 q.2
    r.1.modStrand sid fun t => { t with v := Sparse.put t.v q.1 { bits := r.2.1, pois := r.2.2 } }) s).modStrand sid fun t =>
    { t with vdirty := t.vdirty &&& ~~~ (BitVec.ofNat 64 mask) }

/-- vrestore (R320): register slots alone. -/
def execVrestore (rs1 rs2 : Reg) (k : StrandSel) (s : State) : Res :=
  let sid := s.selSid k
  match s.saveGuard rs1 rs2 sid with
  | some r => r
  | none =>
    let t := s.strand sid
    let len := regBits t.g t.n2
    let mask := (s.rx rs2).toNat % 2 ^ (2 ^ t.n2)
    match s.checkArea (.area false) 0 0 ((s.rx rs1).toNat + saveV t.g t.n2) len (areaRegs len mask t.n2) with
    | (s, .ok (_, slots)) => if s.slotsPending [] slots then .next s else .next ((s.restoreSlots sid mask slots).adv 32)
    | (s, .error c) => s.failed c

/-- Word i of an area, with its poison. -/
def areaWord (bits pois i : Nat) : PWord := { w := BitVec.ofNat 64 (field bits (64 * i) 64), p := field pois (8 * i) 8 != 0 }

/-- The words of an area whose poison raises POISON_CONTROL: vpc, the loop counters, the vl of the block in progress and of each queued one (R320). -/
def controlWords (bits : Nat) : List Nat :=
  [8, 9, 10, 11, 12, 22] ++ (List.range (field bits (64 * 72) 64 % 16)).map fun i => 82 + 12 * i

/-- The fields of an area's header are legal (R320). -/
def areaOk (bits : Nat) : Bool :=
  let w := fun i => field bits (64 * i) 64
  let vt := w 2
  2 ≤ field vt 2 3 && field vt 2 3 ≤ 6 && field vt 5 6 ≤ 32 && field vt 11 53 == 0 && w 6 ≤ 32 && w 7 % 256 != 0 && w 5 % 4 != 3 &&
  w 72 % 16 ≤ 8 && w 21 ≤ 1 && w 23 < 32

/-- The strand with everything but its vector registers restored from an area (R318, R320). -/
def Strand.restoreState (t : Strand) (bits pois ms msp : Nat) : Strand :=
  let pwd := areaWord bits pois
  let n := fun i => field bits (64 * i) 64
  let g := field (n 2) 5 6
  let n2 := field (n 2) 2 3
  let mb := maskBits g n2
  let sb := scaleBits g n2
  let same := g == t.g && n2 == t.n2
  let word := fun (i : Nat) => (pwd i).w
  let blk (o : Nat) : QItem := .block {
    addr := word o, args := (List.range 8).map fun i => pwd (o + 1 + i), vl := n (o + 9) % 2 ^ 20
    ew := field (n (o + 10)) 0 2, rm := field (n (o + 10)) 2 3, g := g }
  { t with
    vl := n 1 % 2 ^ 20, smbVl := n 1 % 2 ^ 20, ew := field (n 2) 0 2, n2 := n2, g := g, held := g, estart := n 3
    vdirty := word 4, vstate := n 5 % 4, lpart := n 6, share := n 7 % 256
    vpc := word 8, lc := Vector.ofFn fun i => word (9 + i.val), b := Vector.ofFn fun i => pwd (13 + i.val)
    blk := if n 21 = 1 then some { vl := n 22, ew := field (n 23) 0 2, rm := field (n 23) 2 3, g := g } else none
    past := [], conv := none
    rq := (List.range (min 16 (n 24 % 32))).map fun i => pwd (25 + i)
    wm := Vector.ofFn fun i =>
      { base := word (48 + 5 * i.val), w1 := word (49 + 5 * i.val), pub := word (50 + 5 * i.val), lim := word (51 + 5 * i.val)
        obs := word (52 + 5 * i.val) }
    queue := (List.range (n 72 % 16)).map fun i => blk (73 + 12 * i)
    v := if same then t.v else []
    m := (List.range 8).map fun i => (i, field ms (mb * i) mb)
    sc := (List.range 8).map fun i =>
      (i, { bits := field ms (8 * mb + sb * i) sb, pois := field msp (mb + sb / 8 * i) (sb / 8) }) }

/-- vrestore.st (R320): the state part first, checked whole, then the selected registers. -/
def execVrestoreSt (rs1 rs2 : Reg) (k : StrandSel) (s : State) : Res :=
  let sid := s.selSid k
  match s.saveGuard rs1 rs2 sid with
  | some r => r
  | none =>
    let a := (s.rx rs1).toNat
    match s.check s.myAgent (.area false) a 11264 with
    | (s, .ok ps) =>
      let r := s.readArea s.myAgent 0 ps
      let s := r.1
      let bits := r.2.1
      let pois := r.2.2
      let vt := field bits 128 64
      let g := field vt 5 6
      let n2 := field vt 2 3
      let vpc := (areaWord bits pois 8).w
      if !areaOk bits then s.trap 1
      else if ((controlWords bits).any fun i => (areaWord bits pois i).p) then s.trap 8
      else if vpc.toNat % 64 ≠ 0 then s.trap 4 vpc
      else
        let v := saveV g n2
        let len := regBits g n2
        let mask := (s.rx rs2).toNat % 2 ^ (2 ^ n2)
        match s.checkArea (.area false) ((a + 11264) % 2 ^ 64) (v - 11264) (a + v) len (areaRegs len mask n2) with
        | (s, .ok (ps2, slots)) =>
          if s.slotsPending (ps ++ ps2) slots then .next s
          else if s.freeShares s.myCore + (s.strand sid).held < g then .next (s.park (.vrestoreSt rs1 rs2 k))
          else
            let q := s.readArea s.myAgent 0 ps2
            let s := q.1.modStrand sid fun t => t.restoreState bits pois q.2.1 q.2.2
            .next ((s.restoreSlots sid mask slots).adv 32)
        | (s, .error c) => s.failed c
    | (s, c) => s.failed c

end Sys2Proof.Machine
end

