-- ==== Sys2Proof/Machine/Sync.lean ====
section
/-!
DEFINITION. Fences, waits, barriers, trigger and exit, join, watermarks, streams, progress and launch (R275 to R288).
-/

namespace Sys2Proof.Machine

/-- fence (R268, R277): waits until earlier accesses of its classes are performed; at quad scope and wider writes back and drops the lines of the classes. -/
def execFence (scope : BitVec 3) (mask : BitVec 16) (s : State) : Res :=
  if !s.classesDone s.cur mask.toNat then .next (s.park (.fence scope mask))
  else .next ((s.acquire mask.toNat scope.toNat).adv 32)

/-- Read a 64-bit word at its home for a wait (R278): the value with its poison, or what stops the read. -/
def State.waitRead (s : State) (a : Word) : State × Except Chk PWord :=
  match s.check s.myAgent .homeLoad a.toNat 64 with
  | (s, .ok ps) =>
    if s.bitsPending s.cur ps then (s, .error .wait) else
    (match s.readPieces s.myAgent 0 true ps with
     | (s, .ok v p) => (s, .ok { w := BitVec.ofNat 64 v, p := p })
     | (s, .err v) => (s, .error (.trap 6 v)))
  | (s, c) => (s, .error c)

/-- The condition of WAITA and VWAITV: 0 eq, 1 at least, unsigned (R278, R280). -/
def condHolds (cond : Nat) (v c : Word) : Bool := if cond = 0 then v == c else c.ule v

/-- A wait on a word goes on, or its limit has expired (R276). The wait parks its strand from its first cycle, whether the word does not satisfy it or an earlier
access still holds its read (DEDUCED, entry 10). -/
def State.waitOn (s : State) (i : Instr) (rt : Reg) (a : Word) : Res := if s.expired i (s.rx rt) then s.trap 16 a else .next (s.park i)

/-- waita (R278): a poisoned word satisfies nothing (entry 14). -/
def execWaita (rt rs1 rs2 : Reg) (cond : BitVec 2) (off : BitVec 8) (s : State) : Res :=
  let a := s.rx rs1 + dwordOff off
  let i := Instr.waita rt rs1 rs2 cond off
  if s.px rt || s.px rs1 || s.px rs2 then s.trap 8
  else if a.toNat % 64 ≠ 0 then s.trap 4 a
  else if s.heldBack {} then s.waitOn i rt a
  else
    match s.waitRead a with
    | (s, .error (.trap c v)) => s.trap c (BitVec.ofNat 64 v)
    | (s, .error _) => s.waitOn i rt a
    | (s, .ok v) =>
      if !v.p && condHolds cond.toNat v.w (s.rx rs2) then .next ((s.progress s.cur).adv 32)
      else s.waitOn i rt a

/-- The group's tlm as a strand sees it (R279): 0 without a matrix program that runs. -/
def State.tlmOf (s : State) (sid : Nat) : Nat :=
  match s.groupOf sid with
  | some g => if g.matrix && g.mcsRuns then (s.core (coreOf sid)).mx.tlm else 0
  | none => 0

/-- Physical context of a context number of an address space (R196): 128 × die + context. -/
def State.physCtx (s : State) (asid n : Nat) : Option Nat :=
  Sparse.get none (s.ctxMap.map fun p => (p.1, some p.2)) (128 * asid + n)

/-- A copy context, by 128 × die + context. -/
def State.copyCtx (s : State) (pc : Nat) : CopyCtx := Sparse.get {} (s.die (pc / 128)).ctxs (pc % 128)

/-- Replace a copy context. -/
def State.setCopyCtx (s : State) (pc : Nat) (c : CopyCtx) : State :=
  s.modDie (pc / 128) fun d => { d with ctxs := Sparse.put d.ctxs (pc % 128) c }

/-- Every line of the core is written back and dropped, as an eviction may at any time (R189, R271). -/
def State.dropLines (s : State) (k : Nat) : State := ((s.core k).lines.map (·.1)).foldl (fun s l => s.evict k l) s

/-- tlwait (R271, R279). -/
def execTlwait (rn rt : Reg) (tl : BitVec 1) (cx : BitVec 7) (im : BitVec 1) (lo : BitVec 6) (s : State) : Res :=
  let i := Instr.tlwait rn rt tl cx im lo
  let n := if im = 1 then rn.toNat * 64 + lo.toNat else (s.rx rn).toNat
  let marl := tl = 1 && !isLoam s.myCore
  match (if marl then s.profile .m1 else none) with
  | some r => r
  | none =>
    if (im == 0 && s.px rn) || s.px rt then s.trap 8
    else
      match (if tl = 1 then some (s.tlmOf s.cur) else (s.physCtx s.me.asid cx.toNat).map fun p => (s.copyCtx p).timeline) with
      | none => s.trap 6
      | some tm =>
        if n ≤ tm then .next (((s.dropLines s.myCore).progress s.cur).adv 32)
        else if s.expired i (s.rx rt) then s.trap 16
        else .next (s.park i)

/-- Key of a strand in a gang barrier's records. -/
def State.gbKey (s : State) (sid : Nat) : Nat := 16 * s.gidOf sid + (if ctxOf sid = 8 then 8 else (s.strand sid).idx)

/-- A barrier, as the operations see it (R281): count, arrivals, phase, records, scope. -/
structure Bar where
  c : Nat
  a : Nat
  P : Nat
  recs : Sparse Nat
  level : Nat
deriving DecidableEq, Repr

/-- What names a barrier gives (R281): the barrier, ILLEGAL (1), or PROTECT (6). -/
def State.getBar (s : State) (kind : BitVec 1) (idx : Nat) : Except Nat Bar :=
  if kind = 0 then
    let b := (s.core s.myCore).cbs.toList.getD idx {}
    .ok { c := b.c, a := b.a, P := b.P, recs := b.recs, level := 1 }
  else
    match s.gangOf s.cur with
    | none => .error 1
    | some q =>
      match nth none q.gbs idx with
      | none => .error 1
      | some b =>
        if instOf b.level s.myCore != b.inst then .error 6
        else .ok { c := b.c, a := b.a, P := b.P, recs := b.recs, level := b.level }

/-- Write a barrier back. -/
def State.putBar (s : State) (kind : BitVec 1) (idx : Nat) (b : Bar) : State :=
  if kind = 0 then
    s.modCore s.myCore fun c =>
      { c with cbs := if h : idx < 8 then c.cbs.set idx { c := b.c, a := b.a, P := b.P, recs := b.recs } h else c.cbs }
  else
    match s.groupOf s.cur with
    | none => s
    | some g => s.modGang g.gang fun q =>
      { q with gbs := setNth q.gbs idx (some { level := b.level, c := b.c, a := b.a, P := b.P, inst := instOf b.level s.myCore, recs := b.recs }) }

/-- The record key of the strand whose turn it is. -/
def State.barKey (s : State) (kind : BitVec 1) : Nat := if kind = 0 then ctxOf s.cur else s.gbKey s.cur

/-- The completion of a barrier is a progress event of every group with a strand that arrived (R307). -/
def State.barProgress (s : State) (kind : BitVec 1) (b : Bar) (ph : Nat) : State :=
  let keys := (b.recs.filter fun p => p.2 == ph).map (·.1)
  if kind = 0 then keys.foldl (fun s c => s.progress (sidOf s.myCore c)) s
  else
    match s.groupOf s.cur with
    | none => s
    | some g =>
      { s with groups := s.groups.map fun p =>
        (p.1, if p.2.gang == g.gang && keys.any (fun k => k / 16 == p.2.gid) then { p.2 with progress := true } else p.2) }

/-- A barrier whose arrivals reach its count completes: a = 0 and P rises (R281). -/
def Bar.finish (b : Bar) : Bar := if b.c ≤ b.a then { b with a := 0, P := (b.P + 1) % 2 ^ 64 } else b

/-- bar.arv (R272, R281): counts once the strand's earlier blocks have retired; a release at the barrier's scope. -/
def execBarArv (rd : Reg) (kind : BitVec 1) (idx : BitVec 3) (s : State) : Res :=
  match s.getBar kind idx.toNat with
  | .error c => s.trap c
  | .ok b =>
    if !s.vectorDone s.cur || !s.accessesDone s.cur then .next (s.park (.barArv rd kind idx))
    else
      let s := s.release allClasses b.level
      let b1 := { b with a := b.a + 1, recs := Sparse.put b.recs (s.barKey kind) b.P }
      let s := if b1.c ≤ b1.a then s.barProgress kind b1 b.P else s
      .next (((s.putBar kind idx.toNat b1.finish).wx rd (BitVec.ofNat 64 b.P)).adv 32)

/-- bar.wt (R272, R281): waits until P passes the phase recorded at arrival, else the phase at issue; an acquire at the barrier's scope. -/
def execBarWt (rt : Reg) (kind : BitVec 1) (idx : BitVec 3) (s : State) : Res :=
  let i := Instr.barWt rt kind idx
  match s.getBar kind idx.toNat with
  | .error c => if c != 1 && s.px rt then s.trap 8 else s.trap c
  | .ok b =>
    if s.px rt then s.trap 8
    else
      let issue := match s.me.wait with
        | some w => if w.instr = i then w.target else b.P
        | none => b.P
      let target := Sparse.get issue b.recs (s.barKey kind)
      if target < b.P || 2 ^ 64 ≤ target then
        let s := s.putBar kind idx.toNat { b with recs := Sparse.del b.recs (s.barKey kind) }
        .next (((s.acquire allClasses b.level).progress s.cur).adv 32)
      else if s.expired i (s.rx rt) then s.trap 16
      else
        let s := s.park i
        .next (s.setMe { s.me with wait := s.me.wait.map fun w => { w with target := issue } })

/-- bar.init (R281). -/
def execBarInit (rs1 : Reg) (kind : BitVec 1) (idx level : BitVec 3) (s : State) : Res :=
  let n := (s.rx rs1).toNat
  if s.px rs1 then s.trap 8
  else if n = 0 || 255 < n then s.trap 1
  else if kind = 0 then
    match s.getBar kind idx.toNat with
    | .error c => s.trap c
    | .ok b =>
      let b1 := { b with c := n }
      let s := if b1.c ≤ b1.a then s.barProgress kind b1 b.P else s
      .next ((s.putBar kind idx.toNat b1.finish).adv 32)
  else
    match s.gangOf s.cur with
    | none => s.trap 1
    | some q =>
      match nth none q.gbs idx.toNat with
      | none => .next ((s.putBar kind idx.toNat { c := n, a := 0, P := 0, recs := [], level := level.toNat }).adv 32)
      | some b =>
        if instOf b.level s.myCore != b.inst then s.trap 6
        else if b.level == level.toNat && b.c == n then .next (s.adv 32)
        else s.trap 1

/-- The group has triggered once each of its strands that was started has, its matrix control strand parked on a Marl core among them (R63). -/
def State.updateTrig (s : State) (n : Nat) : State :=
  s.modGroup n fun g =>
    let all := g.sids.all (fun k => (s.strand k).trig) && (!g.mstarted || (g.savedMcs.getD (s.strand (mcsOf g.core))).trig)
    { g with trig := g.trig || all }

/-- trig (R64, R283): after the strand's earlier accesses, which become visible as if released at package scope; no effect in a supervisor strand. -/
def execTrig (s : State) : Res :=
  if s.me.sup then .next (s.adv 32)
  else if !s.vectorDone s.cur then .next (s.park .trig)
  else
    let s := (s.release allClasses 4).setMe { s.me with trig := true }
    let s := match s.me.group with
      | some n => s.updateTrig n
      | none => s
    .next (s.adv 32)

/-- exit (R283, R326, R333): the strand ends after the wait of TRIG; a supervisor strand ends as removal ends it. -/
def execExit (s : State) : Res :=
  if s.me.sup then .next (s.endSupervisor s.myCore 0)
  else if !s.vectorDone s.cur then .next (s.park .exit)
  else
    let s := s.release allClasses 4
    let s := s.setMe { s.me with trig := true, phase := .ended, wait := none, rq := [] }
    .next (match s.me.group with
      | some n => s.updateTrig n
      | none => s)

/-- join (R284): waits for bit 63 of the join word, read as WAITA reads; an acquire at package scope. -/
def execJoin (rd rs1 rt : Reg) (s : State) : Res :=
  let a := s.rx rs1
  if s.px rs1 || s.px rt then s.trap 8
  else if a.toNat % 64 ≠ 0 then s.trap 4 a
  else if s.heldBack {} then s.waitOn (.join rd rs1 rt) rt a
  else
    match s.waitRead a with
    | (s, .error (.trap c v)) => s.trap c (BitVec.ofNat 64 v)
    | (s, .error _) => s.waitOn (.join rd rs1 rt) rt a
    | (s, .ok v) =>
      if !v.p && v.w.msb then .next ((((s.acquire allClasses 4).progress s.cur).wx rd v.w).adv 32)
      else s.waitOn (.join rd rs1 rt) rt a

/-- wmcfg (R285): words 0 to 3 of the watermark from memory, word 4 zero. -/
def execWmcfg (rs1 : Reg) (k : BitVec 2) (s : State) : Res :=
  let a := s.rx rs1
  if s.px rs1 then s.trap 8
  else if a.toNat % 64 ≠ 0 then s.trap 4 a
  else if !s.me.vecIdle || s.heldBack {} then .next (s.park (.wmcfg rs1 k))
  else
    match s.check s.myAgent { Want.load with many := true } a.toNat 256 with
    | (s, .ok ps) =>
      if s.bitsPending s.cur ps then .next (s.park (.wmcfg rs1 k)) else
      (match s.readPieces s.myAgent 0 false ps with
       | (s, .err v) => s.trap 6 (BitVec.ofNat 64 v)
       | (s, .ok v p) =>
         let w := fun i => BitVec.ofNat 64 (field v (64 * i) 64)
         if p then s.trap 8
         else if bitAt v 126 || field v 224 32 != 0 then s.trap 1
         else if (w 2).toNat % 64 ≠ 0 then s.trap 4 (w 2)
         else
           let m : Wm := { base := w 0, w1 := w 1, pub := w 2, lim := w 3, obs := 0 }
           .next ((s.setMe { s.me with wm := s.me.wm.set k.toNat m k.isLt }).adv 32))
    | (s, c) => s.failed c

/-- wmpub (R65, R286): a release of every class at package scope, then an atomic unsigned maximum at the home. -/
def execWmpub (rs1 rs2 : Reg) (s : State) : Res :=
  let a := s.rx rs1
  if s.px rs1 || s.px rs2 then s.trap 8
  else if a.toNat % 64 ≠ 0 then s.trap 4 a
  else if !s.accessesDone s.cur then .next (s.park (.wmpub rs1 rs2))
  else
    match s.check s.myAgent .rmw a.toNat 64 with
    | (s, .ok ps) =>
      let s := s.release allClasses 4
      (match s.readPieces s.myAgent 0 true ps with
       | (s, .err v) => s.trap 6 (BitVec.ofNat 64 v)
       | (s, .ok v p) =>
         let r := s.writePieces s.myAgent (some s.cur) 0 true (max v (s.rx rs2).toNat) p ps
         .next (r.1.adv 32))
    | (s, c) => s.failed c

/-- The lap of record n of a ring of 2^L records (R58). -/
def lapOf (n L : Nat) : Nat := n / 2 ^ L % 255 + 1

/-- What strm.push needs of a control block (R287): no DEV memory in it, words 0 to 3 readable, and reserve readable and writable (DEDUCED, entry 15). -/
def ctlWants (ctl : Word) : List (Want × Nat × Nat) :=
  [({ noDev := true, many := true }, ctl.toNat, 512), ({ Want.homeLoad with many := true }, ctl.toNat, 256), (.rmw, (ctl + 128#64).toNat, 64)]

/-- strm.push (R59, R287). A poisoned control block raises POISON_CONTROL (R306). -/
def execStrmPush (rd rs1 rs2 : Reg) (s : State) : Res :=
  let ctl := s.rx rs1
  let src := s.rx rs2
  if s.px rs1 || s.px rs2 then s.trap 8
  else if ctl.toNat % 64 ≠ 0 then s.trap 4 ctl
  else if src.toNat % 64 ≠ 0 then s.trap 4 src
  else if !s.accessesDone s.cur then .next (s.park (.strmPush rd rs1 rs2))
  else
    match s.checkAll s.myAgent (ctlWants ctl) with
    | (s, .ok _) =>
      (match s.check s.myAgent { Want.homeLoad with many := true } src.toNat 256 with
       | (s, .ok qs) =>
         let ps := match (s.check s.myAgent { Want.homeLoad with many := true } ctl.toNat 256).2 with
           | .ok ps => ps
           | _ => []
         let s := s.release allClasses 4
         (match s.readPieces s.myAgent 0 true ps, s.readPieces s.myAgent 0 false qs with
          | (s, .ok c z), (_, .ok r p) =>
            if z then s.trap 8 else
            let n := field c 128 64
            let L := field c 64 5
            if 2 ^ L + field c 192 64 ≤ n then .next ((s.wx rd (BitVec.allOnes 64)).adv 32)
            else
              let slot := (field c 0 64 + n % 2 ^ L * 256) % 2 ^ 64
              (match s.check s.myAgent { Want.store with noDev := true, many := true } slot 256 with
               | (s, .ok rs) =>
                 (match s.check s.myAgent .rmw (ctl + 128#64).toNat 64 with
                  | (s, .ok es) =>
                    let s := (s.writePieces s.myAgent (some s.cur) 0 true ((n + 1) % 2 ^ 64) false es).1
                    let rec' := putField r 8 8 (lapOf n L)
                    let s := (s.writePieces s.myAgent (some s.cur) 0 true rec' p rs).1
                    .next ((s.wx rd (BitVec.ofNat 64 n)).adv 32)
                  | (s, c) => s.failed c)
               | (s, c) => s.failed c)
          | (s, .err v), _ => s.trap 6 (BitVec.ofNat 64 v)
          | (s, _), (_, .err v) => s.trap 6 (BitVec.ofNat 64 v))
       | (s, c) => s.failed c)
    | (s, c) => s.failed c

/-- progress (R288). -/
def execProgress (s : State) : Res := .next ((s.progress s.cur).adv 32)

/-- launch (R282): a release of every class at package scope, the argument block handed to the die's command processor, and a wait for its
answer, which becomes x[rd]. -/
def execLaunch (rd rb : Reg) (s : State) : Res :=
  if s.px rb then s.trap 8
  else
    match s.submits.find? fun u => u.fromSid == some s.cur with
    | none =>
      if !s.accessesDone s.cur then .next (s.park (.launch rd rb))
      else
        let s := s.release allClasses 4
        let u : Submit := { die := dieOf s.myCore, fromSid := some s.cur, stream := 0, block := s.rx rb }
        .next (({ s with submits := s.submits ++ [u] } : State).park (.launch rd rb))
    | some u =>
      match u.status with
      | none => .next (s.park (.launch rd rb))
      | some c => .next ((({ s with submits := s.submits.erase u } : State).wx rd (BitVec.ofNat 64 c)).adv 64)

end Sys2Proof.Machine
end

