-- ==== Sys2Proof/Machine/VecMem.lean ====
section
/-!
DEFINITION. Vector loads and stores (R134, R146, R147, R207 to R213): elements are performed in ascending order, those of host, CXL and DEV memory one for
each reply; what stops a store or a lone DEV load partway (R90, R212).
-/

namespace Sys2Proof.Machine

/-- What performing one element answers: done, it waits for an ownership transfer, or it stops the member with a cause. -/
inductive ElemRes where
  | ok
  | wait
  | stop (code addr : Nat)
deriving DecidableEq, Repr

/-- What performing a run of elements answers: all done, some left, or stopped at one. -/
inductive RunRes where
  | done
  | left (ps : List Probe)
  | stop (code addr : Nat) (p : Probe)
deriving DecidableEq, Repr

/-- The element lies in host, CXL or DEV memory: it is performed with a reply (R211). -/
def Probe.remote (p : Probe) : Bool := p.ps.any fun q => q.tr.il == 4 || q.tr.il == 5 || q.tr.dev

/-- The element lies in DEV memory. -/
def Probe.isDev (p : Probe) : Bool := p.ps.any (·.tr.dev)

/-- The ownership check as an element is performed (R212, R335, R336): a failure names the element's lowest bit in the region. -/
def State.ownAgain (s : State) (ps : List Piece) : State × ElemRes :=
  let ag := s.myAgent
  match ps.find? fun q => s.ownCheck ag q.tr == 2 with
  | some q => (s.leaveFailed ag.sid, .stop 7 q.va)
  | none =>
    match ps.find? fun q => s.ownCheck ag q.tr == 1 with
    | some q => (s.askRegion ag q.tr, .wait)
    | none => (s.proceed ag.sid ps, .ok)

/-- Perform elements in order; one that needs a reply is performed only as the first of a reply (R211). A halted core sends no request: a reply brings its own
element alone (R290). -/
def runElems (g : Probe → State → State × ElemRes) : Bool → List Probe → State → State × RunRes
  | _, [], s => (s, .done)
  | reply, p :: t, s =>
    if (p.remote || s.frozen s.myCore) && !reply then (s, .left (p :: t))
    else
      match g p s with
      | (s, .ok) => runElems g false t s
      | (s, .wait) => (s, .left (p :: t))
      | (s, .stop code a) => (s, .stop code a p)

/-- Replace the convoy in progress of the strand whose turn it is. -/
def State.modConv (s : State) (f : Conv → Conv) : State := s.setMe { s.me with conv := s.me.conv.map f }

/-- The member in progress has these elements left; a core that is not halted has sent the request for the first (R211, R290). -/
def State.pendElems (s : State) (ps : List Probe) : State := s.modConv fun k => { k with pend := .elems (!s.frozen s.myCore) ps }

/-- A memory-writing or DEV element has been performed (R303). -/
def State.markPerformed (s : State) : State := s.modConv fun k => { k with performed := true }

/-- A fault-only-first load whose mask or index a lower slot produced trims vl: the convoy runs again at the new vl (R210). -/
def State.trimConvoy (s : State) (vl : Nat) : State :=
  let t := s.me
  match t.blk, t.conv with
  | some b, some k =>
    s.setMe { t with
      v := k.hist.v, m := k.hist.m, sc := k.hist.sc
      blk := some { b with vl := vl, ff := some vl }
      conv := some { k with slot := 0, pend := .none, flags := 0, staged := [], dirty := [], wrote := [],
                            probes := k.probes.map fun p => (p.1, p.2.filter (·.below vl)) } }
  | _, _ => s

/-- Probes in the order in which a member's parts are performed: elements, then trailers (R207, R208). -/
def performOrder (ps : List Probe) : List Probe := (ps.filter fun p => !p.trailer) ++ ps.filter Probe.trailer

/-- An earlier access of the strand keeps a member waiting: one of its class, or to one of its bits, by an earlier convoy under way, a RRED update in flight or a
matrix operation (R264, R265). RRED updates of one class are put in order where they are applied. A member that writes memory, or accesses DEV memory, waits until every earlier
convoy has retired (R90, R297). -/
def State.memWaits (s : State) (op : Nat) (f : VMForm) (ps : List Probe) : Bool :=
  let bits := ps.flatMap (·.ps)
  (!s.me.past.isEmpty && (isStoreOp op || ps.any Probe.isDev)) || s.me.past.any (fun p => p.conv.holdsUp f.cls.toNat bits) ||
  if op = 0x350 then s.mxAccesses s.cur (2 ^ f.cls.toNat) || s.mxBits s.cur bits
  else s.classPending s.cur (2 ^ f.cls.toNat) || s.bitsPending s.cur bits

/-- The probes that the convoy check found for a late member still stand: its elements are those of its operands now. -/
def stillProbed (items : List (Nat × Nat × Nat)) (ps : List Probe) : Bool :=
  items.map (fun x => (x.1, x.2.1)) == ps.map fun p => (p.id, p.va)

/-- Start a memory member: its operands are checked as they stand now (R50), a member whose elements were not known at the convoy check, or have changed, is
probed now, and `go` performs what the probe pass found. -/
def State.memStart (s : State) (op : Nat) (f : VMForm) (go : State → Env → List Probe → Res) : Res :=
  match s.me.blk, s.me.conv with
  | some b, some k =>
    let c := s.me.env b k
    (match vmCheck op f c true with
     | some (code, e) => .next (s.convoyTrap s.cur { code := code, slot := k.slot, elem := e })
     | none =>
       let found := Sparse.get none (k.probes.map fun p => (p.1, some p.2)) k.slot
       if !hasNat k.late k.slot || (found.map (stillProbed (c.probeItems op f))).getD false then
         if s.memWaits op f (found.getD []) then .next s else go s c (performOrder (found.getD []))
       else
         match s.wmCheck s.cur c op f with
         | (s, .wait) => .next (s.convWaits s.cur)
         | (s, .trap cause) => .next (s.convoyTrap s.cur { cause with slot := k.slot })
         | (s, .ok) =>
           match (s.convGoes s.cur (checksWm op)).probeMember s.myAgent c op f (k.words.length == 1) with
           | (s, .wait) => .next s
           | (s, .trap cause) => .next (s.convoyTrap s.cur { cause with slot := k.slot })
           | (s, .ok ps vl) =>
             let s := s.modConv fun k => { k with probes := Sparse.put k.probes k.slot ps }
             if vl < b.vl then .next (s.trimConvoy vl) else if s.memWaits op f ps then .next s else go s c (performOrder ps))
  | _, _ => .next s

/-- The class mask of an ordered member (R39). -/
def Env.classMask (c : Env) : Nat := field c.konst 16 16

/-- A memory member is done: its acquire (R213, R269), flags, and the next slot. -/
def State.memDone (s : State) (f : VMForm) (c : Env) (o : MOut) : State :=
  let s := if f.order = 1 then s.acquire c.classMask f.scope.toNat else s
  s.setMe (s.me.apply o).nextSlot

/-- The element a load writes from what it read (R134, R143, R144). -/
def loadValue (f : VMForm) (v : Nat) : Nat :=
  let w := ewBits f.ew
  match f.mfmt.toNat with
  | 0 => v
  | 2 => if w = 16 then codeBf16 v else codeBf16 v * 2 ^ 16
  | _ => wrap w (sextNat f.width v)

/-- The strand with the touched codes and the super-scale of record j written into a scale register (R147). -/
def Strand.putTrailer (t : Strand) (c : Env) (k j v : Nat) (p : Bool) : Strand :=
  let r := (List.range (touchedBlocks c.vl j)).foldl (fun (r : VReg) i => r.set 8 (4 * j + i) (field v (8 * i) 8) p)
    (Sparse.get {} t.sc k)
  { t with sc := Sparse.put t.sc k (r.set 32 (c.superAt j) (field v 32 32) p) }

/-- The strand with element e of register vd written. -/
def Strand.putElem (t : Strand) (vd : BitVec 6) (w e v : Nat) (p : Bool) : Strand :=
  { t with v := Sparse.put t.v vd.toNat ((Sparse.get {} t.v vd.toNat).set w e v p) }

/-- Perform one element, or one trailer, of a load (R207). -/
def State.loadElem (f : VMForm) (c : Env) (p : Probe) (s : State) : State × ElemRes :=
  match s.ownAgain p.ps with
  | (s, .ok) =>
    let s := s.wmAcquire p (if p.trailer then 64 else f.width)
    (match s.readPieces s.myAgent f.cls.toNat false p.ps with
     | (s, .err _) => (s, .stop 6 p.va)
     | (s, .ok v q) =>
       let s := if p.isDev then s.markPerformed else s
       if p.trailer then (s.setMe (s.me.putTrailer c f.scale.toNat (p.id - 2 ^ 20) v q), .ok)
       else (s.setMe (s.me.putElem f.vd (ewBits f.ew) p.id (loadValue f v) q), .ok))
  | r => r

/-- The registers a load has written, for vdirty. -/
def Env.loaded (c : Env) (f : VMForm) : MOut := if (c.actives f.mask f.me).isEmpty then {} else { v := [(f.vd.toNat, c.reg f.vd)] }

/-- vdirty and vstate after a write of register vd. -/
def Strand.markDirty (t : Strand) (vd : Nat) : Strand := { t with vdirty := t.vdirty ||| BitVec.ofNat 64 (2 ^ vd), vstate := 2 }

/-- Where a member stands when it stops at a part of it (R90, R212): the element, or for the trailer of record j, which come after all elements, vl + j
(DESIGN CHOICE, entry 27). -/
def stopIndex (vl : Nat) (p : Probe) : Nat := if p.trailer then vl + (p.id - 2 ^ 20) else p.id

/-- The part is still to be performed from estart on. -/
def Probe.left (vl estart : Nat) (p : Probe) : Bool := estart ≤ stopIndex vl p

/-- A memory member stops partway (R90, R212): estart is where it stopped; a lone DEV load keeps what it has loaded, from the old estart on. -/
def State.stopMember (s : State) (f : VMForm) (store : Bool) (code addr : Nat) (p : Probe) : State :=
  let t := s.me
  match t.blk, t.conv with
  | some b, some k =>
    let dev := !store && k.words.length == 1 && (Sparse.get [] k.probes k.slot).any (·.isDev)
    let e := stopIndex b.vl p
    let any0 := ((t.env b k).actives f.mask f.me).any fun i => t.estart ≤ i && i < e
    let t := if store || dev then { t with estart := e } else t
    let t := if dev then
        { (if any0 then t.markDirty f.vd.toNat else t) with conv := some { k with hist := { k.hist with v := t.v, sc := t.sc } } }
      else t
    (s.setMe t).convoyTrap s.cur
      { code := code, addr := BitVec.ofNat 64 addr, slot := k.slot, elem := some (reportId p.id), part := (store || dev) && e != 0 }
  | _, _ => s

/-- Go on with a load: `reply` says that a reply has come (R211). -/
def State.runLoad (s : State) (f : VMForm) (c : Env) (reply : Bool) (ps : List Probe) : Res :=
  match runElems (State.loadElem f c) reply ps s with
  | (s, .left ps) => .next (s.pendElems ps)
  | (s, .stop code a p) => .next (s.stopMember f false code a p)
  | (s, .done) =>
    match s.me.blk, s.me.conv with
    | some b, some k => .next (s.memDone f c ((s.me.env b k).loaded f))
    | _, _ => .next s

/-- A vector load (R207): a lone DEV load reads from estart (R90). -/
def State.vload (s : State) (f : VMForm) : Res :=
  s.memStart 0x300 f fun s c ps =>
    let dev := ps.any (·.isDev)
    s.runLoad f c false (if dev then ps.filter (Probe.left c.vl s.me.estart) else ps)

/-- The element a store writes, with its poison and flags (R134, R150, R209). -/
def storeValue (op : Nat) (f : VMForm) (c : Env) (e : Nat) : FRes × Bool :=
  let w := ewBits f.ew
  let x := (c.vec f.vd w).val e
  let p := (c.vec f.vd w).poi e
  if op = 0x301 && f.records op then
    let r := c.scaleReg f.scale.toNat
    (narrow (targetOfMem f) (fmtOf w) x (scaleCode r (e / 64)) (c.super r (e / 256)), p || c.scalePoi r e)
  else ((x % 2 ^ f.width, 0), p)

/-- Part of a trailer's single piece. -/
def Piece.sub (q : Piece) (off len : Nat) : Piece :=
  { off := 0, len := len, va := (q.va + off) % 2 ^ 64, tr := { q.tr with fa := q.tr.fa + off } }

/-- What a store writes of record j's trailer (R147): offset, length, value, poison. -/
def trailerParts (f : VMForm) (c : Env) (j : Nat) : List (Nat × Nat × Nat × Bool) :=
  let r := c.scaleReg f.scale.toNat
  (List.range (touchedBlocks c.vl j)).map (fun i => (8 * i, 8, scaleCode r (4 * j + i), r.poi 8 (4 * j + i))) ++
    [(32, 32, c.super r j, r.poi 32 (c.superAt j))]

/-- Write some parts of a trailer. -/
def State.writeTrailer (s : State) (f : VMForm) (q : Piece) : List (Nat × Nat × Nat × Bool) → State × Bool
  | [] => (s, true)
  | (off, len, v, p) :: t =>
    match s.writePiece s.myAgent (some s.cur) f.cls.toNat false v p (q.sub off len) with
    | (s, true) => State.writeTrailer s f q t
    | r => r

/-- Perform one element, or one trailer, of a store (R208, R209). -/
def State.storeElem (op : Nat) (f : VMForm) (c : Env) (p : Probe) (s : State) : State × ElemRes :=
  match s.ownAgain p.ps with
  | (s, .ok) =>
    if p.trailer then
      (match p.ps with
       | q :: _ =>
         (match s.writeTrailer f q (trailerParts f c (p.id - 2 ^ 20)) with
          | (s, true) => (s.markPerformed, .ok)
          | (s, false) => (s, .stop 6 p.va))
       | [] => (s, .ok))
    else
      let x := storeValue op f c p.id
      (match s.writePieces s.myAgent (some s.cur) f.cls.toNat false x.1.1 x.2 p.ps with
       | (s, none) => (s.markPerformed, .ok)
       | (s, some _) => (s, .stop 6 p.va))
  | r => r

/-- What a store covers with unpoisoned data (R95, entry 11). -/
def storeCover (op : Nat) (f : VMForm) (c : Env) (ps : List Probe) : Cover :=
  ps.foldl (fun k p =>
    if p.trailer then
      (match p.ps with
       | q :: _ => (trailerParts f c (p.id - 2 ^ 20)).foldl (fun k x => if x.2.2.2 then k else coverPieces k [q.sub x.1 x.2.1]) k
       | [] => k)
    else if (storeValue op f c p.id).2 then k else coverPieces k p.ps) []

/-- The lines of probes are written back: what a release at quad scope and wider does with its own bits (R267). -/
def State.backProbes (s : State) (ps : List Probe) : State :=
  ps.foldl (fun s p => p.ps.foldl (fun s q => (linesOf q.tr.fa q.len).foldl (fun s l => s.writeBack s.myCore l) s) s) s

/-- Go on with a store. -/
def State.runStore (s : State) (op : Nat) (f : VMForm) (c : Env) (reply : Bool) (ps : List Probe) : Res :=
  match runElems (State.storeElem op f c) reply ps s with
  | (s, .left ps) => .next (s.pendElems ps)
  | (s, .stop code a p) => .next (s.stopMember f true code a p)
  | (s, .done) =>
    match s.me.conv with
    | some k =>
      let all := Sparse.get [] k.probes k.slot
      let s := s.clearCovered s.myAgent (storeCover op f c (all.filter (Probe.left c.vl s.me.estart)))
      let s := if f.order = 2 && 2 ≤ f.scope.toNat then s.backProbes all else s
      .next (s.memDone f c { flags := joinFlags (c.actives f.mask f.me) fun e => (storeValue op f c e).1.2 })
    | none => .next s

/-- A release waits for the strand's accesses of its classes that are not performed: RRED packets and matrix operations; everything older of its blocks is
performed (R203, R213, R269, R297). -/
def State.relWaits (s : State) (f : VMForm) (c : Env) : Bool := f.order == 2 && s.classPending s.cur c.classMask

/-- The release of a member, before its first element (R213, R269). -/
def State.relStart (s : State) (f : VMForm) (c : Env) : State := if f.order = 2 then s.release c.classMask f.scope.toNat else s

/-- A vector store (R208, R209): from estart, the trailers after the elements. -/
def State.vstore (s : State) (op : Nat) (f : VMForm) : Res :=
  s.memStart op f fun s c ps =>
    if s.relWaits f c then .next s
    else
      let s := (s.relStart f c).modConv fun k => { k with probes := Sparse.put k.probes k.slot ps }
      s.runStore op f c false (ps.filter (Probe.left c.vl s.me.estart))

/-- vld (R207). -/
def execVld (f : VMForm) (s : State) : Res := s.vload f

/-- vlds (R207). -/
def execVlds (f : VMForm) (s : State) : Res := s.vload f

/-- vldx (R207). -/
def execVldx (f : VMForm) (s : State) : Res := s.vload f

/-- vldff (R210): its probe pass has trimmed vl. -/
def execVldff (f : VMForm) (s : State) : Res := s.vload f

/-- vst (R208). -/
def execVst (f : VMForm) (s : State) : Res := s.vstore 0x301 f

/-- vsts (R208). -/
def execVsts (f : VMForm) (s : State) : Res := s.vstore 0x301 f

/-- vstx (R208). -/
def execVstx (f : VMForm) (s : State) : Res := s.vstore 0x301 f

/-- vstr (R209). -/
def execVstr (f : VMForm) (s : State) : Res := s.vstore 0x302 f

end Sys2Proof.Machine
end

