-- ==== Sys2Proof/Machine/Matrix.lean ====
section
/-!
DEFINITION. The matrix long forms (R227, R243 to R254) and what they share: geometry (R230), numbering and tlm (R227, R244), the claim of a row-buffer slot
(R228), the checks of MLDB's sources and MSTC's destinations (R247, R252).
-/

namespace Sys2Proof.Machine

/-- K of a geometry code (R230). -/
def geomK (g : Nat) : Nat := 64 * 2 ^ g
/-- K of a gang. -/
def Matrix.K (m : Matrix) : Nat := geomK m.mcfg
/-- N of a gang. -/
def Matrix.N (m : Matrix) : Nat := geomN m.mcfg

/-- The numbered operations not complete. -/
def Matrix.open (m : Matrix) : List MxOp := m.ops.filter fun o => !o.done

/-- A numbered operation writes accumulator row j (R245). -/
def MxOp.writesRow (o : MxOp) (j : Nat) : Bool :=
  match o.kind with
  | .row acc _ _ => acc == j
  | .mclr row count flags => bitAt flags 0 && row ≤ j && j < row + count
  | _ => false

/-- A numbered operation reads accumulator row j to store it. -/
def MxOp.storesRow (o : MxOp) (j : Nat) : Bool :=
  match o.kind with
  | .mstc row count _ _ _ _ => row ≤ j && j < row + count
  | _ => false

/-- An MVRD on row j. -/
def MxOp.verdictOn (o : MxOp) (j : Nat) : Bool :=
  match o.kind with
  | .row acc _ (some _) => acc == j
  | _ => false

/-- An operation that goes through the gang. -/
def MxOp.isRow (o : MxOp) : Bool :=
  match o.kind with
  | .row _ _ _ => true
  | _ => false

/-- An MLDB or MLDB.X. -/
def MxOp.isLoad (o : MxOp) : Bool :=
  match o.kind with
  | .mldb _ _ _ _ _ => true
  | _ => false

/-- Operation n is complete: tlm becomes the largest n with 1 to n complete (R227). -/
def Matrix.complete (m : Matrix) (n : Nat) : Matrix :=
  let ops := m.ops.map fun o => if o.num = n then { o with done := true } else o
  let tlm := match ops.find? fun o => !o.done with
    | some o => o.num - 1
    | none => m.issue
  { m with ops := ops.filter fun o => tlm < o.num, tlm := tlm }

/-- The matrix state of the core of the strand whose turn it is. -/
def State.mx (s : State) : Matrix := (s.core s.myCore).mx

/-- Number an operation, write its number to x[rd], and retire (R244); parked while 16 are not complete, or while the count of WAITC's m
is full (R132). `i` is the instruction. -/
def State.number (s : State) (i : Instr) (rd : Reg) (k : MxKind) : Res :=
  if 16 ≤ s.mx.open.length || 1023 ≤ (s.counts s.cur).2.2.2 then .next (s.park i)
  else
    let n := s.mx.issue + 1
    let s := s.modMx s.myCore fun m => { m with issue := n, ops := m.ops ++ [{ num := n, kind := k }] }
    .next ((s.wx rd (BitVec.ofNat 64 n)).adv 64)

/-- What every matrix long form checks first (R243): its profile (R16, R22), then that the strand is the matrix control strand. -/
def State.mxForm (s : State) (k : State → Res) : Res :=
  match s.profile .m1 with
  | some r => r
  | none => if ctxOf s.cur = 8 then k s else s.trap 1

/-- mcfg (R246). -/
def execMcfg (geom : BitVec 3) (s : State) : Res :=
  s.mxForm fun s =>
    if !s.mx.open.isEmpty then .next (s.park (.mcfg geom))
    else .next ((s.modMx s.myCore fun m => { m with mcfg := geom.toNat, bmat := 0, bpois := 0 }).adv 64)

/-- Where matrix sources and destinations may lie (R247): Kaolin or a scratchpad in reach. -/
def Want.matrix (w : Want) : Want := { w with noDev := true, noHost := true, many := true }

/-- The element of some parts that lies across two ranges of different interleave (R85 ALIGN). -/
def straddling (a w : Nat) : List Piece → Option Nat
  | p :: q :: t =>
    if q.off % w != 0 && (p.tr.il != q.tr.il || p.tr.dom != q.tr.dom) then some (a + q.off / w * w) else straddling a w (q :: t)
  | _ => none

/-- Check a run of elements of w bits, len bits in all, and note its pages. -/
def State.checkRun (s : State) (want : Want) (a w len : Nat) : State × Except Chk (List (Nat × Nat)) :=
  match s.check s.myAgent want.matrix a len with
  | (s, .ok ps) =>
    (match straddling a w ps with
     | some x => (s, .error (.trap 4 x))
     | none => (s, .ok (ps.map fun p => (p.va / 2 ^ 15, p.tr.fa - p.va % 2 ^ 15))))
  | (s, c) => (s, .error c)

/-- What the checks of some runs find: the causes, and the pages noted. -/
def State.runsFind (want : Want) : List (Nat × Nat × Nat) → State → List Chk → List (Nat × Nat) → State × List Chk × List (Nat × Nat)
  | [], s, cs, pages => (s, cs, pages)
  | x :: runs, s, cs, pages =>
    match s.checkRun want x.1 x.2.1 x.2.2 with
    | (s, .ok l) => State.runsFind want runs s cs (pages ++ l)
    | (s, .error c) => State.runsFind want runs s (cs ++ [c]) pages

/-- Check every run of an access before any bit is performed (R105), the cause and taddr those of the whole access; note their pages. `early` holds the
addresses that raise ALIGN before any translation (R247). -/
def State.checkRuns (s : State) (want : Want) (early : List Nat) (runs : List (Nat × Nat × Nat)) : State × Except Chk (List (Nat × Nat)) :=
  let r := State.runsFind want runs s [] []
  match worstChk r.2.1 early with
  | .ok _ => (r.1, .ok r.2.2.eraseDups)
  | c => (r.1, .error c)

/-- The translated parts of an access whose pages were noted (R249). -/
def pagePieces (pages : List (Nat × Nat)) (a w : Nat) : List Piece :=
  (parts a w).filterMap fun p =>
    (pages.find? fun g => g.1 == p.1 / 2 ^ 15).map fun g => { off := p.2.1, len := p.2.2, va := p.1, tr := { fa := g.2 + p.1 % 2 ^ 15 } }

/-- Check source rows at their addresses (R247): an ALIGN where a scaled row's is no multiple of 64. -/
def State.checkRows (s : State) (fmt w : Nat) (rows : List Nat) : State × Except Chk (List (Nat × Nat)) :=
  s.checkRuns Want.load (rows.filter fun r => fmt != 0 && r % 64 != 0) (rows.flatMap fun r => rowRuns fmt w s.mx.N r)

/-- Element width of an MLDB (R243). -/
def mldbWidth (fmt w1 : BitVec 3) : Nat := if fmt = 2 then 4 else w1.toNat + 1

/-- Earlier accesses of the matrix control strand keep an MLDB or MSTC waiting (R247, R252, R264, R265): those of its blocks, and its RRED updates. Loads and
stores of earlier matrix operations come first where this one is performed. -/
def State.mxHeld (s : State) : Bool := !s.me.vecDone || s.me.storing || s.packets.any fun p => p.sid == some s.cur

/-- MLDB and MLDB.X from their source rows on (R247): macro row k from the row at rows[k]. -/
def State.mldb (s : State) (i : Instr) (rd : Reg) (fmt w1 : BitVec 3) (cls : BitVec 4) (rows : List Nat) : Res :=
  if s.mxHeld then .next s else
  match s.checkRows fmt.toNat (mldbWidth fmt w1) rows with
  | (s, .error c) => s.failed c
  | (s, .ok pages) => s.number i rd (.mldb (rows.map some) fmt.toNat (mldbWidth fmt w1) cls.toNat pages)

/-- mldb (R247). -/
def execMldb (rd rs rst : Reg) (fmt w1 : BitVec 3) (cls : BitVec 4) (s : State) : Res :=
  s.mxForm fun s =>
    if s.px rs || s.px rst then s.trap 8
    else s.mldb (.mldb rd rs rst fmt w1 cls) rd fmt w1 cls
      ((List.range s.mx.K).map fun k => (s.rx rs + BitVec.ofNat 64 k * s.rx rst).toNat)

/-- mldb.x (R248): ILLEGAL comes before POISON_CONTROL (R50); the index list is read first, with the class of the rows. -/
def execMldbX (rd rs rst ri rn : Reg) (fmt w1 : BitVec 3) (cls : BitVec 4) (s : State) : Res :=
  s.mxForm fun s =>
    let n := (s.rx rn).toNat
    let i := Instr.mldbX rd rs rst ri rn fmt w1 cls
    if n = 0 || s.mx.K < n then s.trap 1
    else if s.px rn || s.px rs || s.px rst || s.px ri then s.trap 8
    else if s.heldBack { cls := cls.toNat } then .next s
    else
      match s.checkRun Want.load (s.rx ri).toNat 16 (16 * n) with
      | (s, .error c) => s.failed c
      | (s, .ok pages) =>
        let ps := pagePieces pages (s.rx ri).toNat (16 * n)
        if s.bitsPending s.cur ps then .next s else
        match s.readPieces s.myAgent cls.toNat false ps with
        | (s, .err v) => s.trap 6 (BitVec.ofNat 64 v)
        | (s, .ok v p) =>
          if p then s.trap 8
          else s.mldb i rd fmt w1 cls
            ((List.range n).map fun j => (s.rx rs + BitVec.ofNat 64 (field v (16 * j) 16) * s.rx rst).toNat)

/-- The rows that wait to enter the gang: four may queue (R250). -/
def Matrix.queuedRows (m : Matrix) : Nat := (m.open.filter fun o => o.isRow && !o.entered).length

/-- MMA and MVRD (R228, R250): wait for the slot, then number the row, which claims it. -/
def State.row (s : State) (i : Instr) (rd : Reg) (row : BitVec 6) (slot : BitVec 4) (pred : Option Bool) : Res :=
  s.mxForm fun s =>
    let q : Slot := Sparse.get {} s.mx.slots slot.toNat
    if !q.full || q.claimed || 4 ≤ s.mx.queuedRows || 16 ≤ s.mx.open.length then .next (s.park i)
    else
      (s.modMx s.myCore fun m => { m with slots := Sparse.put m.slots slot.toNat { q with claimed := true } }).number i rd
        (.row row.toNat slot.toNat pred)

/-- mma (R250). -/
def execMma (rd : Reg) (row : BitVec 6) (slot : BitVec 4) (s : State) : Res := s.row (.mma rd row slot) rd row slot none

/-- mvrd.sgn (R250). -/
def execMvrdSgn (rd : Reg) (row : BitVec 6) (slot : BitVec 4) (s : State) : Res := s.row (.mvrdSgn rd row slot) rd row slot (some false)

/-- mvrd.topk (R250). -/
def execMvrdTopk (rd : Reg) (row : BitVec 6) (slot : BitVec 4) (s : State) : Res := s.row (.mvrdTopk rd row slot) rd row slot (some true)

/-- mclr (R251). -/
def execMclr (rd : Reg) (row count1 : BitVec 6) (flags : BitVec 2) (s : State) : Res :=
  s.mxForm fun s => s.number (.mclr rd row count1 flags) rd (.mclr row.toNat (count1.toNat + 1) flags.toNat)

/-- Element c of an accumulator row. -/
def AccRow.get (r : AccRow) (c : Nat) : Nat := field r.bits (32 * c) 32

/-- Column c of an accumulator row is poisoned. -/
def AccRow.poi (r : AccRow) (c : Nat) : Bool := bitAt r.pois c

/-- Accumulator row j (R242: +0 until written). -/
def Matrix.row (m : Matrix) (j : Nat) : AccRow := Sparse.get {} m.acc j

/-- Threshold j (R242: −∞ until written). -/
def Matrix.thr (m : Matrix) (j : Nat) : Nat := Sparse.get 0xFF800000 m.th j

/-- mstc (R252): waits for its rows, traps a vNaN of the bf16 form, checks every destination, and is numbered. -/
def execMstc (rd ra rst : Reg) (row count1 : BitVec 6) (fmt : BitVec 2) (cls : BitVec 4) (s : State) : Res :=
  s.mxForm fun s =>
    let i := Instr.mstc rd ra rst row count1 fmt cls
    let rows := (List.range (count1.toNat + 1)).map (· + row.toNat)
    let w := if fmt = 0 then 32 else 16
    if s.px ra || s.px rst then s.trap 8
    else if s.mxHeld then .next s
    else if s.mx.open.any fun o => rows.any o.writesRow then .next (s.park i)
    else if fmt = 1 && rows.any fun j => (List.range s.mx.N).any fun c => isVNan ((s.mx.row j).get c) then s.trap 10
    else
      let dests := (List.range rows.length).map fun k => (s.rx ra + BitVec.ofNat 64 k * s.rx rst).toNat
      match s.checkRuns Want.store [] (dests.map fun a => (a, w, w * s.mx.N)) with
      | (s, .error c) => s.failed c
      | (s, .ok pages) => s.number i rd (.mstc row.toNat rows.length (fmt == 1) dests cls.toNat pages)

/-- mthr (R253). -/
def execMthr (rd : Reg) (row : BitVec 6) (s : State) : Res :=
  s.mxForm fun s => .next ((s.wx rd (BitVec.ofNat 64 (s.mx.thr row.toNat))).adv 64)

/-- mthw (R253): waits for every issued MVRD on the row; it may lower the threshold. -/
def execMthw (rs : Reg) (row : BitVec 6) (s : State) : Res :=
  s.mxForm fun s =>
    if s.px rs then s.trap 8
    else if s.mx.open.any fun o => o.verdictOn row.toNat then .next (s.park (.mthw rs row))
    else .next ((s.modMx s.myCore fun m => { m with th := Sparse.put m.th row.toNat ((s.rx rs).toNat % 2 ^ 32) }).adv 64)

/-- Slot i of a gang. -/
def Matrix.slot (m : Matrix) (i : Nat) : Slot := Sparse.get {} m.slots i

/-- P − 1 of eight slots from slot lo on; 0 for an empty slot (R254). -/
def Matrix.planesWord (m : Matrix) (lo : Nat) : Nat :=
  ((List.range 8).map fun i => let q := m.slot (lo + i); if q.full then (q.planes - 1) * 2 ^ (4 * i) else 0).sum

/-- An operation is in the gang: it has entered, in issue order (R245), and has not left. -/
def Matrix.busy (m : Matrix) : Bool :=
  (m.open.takeWhile fun o => !o.isRow || o.entered).any fun o => !o.isRow || !o.left

/-- The status word sel chooses (R254). -/
def Matrix.stat (m : Matrix) (sel : Nat) : Nat :=
  match sel with
  | 0 => ((List.range 16).map fun i =>
      let q := m.slot i
      (if q.full then 2 ^ i else 0) + if q.full && q.scaled then 2 ^ (16 + i) else 0).sum +
      if m.busy then 2 ^ 32 else 0
  | 1 => m.planesWord 0
  | 2 => m.planesWord 8
  | 3 => m.issue
  | _ => m.tlm

/-- mstat (R254). -/
def execMstat (rd : Reg) (sel : BitVec 3) (s : State) : Res :=
  s.mxForm fun s => .next ((s.wx rd (BitVec.ofNat 64 (s.mx.stat sel.toNat))).adv 64)

end Sys2Proof.Machine
end

