-- ==== Sys2Proof/Machine/VecAtomic.lean ====
section
/-!
DEFINITION. vlink, vscond, the VAMO members, rred and vwaitv (R203, R214 to R220, R280).
-/

namespace Sys2Proof.Machine

/-- The lines of a probed element. -/
def Probe.lines (p : Probe) : List Nat := p.ps.flatMap fun q => linesOf q.tr.fa q.len

/-- Two elements share bits. -/
def Probe.overlaps (p q : Probe) : Bool :=
  p.ps.any fun a => q.ps.any fun b => a.tr.fa < b.tr.fa + b.len && b.tr.fa < a.tr.fa + a.len

/-- The core of the strand whose turn it is writes back and drops some lines (R273). -/
def State.dropOwn (s : State) (ls : List Nat) : State := ls.foldl (fun s l => s.evict s.myCore l) s

/-- vlink (R214): a load at the home, a tag on each line, and the link set replaced. -/
def execVlink (f : VMForm) (s : State) : Res :=
  s.memStart 0x340 f fun s c ps =>
    let s := ps.foldl (fun s p =>
      match s.readPieces s.myAgent f.cls.toNat true p.ps with
      | (s, .err _) => s
      | (s, .ok v q) =>
        (p.lines.foldl (fun s l => s.placeTag vlinkTag l s.cur) s).setMe
          ((p.lines.foldl (fun s l => s.placeTag vlinkTag l s.cur) s).me.putElem f.vd (ewBits f.ew) p.id (loadValue f v) q)) s
    let s := s.setMe { s.me with vlinks := ps.map fun p => (p.id, BitVec.ofNat 64 p.va, f.width) }
    match s.me.blk, s.me.conv with
    | some b, some k => .next (s.memDone f c ((s.me.env b k).loaded f))
    | _, _ => .next s

/-- The elements of a vscond that commit (R215): linked at the same address and width, tag in place, no bit of a lower committing element. -/
def State.commits (s : State) (f : VMForm) (ps : List Probe) : List Probe :=
  (ps.foldl (fun (done : List Probe) p =>
    if s.me.vlinks.contains (p.id, BitVec.ofNat 64 p.va, f.width) && p.lines.all (fun l => s.tagged vlinkTag l s.cur) &&
        !(done.any fun q => q.overlaps p)
    then p :: done else done) []).reverse

/-- vscond (R215). The elements of one line are one update of it: where they write all of it with unpoisoned data, its poison goes (R95). -/
def execVscond (f : VMForm) (s : State) : Res :=
  s.memStart 0x341 f fun s c ps =>
    if s.relWaits f c then .next s
    else
      let s := (s.relStart f c).dropOwn (ps.flatMap (·.lines))
      let done := s.commits f ps
      let data := c.vec f.vd (ewBits f.ew)
      let s := done.foldl (fun s p =>
        (s.writePieces s.myAgent (some s.cur) f.cls.toNat true (data.val p.id % 2 ^ f.width) (data.poi p.id) p.ps).1) s
      let s := s.clearCovered s.myAgent (done.foldl (fun k p => if data.poi p.id then k else coverPieces k p.ps) [])
      let s := if done.isEmpty then s else s.markPerformed
      let s := (s.setMe { s.me with vlinks := [] }).forgetBroken vlinkTag s.cur
      .next (s.memDone f c { m := [(f.mask.toNat, putBits (c.maskReg f.mask.toNat) (done.map (·.id)) fun _ => false)] })

/-- The new value of a VAMO element and w bits of it (R217). -/
def amoValue (op w old d cmp : Nat) : Nat :=
  match op with
  | 0x342 => (old + d) % 2 ^ w
  | 0x343 => if sextNat w d < sextNat w old then d else old
  | 0x344 => if sextNat w old < sextNat w d then d else old
  | 0x345 => min old d
  | 0x346 => max old d
  | 0x347 => d
  | 0x348 => if old = cmp then d else old
  | _ => (f32.add 0 old d).1

/-- Perform element p of a VAMO at its home (R217): memory, vd, poison of both, its valid bit. -/
def State.amoElem (s : State) (op : Nat) (f : VMForm) (p : Probe) : State :=
  match s.me.blk, s.me.conv with
  | some b, some k =>
    let c := s.me.env b k
    let w := f.width
    let ew := ewBits f.ew
    let data := c.vec f.f35 ew
    let cmp := c.vec f.vd ew
    (match s.readPieces s.myAgent f.cls.toNat true p.ps with
     | (s, .err _) => s
     | (s, .ok old q) =>
       let z := q || data.poi p.id || (op == 0x348 && cmp.poi p.id)
       let v := amoValue op w old (data.val p.id % 2 ^ w) (cmp.val p.id % 2 ^ w)
       let s := (s.writePieces s.myAgent (some s.cur) f.cls.toNat true v z p.ps).1
       let s := s.setMe (s.me.putElem f.vd ew p.id (loadValue f old) z)
       s.modConv fun k => { k with performed := true, valid := insertNat k.valid p.id })
  | _, _ => s

/-- The elements of P that overlap no lower one (R218). -/
def roundOf (ps : List Probe) : List Probe :=
  (ps.foldl (fun (r : List Probe × List Probe) p => (p :: r.1, if r.1.any fun q => q.overlaps p then r.2 else p :: r.2)) ([], [])).2.reverse

/-- The probes of the member in progress. -/
def State.slotProbes (s : State) : List Probe :=
  match s.me.conv with
  | some k => Sparse.get [] k.probes k.slot
  | none => []

/-- Start round r of a VAMO with elements `left` to do (R218): link reads of the round's elements are sent; from round 9 on there is none. -/
def State.amoRound (s : State) (r : Nat) (left : List Probe) : State :=
  if 9 ≤ r then s.modConv fun k => { k with pend := .vamo 9 (left.map (·.id)) [] [] }
  else
    let q := roundOf left
    (s.dropOwn (q.flatMap (·.lines))).modConv fun k => { k with pend := .vamo r (left.map (·.id)) (q.map (·.id)) [] }

/-- The reply to the next link read of a round comes (R218): the elements of one line, whose tag is placed there. None where every reply is in. -/
def State.amoReply (s : State) (r : Nat) (left sent came : List Nat) : Option State :=
  let ps := s.slotProbes.filter fun p => hasNat sent p.id && !hasNat came p.id
  (ps.head?).map fun p =>
    let mine := ps.filter fun q => q.lines.head? == p.lines.head?
    ((mine.flatMap (·.lines)).foldl (fun s l => s.placeTag amoTag l s.cur) s).modConv fun k =>
      { k with pend := .vamo r left sent (came ++ mine.map (·.id)) }

/-- A VAMO is done: vd is written. -/
def State.amoDone (s : State) (f : VMForm) : State :=
  let s := s.forgetBroken amoTag s.cur
  match s.me.blk, s.me.conv with
  | some b, some k => s.memDone f (s.me.env b k) ((s.me.env b k).loaded f)
  | _, _ => s

/-- A VAMO begins (R218, R219). -/
def State.amo (s : State) (op : Nat) (f : VMForm) : Res :=
  s.memStart op f fun s c ps =>
    if s.relWaits f c then .next s
    else
      let s := (s.relStart f c).modConv fun k =>
        { k with probes := Sparse.put k.probes k.slot ps, valid := (List.range c.vl).filter fun e => !c.active f.mask f.me e }
      .next (if ps.isEmpty then s.amoDone f else s.amoRound 1 ps)

/-- vamo.add -/
def execVamoAdd (f : VMForm) (s : State) : Res := s.amo 0x342 f
/-- vamo.min -/
def execVamoMin (f : VMForm) (s : State) : Res := s.amo 0x343 f
/-- vamo.max -/
def execVamoMax (f : VMForm) (s : State) : Res := s.amo 0x344 f
/-- vamo.minu -/
def execVamoMinu (f : VMForm) (s : State) : Res := s.amo 0x345 f
/-- vamo.maxu -/
def execVamoMaxu (f : VMForm) (s : State) : Res := s.amo 0x346 f
/-- vamo.swap -/
def execVamoSwap (f : VMForm) (s : State) : Res := s.amo 0x347 f
/-- vamo.cas -/
def execVamoCas (f : VMForm) (s : State) : Res := s.amo 0x348 f
/-- vamo.fadd -/
def execVamoFadd (f : VMForm) (s : State) : Res := s.amo 0x349 f

/-- A floating value as a packet carries it: exact m × 2^e, or what it is instead (R203). -/
def relem (dst : Nat) (v : FVal) (p : Bool) : RElem :=
  match v with
  | .nan _ => { dst := dst, m := 0, e := 0, sp := 3, p := p }
  | .inf neg => { dst := dst, m := 0, e := 0, sp := if neg then 2 else 1, p := p }
  | .fin x => { dst := dst, m := if x.neg then -(x.n : Int) else x.n, e := x.e, sp := if x.n = 0 && x.neg then 4 else 0, p := p }

/-- The value rred sends for element e: as it stands, or scaled (R148, R220). -/
def rredValue (f : VMForm) (c : Env) (e : Nat) : FVal :=
  let w := ewBits f.ew
  let x := (c.vec f.vd w).val e
  let r := c.scaleReg f.scale.toNat
  match f.mfmt.toNat with
  | 0 => (fmtOf w).val x
  | 2 => scaled (bf16.val x) (scaleCode r (e / 64)) (c.super r (e / 256))
  | _ => scaled (.fin (Ex.ofInt (sextNat w x))) (scaleCode r (e / 64)) (c.super r (e / 256))

/-- The memory unit that receives an update (R203, R292): 2 × core for a scratchpad, 2 × core + 1 for a K-channel, 2^20 + p for those of peer p. -/
def unitOf (fa : Nat) : Nat :=
  if spaceOfPhys fa = 0 then 2 * coreOfPhys fa + 1 else if spaceOfPhys fa = 1 then 2 * coreOfPhys fa else 2 ^ 20 + peerOf fa

/-- The scale entries a packet carries (R220): for each superblock with an element below vl, its touched codes, then its super-scale. -/
def touchedScales (c : Env) (r : VReg) : List Nat :=
  (List.range (ceilDiv c.vl 256)).flatMap fun j => (List.range (touchedBlocks c.vl j)).map (fun i => scaleCode r (4 * j + i)) ++ [c.super r j]

/-- rred (R220): a packet for each memory unit that holds an element. The earlier stores of its class come home first (R264). -/
def execRred (f : VMForm) (s : State) : Res :=
  s.memStart 0x350 f fun s c ps =>
    if s.relWaits f c then .next s
    else
      let s := (s.relStart f c).classBack s.myCore (2 ^ f.cls.toNat)
      let w := ewBits f.ew
      let es := ps.flatMap fun p => p.ps.map fun q => (p.id, q.tr.fa)
      let mask := es.foldl (fun m x => m ||| 2 ^ x.1) 0
      let units := (es.map fun x => unitOf x.2).eraseDups
      let poi := fun e => (c.vec f.vd w).poi e || (f.mfmt != 0 && c.scalePoi (c.scaleReg f.scale.toNat) e)
      let pk := units.map fun u =>
        let mine := es.filter fun x => unitOf x.2 == u
        ({ mid := s.seq, sid := some s.cur, sender := s.myCore, unit := u, vl := c.vl, mask := mask, cls := f.cls.toNat
           asid := s.me.asid, vas := ps.map (·.va)
           payload := mine.map fun x => (c.vec f.vd w).val x.1
           scales := if f.mfmt = 0 then [] else touchedScales c (c.scaleReg f.scale.toNat)
           elems := mine.map fun x => relem x.2 (rredValue f c x.1) (poi x.1) } : RPacket)
      let s : State := { s with packets := s.packets ++ pk, seq := s.seq + 1 }
      let s := if pk.isEmpty then s else s.markPerformed
      .next (s.memDone f c {})

/-- A vwaitv completes (R280): its acquire whether or not the limit expired, and md clear at inactive elements. -/
def State.vwaitDone (s : State) (f : VMForm) (ps : List Probe) : State :=
  match s.me.blk, s.me.conv with
  | some b, some k =>
    let c := s.me.env b k
    let off := (List.range c.vl).filter fun e => !(ps.any fun p => p.id == e)
    let md := f.scale.toNat
    s.memDone f c { v := if ps.isEmpty then [] else [(f.vd.toNat, c.reg f.vd)], m := [(md, putBits (c.maskReg md) off fun _ => false)] }
  | _, _ => s

/-- vwaitv begins (R280): it counts cycles against its limit from here. -/
def execVwaitv (f : VMForm) (s : State) : Res :=
  s.memStart 0x360 f fun s _ ps =>
    if ps.isEmpty then .next (s.vwaitDone f ps)
    else .next (s.modConv fun k =>
      { k with probes := Sparse.put k.probes k.slot ps, pend := .vwait (ps.map (·.id)) (s.coreCycle s.myCore) })

end Sys2Proof.Machine
end

