-- ==== Sys2Proof/Machine/VecTransfer.lean ====
section
/-!
DEFINITION. The transfer members (R184): pushes into the strand's reply queue, and writes of loop counters and of the block's vl. Every one takes effect
when its convoy retires (R33, R118, R296).
-/

namespace Sys2Proof.Machine

/-- A meaning of a VX member. -/
abbrev XSem := VXForm → Env → MRes

/-- A push of a word. -/
def pushed (v : Nat) (p : Bool := false) : MRes := .ok { staged := [.push { w := BitVec.ofNat 64 v, p := p }] }

/-- vmpopc.rq: the count of set bits at active elements; bit 63 when it is below vl (R184). -/
def vmpopcRqSem : XSem := fun f c =>
  let n := ((c.actives f.mask f.me).filter (bitAt (c.maskField f.vs1))).length
  pushed (n + if n < c.vl then 2 ^ 63 else 0)

/-- vmpopc.rq runs. -/
def execVmpopcRq (f : VXForm) (s : State) : Res := s.member (vmpopcRqSem f)

/-- vmfirst.rq: the first set bit at an active element with bit 63, or vl (R184). -/
def vmfirstRqSem : XSem := fun f c =>
  match (c.actives f.mask f.me).find? (bitAt (c.maskField f.vs1)) with
  | some e => pushed (e + 2 ^ 63)
  | none => pushed c.vl

/-- vmfirst.rq runs. -/
def execVmfirstRq (f : VXForm) (s : State) : Res := s.member (vmfirstRqSem f)

/-- vrqb: a block argument with its poison (R184). -/
def vrqbSem : XSem := fun f c => .ok { staged := [.push (c.arg f.idx.toNat)] }

/-- vrqb runs. -/
def execVrqb (f : VXForm) (s : State) : Res := s.member (vrqbSem f)

/-- vrqe: element b[K], with its poison; 0 at or above vl or at an inactive element; a poisoned index raises POISON_CONTROL (R154, R184). -/
def vrqeSem : XSem := fun f c =>
  let i := c.arg f.idx.toNat
  let w := ewBits f.ew
  if i.p then .trap 8 none
  else if c.active f.mask f.me i.w.toNat then pushed ((c.vec f.vs1 w).val i.w.toNat) ((c.vec f.vs1 w).poi i.w.toNat)
  else pushed 0

/-- vrqe runs. -/
def execVrqe (f : VXForm) (s : State) : Res := s.member (vrqeSem f)

/-- The value of vsetlc and vsetvl: a b register, or the constant zero-extended (R184). -/
def Env.param (c : Env) (f : VXForm) : PWord :=
  if f.param.toNat = 16 then { w := BitVec.ofNat 64 c.konst } else c.arg f.param.toNat

/-- vsetlc (R184): a poisoned value raises POISON_CONTROL. -/
def vsetlcSem : XSem := fun f c =>
  let v := c.param f
  if v.p then .trap 8 none else .ok { staged := [.lc f.idx.toNat v.w] }

/-- vsetlc runs. -/
def execVsetlc (f : VXForm) (s : State) : Res := s.member (vsetlcSem f)

/-- vsetvl (R184): the block's vl and ew for later convoys of the block. -/
def vsetvlSem : XSem := fun f c =>
  let v := c.param f
  if v.p then .trap 8 none
  else .ok { staged := [.vl (min v.w.toNat (maxVl c.t.g c.t.n2 (ewBits f.ew))) (some f.ew.toNat)] }

/-- vsetvl runs. -/
def execVsetvl (f : VXForm) (s : State) : Res := s.member (vsetvlSem f)

end Sys2Proof.Machine
end

