-- ==== Sys2Proof/Machine/VecMatrix.lean ====
section
/-!
DEFINITION. The matrix-coupling members vtoa, vtoa.s, vfromc, vthrmax (R228, R229, R232, R255 to R259). A slot or a threshold is written when the convoy retires.
-/

namespace Sys2Proof.Machine

/-- Biased exponent of bf16 bits as R232 counts it: 1 for a subnormal, 0 for a zero. -/
def segExp (x : Nat) : Nat := let e := field x 7 8; if e = 0 && field x 0 7 != 0 then 1 else e

/-- ⌊|x| × 2^(shift − e)⌋ of finite bf16 bits, with |x| = M × 2^(E − 134): ⌊M × 2^(E − e + k)⌋ for k = shift − 134. -/
def alignMag (x e : Nat) (k : Int) : Nat :=
  let ex := field x 7 8
  let m := if ex = 0 then field x 0 7 else field x 0 7 + 128
  let sh : Int := (max ex 1 : Int) - e + k
  if 0 ≤ sh then m * 2 ^ sh.toNat else m / 2 ^ (-sh).toNat

/-- The magnitude of a bf16 element under segment exponent e at P planes (R232). -/
def slotMag (x e P : Nat) : Nat :=
  if field x 7 8 = 255 then (Config.slotMagnitude x P).toNat % 2 ^ P else alignMag x e ((P : Int) - 8)

/-- The largest segment exponent of some elements. -/
def maxExp (xs : List Nat) : Nat := xs.foldl (fun m x => max m (segExp x)) 0

/-- A slot's bits from 17-bit elements and its header (R232). -/
def slotBits (elem : Nat → Nat) (header : Nat) : Nat :=
  (List.range 1024).foldl (fun b k => b + elem k * 2 ^ (17 * k)) 0 + header * 2 ^ 17408

/-- The strand's VTOA may fill slot i: the slot is empty and no strand waited before it (R228). -/
def Matrix.mayFill (m : Matrix) (i sid : Nat) : Bool :=
  !(m.slot i).full && (match m.vtoaQ.find? fun q => q.1 == i with
    | some q => q.2 == sid
    | none => true)

/-- A VTOA joins those that wait on its slot, behind the strand's own that have not yet filled it, and goes on once the slot is its to fill (R228). -/
def State.vtoaStart (s : State) (f : VXForm) (g : XSem) : Res :=
  let i := f.idx.toNat
  if s.me.conv.isNone then s.member (g f) else
  let before := (s.me.past.filter fun p => hasNat p.conv.fills i).length
  let s := if before < s.mx.vtoaQ.count (i, s.cur) then s else s.modMx s.myCore fun m => { m with vtoaQ := m.vtoaQ ++ [(i, s.cur)] }
  if before = 0 && s.mx.mayFill i s.cur then (s.convGoes s.cur false).member (g f)
  else .next (s.convWaits s.cur)

/-- vtoa (R232, R256): inactive elements and those from vl on enter as zero. -/
def vtoaSem : XSem := fun f c =>
  let P := f.param.toNat
  let a := c.vec f.vs1 16
  let val := fun k => if c.active f.mask f.me k then a.val k else 0
  let exps := (List.range 32).map fun i => maxExp ((List.range 32).map fun j => val (32 * i + j))
  let bits := slotBits
    (fun k => (val k / 2 ^ 15) * 2 ^ 16 + slotMag (val k) (nth 0 exps (k / 32)) P)
    ((List.range 32).foldl (fun h i => h + nth 0 exps i * 2 ^ (8 * i)) 0)
  let pois := (List.range 1024).foldl (fun b k => if c.active f.mask f.me k && a.poi k then b + 2 ^ k else b) 0
  .ok { staged := [.fill f.idx.toNat false P bits pois] }

/-- vtoa runs. -/
def execVtoa (f : VXForm) (s : State) : Res := s.vtoaStart f vtoaSem

/-- An i8 element saturated to w bits (R257). -/
def satI8 (w v : Nat) : Int :=
  let i := sextNat 8 v
  let hi : Int := (2 ^ (w - 1) : Nat) - 1
  let lo : Int := -(2 ^ (w - 1) : Nat)
  if hi < i then hi else if i < lo then lo else i

/-- vtoa.s (R257): codes of blocks 0 to 15 and super-scales 0 to 3 that the scale register has. -/
def vtoaSSem : XSem := fun f c =>
  let P := f.param.toNat
  let a := c.vec f.vs1 8
  let r := c.scaleReg f.sreg.toNat
  let E := c.vlmax 8
  let code := fun k => if k < E / 64 then scaleCode r k else 0
  let sup := fun j => if j < E / 256 then c.super r j else 0
  match (List.range 4).find? fun j => isVNan (sup j) with
  | some j => .trap 10 (some (256 * j))
  | none =>
    let val := fun k => if c.active f.mask f.me k then satI8 P (a.val k) else 0
    let header := (List.range 16).foldl (fun h i => h + code i * 2 ^ (8 * i)) 0 +
      (List.range 4).foldl (fun h j => h + sup j * 2 ^ (128 + 32 * j)) 0
    let bits := slotBits (fun k => let q := val k; (if q < 0 then 2 ^ 16 else 0) + q.natAbs) header
    let pois := (List.range 1024).foldl (fun b k =>
      if (c.active f.mask f.me k && a.poi k) || (k < E && c.scalePoi r k) then b + 2 ^ k else b) 0
    .ok { staged := [.fill f.idx.toNat true P bits pois] }

/-- vtoa.s runs. -/
def execVtoaS (f : VXForm) (s : State) : Res := s.vtoaStart f vtoaSSem

/-- vfromc (R258): columns of an accumulator row with their poison. -/
def vfromcSem (row : AccRow) : XSem := fun f c =>
  .ok (c.writeElems f.vd 32 (c.actives f.mask f.me) (fun e => (row.get e, 0)) row.poi)

/-- vfromc runs: it waits for every matrix operation issued that writes the row (R229). -/
def execVfromc (f : VXForm) (s : State) : Res :=
  if s.mx.open.any fun o => o.writesRow f.idx.toNat then .next s
  else s.member (vfromcSem (s.mx.row f.idx.toNat) f)

/-- vthrmax (R161, R259). -/
def vthrmaxSem : XSem := fun f c =>
  let a := c.vec f.vs1 32
  let es := c.actives f.mask f.me
  match es.find? fun e => isVNan (a.val e) || a.poi e with
  | some e => .trap (if isVNan (a.val e) then 10 else 8) (some e)
  | none =>
    match es.map a.val with
    | [] => .ok {}
    | x :: t =>
      let v := t.foldl (fun m y => (f32.minmax true m y).1) x
      if f32.isNan v then .ok {} else .ok { staged := [.thr f.idx.toNat v] }

/-- vthrmax runs. -/
def execVthrmax (f : VXForm) (s : State) : Res := s.member (vthrmaxSem f)

end Sys2Proof.Machine
end

