-- ==== Sys2Proof/Machine/VecMerge.lean ====
section
/-!
DEFINITION. The G1 members visect and vmerge (R180 to R183): each execution takes one pass of the loop of R181, whose end is a merge boundary; the convoy
goes on while the loop does.
-/

namespace Sys2Proof.Machine

/-- Cursor c: the element address in b[c] and the count in b[c + 1]. -/
def Strand.cursor (t : Strand) (c : BitVec 3) : Word × Word :=
  ((t.b.toList.getD c.toNat {}).w, (t.b.toList.getD (c.toNat + 1) {}).w)

/-- A cursor register is poisoned. -/
def Strand.cursorPoi (t : Strand) (c : BitVec 3) : Bool := (t.b.toList.getD c.toNat {}).p || (t.b.toList.getD (c.toNat + 1) {}).p

/-- Set block argument k. -/
def Strand.setB (t : Strand) (k : Nat) (w : Word) : Strand := if h : k < 8 then { t with b := t.b.set k { w := w } h } else t

/-- Move cursor c on by one element of w bits, its count by d. -/
def Strand.moveCursor (t : Strand) (c : BitVec 3) (w : Nat) (d : Word) : Strand :=
  (t.setB c.toNat ((t.cursor c).1 + BitVec.ofNat 64 w)).setB (c.toNat + 1) ((t.cursor c).2 + d)

/-- What reading a head answers: a key with its poison and where it stands, none where the stream has ended, or what stops it. -/
inductive KeyRes where
  | key (h : Head)
  | none
  | stop (c : Chk) (addr : Word)
deriving DecidableEq, Repr

/-- An earlier access of the strand keeps an access of a G1 member waiting: one of class c0, or to one of its bits, by an earlier convoy under way, a RRED update in
flight or a matrix operation (R183, R264, R265). -/
def State.mergeWaits (s : State) (ps : List Piece) : Bool :=
  s.me.past.any (fun p => p.conv.holdsUp 0 ps) || s.classPending s.cur 1 || s.bitsPending s.cur ps

/-- Read one element of w bits, as class c0 (R183). `w` bits need W where the element is of the output (R182; DEDUCED, entry 24). -/
def State.readKey (s : State) (out : Bool) (a : Word) (w : Nat) : State × KeyRes :=
  match s.check s.myAgent { (if out then Want.store else Want.load) with noDev := true } a.toNat w with
  | (s, .ok ps) =>
    if s.mergeWaits ps then (s, .stop .wait a) else
    (match s.readPieces s.myAgent 0 false ps with
     | (s, .ok v p) => (s, .key { key := v, pois := p, ps := ps })
     | (s, .err v) => (s, .stop (.trap 6 v) a))
  | (s, c) => (s, .stop c a)

/-- Read the head of a stream, where it has one that an earlier pass has not read (R183: each element is read once). -/
def State.headOf (s : State) (held : Option Head) (c : BitVec 3) (w : Nat) : State × KeyRes :=
  if (s.me.cursor c).2 = 0 then (s, .none)
  else match held with
    | some h => (s, .key h)
    | none => s.readKey false (s.me.cursor c).1 w

/-- The heads a convoy holds (R183). -/
def Strand.heads (t : Strand) : Option Head × Option Head :=
  match t.conv with
  | some k => (match k.pend with
    | .heads a b => (a, b)
    | _ => (none, none))
  | none => (none, none)

/-- A head, where one was read. -/
def KeyRes.opt : KeyRes → Option Head
  | .key h => some h
  | _ => Option.none

/-- A head's key with its poison. -/
def Head.val (h : Head) : Nat × Bool := (h.key, h.pois)

/-- A held head, unless a write to some pieces touches its bits: then the next pass reads it again (R183). -/
def heldPast (ps : List Piece) (h : Option Head) : Option Head :=
  h.filter fun h => !(h.ps.any fun a => ps.any fun b => a.tr.fa < b.tr.fa + b.len && b.tr.fa < a.tr.fa + a.len)

/-- A G1 member stops at a merge boundary (R182): the convoy retires partially, its cursors and estart stand. taddr is the element's lowest bit, or for OWNERSHIP
its lowest bit in the region (R336). -/
def State.mergeStop (s : State) (c : Chk) (a : Word) : Res :=
  match c with
  | .trap code v => .next (s.convoyTrap s.cur { code := code, addr := if code = 7 then BitVec.ofNat 64 v else a, part := s.me.estart != 0 })
  | _ => .next s

/-- What a pass does once its keys are read: which cursors advance, and the key it emits with its poison. -/
structure MergeStep where
  advA : Bool := false
  advB : Bool := false
  emit : Option (Nat × Bool) := none
deriving DecidableEq, Repr

/-- A pass of visect (R181). -/
def isectStep (x y : Nat) (p q : Bool) : MergeStep :=
  if x < y then { advA := true } else if y < x then { advB := true } else { advA := true, advB := true, emit := some (x, p || q) }

/-- A pass of vmerge before the dedup test (R181): none sorts last. -/
def mergeStep (mode : Nat) (x y : Option (Nat × Bool)) : MergeStep :=
  match x, y with
  | none, none => {}
  | some a, none => { advA := true, emit := some a }
  | none, some b => { advB := true, emit := some b }
  | some a, some b =>
    if a.1 < b.1 then { advA := true, emit := some a }
    else if b.1 < a.1 then { advB := true, emit := some b }
    else if mode = 0 then { advA := true, emit := some a }
    else { advA := true, advB := true, emit := some (a.1, a.2 || b.2) }

/-- Hold the heads a pass has read. -/
def Strand.hold2 (t : Strand) (a b : Option Head) : Strand := { t with conv := t.conv.map fun k => { k with pend := .heads a b } }

/-- What a pass does to the cursors of its streams, and to the heads held, once it has written some pieces. -/
def Strand.passHeads (t : Strand) (f : G1Form) (m : MergeStep) (ps : List Piece) : Strand :=
  let w := ewBits f.ew
  let h := t.heads
  let t := if m.advA then t.moveCursor f.ca w (-1) else t
  let t := if m.advB then t.moveCursor f.cb w (-1) else t
  t.hold2 (if m.advA then none else heldPast ps h.1) (if m.advB then none else heldPast ps h.2)

/-- Take a pass: write what it emits, then move the cursors, or stop with nothing of the pass done (R182). The first output element waits until every earlier
convoy has retired (R183, R297). -/
def State.mergeTake (s : State) (f : G1Form) (m : MergeStep) : Res :=
  let w := ewBits f.ew
  match m.emit with
  | none => .next (s.setMe (s.me.passHeads f m []))
  | some (k, p) =>
    let a := (s.me.cursor f.co).1
    match s.check s.myAgent { Want.store with noDev := true } a.toNat w with
    | (s, .ok ps) =>
      if !s.me.past.isEmpty || s.mergeWaits ps then .next s else
      let s := (s.writePieces s.myAgent (some s.cur) 0 false k p ps).1
      let t := (s.me.passHeads f m ps).moveCursor f.co w 1
      .next (s.setMe { t with estart := t.estart + 1 }).markPerformed
    | (s, c) => s.mergeStop c a

/-- The loop of R181 has ended, for a vl. -/
def Strand.mergeEnded (t : Strand) (isect : Bool) (f : G1Form) (vl : Nat) : Bool :=
  let na := (t.cursor f.ca).2
  let nb := (t.cursor f.cb).2
  vl ≤ t.estart || (na == 0 && nb == 0) || (isect && (na == 0 || nb == 0))

/-- One pass of a G1 member: poisoned cursors raise POISON_CONTROL (R306). -/
def State.merge (s : State) (isect : Bool) (f : G1Form) : Res :=
  match s.me.blk, s.me.conv with
  | some b, some _ =>
    let w := ewBits f.ew
    if s.me.cursorPoi f.co || s.me.cursorPoi f.ca || s.me.cursorPoi f.cb then s.mergeStop (.trap 8 0) 0
    else if s.me.mergeEnded isect f b.vl then .next (s.setMe s.me.nextSlot)
    else
      (match s.headOf s.me.heads.1 f.ca w with
       | (s, .stop c a) => s.mergeStop c a
       | (s, x) =>
         match (s.setMe (s.me.hold2 x.opt s.me.heads.2)).headOf s.me.heads.2 f.cb w with
         | (s, .stop c a) => s.mergeStop c a
         | (s, y) =>
           let s := s.setMe (s.me.hold2 x.opt y.opt)
           let m := match isect, x, y with
             | true, .key h, .key g => isectStep h.key g.key h.pois g.pois
             | _, _, _ => mergeStep f.mode.toNat (x.opt.map Head.val) (y.opt.map Head.val)
           let o := s.me.cursor f.co
           if !isect && f.mode == 2 && o.2 != 0 then
             match s.readKey true (o.1 - BitVec.ofNat 64 w) w with
             | (s, .stop c a) => s.mergeStop c a
             | (s, .key h) => s.mergeTake f (if m.emit.map (·.1) == some h.key then { m with emit := none } else m)
             | (s, .none) => s.mergeTake f m
           else s.mergeTake f m)
  | _, _ => .next s

/-- visect (R181). -/
def execVisect (f : G1Form) (s : State) : Res := s.merge true f

/-- vmerge (R181). -/
def execVmerge (f : G1Form) (s : State) : Res := s.merge false f

end Sys2Proof.Machine
end

