-- ==== Sys2Proof/Machine/VecFloat.lean ====
section
/-!
DEFINITION. Floating vector members at bf16 and f32, and the shared operations of their f64 counterparts (R137 to R142, R160 to R164).
-/

namespace Sys2Proof.Machine

/-- An elementwise floating member of two operands (R160): each result rounded once, a vNaN operand consumed (R141). -/
def fltSem (g : Fmt → Nat → Nat → Nat → FRes) : Sem := fun f c =>
  let w := ewBits f.ew
  let a := c.vec f.vs1 w
  let b := c.fop2 f w
  let es := c.actives f.mask f.me
  guardVerdict es w [a, b]
    (.ok (c.writeElems f.vd w es (fun e => g (fmtOf w) (c.mode f.rm) (a.val e) (b.val e)) fun e => a.poi e || b.poi e))

/-- An elementwise floating member of one operand read at width r and written at width w. -/
def fltUnary (r w : Nat) (g : Nat → Nat → FRes) : Sem := fun f c =>
  let a := c.vec f.vs1 r
  let es := c.actives f.mask f.me
  guardVerdict es r [a] (.ok (c.writeElems f.vd w es (fun e => g (c.mode f.rm) (a.val e)) a.poi))

/-- A fused multiply-add; `np` negates the product, `nc` the addend (R160). -/
def fmaSem (np nc : Bool) : Sem := fun f c =>
  let w := ewBits f.ew
  let a := c.vec f.vs1 w
  let b := c.fop2 f w
  let d := c.vec f.f35 w
  let es := c.actives f.mask f.me
  guardVerdict es w [a, b, d]
    (.ok (c.writeElems f.vd w es (fun e => (fmtOf w).fma (c.mode f.rm) np nc (a.val e) (b.val e) (d.val e))
      fun e => a.poi e || b.poi e || d.poi e))

/-- A conversion from integers of the member's ew, read as bits and never as a vNaN (R142). -/
def fromInt (sgn : Bool) : Sem := fun f c =>
  let w := ewBits f.ew
  let a := c.vec f.vs1 w
  let es := c.actives f.mask f.me
  .ok (c.writeElems f.vd w es
    (fun e => (fmtOf w).ofInt (c.mode f.rm) (if sgn then sextNat w (a.val e) else (a.val e : Int))) a.poi)

/-- A conversion to integers of the member's ew (R142). -/
def intoInt (sgn : Bool) : Sem := fun f c =>
  fltUnary (ewBits f.ew) (ewBits f.ew) (fun rm a => (fmtOf (ewBits f.ew)).toInt rm sgn (ewBits f.ew) a) f c

/-- VCMP (R163): the condition on two ordinary numbers, its value on an unordered pair, and whether any ordinary NaN sets NV or only a signalling
one. A vNaN makes the pair unordered and adds no flag. A poisoned active element raises POISON_CONTROL (R154). -/
def fcmpSem (g : Fmt → Nat → Nat → Bool) (unordered loud : Bool) : Sem := fun f c =>
  let w := ewBits f.ew
  let F := fmtOf w
  let a := c.vec f.vs1 w
  let b := c.fop2 f w
  let es := c.actives f.mask f.me
  let nv := fun (x : Nat) => F.isNan x && !(w == 32 && isVNan x) && (loud || F.isSnan x)
  guardPoison es [a, b]
    (.ok (c.writeMask f.vd es (fun e => if F.isNan (a.val e) || F.isNan (b.val e) then unordered else g F (a.val e) (b.val e))
      (joinFlags es fun e => flagIf (nv (a.val e) || nv (b.val e)) fNV)))

/-- The class of vmfclass that a variant names (R163). -/
def inClass (w variant x : Nat) : Bool :=
  let F := fmtOf w
  let vn := w == 32 && isVNan x
  match variant with
  | 0 => vn
  | 1 => vn && !bitAt x 31
  | 2 => vn && bitAt x 31
  | 3 => F.isNan x && !vn
  | 4 => F.isInf x
  | 5 => x % F.sign == 0
  | 6 => field x F.fb F.eb == 0 && field x 0 F.fb != 0
  | _ => F.isNeg x && !F.isNan x

/-- vmfclass: no flag, no trap on a vNaN (R163). -/
def classSem : Sem := fun f c =>
  let w := ewBits f.ew
  let a := c.vec f.vs1 w
  let es := c.actives f.mask f.me
  guardPoison es [a] (.ok (c.writeMask f.vd es fun e => inClass w f.variant.toNat (a.val e)))

/-- A floating reduction in ascending order from op2[0] (R164); a vNaN among the active elements or as the initial value is consumed. -/
def fredSem (g : Fmt → Nat → Nat → Nat → FRes) : Sem := fun f c =>
  let w := ewBits f.ew
  let F := fmtOf w
  let a := c.vec f.vs1 w
  let b := c.fop2 f w
  let es := c.actives f.mask f.me
  if c.vl != 0 && w == 32 && isVNan (b.val 0) then .trap 10 none
  else
    let r := es.foldl (fun (r : FRes) e => let q := g F (c.mode f.rm) r.1 (a.val e); (q.1, r.2 ||| q.2)) (b.val 0, 0)
    guardVerdict es w [a] (c.writeZero f.vd w r.1 (b.poi 0 || es.any a.poi) r.2)

/-- vfmin or vfmax as a function of two elements (R161). -/
def minmaxOf (isMax : Bool) (F : Fmt) (_rm a b : Nat) : FRes := F.minmax isMax a b

/-- vfadd (R160). -/
def vfaddSem : Sem := fltSem Fmt.add

/-- vfadd runs (R151). -/
def execVfadd (f : VAForm) (s : State) : Res := s.va vfaddSem f

/-- vfsub (R160). -/
def vfsubSem : Sem := fltSem Fmt.sub

/-- vfsub runs (R151). -/
def execVfsub (f : VAForm) (s : State) : Res := s.va vfsubSem f

/-- vfmul (R160). -/
def vfmulSem : Sem := fltSem Fmt.mul

/-- vfmul runs (R151). -/
def execVfmul (f : VAForm) (s : State) : Res := s.va vfmulSem f

/-- vfdiv (R160). -/
def vfdivSem : Sem := fltSem Fmt.div

/-- vfdiv runs (R151). -/
def execVfdiv (f : VAForm) (s : State) : Res := s.va vfdivSem f

/-- vfsqrt (R160). -/
def vfsqrtSem : Sem := fun f c => fltUnary (ewBits f.ew) (ewBits f.ew) (fmtOf (ewBits f.ew)).sqrt f c

/-- vfsqrt runs (R151). -/
def execVfsqrt (f : VAForm) (s : State) : Res := s.va vfsqrtSem f

/-- vfmin (R161). -/
def vfminSem : Sem := fltSem (minmaxOf false)

/-- vfmin runs (R151). -/
def execVfmin (f : VAForm) (s : State) : Res := s.va vfminSem f

/-- vfmax (R161). -/
def vfmaxSem : Sem := fltSem (minmaxOf true)

/-- vfmax runs (R151). -/
def execVfmax (f : VAForm) (s : State) : Res := s.va vfmaxSem f

/-- vfma: a × b + vs3 (R160). -/
def vfmaSem : Sem := fmaSem false false

/-- vfma runs (R151). -/
def execVfma (f : VAForm) (s : State) : Res := s.va vfmaSem f

/-- vfms: a × b − vs3 (R160). -/
def vfmsSem : Sem := fmaSem false true

/-- vfms runs (R151). -/
def execVfms (f : VAForm) (s : State) : Res := s.va vfmsSem f

/-- vfnma: −(a × b) + vs3 (R160). -/
def vfnmaSem : Sem := fmaSem true false

/-- vfnma runs (R151). -/
def execVfnma (f : VAForm) (s : State) : Res := s.va vfnmaSem f

/-- vfsgnj (R160). -/
def vfsgnjSem : Sem := fltSem fun F _ a b => (F.sgnj false a b, 0)

/-- vfsgnj runs (R151). -/
def execVfsgnj (f : VAForm) (s : State) : Res := s.va vfsgnjSem f

/-- vfsgnjn (R160). -/
def vfsgnjnSem : Sem := fltSem fun F _ a b => (F.sgnj true a b, 0)

/-- vfsgnjn runs (R151). -/
def execVfsgnjn (f : VAForm) (s : State) : Res := s.va vfsgnjnSem f

/-- vfcvt.f32.bf16: exact (R142, R162). -/
def vfcvtF32Bf16Sem : Sem := fltUnary 16 32 fun rm a => Fmt.convert bf16 f32 rm a

/-- vfcvt_f32_bf16 runs (R151). -/
def execVfcvtF32Bf16 (f : VAForm) (s : State) : Res := s.va vfcvtF32Bf16Sem f

/-- vfcvt.bf16.f32 (R142, R162). -/
def vfcvtBf16F32Sem : Sem := fltUnary 32 16 fun rm a => Fmt.convert f32 bf16 rm a

/-- vfcvt_bf16_f32 runs (R151). -/
def execVfcvtBf16F32 (f : VAForm) (s : State) : Res := s.va vfcvtBf16F32Sem f

/-- vfcvt.f.i (R142, R162). -/
def vfcvtFISem : Sem := fromInt true

/-- vfcvt_f_i runs (R151). -/
def execVfcvtFI (f : VAForm) (s : State) : Res := s.va vfcvtFISem f

/-- vfcvt.f.u (R142, R162). -/
def vfcvtFUSem : Sem := fromInt false

/-- vfcvt_f_u runs (R151). -/
def execVfcvtFU (f : VAForm) (s : State) : Res := s.va vfcvtFUSem f

/-- vfcvt.i.f (R142, R162). -/
def vfcvtIFSem : Sem := intoInt true

/-- vfcvt_i_f runs (R151). -/
def execVfcvtIF (f : VAForm) (s : State) : Res := s.va vfcvtIFSem f

/-- vfcvt.u.f (R142, R162). -/
def vfcvtUFSem : Sem := intoInt false

/-- vfcvt_u_f runs (R151). -/
def execVfcvtUF (f : VAForm) (s : State) : Res := s.va vfcvtUFSem f

/-- vmfeq (R163). -/
def vmfeqSem : Sem := fcmpSem (fun F a b => F.eq a b) false false

/-- vmfeq runs (R151). -/
def execVmfeq (f : VAForm) (s : State) : Res := s.va vmfeqSem f

/-- vmfne (R163). -/
def vmfneSem : Sem := fcmpSem (fun F a b => !F.eq a b) true false

/-- vmfne runs (R151). -/
def execVmfne (f : VAForm) (s : State) : Res := s.va vmfneSem f

/-- vmflt (R163). -/
def vmfltSem : Sem := fcmpSem (fun F a b => F.lt a b) false true

/-- vmflt runs (R151). -/
def execVmflt (f : VAForm) (s : State) : Res := s.va vmfltSem f

/-- vmfle (R163). -/
def vmfleSem : Sem := fcmpSem (fun F a b => !F.lt b a) false true

/-- vmfle runs (R151). -/
def execVmfle (f : VAForm) (s : State) : Res := s.va vmfleSem f

/-- vmfgt (R163). -/
def vmfgtSem : Sem := fcmpSem (fun F a b => F.lt b a) false true

/-- vmfgt runs (R151). -/
def execVmfgt (f : VAForm) (s : State) : Res := s.va vmfgtSem f

/-- vmfge (R163). -/
def vmfgeSem : Sem := fcmpSem (fun F a b => !F.lt a b) false true

/-- vmfge runs (R151). -/
def execVmfge (f : VAForm) (s : State) : Res := s.va vmfgeSem f

/-- vmford (R163). -/
def vmfordSem : Sem := fcmpSem (fun _ _ _ => true) false false

/-- vmford runs (R151). -/
def execVmford (f : VAForm) (s : State) : Res := s.va vmfordSem f

/-- vmfclass (R163). -/
def vmfclassSem : Sem := classSem

/-- vmfclass runs (R151). -/
def execVmfclass (f : VAForm) (s : State) : Res := s.va vmfclassSem f

/-- vfredsum (R164). -/
def vfredsumSem : Sem := fredSem Fmt.add

/-- vfredsum runs (R151). -/
def execVfredsum (f : VAForm) (s : State) : Res := s.va vfredsumSem f

/-- vfredmax (R164). -/
def vfredmaxSem : Sem := fredSem (minmaxOf true)

/-- vfredmax runs (R151). -/
def execVfredmax (f : VAForm) (s : State) : Res := s.va vfredmaxSem f

/-- vfredmin (R164). -/
def vfredminSem : Sem := fredSem (minmaxOf false)

/-- vfredmin runs (R151). -/
def execVfredmin (f : VAForm) (s : State) : Res := s.va vfredminSem f

end Sys2Proof.Machine
end

