-- ==== Sys2Proof/Machine/VecDouble.lean ====
section
/-!
DEFINITION. The D1 members: f64 arithmetic, conversions, compares, reductions (R165). ew is 11, so the shared operations act on f64.
-/

namespace Sys2Proof.Machine

/-- vfadd at f64 (R165). -/
def vfaddF64Sem : Sem := fltSem Fmt.add

/-- vfadd_f64 runs (R151). -/
def execVfaddF64 (f : VAForm) (s : State) : Res := s.va vfaddF64Sem f

/-- vfsub at f64 (R165). -/
def vfsubF64Sem : Sem := fltSem Fmt.sub

/-- vfsub_f64 runs (R151). -/
def execVfsubF64 (f : VAForm) (s : State) : Res := s.va vfsubF64Sem f

/-- vfmul at f64 (R165). -/
def vfmulF64Sem : Sem := fltSem Fmt.mul

/-- vfmul_f64 runs (R151). -/
def execVfmulF64 (f : VAForm) (s : State) : Res := s.va vfmulF64Sem f

/-- vfdiv at f64 (R165). -/
def vfdivF64Sem : Sem := fltSem Fmt.div

/-- vfdiv_f64 runs (R151). -/
def execVfdivF64 (f : VAForm) (s : State) : Res := s.va vfdivF64Sem f

/-- vfsqrt at f64 (R165). -/
def vfsqrtF64Sem : Sem := fun f c => fltUnary (ewBits f.ew) (ewBits f.ew) (fmtOf (ewBits f.ew)).sqrt f c

/-- vfsqrt_f64 runs (R151). -/
def execVfsqrtF64 (f : VAForm) (s : State) : Res := s.va vfsqrtF64Sem f

/-- vfmin at f64 (R165). -/
def vfminF64Sem : Sem := fltSem (minmaxOf false)

/-- vfmin_f64 runs (R151). -/
def execVfminF64 (f : VAForm) (s : State) : Res := s.va vfminF64Sem f

/-- vfmax at f64 (R165). -/
def vfmaxF64Sem : Sem := fltSem (minmaxOf true)

/-- vfmax_f64 runs (R151). -/
def execVfmaxF64 (f : VAForm) (s : State) : Res := s.va vfmaxF64Sem f

/-- vfma: a × b + vs3 at f64 (R165). -/
def vfmaF64Sem : Sem := fmaSem false false

/-- vfma_f64 runs (R151). -/
def execVfmaF64 (f : VAForm) (s : State) : Res := s.va vfmaF64Sem f

/-- vfms: a × b − vs3 at f64 (R165). -/
def vfmsF64Sem : Sem := fmaSem false true

/-- vfms_f64 runs (R151). -/
def execVfmsF64 (f : VAForm) (s : State) : Res := s.va vfmsF64Sem f

/-- vfnma: −(a × b) + vs3 at f64 (R165). -/
def vfnmaF64Sem : Sem := fmaSem true false

/-- vfnma_f64 runs (R151). -/
def execVfnmaF64 (f : VAForm) (s : State) : Res := s.va vfnmaF64Sem f

/-- vfsgnj at f64 (R165). -/
def vfsgnjF64Sem : Sem := fltSem fun F _ a b => (F.sgnj false a b, 0)

/-- vfsgnj_f64 runs (R151). -/
def execVfsgnjF64 (f : VAForm) (s : State) : Res := s.va vfsgnjF64Sem f

/-- vfsgnjn at f64 (R165). -/
def vfsgnjnF64Sem : Sem := fltSem fun F _ a b => (F.sgnj true a b, 0)

/-- vfsgnjn_f64 runs (R151). -/
def execVfsgnjnF64 (f : VAForm) (s : State) : Res := s.va vfsgnjnF64Sem f

/-- vfcvt.f64.f32: exact (R142, R165). -/
def vfcvtF64F32Sem : Sem := fltUnary 32 64 fun rm a => Fmt.convert f32 f64 rm a

/-- vfcvt_f64_f32 runs (R151). -/
def execVfcvtF64F32 (f : VAForm) (s : State) : Res := s.va vfcvtF64F32Sem f

/-- vfcvt.f32.f64 (R142, R165). -/
def vfcvtF32F64Sem : Sem := fltUnary 64 32 fun rm a => Fmt.convert f64 f32 rm a

/-- vfcvt_f32_f64 runs (R151). -/
def execVfcvtF32F64 (f : VAForm) (s : State) : Res := s.va vfcvtF32F64Sem f

/-- vfcvt.f.i at f64 (R165). -/
def vfcvtFIF64Sem : Sem := fromInt true

/-- vfcvt_f_i_f64 runs (R151). -/
def execVfcvtFIF64 (f : VAForm) (s : State) : Res := s.va vfcvtFIF64Sem f

/-- vfcvt.f.u at f64 (R165). -/
def vfcvtFUF64Sem : Sem := fromInt false

/-- vfcvt_f_u_f64 runs (R151). -/
def execVfcvtFUF64 (f : VAForm) (s : State) : Res := s.va vfcvtFUF64Sem f

/-- vfcvt.i.f at f64 (R165). -/
def vfcvtIFF64Sem : Sem := intoInt true

/-- vfcvt_i_f_f64 runs (R151). -/
def execVfcvtIFF64 (f : VAForm) (s : State) : Res := s.va vfcvtIFF64Sem f

/-- vfcvt.u.f at f64 (R165). -/
def vfcvtUFF64Sem : Sem := intoInt false

/-- vfcvt_u_f_f64 runs (R151). -/
def execVfcvtUFF64 (f : VAForm) (s : State) : Res := s.va vfcvtUFF64Sem f

/-- vmfeq at f64 (R165). -/
def vmfeqF64Sem : Sem := fcmpSem (fun F a b => F.eq a b) false false

/-- vmfeq_f64 runs (R151). -/
def execVmfeqF64 (f : VAForm) (s : State) : Res := s.va vmfeqF64Sem f

/-- vmfne at f64 (R165). -/
def vmfneF64Sem : Sem := fcmpSem (fun F a b => !F.eq a b) true false

/-- vmfne_f64 runs (R151). -/
def execVmfneF64 (f : VAForm) (s : State) : Res := s.va vmfneF64Sem f

/-- vmflt at f64 (R165). -/
def vmfltF64Sem : Sem := fcmpSem (fun F a b => F.lt a b) false true

/-- vmflt_f64 runs (R151). -/
def execVmfltF64 (f : VAForm) (s : State) : Res := s.va vmfltF64Sem f

/-- vmfle at f64 (R165). -/
def vmfleF64Sem : Sem := fcmpSem (fun F a b => !F.lt b a) false true

/-- vmfle_f64 runs (R151). -/
def execVmfleF64 (f : VAForm) (s : State) : Res := s.va vmfleF64Sem f

/-- vmfgt at f64 (R165). -/
def vmfgtF64Sem : Sem := fcmpSem (fun F a b => F.lt b a) false true

/-- vmfgt_f64 runs (R151). -/
def execVmfgtF64 (f : VAForm) (s : State) : Res := s.va vmfgtF64Sem f

/-- vmfge at f64 (R165). -/
def vmfgeF64Sem : Sem := fcmpSem (fun F a b => !F.lt a b) false true

/-- vmfge_f64 runs (R151). -/
def execVmfgeF64 (f : VAForm) (s : State) : Res := s.va vmfgeF64Sem f

/-- vmford at f64 (R165). -/
def vmfordF64Sem : Sem := fcmpSem (fun _ _ _ => true) false false

/-- vmford_f64 runs (R151). -/
def execVmfordF64 (f : VAForm) (s : State) : Res := s.va vmfordF64Sem f

/-- vmfclass at f64 (R165). -/
def vmfclassF64Sem : Sem := classSem

/-- vmfclass_f64 runs (R151). -/
def execVmfclassF64 (f : VAForm) (s : State) : Res := s.va vmfclassF64Sem f

/-- vfredsum at f64 (R165). -/
def vfredsumF64Sem : Sem := fredSem Fmt.add

/-- vfredsum_f64 runs (R151). -/
def execVfredsumF64 (f : VAForm) (s : State) : Res := s.va vfredsumF64Sem f

/-- vfredmax at f64 (R165). -/
def vfredmaxF64Sem : Sem := fredSem (minmaxOf true)

/-- vfredmax_f64 runs (R151). -/
def execVfredmaxF64 (f : VAForm) (s : State) : Res := s.va vfredmaxF64Sem f

/-- vfredmin at f64 (R165). -/
def vfredminF64Sem : Sem := fredSem (minmaxOf false)

/-- vfredmin_f64 runs (R151). -/
def execVfredminF64 (f : VAForm) (s : State) : Res := s.va vfredminF64Sem f

end Sys2Proof.Machine
end

