-- ==== Sys2Proof/Machine/VecInt.lean ====
section
/-!
DEFINITION. Integer vector members: arithmetic, limb groups, compares, reductions (R156 to R159). Each member has a meaning `…Sem`, what it computes
from what it reads, which its convoy's first-stage check also runs (R50), and an `exec…` that runs it as the member at the strand's current slot.
-/

namespace Sys2Proof.Machine

/-- An elementwise integer member: vd[e] = g w a b on the active elements (R151, R156). -/
def intSem (g : Nat → Nat → Nat → Nat) : Sem := fun f c =>
  let w := ewBits f.ew
  let a := c.vec f.vs1 w
  let b := c.op2 f w
  .ok (c.writeElems f.vd w (c.actives f.mask f.me) (fun e => (g w (a.val e) (b.val e), 0)) fun e => a.poi e || b.poi e)

/-- A signed function of two w-bit values, modulo 2^w. -/
def onSigned (g : Int → Int → Int) (w a b : Nat) : Nat := wrap w (g (sextNat w a) (sextNat w b))

/-- Signed quotient toward zero at width w, with R100's corners. -/
def quotS (w a b : Nat) : Nat := if b = 0 then 2 ^ w - 1 else wrap w ((sextNat w a).tdiv (sextNat w b))

/-- Signed remainder at width w, with R100's corners. -/
def remainS (w a b : Nat) : Nat := if b = 0 then a else wrap w ((sextNat w a).tmod (sextNat w b))

/-- A signed value saturated to w bits. -/
def satS (w : Nat) (i : Int) : Nat := wrap w (max (-(2 ^ (w - 1) : Nat)) (min i ((2 ^ (w - 1) : Nat) - 1)))

/-- vadd (R156). -/
def vaddSem : Sem := intSem fun w a b => (a + b) % 2 ^ w

/-- vadd runs (R151). -/
def execVadd (f : VAForm) (s : State) : Res := s.va vaddSem f

/-- vsub (R156). -/
def vsubSem : Sem := intSem fun w a b => (a + 2 ^ w - b) % 2 ^ w

/-- vsub runs (R151). -/
def execVsub (f : VAForm) (s : State) : Res := s.va vsubSem f

/-- vrsub (R156): b − a. -/
def vrsubSem : Sem := intSem fun w a b => (b + 2 ^ w - a) % 2 ^ w

/-- vrsub runs (R151). -/
def execVrsub (f : VAForm) (s : State) : Res := s.va vrsubSem f

/-- vand (R156). -/
def vandSem : Sem := intSem fun _ a b => a &&& b

/-- vand runs (R151). -/
def execVand (f : VAForm) (s : State) : Res := s.va vandSem f

/-- vor (R156). -/
def vorSem : Sem := intSem fun _ a b => a ||| b

/-- vor runs (R151). -/
def execVor (f : VAForm) (s : State) : Res := s.va vorSem f

/-- vxor (R156). -/
def vxorSem : Sem := intSem fun _ a b => a ^^^ b

/-- vxor runs (R151). -/
def execVxor (f : VAForm) (s : State) : Res := s.va vxorSem f

/-- vsll (R156): the amount is b mod ew. -/
def vsllSem : Sem := intSem fun w a b => a * 2 ^ (b % w) % 2 ^ w

/-- vsll runs (R151). -/
def execVsll (f : VAForm) (s : State) : Res := s.va vsllSem f

/-- vsrl (R156). -/
def vsrlSem : Sem := intSem fun w a b => a / 2 ^ (b % w)

/-- vsrl runs (R151). -/
def execVsrl (f : VAForm) (s : State) : Res := s.va vsrlSem f

/-- vsra (R156). -/
def vsraSem : Sem := intSem fun w a b => wrap w (sextNat w a / (2 ^ (b % w) : Nat))

/-- vsra runs (R151). -/
def execVsra (f : VAForm) (s : State) : Res := s.va vsraSem f

/-- vmin (R156): signed. -/
def vminSem : Sem := intSem (onSigned min)

/-- vmin runs (R151). -/
def execVmin (f : VAForm) (s : State) : Res := s.va vminSem f

/-- vmax (R156): signed. -/
def vmaxSem : Sem := intSem (onSigned max)

/-- vmax runs (R151). -/
def execVmax (f : VAForm) (s : State) : Res := s.va vmaxSem f

/-- vminu (R156). -/
def vminuSem : Sem := intSem fun _ a b => min a b

/-- vminu runs (R151). -/
def execVminu (f : VAForm) (s : State) : Res := s.va vminuSem f

/-- vmaxu (R156). -/
def vmaxuSem : Sem := intSem fun _ a b => max a b

/-- vmaxu runs (R151). -/
def execVmaxu (f : VAForm) (s : State) : Res := s.va vmaxuSem f

/-- vmul (R156). -/
def vmulSem : Sem := intSem fun w a b => a * b % 2 ^ w

/-- vmul runs (R151). -/
def execVmul (f : VAForm) (s : State) : Res := s.va vmulSem f

/-- vmulh (R156): high bits of the signed product. -/
def vmulhSem : Sem := intSem fun w a b => wrap w (sextNat w a * sextNat w b / (2 ^ w : Nat))

/-- vmulh runs (R151). -/
def execVmulh (f : VAForm) (s : State) : Res := s.va vmulhSem f

/-- vmulhu (R156). -/
def vmulhuSem : Sem := intSem fun w a b => a * b / 2 ^ w

/-- vmulhu runs (R151). -/
def execVmulhu (f : VAForm) (s : State) : Res := s.va vmulhuSem f

/-- vdiv (R100, R156). -/
def vdivSem : Sem := intSem quotS

/-- vdiv runs (R151). -/
def execVdiv (f : VAForm) (s : State) : Res := s.va vdivSem f

/-- vdivu (R100, R156). -/
def vdivuSem : Sem := intSem fun w a b => if b = 0 then 2 ^ w - 1 else a / b

/-- vdivu runs (R151). -/
def execVdivu (f : VAForm) (s : State) : Res := s.va vdivuSem f

/-- vrem (R100, R156). -/
def vremSem : Sem := intSem remainS

/-- vrem runs (R151). -/
def execVrem (f : VAForm) (s : State) : Res := s.va vremSem f

/-- vremu (R100, R156). -/
def vremuSem : Sem := intSem fun _ a b => if b = 0 then a else a % b

/-- vremu runs (R151). -/
def execVremu (f : VAForm) (s : State) : Res := s.va vremuSem f

/-- vmadd (R156): a × b + vs3[e], low ew bits. -/
def vmaddSem : Sem := fun f c =>
  let w := ewBits f.ew
  let a := c.vec f.vs1 w
  let b := c.op2 f w
  let d := c.vec f.f35 w
  .ok (c.writeElems f.vd w (c.actives f.mask f.me) (fun e => ((a.val e * b.val e + d.val e) % 2 ^ w, 0))
    fun e => a.poi e || b.poi e || d.poi e)

/-- vmadd runs (R151). -/
def execVmadd (f : VAForm) (s : State) : Res := s.va vmaddSem f

/-- vsadd (R156). -/
def vsaddSem : Sem := intSem fun w a b => satS w (sextNat w a + sextNat w b)

/-- vsadd runs (R151). -/
def execVsadd (f : VAForm) (s : State) : Res := s.va vsaddSem f

/-- vsaddu (R156). -/
def vsadduSem : Sem := intSem fun w a b => min (a + b) (2 ^ w - 1)

/-- vsaddu runs (R151). -/
def execVsaddu (f : VAForm) (s : State) : Res := s.va vsadduSem f

/-- vssub (R156). -/
def vssubSem : Sem := intSem fun w a b => satS w (sextNat w a - sextNat w b)

/-- vssub runs (R151). -/
def execVssub (f : VAForm) (s : State) : Res := s.va vssubSem f

/-- vssubu (R156). -/
def vssubuSem : Sem := intSem fun _ a b => a - b

/-- vssubu runs (R151). -/
def execVssubu (f : VAForm) (s : State) : Res := s.va vssubuSem f

/-- The limb groups of a member (R157): for each group, its first element and its count of limbs. -/
def groupsOf (vl l : Nat) : List (Nat × Nat) := (List.range (ceilDiv vl l)).map fun h => (h * l, min ((h + 1) * l) vl - h * l)

/-- The integer whose limbs are n elements of an operand from element i. -/
def limbSum (x : Opnd) (w i n : Nat) : Nat := (List.range n).foldl (fun a j => a + x.val (i + j) * 2 ^ (j * w)) 0

/-- What a limb-group member reads of a group: A, B, the carry-in, and whether a limb is poisoned. -/
def Env.limbs (c : Env) (f : VAForm) (i n : Nat) : Nat × Nat × Nat × Bool :=
  let w := ewBits f.ew
  let a := c.vec f.vs1 w
  let b := c.op2 f w
  (limbSum a w i n, limbSum b w i n, if bitAt f.f35.toNat 2 && bitAt (c.maskReg (f.f35.toNat / 8)) i then 1 else 0,
    (List.range n).any fun j => a.poi (i + j) || b.poi (i + j))

/-- vgadd and vgsub: the limbs of g A B c modulo 2^(n·ew) (R157). -/
def limbSem (g : Nat → Nat → Nat → Nat → Nat) : Sem := fun f c =>
  let w := ewBits f.ew
  let r := (groupsOf c.vl (2 ^ f.variant.toNat)).foldl (fun (r : VReg) p =>
    let x := c.limbs f p.1 p.2
    let v := g (2 ^ (p.2 * w)) x.1 x.2.1 x.2.2.1
    (List.range p.2).foldl (fun r j => r.set w (p.1 + j) (field v (j * w) w) x.2.2.2) r) (c.reg f.vd)
  .ok (if c.vl = 0 then {} else { v := [(f.vd.toNat, r)] })

/-- vgcy and vgbw: the bit of a group's first element, the others cleared; a poisoned limb raises POISON_CONTROL (R154, R157). -/
def carrySem (g : Nat → Nat → Nat → Nat → Bool) : Sem := fun f c =>
  let w := ewBits f.ew
  let l := 2 ^ f.variant.toNat
  guardPoison (List.range c.vl) [c.vec f.vs1 w, c.op2 f w]
    (.ok (c.writeMask f.vd (List.range c.vl) fun e =>
      e % l == 0 && (let n := min (e + l) c.vl - e
        let x := c.limbs f e n
        g (2 ^ (n * w)) x.1 x.2.1 x.2.2.1)))

/-- vgadd (R157). -/
def vgaddSem : Sem := limbSem fun m a b c => (a + b + c) % m

/-- vgadd runs (R151). -/
def execVgadd (f : VAForm) (s : State) : Res := s.va vgaddSem f

/-- vgsub (R157). -/
def vgsubSem : Sem := limbSem fun m a b c => (a + 2 * m - b - c) % m

/-- vgsub runs (R151). -/
def execVgsub (f : VAForm) (s : State) : Res := s.va vgsubSem f

/-- vgcy (R157). -/
def vgcySem : Sem := carrySem fun m a b c => m ≤ a + b + c

/-- vgcy runs (R151). -/
def execVgcy (f : VAForm) (s : State) : Res := s.va vgcySem f

/-- vgbw (R157). -/
def vgbwSem : Sem := carrySem fun _ a b c => a < b + c

/-- vgbw runs (R151). -/
def execVgbw (f : VAForm) (s : State) : Res := s.va vgbwSem f

/-- An integer compare into a mask; a poisoned active element raises POISON_CONTROL (R154, R158). -/
def cmpSem (g : Nat → Nat → Nat → Bool) : Sem := fun f c =>
  let w := ewBits f.ew
  let a := c.vec f.vs1 w
  let b := c.op2 f w
  let es := c.actives f.mask f.me
  guardPoison es [a, b] (.ok (c.writeMask f.vd es fun e => g w (a.val e) (b.val e)))

/-- vmseq (R158). -/
def vmseqSem : Sem := cmpSem fun _ a b => a == b

/-- vmseq runs (R151). -/
def execVmseq (f : VAForm) (s : State) : Res := s.va vmseqSem f

/-- vmsne (R158). -/
def vmsneSem : Sem := cmpSem fun _ a b => a != b

/-- vmsne runs (R151). -/
def execVmsne (f : VAForm) (s : State) : Res := s.va vmsneSem f

/-- vmslt (R158). -/
def vmsltSem : Sem := cmpSem fun w a b => sextNat w a < sextNat w b

/-- vmslt runs (R151). -/
def execVmslt (f : VAForm) (s : State) : Res := s.va vmsltSem f

/-- vmsltu (R158). -/
def vmsltuSem : Sem := cmpSem fun _ a b => a < b

/-- vmsltu runs (R151). -/
def execVmsltu (f : VAForm) (s : State) : Res := s.va vmsltuSem f

/-- vmsle (R158). -/
def vmsleSem : Sem := cmpSem fun w a b => sextNat w a ≤ sextNat w b

/-- vmsle runs (R151). -/
def execVmsle (f : VAForm) (s : State) : Res := s.va vmsleSem f

/-- vmsleu (R158). -/
def vmsleuSem : Sem := cmpSem fun _ a b => a ≤ b

/-- vmsleu runs (R151). -/
def execVmsleu (f : VAForm) (s : State) : Res := s.va vmsleuSem f

/-- vmsgt (R158). -/
def vmsgtSem : Sem := cmpSem fun w a b => sextNat w b < sextNat w a

/-- vmsgt runs (R151). -/
def execVmsgt (f : VAForm) (s : State) : Res := s.va vmsgtSem f

/-- vmsgtu (R158). -/
def vmsgtuSem : Sem := cmpSem fun _ a b => b < a

/-- vmsgtu runs (R151). -/
def execVmsgtu (f : VAForm) (s : State) : Res := s.va vmsgtuSem f

/-- An integer reduction of the active elements into element 0, from op2[0] (R159). -/
def redSem (g : Nat → Nat → Nat → Nat) : Sem := fun f c =>
  let w := ewBits f.ew
  let a := c.vec f.vs1 w
  let b := c.op2 f w
  let es := c.actives f.mask f.me
  c.writeZero f.vd w (es.foldl (fun acc e => g w acc (a.val e)) (b.val 0)) (b.poi 0 || es.any a.poi)

/-- vredsum (R159). -/
def vredsumSem : Sem := redSem fun w a b => (a + b) % 2 ^ w

/-- vredsum runs (R151). -/
def execVredsum (f : VAForm) (s : State) : Res := s.va vredsumSem f

/-- vredmax (R159): signed. -/
def vredmaxSem : Sem := redSem (onSigned max)

/-- vredmax runs (R151). -/
def execVredmax (f : VAForm) (s : State) : Res := s.va vredmaxSem f

/-- vredmin (R159): signed. -/
def vredminSem : Sem := redSem (onSigned min)

/-- vredmin runs (R151). -/
def execVredmin (f : VAForm) (s : State) : Res := s.va vredminSem f

/-- vredmaxu (R159). -/
def vredmaxuSem : Sem := redSem fun _ a b => max a b

/-- vredmaxu runs (R151). -/
def execVredmaxu (f : VAForm) (s : State) : Res := s.va vredmaxuSem f

/-- vredminu (R159). -/
def vredminuSem : Sem := redSem fun _ a b => min a b

/-- vredminu runs (R151). -/
def execVredminu (f : VAForm) (s : State) : Res := s.va vredminuSem f

/-- vredand (R159). -/
def vredandSem : Sem := redSem fun _ a b => a &&& b

/-- vredand runs (R151). -/
def execVredand (f : VAForm) (s : State) : Res := s.va vredandSem f

/-- vredor (R159). -/
def vredorSem : Sem := redSem fun _ a b => a ||| b

/-- vredor runs (R151). -/
def execVredor (f : VAForm) (s : State) : Res := s.va vredorSem f

/-- vredxor (R159). -/
def vredxorSem : Sem := redSem fun _ a b => a ^^^ b

/-- vredxor runs (R151). -/
def execVredxor (f : VAForm) (s : State) : Res := s.va vredxorSem f

end Sys2Proof.Machine
end

