-- ==== Sys2Proof/Machine/VecPermute.lean ====
section
/-!
DEFINITION. Mask members and permutes: mask logic, first-relative, counts, slides, shifts, rotates, gathers, selects, compress and expand, viota,
vid, vconfl, vsegscan, vtopk (R169 to R179).
-/

namespace Sys2Proof.Machine

/-- Mask logic on every bit below vl (R170). -/
def maskSem (g : Bool → Bool → Bool) : Sem := fun f c =>
  let a := c.maskField f.vs1
  let b := c.maskField f.vs2
  .ok (c.writeMask f.vd (List.range c.vl) fun e => g (bitAt a e) (bitAt b e))

/-- The first of some elements whose bit is set. -/
def firstSet (m : Nat) (es : List Nat) : Option Nat := es.find? (bitAt m)

/-- The relation of vmrel's variant between an element and the first set one; where there is none, lt and le hold (R171). -/
def relHolds (variant e : Nat) (first : Option Nat) : Bool :=
  match first, variant with
  | none, v => v < 2
  | some x, 0 => e < x
  | some x, 1 => e ≤ x
  | some x, 2 => e == x
  | some x, 3 => x ≤ e
  | some x, _ => x < e

/-- The offset of a shift or rotate; a poisoned one raises POISON_CONTROL (R154, R173). -/
def shiftSem (g : Env → VAForm → Nat → Nat → Option (Option Nat)) : Sem := fun f c =>
  let w := ewBits f.ew
  let a := c.vec f.vs1 w
  let o := c.count f
  -- the source of each element: another element, zero, or the element keeps its value
  let src := g c f o.w.toNat
  if o.p then .trap 8 none
  else
    let es := (c.actives f.mask f.me).filter fun e => (src e).isSome
    .ok (c.writeElems f.vd w es
      (fun e => (match src e with
        | some (some i) => a.val i
        | _ => 0, 0))
      fun e => match src e with
        | some (some i) => a.poi i
        | _ => false)

/-- The .ins shifts: x enters at one end (R173). -/
def insSem (up : Bool) : Sem := fun f c =>
  let w := ewBits f.ew
  let a := c.vec f.vs1 w
  let x := c.op2 f w
  let last := if up then 0 else c.vl - 1
  let from_ := fun (e : Nat) => if up then e - 1 else e + 1
  .ok (c.writeElems f.vd w (c.actives f.mask f.me) (fun e => (if e = last then x.val 0 else a.val (from_ e), 0))
    fun e => if e = last then x.poi 0 else a.poi (from_ e))

/-- The operation of a vsegscan variant on two elements, with flags (R179). -/
def scanOp (w rm variant a b : Nat) : FRes :=
  let F := fmtOf w
  match variant with
  | 0 => ((a + b) % 2 ^ w, 0)
  | 1 => (if sextNat w a < sextNat w b then b else a, 0)
  | 2 => (if sextNat w b < sextNat w a then b else a, 0)
  | 3 => (max a b, 0)
  | 4 => (min a b, 0)
  | 5 => F.add rm a b
  | 6 => F.minmax true a b
  | _ => F.minmax false a b

/-- A scan in progress: the register, the accumulated value with its poison, flags. -/
structure Scan where
  r : VReg
  acc : Option (Nat × Bool)
  flags : Nat
deriving DecidableEq, Repr

/-- One element of a scan (R179). -/
def Scan.step (c : Env) (f : VAForm) (w : Nat) (a : Opnd) (q : Scan) (e : Nat) : Scan :=
  let acc := if e = 0 || bitAt (c.maskField f.f35) e then none else q.acc
  if c.active f.mask f.me e then
    match acc with
    | none => { r := q.r.set w e (a.val e) (a.poi e), acc := some (a.val e, a.poi e), flags := q.flags }
    | some (v, p) =>
      let x := scanOp w (c.mode f.rm) f.variant.toNat v (a.val e)
      { r := q.r.set w e x.1 (p || a.poi e), acc := some (x.1, p || a.poi e), flags := q.flags ||| x.2 }
  else { q with acc := acc }

/-- Rank of an element in vtopk (R169): 0 an ordinary number, 1 a vNaN, 2 another NaN. -/
def topRank (x : Nat) : Nat := if isVNan x then 1 else if f32.isNan x then 2 else 0

/-- Element i ranks before element j (R169). -/
def topBefore (a : Opnd) (i j : Nat) : Bool :=
  let ri := topRank (a.val i)
  let rj := topRank (a.val j)
  if ri != rj then ri < rj
  else if ri == 0 && f32.lt (a.val j) (a.val i) then true
  else if ri == 0 && f32.lt (a.val i) (a.val j) then false
  else i < j

/-- Elements in rank order, by insertion. -/
def insertRank (a : Opnd) (i : Nat) : List Nat → List Nat
  | [] => [i]
  | j :: t => if topBefore a i j then i :: j :: t else j :: insertRank a i t

/-- The group size of vtopk: op2 as an integer of 32 bits (R152, R169). -/
def Env.topGroup (c : Env) (f : VAForm) : Nat × Bool := let o := c.op2 f 32; (o.val 0, o.poi 0)

/-- vmand (R170). -/
def vmandSem : Sem := maskSem fun a b => a && b

/-- vmand runs (R151). -/
def execVmand (f : VAForm) (s : State) : Res := s.va vmandSem f

/-- vmor (R170). -/
def vmorSem : Sem := maskSem fun a b => a || b

/-- vmor runs (R151). -/
def execVmor (f : VAForm) (s : State) : Res := s.va vmorSem f

/-- vmxor (R170). -/
def vmxorSem : Sem := maskSem fun a b => a != b

/-- vmxor runs (R151). -/
def execVmxor (f : VAForm) (s : State) : Res := s.va vmxorSem f

/-- vmandn (R170). -/
def vmandnSem : Sem := maskSem fun a b => a && !b

/-- vmandn runs (R151). -/
def execVmandn (f : VAForm) (s : State) : Res := s.va vmandnSem f

/-- vmorn (R170). -/
def vmornSem : Sem := maskSem fun a b => a || !b

/-- vmorn runs (R151). -/
def execVmorn (f : VAForm) (s : State) : Res := s.va vmornSem f

/-- vmnand (R170). -/
def vmnandSem : Sem := maskSem fun a b => !(a && b)

/-- vmnand runs (R151). -/
def execVmnand (f : VAForm) (s : State) : Res := s.va vmnandSem f

/-- vmnor (R170). -/
def vmnorSem : Sem := maskSem fun a b => !(a || b)

/-- vmnor runs (R151). -/
def execVmnor (f : VAForm) (s : State) : Res := s.va vmnorSem f

/-- vmxnor (R170). -/
def vmxnorSem : Sem := maskSem fun a b => a == b

/-- vmxnor runs (R151). -/
def execVmxnor (f : VAForm) (s : State) : Res := s.va vmxnorSem f

/-- vmrel (R171). -/
def vmrelSem : Sem := fun f c =>
  let first := firstSet (c.maskField f.vs1) (List.range c.vl)
  .ok (c.writeMask f.vd (List.range c.vl) fun e => relHolds f.variant.toNat e first)

/-- vmrel runs (R151). -/
def execVmrel (f : VAForm) (s : State) : Res := s.va vmrelSem f

/-- vmpopc (R172): the count of set bits at active elements, modulo 2^ew. -/
def vmpopcSem : Sem := fun f c =>
  let w := ewBits f.ew
  c.writeZero f.vd w (((c.actives f.mask f.me).filter (bitAt (c.maskField f.vs1))).length % 2 ^ w) false

/-- vmpopc runs (R151). -/
def execVmpopc (f : VAForm) (s : State) : Res := s.va vmpopcSem f

/-- vmfirst (R172): the first set bit at an active element, or all ones. -/
def vmfirstSem : Sem := fun f c =>
  let w := ewBits f.ew
  c.writeZero f.vd w
    (match firstSet (c.maskField f.vs1) (c.actives f.mask f.me) with
     | some e => e % 2 ^ w
     | none => 2 ^ w - 1) false

/-- vmfirst runs (R151). -/
def execVmfirst (f : VAForm) (s : State) : Res := s.va vmfirstSem f

/-- vmslide1 (R172): variant bit 0 is the direction (1 down), bit 1 the fill. -/
def vmslide1Sem : Sem := fun f c =>
  let m := c.maskField f.vs1
  let down := bitAt f.variant.toNat 0
  let fill := bitAt f.variant.toNat 1
  .ok (c.writeMask f.vd (List.range c.vl) fun e =>
    if down then (if e + 1 = c.vl then fill else bitAt m (e + 1)) else (if e = 0 then fill else bitAt m (e - 1)))

/-- vmslide1 runs (R151). -/
def execVmslide1 (f : VAForm) (s : State) : Res := s.va vmslide1Sem f

/-- vshift.up (R173): elements below the offset keep their values. -/
def vshiftUpSem : Sem := shiftSem fun _ _ o e => if o ≤ e then some (some (e - o)) else none

/-- vshift_up runs (R151). -/
def execVshiftUp (f : VAForm) (s : State) : Res := s.va vshiftUpSem f

/-- vshift.dn (R173): 0 past VLMAX. -/
def vshiftDnSem : Sem := shiftSem fun c f o e => some (if e + o < c.vlmax (ewBits f.ew) then some (e + o) else none)

/-- vshift_dn runs (R151). -/
def execVshiftDn (f : VAForm) (s : State) : Res := s.va vshiftDnSem f

/-- vshift.ins.up (R173). -/
def vshiftInsUpSem : Sem := insSem true

/-- vshift_ins_up runs (R151). -/
def execVshiftInsUp (f : VAForm) (s : State) : Res := s.va vshiftInsUpSem f

/-- vshift.ins.dn (R173). -/
def vshiftInsDnSem : Sem := insSem false

/-- vshift_ins_dn runs (R151). -/
def execVshiftInsDn (f : VAForm) (s : State) : Res := s.va vshiftInsDnSem f

/-- vrot.dn (R173). -/
def vrotDnSem : Sem := shiftSem fun c _ o e => some (some ((e + o) % c.vl))

/-- vrot_dn runs (R151). -/
def execVrotDn (f : VAForm) (s : State) : Res := s.va vrotDnSem f

/-- vrot.up (R173). -/
def vrotUpSem : Sem := shiftSem fun c _ o e => some (some ((e + c.vl - o % c.vl) % c.vl))

/-- vrot_up runs (R151). -/
def execVrotUp (f : VAForm) (s : State) : Res := s.va vrotUpSem f

/-- vrgather (R174): a poisoned active index raises POISON_CONTROL. -/
def vrgatherSem : Sem := fun f c =>
  let w := ewBits f.ew
  let a := c.vec f.vs1 w
  let i := c.vec f.vs2 w
  let es := c.actives f.mask f.me
  guardPoison es [i]
    (.ok (c.writeElems f.vd w es (fun e => (if i.val e < c.vlmax w then a.val (i.val e) else 0, 0))
      fun e => i.val e < c.vlmax w && a.poi (i.val e)))

/-- vrgather runs (R151). -/
def execVrgather (f : VAForm) (s : State) : Res := s.va vrgatherSem f

/-- vsel (R175): every element below vl, by its mask bit. -/
def vselSem : Sem := fun f c =>
  let w := ewBits f.ew
  let a := c.vec f.vs1 w
  let b := c.op2 f w
  let m := c.maskReg f.mask.toNat
  .ok (c.writeElems f.vd w (List.range c.vl) (fun e => (if bitAt m e then a.val e else b.val e, 0))
    fun e => if bitAt m e then a.poi e else b.poi e)

/-- vsel runs (R151). -/
def execVsel (f : VAForm) (s : State) : Res := s.va vselSem f

/-- vcompress (R176): with variant bit 16 the count becomes the block's vl when the convoy retires. -/
def vcompressSem : Sem := fun f c =>
  let w := ewBits f.ew
  let a := c.vec f.vs1 w
  let es := c.actives f.mask f.me
  let o := c.writeElems f.vd w (List.range es.length) (fun i => (a.val (es.getD i 0), 0)) fun i => a.poi (es.getD i 0)
  .ok (if f.variant = 1 && c.vl != 0 then { o with staged := [.vl es.length none] } else o)

/-- vcompress runs (R151). -/
def execVcompress (f : VAForm) (s : State) : Res := s.va vcompressSem f

/-- vexpand (R176). -/
def vexpandSem : Sem := fun f c =>
  let w := ewBits f.ew
  let a := c.vec f.vs1 w
  let es := c.actives f.mask f.me
  let rank := fun (e : Nat) => (es.filter (· < e)).length
  .ok (c.writeElems f.vd w es (fun e => (a.val (rank e), 0)) fun e => a.poi (rank e))

/-- vexpand runs (R151). -/
def execVexpand (f : VAForm) (s : State) : Res := s.va vexpandSem f

/-- vmv (R174): a move. -/
def vmvSem : Sem := fun f c =>
  let w := ewBits f.ew
  let b := c.op2 f w
  .ok (c.writeElems f.vd w (c.actives f.mask f.me) (fun e => (b.val e, 0)) b.poi)

/-- vmv runs (R151). -/
def execVmv (f : VAForm) (s : State) : Res := s.va vmvSem f

/-- viota (R177): the count of set bits of ms below e. -/
def viotaSem : Sem := fun f c =>
  let w := ewBits f.ew
  let m := c.maskField f.vs1
  .ok (c.writeElems f.vd w (c.actives f.mask f.me) (fun e => (popcount m e % 2 ^ w, 0)) fun _ => false)

/-- viota runs (R151). -/
def execViota (f : VAForm) (s : State) : Res := s.va viotaSem f

/-- vid (R177). -/
def vidSem : Sem := fun f c =>
  let w := ewBits f.ew
  .ok (c.writeElems f.vd w (c.actives f.mask f.me) (fun e => (e % 2 ^ w, 0)) fun _ => false)

/-- vid runs (R151). -/
def execVid (f : VAForm) (s : State) : Res := s.va vidSem f

/-- vconfl (R178): the largest active j < e with the same bits, or all ones. -/
def vconflSem : Sem := fun f c =>
  let w := ewBits f.ew
  let a := c.vec f.vs1 w
  let es := c.actives f.mask f.me
  guardPoison es [a]
    (.ok (c.writeElems f.vd w es (fun e =>
      (((es.filter fun j => j < e && a.val j == a.val e).getLast?).getD (2 ^ w - 1), 0)) fun _ => false))

/-- vconfl runs (R151). -/
def execVconfl (f : VAForm) (s : State) : Res := s.va vconflSem f

/-- vsegscan (R179): the floating variants consume vNaNs at ew 32 (R141). -/
def vsegscanSem : Sem := fun f c =>
  let w := ewBits f.ew
  let a := c.vec f.vs1 w
  let r := (List.range c.vl).foldl (Scan.step c f w a) { r := c.reg f.vd, acc := none, flags := 0 }
  let es := c.actives f.mask f.me
  guardVerdict es (if 5 ≤ f.variant.toNat then w else 0) [a]
    (.ok (if es.isEmpty then {} else { v := [(f.vd.toNat, r.r)], flags := r.flags }))

/-- vsegscan runs (R151). -/
def execVsegscan (f : VAForm) (s : State) : Res := s.va vsegscanSem f

/-- vtopk (R169): each group's k highest elements, by index within the group; a poisoned group size or active element raises POISON_CONTROL (R154). -/
def vtopkSem : Sem := fun f c =>
  let k := f.variant.toNat + 1
  let g := min (c.topGroup f).1 c.vl
  let a := c.vec f.vs1 32
  let es := c.actives f.mask f.me
  if (c.topGroup f).2 then .trap 8 none
  else if (c.topGroup f).1 < k then .trap 1 none
  else if c.vl = 0 then .ok {}
  else
    let r := (List.range (ceilDiv c.vl g)).foldl (fun (r : VReg) h =>
      let order := (es.filter fun e => e / g == h).foldl (fun l i => insertRank a i l) []
      (List.range k).foldl (fun r j =>
        if h * k + j < c.vl then
          r.set 32 (h * k + j) (match order[j]? with
            | some e => e - h * g
            | none => 0xFFFFFFFF) false
        else r) r) (c.reg f.vd)
    let loud := es.any fun e => topRank (a.val e) == 2
    guardPoison es [a] (.ok { v := [(f.vd.toNat, r)], flags := flagIf loud fNV })

/-- vtopk runs (R151). -/
def execVtopk (f : VAForm) (s : State) : Res := s.va vtopkSem f

end Sys2Proof.Machine
end

