-- ==== Sys2Proof/Machine/VecTable.lean ====
section
/-!
DEFINITION. The meaning of each VA member by opcode and variant: what a convoy's first check (R50) runs before any member issues.
-/

namespace Sys2Proof.Machine

/-- The meaning a VA opcode names, where it names one (R155). -/
def vaSem (op variant : Nat) : Option Sem :=
  match op with
  | 0x1 => some vaddSem
  | 0x2 => some vsubSem
  | 0x3 => some vrsubSem
  | 0x4 => some vandSem
  | 0x5 => some vorSem
  | 0x6 => some vxorSem
  | 0x7 => some vsllSem
  | 0x8 => some vsrlSem
  | 0x9 => some vsraSem
  | 0xA => some vminSem
  | 0xB => some vmaxSem
  | 0xC => some vminuSem
  | 0xD => some vmaxuSem
  | 0xE => some vmulSem
  | 0xF => some vmulhSem
  | 0x10 => some vmulhuSem
  | 0x11 => some vdivSem
  | 0x12 => some vdivuSem
  | 0x13 => some vremSem
  | 0x14 => some vremuSem
  | 0x15 => some vmaddSem
  | 0x16 => some vsaddSem
  | 0x17 => some vsadduSem
  | 0x18 => some vssubSem
  | 0x19 => some vssubuSem
  | 0x1A => some vgaddSem
  | 0x1B => some vgsubSem
  | 0x1C => some vgcySem
  | 0x1D => some vgbwSem
  | 0x80 => some vmseqSem
  | 0x81 => some vmsneSem
  | 0x82 => some vmsltSem
  | 0x83 => some vmsltuSem
  | 0x84 => some vmsleSem
  | 0x85 => some vmsleuSem
  | 0x86 => some vmsgtSem
  | 0x87 => some vmsgtuSem
  | 0xC0 => some vredsumSem
  | 0xC1 => some vredmaxSem
  | 0xC2 => some vredminSem
  | 0xC3 => some vredmaxuSem
  | 0xC4 => some vredminuSem
  | 0xC5 => some vredandSem
  | 0xC6 => some vredorSem
  | 0xC7 => some vredxorSem
  | 0x100 => some vfaddSem
  | 0x101 => some vfsubSem
  | 0x102 => some vfmulSem
  | 0x103 => some vfdivSem
  | 0x104 => some vfsqrtSem
  | 0x105 => some vfminSem
  | 0x106 => some vfmaxSem
  | 0x107 => some vfmaSem
  | 0x108 => some vfmsSem
  | 0x109 => some vfnmaSem
  | 0x10A => some vfsgnjSem
  | 0x10B => some vfsgnjnSem
  | 0x140 => some vfcvtF32Bf16Sem
  | 0x141 => some vfcvtBf16F32Sem
  | 0x142 => some vfcvtFISem
  | 0x143 => some vfcvtFUSem
  | 0x144 => some vfcvtIFSem
  | 0x145 => some vfcvtUFSem
  | 0x160 => some vmfeqSem
  | 0x161 => some vmfneSem
  | 0x162 => some vmfltSem
  | 0x163 => some vmfleSem
  | 0x164 => some vmfgtSem
  | 0x165 => some vmfgeSem
  | 0x166 => some vmfordSem
  | 0x167 => some vmfclassSem
  | 0x170 => some vfredsumSem
  | 0x171 => some vfredmaxSem
  | 0x172 => some vfredminSem
  | 0x180 => some vfaddF64Sem
  | 0x181 => some vfsubF64Sem
  | 0x182 => some vfmulF64Sem
  | 0x183 => some vfdivF64Sem
  | 0x184 => some vfsqrtF64Sem
  | 0x185 => some vfminF64Sem
  | 0x186 => some vfmaxF64Sem
  | 0x187 => some vfmaF64Sem
  | 0x188 => some vfmsF64Sem
  | 0x189 => some vfnmaF64Sem
  | 0x18A => some vfsgnjF64Sem
  | 0x18B => some vfsgnjnF64Sem
  | 0x1A0 => some vfcvtF64F32Sem
  | 0x1A1 => some vfcvtF32F64Sem
  | 0x1A2 => some vfcvtFIF64Sem
  | 0x1A3 => some vfcvtFUF64Sem
  | 0x1A4 => some vfcvtIFF64Sem
  | 0x1A5 => some vfcvtUFF64Sem
  | 0x1B0 => some vmfeqF64Sem
  | 0x1B1 => some vmfneF64Sem
  | 0x1B2 => some vmfltF64Sem
  | 0x1B3 => some vmfleF64Sem
  | 0x1B4 => some vmfgtF64Sem
  | 0x1B5 => some vmfgeF64Sem
  | 0x1B6 => some vmfordF64Sem
  | 0x1B7 => some vmfclassF64Sem
  | 0x1B8 => some vfredsumF64Sem
  | 0x1B9 => some vfredmaxF64Sem
  | 0x1BA => some vfredminF64Sem
  | 0x1C0 => some vqscaleSem
  | 0x1C1 => some vredsSem
  | 0x1C2 => some vqapplySem
  | 0x1C3 => some vqquantSem
  | 0x1E0 => some vtopkSem
  | 0x200 => some vmandSem
  | 0x201 => some vmorSem
  | 0x202 => some vmxorSem
  | 0x203 => some vmandnSem
  | 0x204 => some vmornSem
  | 0x205 => some vmnandSem
  | 0x206 => some vmnorSem
  | 0x207 => some vmxnorSem
  | 0x208 => some vmrelSem
  | 0x20C => some vmpopcSem
  | 0x20D => some vmfirstSem
  | 0x20E => some vmslide1Sem
  | 0x240 => (match variant with
    | 0 => some vshiftUpSem
    | 1 => some vshiftDnSem
    | 2 => some vshiftInsUpSem
    | 3 => some vshiftInsDnSem
    | _ => none)
  | 0x241 => (match variant with
    | 0 => some vrotDnSem
    | 1 => some vrotUpSem
    | _ => none)
  | 0x244 => some vrgatherSem
  | 0x245 => some vselSem
  | 0x246 => some vcompressSem
  | 0x247 => some vexpandSem
  | 0x248 => some vmvSem
  | 0x280 => some viotaSem
  | 0x281 => some vidSem
  | 0x282 => some vconflSem
  | 0x283 => some vsegscanSem
  | _ => none

end Sys2Proof.Machine
end

