-- ==== Sys2Proof/Machine/Convoy.lean ====
section
/-!
DEFINITION. Blocks and convoys (R31 to R34, R42, R49, R50, R123 to R127, R296): a block starts, a convoy is checked, its strips issue in the order of
R127, what its members wait for arrives, and it retires.
-/

namespace Sys2Proof

/-- Vector registers a member names, with the widths it uses them at (R152, R153). -/
def Member.vecs : Member → List (Nat × Nat)
  | .va p f =>
    let w := ewBits f.ew
    (if p.vd = .vec then [(f.vd.toNat, p.dst.getD w)] else []) ++
    (if p.vs1 = .vec then [(f.vs1.toNat, p.src.getD w)] else []) ++
    (if f.os = 0 && p.vs2 = .vec then [(f.vs2.toNat, p.opw.getD w)] else []) ++
    (if p.f35 = .vs3 then [(f.f35.toNat, w)] else [])
  | .vm op f =>
    let w := ewBits f.ew
    [(f.vd.toNat, w)] ++ (if f.am = 2 then [(f.vs2.toNat, 64)] else []) ++
    (if Machine.offsetFromConst op then [(f.f35.toNat, w)] else [])
  | .vx op f =>
    let w := ewBits f.ew
    (if op = 0x383 || op = 0x3A0 || op = 0x3A1 || op = 0x3A3 then [(f.vs1.toNat, w)] else []) ++
    (if op = 0x3A2 then [(f.vd.toNat, w)] else [])
  | .g1 _ _ => []
  | .bad => []

/-- Element width of a member, in bits. -/
def Member.width : Member → Nat
  | .va _ f => ewBits f.ew
  | .vm _ f => ewBits f.ew
  | .vx _ f => ewBits f.ew
  | .g1 _ f => ewBits f.ew
  | .bad => 8

/-- Profile of a member (R15, R37, R47); bits 17:15 of a VWAITV name its timeout register (R280). -/
def Member.profile : Member → Profile
  | .va p _ => p.prof
  | .vm op f => if op != 0x360 && (f.mfmt = 2 || f.mfmt = 3) then .q1 else .v1
  | .vx op _ => if 0x3A0 ≤ op then .m1 else .v1
  | .g1 _ _ => .g1
  | .bad => .v1

/-- Registers a member writes: file (0 vector, 1 mask, 2 scale) and number. -/
def Member.writes : Member → List (Nat × Nat)
  | .va p f =>
    (match p.vd with
     | .vec => [(0, f.vd.toNat)]
     | .mask => [(1, (topReg f.vd).toNat)]
     | .scale => [(2, (topReg f.vd).toNat)]
     | .none => [])
  | .vm op f =>
    if op = 0x300 then (0, f.vd.toNat) :: if f.records op then [(2, f.scale.toNat)] else []
    else if op = 0x341 then [(1, f.mask.toNat)]
    else if op = 0x360 then [(0, f.vd.toNat), (1, f.scale.toNat)]
    else if op = 0x340 || (0x342 ≤ op && op ≤ 0x349) then [(0, f.vd.toNat)]
    else []
  | .vx op f => if op = 0x3A2 then [(0, f.vd.toNat)] else []
  | .g1 _ _ => []
  | .bad => []

/-- The register that a field of a VA member names: file and number. -/
def kindReg (k : RegKind) (f : BitVec 6) : List (Nat × Nat) :=
  match k with
  | .vec => [(0, f.toNat)]
  | .mask => [(1, (topReg f).toNat)]
  | .scale => [(2, (topReg f).toNat)]
  | .none => []

/-- The mask register that says which elements are active. -/
def maskOf (me : BitVec 1) (mask : BitVec 3) : List (Nat × Nat) := if me = 1 then [(1, mask.toNat)] else []

/-- Registers that decide which elements a memory member accesses, and where. -/
def VMForm.places (f : VMForm) : List (Nat × Nat) := maskOf f.me f.mask ++ if f.am = 2 then [(0, f.vs2.toNat)] else []

/-- Registers a memory member takes data from: what it stores, adds or compares, and the scale entries of a narrowing store or rred. -/
def VMForm.data (op : Nat) (f : VMForm) : List (Nat × Nat) :=
  (if Machine.offsetFromConst op then [(0, f.f35.toNat)] else if op = 0x300 || op = 0x340 then [] else [(0, f.vd.toNat)]) ++
    if f.scales op then [(2, f.scale.toNat)] else []

/-- Registers a member reads, those it writes aside: file (0 vector, 1 mask, 2 scale) and number. -/
def Member.reads : Member → List (Nat × Nat)
  | .va p f =>
    kindReg p.vs1 f.vs1 ++ (if f.os = 0 then kindReg p.vs2 f.vs2 else []) ++
    (match p.f35 with
     | .vs3 => [(0, f.f35.toNat)]
     | .scale => [(2, (topReg f.f35).toNat)]
     | .maskReg => [(1, (topReg f.f35).toNat)]
     | .limb => if bitAt f.f35.toNat 2 then [(1, f.f35.toNat / 8)] else []
     | .imm => []) ++ maskOf f.me f.mask
  | .vm op f => f.places ++ f.data op
  | .vx op f =>
    (if op = 0x380 || op = 0x381 then [(1, (topReg f.vs1).toNat)] else if op = 0x3A2 then [] else [(0, f.vs1.toNat)]) ++
    (if op = 0x3A1 then [(2, f.sreg.toNat)] else []) ++ maskOf f.me f.mask
  | .g1 _ _ => []
  | .bad => []

/-- What a member changes that a later convoy may need: the registers it writes, and as files of their own the vector link set (3), the loop counters (4) and the
row-buffer slots (5). -/
def Member.effects (m : Member) : List (Nat × Nat) :=
  m.writes ++ match m with
  | .vm op _ => if op = 0x340 || op = 0x341 then [(3, 0)] else []
  | .vx op f => if op = 0x384 then [(4, f.idx.toNat)] else if op = 0x3A0 || op = 0x3A1 then [(5, f.idx.toNat)] else []
  | _ => []

/-- A VA member's vd equals a vector register it reads, where its family forbids it (R153). -/
def Member.overlaps : Member → Bool
  | .va p f => p.noOverlap && ((p.vs1 == .vec && f.vs1 == f.vd) || (f.os == 0 && p.vs2 == .vec && f.vs2 == f.vd))
  | _ => false

end Sys2Proof

namespace Sys2Proof.Machine

/-- The core is halted by fyv alone, and the strand's convoy, all of whose strips have issued, goes on to its boundary: a member that sends no memory request
runs, and the convoy retires (R262, R290). -/
def State.finishing (s : State) (sid : Nat) : Bool :=
  let k := coreOf sid
  !(s.die (dieOf k)).stopped && !(s.die (dieOf k)).inReset &&
    (match (s.strand sid).conv with
     | none => false
     | some c => c.strips ≤ c.issued && (c.words.length ≤ c.slot || (match memberOf (nth 0 c.words c.slot) with
       | .va _ _ => true
       | .vx _ _ => true
       | _ => false)))

/-- What a strand's group says of its vector side: placed and its parked state restored (R79), or in migration. -/
def State.vecGroup (s : State) (t : Strand) : Option GPhase :=
  match t.group with
  | none => some .placed
  | some n => (s.group? n).bind fun g => if g.readyAt ≤ s.coreCycle g.core then some g.phase else none

/-- New strips of a strand may issue: its core issues, its group is on the core, it is not held and its queue is not stopped (R71, R298, R300). -/
def State.vecStarts (s : State) (sid : Nat) : Bool :=
  let t := s.strand sid
  t.phase == .running && !s.frozen (coreOf sid) && s.vecGroup t == some .placed && t.hold.isNone && !t.stopped

/-- The vector side of a strand goes on: its group is on the core and the core issues; with the strand held, its queue stopped or its group in
migration, only a convoy that has performed an element of R303 does (R71, R298, R300). -/
def State.vecGoes (s : State) (sid : Nat) : Bool :=
  let t := s.strand sid
  t.phase == .running && (!s.frozen (coreOf sid) || s.finishing sid) &&
    (match s.vecGroup t with
     | some .placed => (t.hold.isNone && !t.stopped) || t.performing
     | some .migrating => t.performing
     | _ => false)

/-- A queued block becomes the block in progress (R123). -/
def Strand.beginBlock (t : Strand) (b : QBlock) : Strand :=
  { t with vpc := b.addr, b := Vector.ofFn fun i => b.args.getD i.val {}, blk := some { vl := b.vl, ew := b.ew, rm := b.rm, g := b.g } }

/-- The block in progress has issued its final convoy (R123). -/
def Strand.issuedAll (t : Strand) : Bool :=
  match t.conv with
  | some c => c.final && c.strips ≤ c.issued
  | none => false

/-- With no block in progress, the boundaries at the head of the queue are passed and the block behind them is loaded. -/
def Strand.startHead (t : Strand) : Strand :=
  let t := t.passDead
  match t.queue with
  | .block b :: q => ({ t with queue := q, past := addTaken t.past [.block b] } : Strand).beginBlock b
  | _ => t

/-- An item of a queue is a SETVL boundary. -/
def QItem.isDead : QItem → Bool
  | .dead _ => true
  | .block _ => false

/-- An effect of a convoy's retirement on its strand (R33, R184). -/
def Strand.retireOne (t : Strand) : Staged → Strand
  | .lc k w => { t with lc := if h : k < 4 then t.lc.set k w h else t.lc }
  | .vl n ew => { t with blk := t.blk.map fun b => { b with vl := n, ew := ew.getD b.ew } }
  | .push w => { t with rq := t.rq ++ [w] }
  | _ => t

/-- Where vpc goes when a convoy retires, and the loop counters (R31, R33): a loop-back convoy decrements its counter while it is not 0. -/
def Strand.retirePc (t : Strand) (c : Conv) : Strand :=
  let next := { t with vpc := c.addr + BitVec.ofNat 64 (64 + 64 * c.words.length) }
  if c.hdr.kind = 7 then
    let k := c.hdr.lc
    let n := t.lc[k.toNat]'(k.isLt)
    if n = 0 then next
    else { t with lc := t.lc.set k.toNat (n - 1) k.isLt, vpc := c.addr - BitVec.ofNat 64 (64 * c.hdr.back.toNat) }
  else next

/-- A block ends (R33, R44): a fault-only-first load's vl becomes the strand's, and the SETVL boundaries before the next block are passed. -/
def Strand.endBlock (t : Strand) : Strand :=
  ({ t with vl := (match t.blk with
             | some b => b.ff.getD t.vl
             | none => t.vl), blk := none } : Strand).passDead

/-- The strand after its convoy retires (R126, R138, R296). -/
def Strand.retire (t : Strand) (c : Conv) : Strand :=
  let t := c.staged.foldl Strand.retireOne t
  let t := { t with
    conv := none, estart := 0, fcsr := t.fcsr ||| BitVec.ofNat 64 c.flags
    vdirty := c.dirty.foldl (fun d r => d ||| BitVec.ofNat 64 (2 ^ r)) t.vdirty
    vstate := if c.dirty.isEmpty then t.vstate else 2 }
  let t := t.retirePc c
  if c.hdr.kind = 6 then t.endBlock else t

/-- A fault-only-first load may yet trim vl: a lower slot decides its elements, and it has not executed (R210). -/
def Conv.mayTrim (c : Conv) : Bool :=
  c.late.any fun i => c.slot ≤ i && (match memberOf (nth 0 c.words i) with
    | .vm 0x300 f => f.am == 3
    | _ => false)

/-- What the members of a convoy may still change: those that have not completed, or all where it may run again at a smaller vl. -/
def Conv.pending (c : Conv) : List (Nat × Nat) := (if c.mayTrim then c.words else c.rest).flatMap fun w => (memberOf w).effects

/-- What convoys before the one in progress may still change, newest of them first: registers before a SETVL boundary, where every register died, are not among it. -/
def pendingOf : Bool → List Past → List (Nat × Nat)
  | _, [] => []
  | dead, p :: ps =>
    let dead := dead || p.taken.any QItem.isDead
    (if dead then p.conv.pending.filter fun r => 3 ≤ r.1 else p.conv.pending) ++ pendingOf dead ps

/-- A member word sets the vl of the convoys that follow it in its block: VSETVL, and VCOMPRESS of variant 1 (R176, R184). -/
def setsVl (w : Nat) : Bool :=
  match memberOf w with
  | .va p f => p.op == 0x246 && f.variant == 1
  | .vx op _ => op == 0x385
  | _ => false

/-- The strand's next convoy may issue before this one, all of whose strips have issued, has completed (R126, R127): it knows its arguments, vl and vpc. Those of the
convoy that follows in the block depend on a G1 member's cursors, a VSETVL or VCOMPRESS, a fault-only-first load, and a loop-back's counter. -/
def Strand.mayPass (t : Strand) (c : Conv) : Bool :=
  c.strips ≤ c.issued &&
    (c.final || !((c.isMerge && !c.complete) || c.mayTrim || c.rest.any setsVl ||
      (c.hdr.kind == 7 && (c.pending ++ pendingOf false t.past.reverse).contains (4, c.hdr.lc.toNat))))

/-- The convoy in progress goes behind: the strand stands where its next convoy does. What the convoy still does to registers, flags, pushes, the core's slots and
thresholds, and for a block's end the strand's vl, comes as its members execute and as it retires. -/
def Strand.pass (t : Strand) (c : Conv) : Strand :=
  match t.blk with
  | none => t
  | some b =>
    let p : Past := { conv := c, blk := b, v := t.v, m := t.m, sc := t.sc, convWait := t.convWait, b := t.b, lc := t.lc, vdirty := t.vdirty, vstate := t.vstate
                      estart := t.estart }
    ({ t with past := t.past ++ [p], convWait := none, blk := some { b with ff := if c.final then none else b.ff } } : Strand).retire { c with
      flags := 0
      dirty := []
      staged := c.staged.filter fun e => match e with
        | .lc _ _ => true
        | .vl _ _ => true
        | _ => false }

/-- The strand as its next convoy finds it, where that may issue. -/
def Strand.forward (t : Strand) : Strand :=
  match t.conv with
  | some c => if t.mayPass c && !c.final then t.pass c else t
  | none => t

/-- BLOCK_START (R123): the first queued block starts once every earlier one has issued its final convoy. -/
def execBlockStart (sid : Nat) (s : State) : Res :=
  let t := s.strand sid
  if !s.vecStarts sid then .next s
  else
    match t.blk, t.conv with
    | none, _ => .next (({ s with cur := sid } : State).setStrand sid t.startHead)
    | some _, some c =>
      if t.issuedAll && !(blocksOf t.queue).isEmpty then .next (({ s with cur := sid } : State).setStrand sid (t.pass c).startHead) else .next s
    | some _, none => .next s

/-- The places in `past` of the convoys whose members have not all completed, oldest first. -/
def Strand.behind (t : Strand) : List Nat :=
  (List.range t.past.length).filter fun i => match t.past[i]? with
    | some p => !p.conv.complete
    | none => false

/-- The strand as convoy i of `past` has it, in progress. -/
def Strand.focus (t : Strand) (i : Nat) : Strand :=
  match t.past[i]? with
  | none => t
  | some p =>
    { t with
      past := t.past.take i, conv := some p.conv, blk := some p.blk, v := p.v, m := p.m, sc := p.sc, convWait := p.convWait, b := p.b, lc := p.lc
      vdirty := p.vdirty, vstate := p.vstate, estart := p.estart, vpc := p.conv.addr, queue := (t.past.drop i).flatMap (·.taken) ++ t.queue }

/-- Registers of some numbers as `u` has them. -/
def copyRegs (u : Strand) (rs : List (Nat × Nat)) (x : Sparse VReg × Sparse Nat × Sparse VReg) : Sparse VReg × Sparse Nat × Sparse VReg :=
  rs.foldl (fun x r =>
    match r.1 with
    | 0 => (Sparse.put x.1 r.2 (Sparse.get {} u.v r.2), x.2)
    | 1 => (x.1, Sparse.put x.2.1 r.2 (Sparse.get 0 u.m r.2), x.2.2)
    | 2 => (x.1, x.2.1, Sparse.put x.2.2 r.2 (Sparse.get {} u.sc r.2))
    | _ => x) x

/-- What an earlier convoy's members have changed, as a later one finds it: registers of some numbers, unless a SETVL boundary lies between, the link set where
it is among them, and loop counters. -/
structure News where
  u : Strand
  rs : List (Nat × Nat)
  lcs : List Staged
  dead : Bool

/-- Registers. -/
def News.regs (n : News) (x : Sparse VReg × Sparse Nat × Sparse VReg) : Sparse VReg × Sparse Nat × Sparse VReg :=
  if n.dead then x else copyRegs n.u n.rs x

/-- What a later convoy displaced. -/
def News.hist (n : News) (h : Hist) : Hist :=
  let x := n.regs (h.v, h.m, h.sc)
  { h with v := x.1, m := x.2.1, sc := x.2.2, vlinks := if n.rs.contains (3, 0) then n.u.vlinks else h.vlinks }

/-- Loop counters. -/
def News.lc (n : News) (lc : Vector Word 4) : Vector Word 4 :=
  n.lcs.foldl (fun lc e => match e with
    | .lc k w => if h : k < 4 then lc.set k w h else lc
    | _ => lc) lc

/-- Later convoys of `past` find it, in order; with what is left of it for the one in progress. -/
def News.along : News → List Past → List Past × News
  | n, [] => ([], n)
  | n, q :: qs =>
    let x := n.regs (q.v, q.m, q.sc)
    let r := News.along { n with dead := n.dead || q.taken.any QItem.isDead } qs
    ({ q with v := x.1, m := x.2.1, sc := x.2.2, lc := n.lc q.lc, conv := { q.conv with hist := n.hist q.conv.hist } } :: r.1, r.2)

/-- The strand after convoy i of `past`, brought forward by `focus`, has gone on to u: the convoy goes back where it stood, and the later ones find its results. One
that has trapped has unwound them. -/
def Strand.attach (t : Strand) (i : Nat) (u : Strand) : Strand :=
  match t.past[i]?, u.conv, u.blk with
  | some p, some c, some b =>
    if c.num != p.conv.num then u
    else
      let q : Past := { p with
        conv := c, blk := b, v := u.v, m := u.m, sc := u.sc, convWait := u.convWait, b := u.b, vdirty := u.vdirty, vstate := u.vstate, estart := u.estart }
      let r := News.along { u := u, rs := p.conv.pending, lcs := c.staged.drop p.conv.staged.length, dead := p.taken.any QItem.isDead } (t.past.drop (i + 1))
      let x := r.2.regs (t.v, t.m, t.sc)
      { u with
        past := t.past.take i ++ q :: r.1, conv := t.conv.map fun k => { k with hist := r.2.hist k.hist }, blk := t.blk, v := x.1, m := x.2.1, sc := x.2.2
        convWait := t.convWait, b := t.b, lc := r.2.lc t.lc, vdirty := t.vdirty, vstate := t.vstate, estart := t.estart, vpc := t.vpc, queue := t.queue }
  | _, _, _ => u

/-- The place of the turn's choice (entry 1) among the convoys of a strand that are behind, none where it falls to the one in progress. -/
def State.choice (s : State) (sid : Nat) : Option Nat :=
  let o := (s.strand sid).behind
  o[s.pick % (o.length + 2)]?

/-- The machine as the convoy has it that the turn goes on with: the one in progress, or one behind it. -/
def State.chosen (s : State) (sid : Nat) : State :=
  match s.choice sid with
  | none => s
  | some i => s.setStrand sid ((s.strand sid).focus i)

/-- The convoy that the turn goes on with has gone on to u, and takes its place among the strand's again. -/
def State.rejoin (s : State) (sid : Nat) (u : State) : State :=
  match s.choice sid with
  | none => u
  | some i => u.modStrand sid ((s.strand sid).attach i)

/-- Run f for the convoy that the turn goes on with. -/
def State.among (s : State) (sid : Nat) (f : State → Res) : Res :=
  match f (s.chosen sid) with
  | .next u => .next (s.rejoin sid u)
  | r => r

/-- What a rule of the member itself makes ILLEGAL: the vl of vconfl, vtoa and vfromc, the group of vtopk, the class mask of an ordered member
(R106, R169, R178, R205, R255). -/
def ownIllegal (c : Env) : Member → Bool
  | .va p f =>
    (p.op == 0x282 && 2 ^ ewBits f.ew - 1 < c.vl) ||
    (p.op == 0x1E0 && !(c.topGroup f).2 && ((c.topGroup f).1 == 0 || (c.topGroup f).1 < f.variant.toNat + 1))
  | .vm _ f => f.order != 0 && !bitAt c.classMask f.cls.toNat
  | .vx op _ => ((op == 0x3A0 || op == 0x3A1) && 1024 < c.vl) || (op == 0x3A2 && 512 < c.vl)
  | _ => false

/-- A VA member reads its operand wider than its elements: the f32 of vreds (R167), the group size of vtopk (R169), the offsets of vshift and vrot (R173). -/
def wideOperand (op : Nat) (f : VAForm) : Bool :=
  op == 0x1C1 || op == 0x1E0 || (op == 0x240 && f.variant.toNat ≤ 1) || op == 0x241

/-- A member reads bits 31:16 of the convoy constant (R39): a VA operand or a transfer value wider than 16 bits, or a class mask. -/
def Member.usesHigh : Member → Bool
  | .va p f => f.os == 2 && (2 ≤ f.ew.toNat || wideOperand p.op f)
  | .vm _ f => f.order != 0
  | .vx op f => (op == 0x384 || op == 0x385) && f.param.toNat == 16
  | _ => false

/-- A class mask with no order (R205): constant bits 31:16 that nothing in the convoy reads beside a memory member of order 00 (DEDUCED, entry 23). -/
def strayMask (c : Env) (ms : List Member) : Member → Bool
  | .vm _ f => f.order == 0 && c.classMask != 0 && !ms.any Member.usesHigh
  | _ => false

/-- The member makes its convoy ILLEGAL (R42, R49, R152, R153, R180); `alone` says that the convoy has no other. -/
def State.illegalMember (s : State) (sid : Nat) (c : Env) (alone : Bool) (m : Member) : Bool :=
  let isG1 := match m with
    | .g1 _ _ => true
    | _ => false
  m == .bad || s.fate sid m.profile == .illegal || (isG1 && !alone) || ownIllegal c m || m.overlaps ||
    m.vecs.any (fun r => 2 ^ c.t.n2 ≤ r.1 || c.len < c.vl * r.2) || c.len < c.vl * m.width

/-- A strand's registers without those that some members write: what a member finds before any issues (R50). -/
def Strand.hide (t : Strand) (ws : List (Nat × Nat)) : Strand :=
  ws.foldl (fun t r =>
    match r.1 with
    | 0 => { t with v := Sparse.del t.v r.2 }
    | 1 => { t with m := Sparse.del t.m r.2 }
    | _ => { t with sc := Sparse.del t.sc r.2 }) t

/-- Registers that the slots below i write. -/
def writtenBelow (ms : List Member) (i : Nat) : List (Nat × Nat) := (ms.take i).flatMap Member.writes

/-- A member's environment as the convoy finds it. -/
def Env.before (c : Env) (ms : List Member) (i : Nat) : Env := { c with t := c.t.hide (writtenBelow ms i) }

/-- What a memory member accesses depends on a lower slot: its mask or index comes from one, or its vl from a fault-only-first load of which that is so
(R50, R210). -/
def isLate (ms : List Member) (i : Nat) (f : VMForm) : Bool :=
  let own := fun (i : Nat) (f : VMForm) =>
    let ws := writtenBelow ms i
    (f.me == 1 && ws.contains (1, f.mask.toNat)) || (f.am == 2 && ws.contains (0, f.vs2.toNat))
  own i f || (List.range i).any fun j => match nth .bad ms j with
    | .vm 0x300 g => g.am == 3 && own j g
    | _ => false

/-- What the first stage of R50 has found so far. -/
structure FirstStage where
  vl : Nat
  probes : Sparse (List Probe) := []
  late : List Nat := []
  wait : Bool := false
  stop : Option Cause := none

/-- The probe passes of slots i and on, in slot order (R50, R88, R210), up to the first with a cause. -/
def State.scanFrom (s : State) (ag : Agent) (c : Env) (ms : List Member) (a : FirstStage) : Nat → List Member → State × FirstStage
  | _, [] => (s, a)
  | i, m :: rest =>
    match m with
    | .vm op f =>
      let ci := { c.before ms i with vl := a.vl }
      let late := isLate ms i f
      (match vmCheck op f ci (!late) with
       | some (code, e) => (s, { a with stop := some { code := code, slot := i, elem := e } })
       | none =>
         if late then State.scanFrom s ag c ms { a with late := a.late ++ [i] } (i + 1) rest
         else
           match s.probeMember ag ci op f (ms.length == 1) with
           | (s, .wait) => (s, { a with wait := true })
           | (s, .trap cause) => (s, { a with stop := some { cause with slot := i } })
           | (s, .ok ps vl) => State.scanFrom s ag c ms { a with vl := vl, probes := Sparse.put a.probes i ps } (i + 1) rest)
    | _ => State.scanFrom s ag c ms a (i + 1) rest

/-- The watermark checks of the load members (R65, R66): whether one waits, and the first cause met. -/
def State.wmPass (s : State) (sid : Nat) (c : Env) (ms : List Member) : Nat → List Member → State × Bool × Option Cause
  | _, [] => (s, false, none)
  | i, m :: rest =>
    match m with
    | .vm op f =>
      let ci := c.before ms i
      if isLate ms i f || (vmCheck op f ci true).isSome then State.wmPass s sid c ms (i + 1) rest
      else
        let r := s.wmCheck sid ci op f
        let q := State.wmPass r.1 sid c ms (i + 1) rest
        (match r.2 with
         | .ok => q
         | .wait => (q.1, true, q.2.2)
         | .trap cause => (q.1, q.2.1, some { cause with slot := i }))
    | _ => State.wmPass s sid c ms (i + 1) rest

/-- The cause a VA or VX member finds in the operands it reads (R50): its result is dropped. -/
def operandCause (c : Env) (m : Member) : Option (Nat × Option Nat) :=
  let r : MRes := match m with
    | .va p f => (match vaSem p.op f.variant.toNat with
      | some g => g f c
      | none => .ok {})
    | .vx op f =>
      (match op with
       | 0x383 => vrqeSem f c
       | 0x384 => vsetlcSem f c
       | 0x385 => vsetvlSem f c
       | 0x3A1 => vtoaSSem f c
       | 0x3A3 => vthrmaxSem f c
       | _ => .ok {})
    | _ => .ok {}
  match r with
  | .ok _ => none
  | .trap code e => some (code, e)

/-- The first of some slots whose VA or VX member finds a cause in its operands. -/
def operandCauses (c : Env) (ms : List Member) : Nat → List Member → Option Cause
  | _, [] => none
  | i, m :: rest =>
    match operandCause (c.before ms i) m with
    | some (code, e) => some { code := code, slot := i, elem := e }
    | none => operandCauses c ms (i + 1) rest

/-- What going through a convoy's slots in order finds, lower slots' results known (R50, R88): the environment after the slots so far, the probes found, the
registers whose contents are not known before a lower slot executes, and how it ended: a cause, a wait, a smaller vl, or a vl that is not known. -/
structure Ahead where
  c : Env
  probes : Sparse (List Probe)
  unknown : List (Nat × Nat) := []
  stop : Option Cause := none
  wait : Bool := false
  waits : Bool := false
  trim : Option Nat := none
  blind : Bool := false

/-- The environment after a load, as its elements read now: IDEM memory may be read early (R89), after the acquire of R65. -/
def State.readAhead (s : State) (ag : Agent) (op : Nat) (f : VMForm) (c : Env) (ps : List Probe) : State × Env :=
  ps.foldl (fun (r : State × Env) p =>
    let s := if checksWm op then r.1.wmAcquire p (if p.trailer then 64 else f.width) else r.1
    let c := r.2
    (s, match (s.readPieces ag f.cls.toNat (op == 0x340) p.ps).2 with
      | .ok v q => if p.trailer then { c with t := c.t.putTrailer c f.scale.toNat (p.id - 2 ^ 20) v q }
                   else { c with t := c.t.putElem f.vd (ewBits f.ew) p.id (loadValue f v) q }
      | .err _ => c)) (s, c)

/-- A register of some is not known. -/
def Ahead.un (a : Ahead) (rs : List (Nat × Nat)) : Bool := rs.any a.unknown.contains

/-- The member's results are not known. -/
def Ahead.hidden (a : Ahead) (m : Member) : Ahead := { a with unknown := a.unknown ++ m.writes }

/-- One slot of `lookAhead`. A VFROMC's row is known once the operations that write it are complete (R229). What a VWAITV will leave is not known, nor what comes of
it (entry 23). -/
def State.aheadSlot (s : State) (sid : Nat) (ms : List Member) (a : Ahead) (i : Nat) (m : Member) : State × Ahead :=
  match m with
  | .va p f =>
    if a.un (m.reads ++ m.writes) then (s, a.hidden m) else
    (match vaSem p.op f.variant.toNat with
     | none => (s, { a with blind := true })
     | some g =>
       match g f a.c with
       | .trap code e => (s, { a with stop := some { code := code, slot := i, elem := e } })
       | .ok o => (s, { a with c := { a.c with t := a.c.t.apply o } }))
  | .vm op f =>
    let known := fun (s : State) (a : Ahead) (ps : List Probe) =>
      if op = 0x360 || a.un m.writes then (s, a.hidden m)
      else if op = 0x300 || op = 0x340 then
        let r := s.readAhead (s.agentOf sid) op f a.c ps
        (r.1, { a with c := r.2 })
      else (s, a)
    if a.un f.places then (s, { a.hidden m with blind := op == 0x300 && f.am == 3 })
    else if !isLate ms i f then known s a (Sparse.get [] a.probes i)
    else
      (match vmCheck op f a.c true (!a.un (f.data op)) with
       | some (code, e) => (s, { a with stop := some { code := code, slot := i, elem := e } })
       | none =>
         match s.wmCheck sid a.c op f with
         | (s, .wait) => (s, { a with waits := true })
         | (s, .trap cause) => (s, { a with stop := some { cause with slot := i } })
         | (s, .ok) =>
           match s.probeMember (s.agentOf sid) a.c op f false with
           | (s, .wait) => (s, { a with wait := true })
           | (s, .trap cause) => (s, { a with stop := some { cause with slot := i } })
           | (s, .ok ps vl) =>
             if vl < a.c.vl then (s, { a with trim := some vl }) else known s { a with probes := Sparse.put a.probes i ps } ps)
  | .vx 0x3A2 f =>
    if a.un (m.reads ++ m.writes) then (s, a.hidden m) else
    let m := (s.core (coreOf sid)).mx
    if m.open.any fun o => o.writesRow f.idx.toNat then (s, { a with wait := true })
    else
      (match vfromcSem (m.row f.idx.toNat) f a.c with
       | .trap code e => (s, { a with stop := some { code := code, slot := i, elem := e } })
       | .ok o => (s, { a with c := { a.c with t := a.c.t.apply o } }))
  | _ => (s, a)

/-- Go through the slots from i on, until something ends it. -/
def State.lookAhead (s : State) (sid : Nat) (ms : List Member) (a : Ahead) : Nat → List Member → State × Ahead
  | _, [] => (s, a)
  | i, m :: rest =>
    match s.aheadSlot sid ms a i m with
    | (s, a) =>
      if a.stop.isSome || a.wait || a.waits || a.trim.isSome || a.blind then (s, a) else State.lookAhead s sid ms a (i + 1) rest

/-- Probe the members that a lower slot decides before any element is performed (R88), going through the convoy again at a smaller vl where a
fault-only-first load gives one (R210), n times at most. -/
def State.probeLate (s : State) (sid : Nat) (ms : List Member) (c : Env) (probes : Sparse (List Probe)) : Nat → State × Ahead
  | 0 => (s, { c := c, probes := probes, blind := true })
  | n + 1 =>
    match s.lookAhead sid ms { c := c, probes := probes } 0 ms with
    | (s, a) =>
      match a.trim with
      | none => (s, { a with c := { a.c with vl := c.vl } })
      | some vl => State.probeLate s sid ms { c with vl := vl } (probes.map fun p => (p.1, p.2.filter (·.below vl))) n

/-- What checking a convoy answers: it may issue, it traps, it needs another die, or it waits (for a watermark, or a transfer). -/
inductive ConvRes where
  | go (k : Conv) (vl : Nat)
  | trap (c : Cause)
  | migrate (slot : Nat) (p : Profile)
  | wait
  | waits

/-- The member words of a convoy at a, as fetched. -/
def State.fetchMembers (s : State) (ag : Agent) (a : Nat) : Nat → Nat → State × List Fetch
  | _, 0 => (s, [])
  | i, n + 1 =>
    let r := s.fetchWords ag true ((a + 64 + 64 * i) % 2 ^ 64) 2
    let q := State.fetchMembers r.1 ag a (i + 1) n
    (q.1, r.2 :: q.2)

/-- The first poisoned member word (R93). -/
def poisonedWord (ws : List Fetch) : Option Nat :=
  ws.findSome? fun w =>
    match w with
    | .trap 9 a => some a
    | _ => none

/-- A fetched word, 0 where it was not fetched. -/
def Fetch.word : Fetch → Nat
  | .ok v => v
  | .trap _ _ => 0

/-- A word at a does not translate, or its range or page lacks VX (R34), whatever else keeps a fetch from it: its level, DEV memory, a peer's memory, a scratchpad
out of reach. -/
def State.lacksVx (s : State) (ag : Agent) (a : Nat) : Bool :=
  match (s.xlate { ag with sup := true } { vx := true, fetch := true, peer := true, far := true } a).2 with
  | .ok _ => false
  | .error _ => true

/-- What slot i's word makes of the convoy: MALFORMED_CONVOY (R34), or the PROTECT that its fetch raises (R85, R90, R191). -/
def State.slotCause (s : State) (ag : Agent) (h : Header) (n i : Nat) (w : Fetch) : Option Cause :=
  match w with
  | .trap code a => if s.lacksVx ag a then some { code := 3, slot := i } else some { code := code, addr := BitVec.ofNat 64 a, slot := i }
  | .ok v =>
    if (match unitsOfOpcode (opOf v) with
        | some u => h.unit i != u
        | none => false) || (isStoreOp (opOf v) && i + 1 != n) then some { code := 3, slot := i } else none

/-- The cause of the first slot that has one. R50 ranks no PROTECT of a member word's fetch: it stands with MALFORMED_CONVOY, the lower slot first (DESIGN CHOICE,
entry 21). -/
def State.firstSlot (s : State) (ag : Agent) (h : Header) (n : Nat) : Nat → List Fetch → Option Cause
  | _, [] => none
  | i, w :: t =>
    match s.slotCause ag h n i w with
    | some c => some c
    | none => State.firstSlot s ag h n (i + 1) t

/-- Convoy strips of a convoy at vl (R125). -/
def stripsOf (ms : List Member) (vl : Nat) : Nat := ms.foldl (fun n m => max n (max 1 (ceilDiv (vl * m.width) 2048))) 1

/-- The index of the first element of a list that meets a condition. -/
def firstIdx {α : Type} (p : Nat → α → Bool) : Nat → List α → Option Nat
  | _, [] => none
  | i, a :: t => if p i a then some i else firstIdx p (i + 1) t

/-- A convoy of these words would raise a count of WAITC above 1,023 (R121, R132): those of loads, of memory-writing members, of matrix members. -/
def State.countsFull (s : State) (sid : Nat) (ws : List Nat) : Bool :=
  let n := s.counts sid
  let more := fun (f : Nat → Bool) (n : Nat) => let k := (ws.filter fun w => f (opOf w)).length; k != 0 && 1023 < n + k
  more isLoadOp n.1 || more isStoreOp n.2.1 || more isMatrixOp n.2.2.2

/-- The stages of R50 that come before issue, for a convoy whose words are legal: what the members find in what they read and where they go. -/
def State.dataStage (s : State) (sid : Nat) (b : Blk) (c : Env) (hdr : Header) (ws : List Nat) (ms : List Member) : State × ConvRes :=
  let t := s.strand sid
  match s.wmPass sid c ms 0 ms with
  | (s, true, none) => (s, .waits)
  | (s, _, wmTrap) =>
    let upTo := match wmTrap with
      | some k => k.slot
      | none => ms.length
    match s.scanFrom (s.agentOf sid) c ms { vl := c.vl } 0 (ms.take upTo) with
    | (s, a) =>
      if a.wait then (s, .wait)
      else
        let stop := match a.stop with
          | some k => some k
          | none => wmTrap
        let below := match stop with
          | some k => k.slot
          | none => ms.length
        match operandCauses { c with vl := a.vl } ms 0 (ms.take below), stop with
        | some k, _ => (s, .trap k)
        | none, some k => (s, .trap k)
        | none, none =>
          match (if a.late.isEmpty then (s, ({ c := { c with vl := a.vl }, probes := a.probes } : Ahead))
                 else s.probeLate sid ms { c with vl := a.vl } a.probes 8) with
          | (s, l) =>
            if l.waits then (s, .waits)
            else if l.wait then (s, .wait)
            else
              match l.stop with
              | some k => (s, .trap k)
              | none =>
                (s, .go { addr := t.vpc, hdr := hdr, konst := c.konst, words := ws, strips := stripsOf ms l.c.vl
                          hist := { v := t.v, m := t.m, sc := t.sc, blk := b, vlinks := t.vlinks }
                          probes := l.probes.map fun p => (p.1, p.2.filter (·.below l.c.vl))
                          late := a.late } l.c.vl)

/-- CHECK THE CONVOY at vpc (R34, R42, R49, R50, R93): the causes in their order. A member that would raise a count above 1,023 waits (R132). -/
def State.checkConvoy (s : State) (sid : Nat) (b : Blk) : State × ConvRes :=
  let t := s.strand sid
  let a := t.vpc.toNat
  let ag := s.agentOf sid
  match s.fetchWords ag true a 2 with
  | (s, .trap code v) => (s, .trap { code := code, addr := BitVec.ofNat 64 v })
  | (s, .ok w) =>
    let h := w % 2 ^ 32
    let hdr := headerOf h
    let n := hdr.count.toNat + 1
    match s.fetchMembers ag a 0 n with
    | (s, fs) =>
    match poisonedWord fs with
    | some v => (s, .trap { code := 9, addr := BitVec.ofNat 64 v })
    | none =>
    if !headerOk h then (s, .trap { code := 1 }) else
    match s.firstSlot ag hdr n 0 fs with
    | some k => (s, .trap k)
    | none =>
    let ws := fs.map Fetch.word
    let ms := ws.map memberOf
    let c : Env := { t := { t with g := b.g }, vl := b.vl, rm := b.rm, konst := w / 2 ^ 32 }
    match firstIdx (fun _ m => s.illegalMember sid c (n == 1) m || strayMask c ms m) 0 ms with
    | some i => (s, .trap { code := 1, slot := i })
    | none =>
    if b.g = 0 then (s, .trap { code := 11 })
    else if t.vstate = 0 then (s, .trap { code := 12 })
    else
      match firstIdx (fun _ m => s.fate sid m.profile == .migrate) 0 ms with
      | some i => (s, .migrate i (nth .bad ms i).profile)
      | none => if s.countsFull sid ws then (s, .wait) else s.dataStage sid b c hdr ws ms

/-- The members of the convoy at the vpc of t, as a fetch finds them now; none where they cannot be fetched. -/
def State.membersAt (s : State) (ag : Agent) (t : Strand) : List Member :=
  match s.peekWords ag t.vpc.toNat 1 with
  | some [w] => ((s.peekWords ag (t.vpc.toNat + 64) ((headerOf (w % 2 ^ 32)).count.toNat + 1)).getD []).map memberOf
  | _ => []

/-- The convoy at the vpc of t has its operands (R127): no earlier convoy under way may still change what its members read, or what they change in part. -/
def State.operandsReady (s : State) (ag : Agent) (t : Strand) : Bool :=
  let open' := pendingOf false t.past.reverse
  open'.isEmpty || (s.membersAt ag t).all fun m => (m.reads ++ m.effects).all fun r => !open'.contains r

/-- The strand has a convoy strip to issue, its operands available: a convoy that is not yet checked, or strips left (R127). -/
def State.wantsStrip (s : State) (sid : Nat) : Bool :=
  let t := (s.strand sid).forward
  t.blk.isSome &&
    (match t.conv with
     | none => s.vecStarts sid && t.convWait.isNone && s.operandsReady (s.agentOf sid) t
     | some c => s.vecGoes sid && c.issued < c.strips)

/-- A member of a convoy at vl has strip k (R125). -/
def hasStrip (m : Member) (vl k : Nat) : Bool := k < max 1 (ceilDiv (vl * m.width) 2048)

/-- Member count of the strand's next convoy strip (R127); 1 where its header cannot be read. -/
def State.stripCost (s : State) (sid : Nat) : Nat :=
  let t := (s.strand sid).forward
  match t.conv, t.blk with
  | some c, some b => (c.words.filter fun w => hasStrip (memberOf w) b.vl c.issued).length
  | _, _ =>
    match (s.fetch32 (s.agentOf sid) true t.vpc.toNat).2 with
    | .ok h => (headerOf h).count.toNat + 1
    | .trap _ _ => 1

/-- What deficit-weighted round-robin reads of each strand 0 to 7 (R127). -/
structure Rr where
  elig : List Bool
  empty : List Bool
  cost : List Nat
  weight : List Nat

/-- Visit strands from p on, with deficits D, until one issues: pointer, deficits and the strand chosen (R127). -/
def Rr.run (r : Rr) : Nat → Nat → List Nat → Nat × List Nat × Option Nat
  | 0, p, D => (p, D, none)
  | n + 1, p, D =>
    let D := if nth false r.empty p then setNth D p 0 else D
    if nth false r.elig p && nth 0 r.cost p ≤ nth 0 D p then (p, setNth D p (nth 0 D p - nth 0 r.cost p), some p)
    else
      let q := (p + 1) % 8
      let D := if q = 0 then (List.range 8).map fun t => nth 0 D t + if nth false r.elig t then nth 0 r.weight t else 0 else D
      Rr.run r n q D

/-- A lone member that accesses DEV memory issues only once every older convoy has completed (R90). -/
def Strand.devWaits (t : Strand) (k : Conv) : Bool := (t.past.any fun p => !p.conv.complete) && k.probes.any fun p => p.2.any Probe.isDev

/-- The next convoy strip of a strand issues, the checks of its convoy first (R126). -/
def State.issueStrip (s : State) (sid : Nat) : State :=
  let s := ({ s with cur := sid } : State).modStrand sid Strand.forward
  let t := s.me
  match t.blk, t.conv with
  | some _, some _ => s.modConv fun c => { c with issued := c.issued + 1 }
  | some b, none =>
    (match s.checkConvoy sid b with
     | (s, .go k vl) =>
       if t.devWaits k then s else
       let s := s.convGoes sid true
       let ff := if vl < b.vl then some vl else b.ff
       let s1 : State := { s with seq := s.seq + 1 }
       s1.modStrand sid fun t => { t with blk := some { b with vl := vl, ff := ff }, conv := some { k with num := s.seq, issued := 1 } }
     | (s, .trap c) => s.convoyTrap sid c
     | (s, .migrate i p) => if t.past.isEmpty then s.takeMigrate sid t.vpc true i p else s
     | (s, .wait) => s
     | (s, .waits) => s.convWaits sid)
  | none, _ => s

/-- Strips that a strand's convoys under way have issued. -/
def Strand.stripsIssued (t : Strand) : Nat := (t.convs.map (·.issued)).sum

/-- Issue a strip that has been charged: the charge comes back where a trap or a wait has kept it from issuing (R127). -/
def State.issueCharged (s : State) (sid cost : Nat) : State :=
  let u := s.issueStrip sid
  if (s.strand sid).stripsIssued < (u.strand sid).stripsIssued then u
  else u.modStrand sid fun t => { t with deficit := t.deficit + cost }

/-- CONVOY_STRIP_ISSUE (R127): `elig` has a bit for each context whose operands and pipes are ready; the matrix control strand issues where no
application strand does. -/
def execConvoyStripIssue (core : Nat) (elig : BitVec 8) (s : State) : Res :=
  if s.frozen core then .next s
  else
    let sids := (List.range 8).map (sidOf core)
    let r : Rr := {
      elig := sids.map fun k => bitAt elig.toNat (ctxOf k) && s.wantsStrip k
      empty := sids.map fun k => (s.strand k).vecIdle
      cost := sids.map s.stripCost
      weight := sids.map fun k => (s.strand k).share }
    if r.elig.any id then
      match r.run 64 ((s.core core).rr % 8) (sids.map fun k => (s.strand k).deficit) with
      | (p, D, who) =>
        let s := s.modCore core fun c => { c with rr := p }
        let s := sids.foldl (fun s k =>
          if (s.strand k).deficit = nth 0 D (ctxOf k) then s else s.modStrand k fun t => { t with deficit := nth 0 D (ctxOf k) }) s
        (match who with
         | some c => .next (s.issueCharged (sidOf core c) (nth 0 r.cost c))
         | none => .next s)
    else if s.wantsStrip (mcsOf core) then .next (s.issueStrip (mcsOf core))
    else .next s

/-- MEMORY_REPLY (R211, R218): the first element left of a load or store in host, CXL or DEV memory is performed, and those after it up to the next that needs
a reply; or the reply to a link read of a VAMO comes. A halted core sends no request, and what it had sent is answered (R262, R290). -/
def execMemoryReply (sid : Nat) (s : State) : Res :=
  ({ s with cur := sid } : State).among sid fun s =>
  match s.me.blk, s.me.conv with
  | some b, some k =>
    (match k.pend, memberOf (nth 0 k.words k.slot) with
     | .vamo r left sent came, .vm _ _ => .next ((s.amoReply r left sent came).getD s)
     | .elems asked (p :: ps), .vm op f =>
       let c := s.me.env b k
       if s.frozen s.myCore && !asked then .next s
       else if op = 0x300 then s.runLoad f c true (p :: ps)
       else s.runStore op f c true (p :: ps)
     | _, _ => .next s)
  | _, _ => .next s

/-- One line's elements of a VAMO round, whose reply has come, commit, or their tag is lost; the next round starts once the round has none left (R218). -/
def State.amoLine (s : State) (op : Nat) (f : VMForm) (r : Nat) (left sent came : List Nat) : State :=
  let ps := s.slotProbes
  let named := fun (l : List Nat) => ps.filter fun p => hasNat l p.id
  match (if 9 ≤ r then named left else named came) with
  | [] => if 9 ≤ r || sent.isEmpty then s.amoDone f else s
  | p :: _ =>
    let mine := if 9 ≤ r then [p] else (named came).filter fun q => q.lines.head? == p.lines.head?
    let go := 9 ≤ r || (mine.flatMap (·.lines)).all fun l => s.tagged amoTag l s.cur
    let s := if go then mine.foldl (fun s q => s.amoElem op f q) s else s
    let gone := mine.map (·.id)
    let left := if go then left.filter fun e => !hasNat gone e else left
    let sent := sent.filter fun e => !hasNat gone e
    let came := came.filter fun e => !hasNat gone e
    if left.isEmpty then s.amoDone f
    else if r < 9 && sent.isEmpty then s.amoRound (r + 1) ((ps.filter fun q => hasNat left q.id))
    else s.modConv fun k => { k with pend := .vamo r left sent came }

/-- VAMO_COMMIT (R217, R218): the update of one line, or from round 9 on of one element locked at its home. -/
def execVamoCommit (sid : Nat) (s : State) : Res :=
  ({ s with cur := sid } : State).among sid fun s =>
  if !s.vecGoes sid then .next s else
  match s.me.conv with
  | some k =>
    (match k.pend, memberOf (nth 0 k.words k.slot) with
     | .vamo r left sent came, .vm op f => .next (s.amoLine op f r left sent came)
     | _, _ => .next s)
  | none => .next s

/-- What a VWAITV in progress is: its fields, the elements left, its first cycle, its environment. -/
def State.vwaiting (s : State) (sid : Nat) : Option (VMForm × List Nat × Nat × Env) :=
  let t := s.strand sid
  match t.blk, t.conv with
  | some b, some k =>
    (match k.pend, memberOf (nth 0 k.words k.slot) with
     | .vwait left since, .vm _ f => some (f, left, since, t.env b k)
     | _, _ => none)
  | _, _ => none

/-- Write element e of vd, and its bit of md, of a VWAITV. -/
def State.vwaitPut (s : State) (f : VMForm) (e v : Nat) (p unsat : Bool) : State :=
  let t := s.me.putElem f.vd 64 e v p
  s.setMe { t with m := Sparse.put t.m f.scale.toNat (putField (Sparse.get 0 t.m f.scale.toNat) e 1 (if unsat then 1 else 0)) }

/-- The parts of a VWAITV's word, translated again where it lies in a scratchpad, whose window may have moved with its group (R73). -/
def State.vwaitParts (s : State) (p : Probe) : State × Chk :=
  if p.ps.any fun q => q.tr.fa < 2 ^ 61 && spaceOfPhys q.tr.fa == 1 then s.check s.myAgent .homeLoad p.va 64 else (s, .ok p.ps)

/-- VWAITV_ELEMENT_SATISFIED (R280): the element's word is read again at its home; where it satisfies the condition the element is done. A poisoned word
sets the poison of vd[e] and satisfies nothing. -/
def execVwaitvElementSatisfied (sid elem : Nat) (s : State) : Res :=
  ({ s with cur := sid } : State).among sid fun s =>
  if !s.vecGoes sid then .next s else
  match s.vwaiting sid with
  | none => .next s
  | some (f, left, since, c) =>
    match s.slotProbes.find? fun p => p.id == elem && hasNat left elem with
    | none => .next s
    | some p =>
      let cause := fun (s : State) (code : Nat) => s.convoyTrap sid
        { code := code, addr := BitVec.ofNat 64 p.va, slot := (s.me.conv.map (·.slot)).getD 0, elem := some elem }
      match s.vwaitParts p with
      | (s, .wait) => .next s
      | (s, .trap code _) => .next (cause s code)
      | (s, .ok ps) =>
      match s.ownAgain ps with
      | (s, .wait) => .next s
      | (s, .stop code _) => .next (cause s code)
      | (s, .ok) =>
        match s.readPieces s.myAgent f.cls.toNat true ps with
        | (s, .err _) => .next s
        | (s, .ok v q) =>
          if q then .next (s.setMe (s.me.putElem f.vd 64 elem (((c.vec f.vd 64).val elem)) true))
          else if condHolds (f.hi3.toNat / 2 % 2) (BitVec.ofNat 64 v) (BitVec.ofNat 64 ((c.vec f.f35 64).val elem)) then
            let rest := left.filter (· != elem)
            let s := s.vwaitPut f elem v false false
            if rest.isEmpty then .next ((s.progress sid).vwaitDone f s.slotProbes)
            else .next (s.modConv fun k => { k with pend := .vwait rest since })
          else .next s

/-- VWAITV_EXPIRY (R280): the elements left get their addresses and their bits of md, and the member completes. -/
def execVwaitvExpiry (sid : Nat) (s : State) : Res :=
  ({ s with cur := sid } : State).among sid fun s =>
  if !s.vecGoes sid then .next s else
  match s.vwaiting sid with
  | none => .next s
  | some (f, left, since, c) =>
    let lim := (c.arg f.mfmt.toNat).w.toNat
    if lim = 0 || s.coreCycle s.myCore - since < lim then .next s
    else
      let bad := fun e => s.slotProbes.any fun p => p.id == e && p.ps.any fun q => s.homePois q.tr.fa q.len
      let s := left.foldl (fun s e => s.vwaitPut f e (c.elemAddr 0x360 f e) (bad e) true) s
      .next (s.vwaitDone f s.slotProbes)

/-- WATERMARK_WAIT_END (R65): the observed counts reach what the strand's convoy needs, and it may be checked again; a load whose mask or index a lower
slot produces is checked where it executes. A cause found instead, an expired limit among them, is taken (R66). -/
def execWatermarkWaitEnd (sid : Nat) (s : State) : Res :=
  ({ s with cur := sid } : State).among sid fun s =>
  let t := s.me
  if !s.vecGoes sid || t.convWait.isNone then .next s else
  match t.blk, t.conv with
  | some b, none =>
    (match s.checkConvoy sid b with
     | (s, .waits) => .next s
     | (s, .wait) => .next s
     | (s, .trap c) => .next (s.convoyTrap sid c)
     | (s, _) => .next (s.convGoes sid true))
  | some b, some k =>
    (match memberOf (nth 0 k.words k.slot) with
     | .vm op f =>
       (match s.wmCheck sid (t.env b k) op f with
        | (s, .wait) => .next s
        | (s, .trap c) => .next (s.convoyTrap sid { c with slot := k.slot })
        | (s, .ok) => .next (s.convGoes sid true))
     | _ => .next s)
  | none, _ => .next s

/-- WATERMARK_TIMEOUT (R66): the limit of a watermark wait has expired, and the convoy traps TIMEOUT, unless R50 chooses another cause. -/
def execWatermarkTimeout (sid : Nat) (s : State) : Res :=
  ({ s with cur := sid } : State).among sid fun s =>
  let t := s.me
  if !s.vecGoes sid || t.convWait.isNone then .next s else
  match t.blk, t.conv with
  | some b, none =>
    (match s.checkConvoy sid b with
     | (s, .trap c) => .next (s.convoyTrap sid c)
     | (s, _) => .next s)
  | some b, some k =>
    (match memberOf (nth 0 k.words k.slot) with
     | .vm op f =>
       (match s.wmCheck sid (t.env b k) op f with
        | (s, .trap c) => .next (s.convoyTrap sid { c with slot := k.slot })
        | (s, _) => .next s)
     | _ => .next s)
  | none, _ => .next s

/-- Reply-queue words a convoy pushes when it retires. -/
def Conv.pushes (c : Conv) : List PWord :=
  c.staged.filterMap fun e =>
    match e with
    | .push w => some w
    | _ => none

/-- An effect of a convoy's retirement on the core's matrix state (R228, R259). -/
def Matrix.retireOne (sid : Nat) (m : Matrix) : Staged → Matrix
  | .fill i scaled planes bits pois =>
    { m with
      slots := Sparse.put m.slots i { full := true, scaled := scaled, planes := planes, bits := bits, pois := pois }
      vtoaQ := m.vtoaQ.erase (i, sid) }
  | .thr j v => { m with th := Sparse.put m.th j (f32.minmax true (m.thr j) v).1 }
  | _ => m

/-- The convoy may retire: it is complete, every earlier one has retired, and its pushes have room (R118, R126). -/
def Strand.mayRetire (t : Strand) (c : Conv) : Bool := c.complete && t.past.isEmpty && t.rq.length + c.pushes.length ≤ 16

/-- Shares that boundaries among some items give up. -/
def relOf (l : List QItem) : Nat := (l.map fun i => match i with
  | .dead r => r
  | .block _ => 0).sum

/-- The oldest convoy behind the one in progress is complete, and there is room for its pushes. -/
def Strand.pastReady (t : Strand) : Bool :=
  match t.past with
  | p :: _ => p.conv.complete && t.rq.length + p.conv.pushes.length ≤ 16
  | [] => false

/-- vdirty and vstate once some registers have been written (R44, R296). -/
def dirtied (rs : List Nat) (x : Word × Nat) : Word × Nat :=
  (rs.foldl (fun d r => d ||| BitVec.ofNat 64 (2 ^ r)) x.1, if rs.isEmpty then x.2 else 2)

/-- The dirty bits of a convoy that retires, as the later ones of `past` have them up to a SETVL boundary; with whether one lies before the convoy in progress. -/
def dirtyAlong (rs : List Nat) : Bool → List Past → List Past × Bool
  | dead, [] => ([], dead)
  | dead, q :: qs =>
    let x := if dead then (q.vdirty, q.vstate) else dirtied rs (q.vdirty, q.vstate)
    let r := dirtyAlong rs (dead || q.taken.any QItem.isDead) qs
    ({ q with vdirty := x.1, vstate := x.2 } :: r.1, r.2)

/-- The oldest convoy behind the one in progress retires (R118, R126, R130, R138): its pushes, flags and dirty bits, the shares that boundaries behind it give up, and
for a block's end the vl that a fault-only-first load has left (R44). -/
def Strand.retirePast (t : Strand) : Strand :=
  match t.past with
  | p :: ps =>
    let r := dirtyAlong p.conv.dirty (p.taken.any QItem.isDead) ps
    let x := if r.2 then (t.vdirty, t.vstate) else dirtied p.conv.dirty (t.vdirty, t.vstate)
    { t with
      rq := t.rq ++ p.conv.pushes, fcsr := t.fcsr ||| BitVec.ofNat 64 p.conv.flags, held := t.held - relOf p.taken, past := r.1
      vdirty := x.1, vstate := x.2, vl := if p.conv.final then p.blk.ff.getD t.vl else t.vl }
  | [] => t

/-- A convoy's effects on the core's matrix state, as it retires (R228, R259). -/
def State.retireMx (s : State) (sid : Nat) (c : Conv) : State :=
  if c.staged.isEmpty then s else s.modMx (coreOf sid) fun m => c.staged.foldl (Matrix.retireOne sid) m

/-- The oldest convoy behind the one in progress retires, as its strand's vector side goes on for that convoy. -/
def State.pastGoes (s : State) (sid : Nat) : Bool :=
  let t := s.strand sid
  t.pastReady && (s.setStrand sid (t.focus 0)).vecGoes sid

/-- CONVOY_RETIRE (R33, R126): flags, registers' dirty bits, staged effects, and vpc. -/
def execConvoyRetire (sid : Nat) (s : State) : Res :=
  let s := { s with cur := sid }
  if s.pastGoes sid then .next (((s.me.past.head?.map fun p => s.retireMx sid p.conv).getD s).modStrand sid Strand.retirePast)
  else if !s.vecGoes sid then .next s
  else
    match s.me.conv with
    | some c => .next (if s.me.mayRetire c then (s.retireMx sid c).modStrand sid fun t => t.retire c else s)
    | none => .next s

end Sys2Proof.Machine
end

