-- ==== Sys2Proof/Machine/Copy.lean ====
section
/-!
DEFINITION. The strand's side of copy: copy, copy.mc, persist (R196, R197, R221 to R225).
-/

namespace Sys2Proof.Machine

/-- A completion address (R221): 64-aligned, writable, in a scratchpad, PROTECT anywhere else; x0 or 0 names none, which the caller decides. -/
def State.checkComp (s : State) (a : Word) : State × Chk :=
  if a.toNat % 64 ≠ 0 then (s, .trap 4 a.toNat)
  else
    match s.check s.myAgent { Want.store with far := true, noHost := true } a.toNat 64 with
    | (s, .ok ps) => if ps.all fun p => p.tr.fa < 2 ^ 61 && spaceOfPhys p.tr.fa == 1 then (s, .ok ps) else (s, .trap 6 a.toNat)
    | r => r

/-- Copy slots of a core that are taken (R197). -/
def State.slotsUsed (s : State) (k : Nat) : Nat :=
  (s.dies.map fun d => (d.2.ctxs.map fun c => (c.2.ops.filter fun o => o.core == some k).length).sum).sum

/-- Give an operation its number on a context, and queue it (R197). -/
def State.queueCopy (s : State) (pc : Nat) (o : CopyOp) : State × Nat :=
  let c := s.copyCtx pc
  (s.setCopyCtx pc { c with issue := c.issue + 1, ops := c.ops ++ [{ o with num := c.issue + 1 }] }, c.issue + 1)

/-- An operation issued by the strand whose turn it is. -/
def State.myOp (s : State) (kind : CopyKind) (src : Word) (dests : List Dest) (len : Nat) (cls : Nat) : CopyOp :=
  { num := 0, kind := kind, src := src, dests := dests, len := len, cls := cls, asid := s.me.asid, sup := s.me.sup, core := some s.myCore,
    sid := some s.cur, group := s.me.group }

/-- Issue an operation on context number cx: PROTECT where it is unmapped (R196), a slot, the release of R225, the number in x[rd] (R222, R225). While no
slot is free, or an earlier access is not performed, the strand is parked as it stood before it checked anything (`s0`). -/
def State.issueCopy (s s0 : State) (i : Instr) (rd : Reg) (cx : Nat) (o : CopyOp) : Res :=
  match s.physCtx s.me.asid cx with
  | none => s.trap 6
  | some pc =>
    if 256 ≤ s.slotsUsed s.myCore || !s.accessesDone s.cur then .next (s0.park i)
    else
      let r := (s.release allClasses 4).queueCopy pc o
      .next ((r.1.wx rd (BitVec.ofNat 64 r.2)).adv 64)

/-- copy and copy.2d (R221, R222). -/
def execCopy (c : CopyForm) (s : State) : Res :=
  let two := c.twoD = 1
  let lr := fun (i : Nat) => BitVec.ofNat 5 (c.rlen.toNat + i)
  let len := (s.rx c.rlen).toNat
  let rows := if two then (s.rx (lr 1)).toNat else 1
  let regs := [c.rdst, c.rsrc, c.rlen, c.rc, c.rv] ++ if two then [lr 1, lr 2, lr 3] else []
  if 2 ^ 48 ≤ len || 2 ^ 48 ≤ len * rows then s.trap 1
  else if regs.any s.px then s.trap 8
  else
    let comp := if c.rc = 0 then none else some (s.rx c.rc)
    match (if c.rc = 0 then (s, Chk.ok []) else s.checkComp (s.rx c.rc)) with
    | (s', .ok _) =>
      let d : Dest := { addr := s.rx c.rdst, comp := comp }
      let o := s.myOp .copy (s.rx c.rsrc) [d] len c.cls.toNat
      s'.issueCopy s (.copy c) c.rd c.ctx.toNat
        { o with rows := rows, sstr := if two then s.rx (lr 2) else 0, dstr := if two then s.rx (lr 3) else 0, cv := s.rx c.rv }
    | (s', k) => s'.failed k

/-- The destinations of a copy.mc table (R223), from its bits. -/
def mcDests (v n : Nat) : List Dest :=
  (List.range n).map fun i =>
    let comp := BitVec.ofNat 64 (field v (128 * i + 64) 64)
    { addr := BitVec.ofNat 64 (field v (128 * i) 64), comp := if comp = 0 then none else some comp }

/-- Check the completion addresses of a table's destinations: ALIGN before TRANSLATE before PROTECT, of one cause the lowest address (DEDUCED from the
order of R105, entry 21). -/
def State.checkComps (s : State) (ds : List Dest) : State × Chk :=
  let r := ds.foldl (fun (r : State × List Chk) d =>
    match d.comp with
    | none => r
    | some a => let q := r.1.checkComp a; (q.1, r.2 ++ [q.2])) (s, [])
  (r.1, worstChk r.2 ((ds.filterMap (·.comp)).filterMap fun a => if a.toNat % 64 ≠ 0 then some a.toNat else none))

/-- copy.mc (R221, R223): the destination table is read at issue. -/
def execCopyMc (c : CopyMcForm) (s : State) : Res :=
  let len := (s.rx c.rlen).toNat
  let n := c.n1.toNat + 1
  let tab := s.rx c.rtab
  if 2 ^ 48 ≤ len then s.trap 1
  else if [c.rtab, c.rsrc, c.rlen, c.rv].any s.px then s.trap 8
  else if tab.toNat % 64 ≠ 0 then s.trap 4 tab
  else if s.heldBack {} then .next s
  else
    match s.check s.myAgent { Want.load with many := true } tab.toNat (128 * n) with
    | (s1, .ok ps) =>
      if s1.bitsPending s.cur ps then .next s else
      (match s1.readPieces s.myAgent 0 false ps with
       | (s1, .err v) => s1.trap 6 (BitVec.ofNat 64 v)
       | (s1, .ok v p) =>
         if p then s1.trap 8
         else
           let ds := mcDests v n
           match s1.checkComps ds with
           | (s2, .ok _) =>
             s2.issueCopy s (.copyMc c) c.rd c.ctx.toNat { s.myOp .mc (s.rx c.rsrc) ds len c.cls.toNat with cv := s.rx c.rv }
           | (s2, k) => s2.failed k)
    | (s1, k) => s1.failed k

/-- persist (R224). -/
def execPersist (rd ra rlen : Reg) (cx : BitVec 7) (s : State) : Res :=
  let len := (s.rx rlen).toNat
  if 2 ^ 48 ≤ len then s.trap 1
  else if s.px ra || s.px rlen then s.trap 8
  else s.issueCopy s (.persist rd ra rlen cx) rd cx.toNat (s.myOp .persist (s.rx ra) [] len 1)

end Sys2Proof.Machine
end

