-- ==== Sys2Proof/Machine/Groups.lean ====
section
/-!
DEFINITION. Gangs and groups (R17 to R22, R51 to R57, R63, R69 to R79, R307, R308, R326 to R330): acceptance, placement, migration, and the ways a group
ends.
-/

namespace Sys2Proof.Machine

/-- What a die's command processor is among those that join ownership transfers (R336). -/
def cpKey (die : Nat) : Nat := 2 ^ 21 + die

/-- A command processor as an agent (R67): it reads and writes at the home. -/
def cpAgent (die asid : Nat) (sup : Bool) : Agent :=
  { core := 64 * die, onCore := false, asid := asid, sup := sup, sid := some (cpKey die) }

/-- What a command processor's read answers: a value, unreadable (or poisoned: a choice), or a wait. -/
inductive CpRead where
  | ok (v : Nat)
  | bad
  | wait
deriving DecidableEq, Repr

/-- Read w bits at a. -/
def State.cpRead (s : State) (ag : Agent) (a w : Nat) : State × CpRead :=
  match s.check ag { Want.load with many := true } a w with
  | (s, .trap _ _) => (s, .bad)
  | (s, .wait) => (s, .wait)
  | (s, .ok ps) =>
    match s.readPieces ag 0 true ps with
    | (s, .ok v false) => (s, .ok v)
    | (s, _) => (s, .bad)

/-- A word of 64 bits can be written: its parts, unwritable, or a wait. -/
def State.cpCanWrite (s : State) (ag : Agent) (a : Nat) : State × Chk :=
  if a % 64 ≠ 0 then (s, .trap 4 a) else s.check ag Want.store a 64

/-- Write a word at its home, as one single-copy atomic store (R54, R329). -/
def State.cpWrite (s : State) (ag : Agent) (v : Nat) (ps : List Piece) : State := (s.writePieces ag none 0 true v false ps).1

/-- A code object descriptor (R17). -/
structure Desc where
  profiles : Nat
  minors : Nat
  migratable : Bool
  strands : Nat
  shares : Nat
  scratch : Nat
  groups : Nat
  entry : Nat
  mentry : Nat
deriving DecidableEq, Repr

/-- The minor version declared for profile i. -/
def minorOf (minors i : Nat) : Nat := field minors (4 * i) 4

/-- A descriptor of 256 bits, where it is well formed (R17, R18). -/
def descOf (v : Nat) : Option Desc :=
  let w := fun i => field v (64 * i) 64
  let d : Desc := {
    profiles := field (w 0) 8 8, minors := field (w 0) 16 24, migratable := bitAt (w 0) 40
    strands := field (w 1) 0 3 + 1, shares := field (w 1) 3 6, scratch := field (w 1) 9 10, groups := field (w 1) 20 24
    entry := w 2, mentry := w 3 }
  if field (w 0) 0 8 == 0x10 && bitAt d.profiles 0 && d.profiles < 64 &&
      (List.range 6).all (fun i => bitAt d.profiles i || minorOf d.minors i == 0) && field (w 0) 41 23 == 0 &&
      d.shares ≤ 32 && d.scratch ≤ 512 && field (w 1) 19 1 == 0 && field (w 1) 44 20 == 0 &&
      d.entry % 32 == 0 && d.mentry % 32 == 0 && (d.mentry == 0 || bitAt d.profiles 3) && d.strands * d.shares ≤ 32
  then some d else none

/-- A die kind satisfies every declared profile (R14, R19): all are at version 1.0. -/
def kindMatches (marl : Bool) (profiles minors : Nat) : Bool :=
  (List.range 6).all fun i => !bitAt profiles i || (bitAt (if marl then 0x37 else 0x0F) i && minorOf minors i == 0)

/-- The loader's condition (R19). -/
def Desc.loadable (d : Desc) : Bool :=
  kindMatches false d.profiles d.minors || kindMatches true d.profiles d.minors ||
    (d.migratable && (List.range 6).all fun i => minorOf d.minors i == 0)

/-- A die of this kind may take a group (R22). -/
def kindAllowed (marl : Bool) (migratable : Bool) (profiles minors : Nat) : Bool :=
  kindMatches marl profiles minors || (migratable && !kindMatches (!marl) profiles minors)

/-- A gang's groups may go to die d (R22). -/
def Gang.allows (q : Gang) (d : Nat) : Bool := kindAllowed (Config.isMarl d) q.migratable q.profiles q.minors

/-- Application strand contexts of a core that are free. -/
def State.freeCtxs (s : State) (k : Nat) : List Nat := ((List.range 8).map (sidOf k)).filter fun sid => (s.strand sid).phase == .free

/-- Scratchpad units of a core that no group holds. -/
def State.freeUnits (s : State) (k : Nat) : List Nat :=
  let held := (s.groups.filter fun p => p.2.core == k && p.2.phase != .waiting).flatMap (·.2.grant)
  (List.range Config.scratchUnits).filter fun u => !hasNat held u

/-- What a group needs of a core (R69, R78). -/
structure Need where
  strands : Nat
  shares : Nat
  scratch : Nat
  matrix : Bool
  allows : Nat → Bool

/-- The core is eligible (R69). -/
def State.eligible (s : State) (n : Need) (k : Nat) : Bool :=
  coreBuilt k && !(s.core k).withdrawn && !(s.die (dieOf k)).inReset && !(s.die (dieOf k)).stopped && n.allows (dieOf k) &&
    n.strands ≤ (s.freeCtxs k).length && n.shares ≤ s.freeShares k && n.scratch ≤ (s.freeUnits k).length &&
    (!n.matrix || !isLoam k || (s.strand (mcsOf k)).phase == .free)

/-- The order in which cores are preferred from an origin (R70): die boundaries, quad distance, die, core. -/
def coreRank (origin k : Nat) : Nat :=
  dieDist (dieOf origin) (dieOf k) * 2 ^ 32 + quadDist (quadPos origin) (quadPos k) * 2 ^ 16 + k

/-- The eligible core R70 chooses. -/
def State.chooseCore (s : State) (n : Need) (origin : Nat) : Option Nat :=
  ((List.range 1024).filter (s.eligible n)).foldl (fun b k =>
    match b with
    | some j => if coreRank origin k < coreRank origin j then some k else b
    | none => some k) none

/-- share at each priority (R55). -/
def shareOf (prio : Nat) : Nat := 16 * 2 ^ prio

/-- A strand as it starts (R55): at an entry with an argument, g shares, and the grace window of its context. -/
def startStrand (grace asid : Nat) (group : Option Nat) (idx : Nat) (entry arg : Word) (g share : Nat) : Strand :=
  ({ phase := .running, group := group, idx := idx, asid := asid, pc := entry, g := g, held := g, lpart := g, share := share,
     grace := grace } : Strand).setX 8 { w := arg }

/-- Put a started strand into a context. -/
def State.start (s : State) (sid : Nat) (group : Option Nat) (asid idx : Nat) (entry arg : Word) (g share : Nat) : State :=
  s.setStrand sid (startStrand (s.strand sid).grace asid group idx entry arg g share)

/-- What a gang's groups need of a core. -/
def Gang.need (q : Gang) : Need :=
  { strands := q.strands, shares := q.strands * q.shares, scratch := q.scratch, matrix := q.mentry.isSome, allows := q.allows }

/-- Start the matrix program of a group on its core, at its matrix entry with the matrix state of R242 (R22, R55), its cycle rebased as that of the
group's strands (R76). -/
def State.startMatrix (s : State) (n : Nat) (q : Gang) (k : Nat) (rebase : Word) : State :=
  match q.mentry with
  | some e =>
    if isLoam k then
      (((s.start (mcsOf k) (some n) q.asid 8 e q.arg 0 (shareOf q.prio)).modStrand (mcsOf k) fun t => { t with rebase := rebase }).modMx k
        fun m => { vtoaQ := m.vtoaQ }).modGroup n fun g => { g with mstarted := true }
    else s
  | none => s

/-- Create the next group of gang gn on core k, with its scratchpad window at a (R51, R55, R70). Its strands start after an acquire there, at package scope,
of every class: what gangs that have triggered released is visible to it (R64). -/
def State.createGroup (s : State) (gn : Nat) (q : Gang) (k : Nat) (a : Word) : State :=
  let s := s.acqCache k allClasses 4
  let n := s.groups.length
  let sids := (s.freeCtxs k).take q.strands
  let g : Group := {
    gang := gn, gid := q.created, core := k, sids := sids, matrix := q.mentry.isSome, grant := (s.freeUnits k).take q.scratch
    window := a, wdStart := s.coreCycle k }
  let s := (s.setGroup n g).setGang gn { q with created := q.created + 1 }
  let s := (List.range sids.length).foldl (fun s i =>
    s.start (nth 0 sids i) (some n) q.asid i q.entry q.arg q.shares (shareOf q.prio)) s
  s.startMatrix n q k 0

/-- A window base as the part may choose it: a multiple of 4 KiB below 2^61 (R76, R80). -/
def windowBase (a : Word) : Word := BitVec.ofNat 64 (a.toNat % 2 ^ 61 / 2 ^ 15 * 2 ^ 15)

/-- Place every group of a resident gang at once (R57): none where one has no core. Their windows stand at free values (entry 2). -/
def State.placeAll (s : State) (gn : Nat) : Nat → Option State
  | 0 => some s
  | n + 1 =>
    match s.gang? gn with
    | none => none
    | some q =>
      match s.chooseCore q.need q.origin with
      | none => none
      | some k =>
        let f := s.fresh
        State.placeAll (f.2.createGroup gn q k (windowBase f.1)) gn n

/-- Who submits a launch: address space, level, highest priority, origin (R52, R56, R60, R70). -/
structure Launcher where
  asid : Nat
  sup : Bool
  maxPrio : Nat
  origin : Nat
deriving DecidableEq, Repr

/-- The launcher of a submission. -/
def State.launcher (s : State) (u : Submit) : Option Launcher :=
  match u.fromSid with
  | some sid =>
    let t := s.strand sid
    some { asid := t.asid, sup := t.sup, maxPrio := if t.sup then 3 else ((s.gangOf sid).map (·.prio)).getD 0, origin := coreOf sid }
  | none =>
    match Sparse.get none ((s.die u.die).streams.map fun p => (p.1, some p.2)) u.stream with
    | some x => some { asid := x.asid, sup := false, maxPrio := u.maxPrio, origin := 64 * u.die }
    | none => none

/-- The answer to a launch: a status, or a wait for an ownership transfer. -/
inductive Verdict where
  | status (code : Nat)
  | accept (q : Gang) (join : List Piece)
  | wait
deriving DecidableEq, Repr

/-- An address that must be writable, where it is not 0 (R53). -/
def State.mayWrite (s : State) (ag : Agent) (a : Word) : State × Chk := if a = 0 then (s, .ok []) else s.cpCanWrite ag a.toNat

/-- The checks of a launch after its block and descriptor are read, in the order of R53; NORES is left to placement. -/
def launchChecks (l : Launcher) (die : Nat) (b : Nat) (dv : Nat) (join : List Piece) : Verdict :=
  let w := fun i => field b (64 * i) 64
  let groups := field (w 1) 0 24
  let strands := field (w 1) 24 3 + 1
  let shares := field (w 1) 27 6
  let scratch := field (w 1) 33 10
  let resident := bitAt (w 1) 45
  if groups = 0 || 32 < shares || 512 < scratch || field (w 1) 46 18 != 0 then .status 1
  else
    match descOf dv with
    | none => .status 1
    | some d =>
      if !d.loadable then .status 2
      else if d.strands < strands || shares < d.shares || 32 < strands * shares || scratch < d.scratch ||
          (d.groups != 0 && d.groups < groups) || (resident && d.migratable) then .status 1
      else
        let at_ := fun (o : Nat) => BitVec.ofNat 64 (w 0 + o)
        .accept {
          asid := l.asid, die := die, origin := l.origin, desc := BitVec.ofNat 64 (w 0), entry := at_ d.entry
          mentry := if d.mentry = 0 then none else some (at_ d.mentry)
          profiles := d.profiles, minors := d.minors, migratable := d.migratable, groups := groups, strands := strands
          shares := shares, scratch := scratch, prio := min (field (w 1) 43 2) l.maxPrio, resident := resident
          join := BitVec.ofNat 64 (w 2), arg := BitVec.ofNat 64 (w 3), sup := l.sup } join

/-- Check a launch (R20, R53): BADADDR first. -/
def State.judge (s : State) (u : Submit) (l : Launcher) : State × Verdict :=
  let ag := cpAgent u.die l.asid l.sup
  if u.block.toNat % 64 ≠ 0 then (s, .status 4) else
  match s.cpRead ag u.block.toNat 256 with
  | (s, .wait) => (s, .wait)
  | (s, .bad) => (s, .status 4)
  | (s, .ok b) =>
    if field b 0 64 % 64 ≠ 0 then (s, .status 4) else
    match s.cpRead ag (field b 0 64) 256 with
    | (s, .wait) => (s, .wait)
    | (s, .bad) => (s, .status 4)
    | (s, .ok d) =>
      match s.mayWrite ag (BitVec.ofNat 64 (field b 128 64)) with
      | (s, .wait) => (s, .wait)
      | (s, .trap _ _) => (s, .status 4)
      | (s, .ok join) =>
        match s.mayWrite ag u.statusAddr with
        | (s, .wait) => (s, .wait)
        | (s, .trap _ _) => (s, .status 4)
        | (s, .ok _) => (s, launchChecks l u.die b d join)

/-- Answer the first submission of a die that has no answer yet. -/
def State.answer (s : State) (u : Submit) (code : Nat) (gang : Option Nat) : State :=
  { s with submits := s.submits.map fun x => if x == u then { x with status := some code, gang := gang } else x }

end Sys2Proof.Machine
end

