-- ==== Sys2Proof/Machine/Ending.lean ====
section
/-!
DEFINITION. How strands are taken out of their programs from outside and how groups end: notices, forced pre-emption, the watchdog (R299 to R303, R307), kills
and fault ends (R308), retirement and teardown (R326, R327), the join (R328 to R330).
-/

namespace Sys2Proof.Machine

/-- TRAP_NOTICE_PUSH (R300): a held strand's notice enters the supervisor strand's reply queue once it has three free entries. -/
def execTrapNoticePush (sid : Nat) (s : State) : Res := .next (s.pushNotice sid)

/-- A forced pre-emption is due (R302): G cycles after the request was set. -/
def State.preemptDue (s : State) (sid : Nat) : Bool :=
  let t := s.strand sid
  s.canIssue sid && t.preq && t.heldPre.isNone && t.reqAt + t.grace ≤ s.coreCycle (coreOf sid)

/-- FORCED_PREEMPTION (R299, R303): PREEMPT is delivered, once a convoy that has performed an element of R303 has retired; with the window closed it is
held, from the cycle in which it fell due. -/
def execForcedPreemption (sid : Nat) (s : State) : Res :=
  let t := s.strand sid
  if !s.preemptDue sid || t.performing then .next s
  else if t.topen then .next (s.takePreempt sid)
  else .next (s.modStrand sid fun t => { t with heldPre := some (t.reqAt + t.grace) })

/-- HELD_PREEMPT_EXPIRY (R299): the window has stayed closed for G cycles more, and the held PREEMPT is taken as DOUBLE_TRAP. -/
def execHeldPreemptExpiry (sid : Nat) (s : State) : Res :=
  let t := s.strand sid
  match t.heldPre with
  | some c =>
    if !s.canIssue sid || t.topen || t.performing || s.coreCycle (coreOf sid) < c + t.grace then .next s else .next (s.takePreempt sid)
  | none => .next s

/-- The strands of a group that have a context: its application strands, then its matrix control strand where that runs. -/
def Group.all (g : Group) : List Nat := g.sids ++ if g.mcsRuns then [mcsOf g.core] else []

/-- A strand of a group stops where it stands (R308): what is in flight is discarded, and what is performed stays. -/
def State.stopStrand (s : State) (sid : Nat) : State :=
  (s.unwind sid).modStrand sid fun t =>
    { t with phase := .ended, wait := none, hold := none, queue := [], past := [], blk := none, rq := [], trig := true }

/-- Record how a group ends at its gang's command processor, at a cycle (R284, R330): the earliest fault counts, of those of one cycle that of the lower
groupid. -/
def Gang.record (q : Gang) (gid now : Nat) : EndKind → Gang
  | .normal => q
  | .fault c =>
    match q.firstFault with
    | none => { q with firstFault := some (gid, c), faultAt := now }
    | some f => if q.faultAt = now && gid < f.1 then { q with firstFault := some (gid, c) } else q
  | .killed => { q with killed := true }
  | .wdog => { q with killed := true, wdog := true }

/-- End a group by a kill or a fault (R308): its strands stop, and it has triggered (R63). One off every core in migration ends at once, and its record is
discarded (R78). -/
def State.endGroup (s : State) (n : Nat) (kind : EndKind) : State :=
  match s.group? n with
  | none => s
  | some g =>
    match g.phase with
    | .placed | .migrating =>
      let s := g.all.foldl State.stopStrand s
      (s.setGroup n { g with
        phase := .ending, endKind := some kind, trig := true, unmapped := g.phase == .migrating
        savedMcs := g.savedMcs.map fun t => { t with phase := .ended, trig := true } }).modGang g.gang fun q => q.record g.gid s.now kind
    | .waiting =>
      (s.setGroup n { g with phase := .retired, endKind := some kind, trig := true, grant := [], saved := [], savedMcs := none, savedMx := none, savedBar := [] }).modGang
        g.gang fun q => { q.record g.gid s.now kind with ended := q.ended + 1 }
    | .ending | .retired => s

/-- GROUP_FAULT_END (R308): the supervisor strand ends a group as faulted, naming a cause code. -/
def execGroupFaultEnd (group : Nat) (cause : BitVec 8) (s : State) : Res := .next (s.endGroup group (.fault cause.toNat))

/-- Kill a gang (R328): each group it has, and those not yet placed, which leave the queue. -/
def State.killGang (s : State) (gn : Nat) : State :=
  let s := s.modGang gn fun q =>
    if q.created < q.groups then { q with killed := true, ended := q.ended + (q.groups - q.created), created := q.groups } else q
  (s.groups.filter fun p => p.2.gang == gn).foldl (fun s p => s.endGroup p.1 .killed) s

/-- Kill a gang whose join reports bit 57 whatever its groups have come to (R337, R351). -/
def State.killWhole (s : State) (gn : Nat) : State :=
  (s.killGang gn).modGang gn fun q => if q.joined then q else { q with killed := true }

/-- GROUP_KILL (R308, R328): system software kills a created group, or a gang with the groups it has not placed. -/
def execGroupKill (k : Kill) (s : State) : Res :=
  match k with
  | .group n => .next (s.endGroup n .killed)
  | .gang n => .next (s.killGang n)

/-- WATCHDOG_WINDOW_END (R307): at the end of a window the watchdog takes its next state, warns the lowest-numbered suspect, or kills the group, which it watches
while it is on its core, the drain of a migration included. A warning
whose frame's memory an ownership transfer holds is not given yet, and the window ends when it is. -/
def execWatchdogWindowEnd (group : Nat) (s : State) : Res :=
  match s.group? group with
  | none => .next s
  | some g =>
    let now := s.coreCycle g.core
    if (g.phase != .placed && g.phase != .migrating) || g.wd == .off || g.wdwin = 0 || g.wdBase + (now - g.wdStart) < g.wdwin.toNat || s.frozen g.core then .next s
    else
      let suspect := g.all.find? fun sid => (s.strand sid).phase == .running && !(s.strand sid).parked
      let s1 := s.setGroup group { g with wdStart := now, wdBase := 0, progress := false, wd := if g.progress then .armed else g.wd }
      if g.progress then .next s1
      else
        match suspect, g.wd with
        | none, _ => .next s1
        | some _, .warned => .next (s.endGroup group .wdog)
        | some sid, _ =>
          let s2 := s1.modGroup group fun g => { g with wd := .warned }
          if !(s.strand sid).topen then .next s2
          else
            let r := s2.tryTrap sid (s.strand sid).pc { code := 13, async := true }
            .next (if r.2 then r.1 else { s with transfers := r.1.transfers })

/-- Zero the storage of scratchpad units before they are granted again (R71, R327). -/
def State.zeroUnits (s : State) (k : Nat) (us : List Nat) : State :=
  us.foldl (fun s u => s.homeWrite (2 ^ 58 + k * 2 ^ 32 + u * 32768) 32768 0) s

/-- The group declares M1: its strands may fill row-buffer slots and set thresholds (R15, R256, R257). -/
def State.usesM1 (s : State) (g : Group) : Bool :=
  match s.gang? g.gang with
  | some q => bitAt q.profiles Profile.m1.bit
  | none => false

/-- The matrix state of a core is reset when a group leaves it (R327 step 7): that of the group whose matrix control strand ran there, or, where none did,
once no other group that declares M1 is on the core (DEDUCED, entry 28). -/
def State.resetMatrix (s : State) (n : Nat) (g : Group) : State :=
  let others := s.groups.any fun p => p.1 != n && p.2.core == g.core && p.2.phase != .waiting && p.2.phase != .retired && s.usesM1 p.2
  if g.mcsRuns || (isLoam g.core && s.usesM1 g && !others) then s.modMx g.core fun m => { vtoaQ := m.vtoaQ } else s

/-- The teardown of a group (R327): contexts with their queues, tags, shares and barrier records, dirty lines, scratchpad, matrix state. -/
def State.teardown (s : State) (n : Nat) (g : Group) : State :=
  let s := g.all.foldl State.freeContext s
  let s := (s.cleanCore g.core).zeroUnits g.core g.grant
  (s.resetMatrix n g).setGroup n { g with grant := [], savedMcs := none, savedMx := none }

/-- Every numbered matrix operation of the group is complete (R326), or its die is held in reset, where none goes on (R351; DEDUCED, entry 35). -/
def State.matrixDone (s : State) (g : Group) : Bool := !g.mcsRuns || (s.die (dieOf g.core)).inReset || (s.core g.core).mx.ops.all (·.done)

/-- GROUP_RETIREMENT (R326, R327): once its strands have ended, a matrix control strand parked on a Marl core too, and its matrix operations are complete, a group is torn down and counted. -/
def execGroupRetirement (group : Nat) (s : State) : Res :=
  match s.group? group with
  | none => .next s
  | some g =>
    let ended := (g.phase == .placed || g.phase == .ending) && (g.all.all fun sid => (s.strand sid).phase == .ended) &&
      g.savedMcs.all fun t => t.phase == .ended
    if !ended || !s.matrixDone g then .next s
    else
      let s := (s.teardown group g).modGroup group fun g =>
        { g with phase := .retired, trig := true, endKind := some (g.endKind.getD .normal) }
      .next (s.modGang g.gang fun q =>
        { q with ended := q.ended + 1, okEnds := if g.endKind.isNone then q.okEnds + 1 else q.okEnds })

/-- The join status word (R284, R330). -/
def Gang.status (q : Gang) : Nat :=
  q.okEnds % 2 ^ 24 +
    (match q.firstFault with
     | some f => f.2 * 2 ^ 24 + f.1 * 2 ^ 32 + 2 ^ 56
     | none => 0) +
    (if q.killed then 2 ^ 57 else 0) + (if q.wdog then 2 ^ 58 else 0) + 2 ^ 63

/-- JOIN_STATUS_WRITE (R328 to R330): once each group has retired, the status word is stored, and the gang's barriers are unconfigured. A join word that can
no longer be written is not. -/
def execJoinStatusWrite (gang : Nat) (s : State) : Res :=
  match s.gang? gang with
  | none => .next s
  | some q =>
    if q.joined || q.ended < q.groups then .next s
    else
      let ag := cpAgent q.die q.asid q.sup
      match s.mayWrite ag q.join with
      | (s, .wait) => .next s
      | (s, c) =>
        let s := match c with
          | .ok ps => s.cpWrite ag q.status ps
          | _ => s
        .next (s.setGang gang { q with joined := true, gbs := [none, none, none, none] })

end Sys2Proof.Machine
end

