-- ==== Sys2Proof/Machine/Streams.lean ====
section
/-!
DEFINITION. Streams (R58 to R61): a die's command processor reads command records of a stream's ring and executes them one at a time.
-/

namespace Sys2Proof.Machine

/-- Stream n of die d, where it is registered. -/
def State.stream? (s : State) (d n : Nat) : Option Stream := Sparse.get none ((s.die d).streams.map fun p => (p.1, some p.2)) n

/-- Replace a stream. -/
def State.setStream (s : State) (d n : Nat) (x : Stream) : State := s.modDie d fun y => { y with streams := Sparse.put y.streams n x }

/-- Cycles a command has counted against its limit. -/
def State.cmdCycles (s : State) (d : Nat) (c : SCmd) : Nat := c.base + (s.coreCycle (s.timingCore d) - c.since)

/-- The command processor of a die executes (R60, R351). -/
def State.cpRuns (s : State) (d : Nat) : Bool := !(s.die d).inReset && !(s.die d).stopped

/-- The fields of a control block that the command processor uses. -/
structure Ctl where
  base : Nat
  L : Nat
  maxPrio : Nat
  read : Nat
  state : Nat
deriving DecidableEq, Repr

/-- A control block of 512 bits. Its fields count as they stand: an L outside 4 to 16, a base that is no multiple of 256, nonzero bits that R58's table gives as
zero are no error (DESIGN CHOICE, entry 15). -/
def ctlOf (v : Nat) : Ctl :=
  { base := field v 0 64, L := field v 64 5, maxPrio := field v 69 2, read := field v 192 64, state := field v 256 2 }

/-- A command record (R59). -/
structure Record where
  op : Nat
  lap : Nat
  a : Nat
  b : Nat
  zero : Nat
  w1 : Word
  w2 : Word
  w3 : Word
deriving DecidableEq, Repr

/-- A record of 256 bits. -/
def recordOf (v : Nat) : Record :=
  { op := field v 0 8, lap := field v 8 8, a := field v 16 8, b := field v 24 8, zero := field v 32 32
    w1 := BitVec.ofNat 64 (field v 64 64), w2 := BitVec.ofNat 64 (field v 128 64), w3 := BitVec.ofNat 64 (field v 192 64) }

/-- The command processor as an agent of a stream: it reads and writes for the stream, and launches from it, at user level (DESIGN CHOICE, entry 15: R60 gives no
level). -/
def Stream.agent (x : Stream) (d : Nat) : Agent := cpAgent d x.asid false

/-- The next record of a running stream with no command in progress, once its lap stands in the ring (R58). -/
def State.nextRecord (s : State) (d n : Nat) : State × Option (Stream × Ctl × Record) :=
  match s.stream? d n with
  | none => (s, none)
  | some x =>
    if !s.cpRuns d || x.cmd.isSome then (s, none) else
    match s.cpRead (x.agent d) x.ctl.toNat 512 with
    | (s, .ok c) =>
      let c := ctlOf c
      if c.state ≠ 0 then (s, none) else
      (match s.cpRead (x.agent d) ((c.base + c.read % 2 ^ c.L * 256) % 2 ^ 64) 256 with
       | (s, .ok r) => if (recordOf r).lap = lapOf c.read c.L then (s, some (x, c, recordOf r)) else (s, none)
       | (s, _) => (s, none))
    | (s, _) => (s, none)

/-- Store a word of a stream's control block. One that can be read and not written keeps its old word (DESIGN CHOICE, entry 15). -/
def State.putCtl (s : State) (d : Nat) (x : Stream) (word v : Nat) : State :=
  match s.cpCanWrite (x.agent d) ((x.ctl.toNat + 64 * word) % 2 ^ 64) with
  | (s, .ok ps) => s.cpWrite (x.agent d) v ps
  | (s, _) => s

/-- The command of a stream has completed: read names the next record (R58). -/
def State.cmdDone (s : State) (d n : Nat) (x : Stream) (read : Nat) : State :=
  (s.putCtl d x 3 ((read + 1) % 2 ^ 64)).setStream d n { x with cmd := none }

/-- The stream enters the error state, read still naming the record (R61). -/
def State.cmdError (s : State) (d n : Nat) (x : Stream) (code status : Nat) : State :=
  (s.putCtl d x 4 (1 + code * 2 ^ 8 + status * 2 ^ 16)).setStream d n { x with cmd := none }

/-- The fields of a record are legal, its addresses aligned (R52, R60, R61). -/
def Record.ok (r : Record) (accepted : Nat) : Bool :=
  let al := fun (w : Word) => w.toNat % 64 == 0
  r.zero == 0 &&
  (match r.op with
   | 1 => r.a == 0 && r.b == 0 && al r.w1 && al r.w2 && r.w3 == 0
   | 2 => r.a < 128 && 1 ≤ r.b && r.b ≤ 3
   | 3 => r.a ≤ 1 && r.b == 0 && al r.w1
   | 4 => r.a == 0 && r.b == 0 && al r.w1 && r.w3 == 0
   | 5 => r.b == 0 && r.w1 == 0 && r.w2 == 0 && r.w3 == 0 && r.a < accepted
   | _ => false)

/-- Begin the next command of a stream where its opcode is `op`: an illegal record, and one of no opcode, enters ILLCMD (R61). -/
def State.streamStart (s : State) (d n op : Nat) (f : State → Stream → Ctl → Record → State) : Res :=
  match s.nextRecord d n with
  | (s, none) => .next s
  | (s, some (x, c, r)) =>
    if r.op == op || !(1 ≤ r.op && r.op ≤ 5) then
      .next (if r.ok x.accepted.length then f s x c r else s.cmdError d n x 1 0)
    else .next s

/-- A command that begins and waits. -/
def Record.cmd (r : Record) (since num : Nat) : SCmd := { op := r.op, a := r.a, w1 := r.w1, w2 := r.w2, w3 := r.w3, since := since, num := num }

/-- STREAM_LAUNCH (R60): the gang is submitted to the die's command processor. -/
def execStreamLaunch (die stream : Nat) (s : State) : Res :=
  s.streamStart die stream 1 fun s x c r =>
    let u : Submit := { die := die, fromSid := none, stream := stream, maxPrio := c.maxPrio, block := r.w1, statusAddr := r.w2 }
    ({ s with submits := s.submits ++ [u] } : State).setStream die stream { x with cmd := some (r.cmd 0 0) }

/-- STREAM_COPY (R60): a copy is queued on one of the die's contexts, whatever its length: R221 limits that of the instruction alone (DESIGN CHOICE, entry 15). -/
def execStreamCopy (die stream : Nat) (s : State) : Res :=
  s.streamStart die stream 2 fun s x _ r =>
    let o : CopyOp := { num := 0, kind := .copy, src := r.w1, dests := [{ addr := r.w2 }], len := r.w3.toNat, cls := r.b, asid := x.asid,
                        sup := false, core := none }
    let q := s.queueCopy (128 * die + r.a) o
    q.1.setStream die stream { x with cmd := some (r.cmd 0 q.2) }

/-- STREAM_WAITV (R60): begins to wait, and to count against its limit. -/
def execStreamWaitv (die stream : Nat) (s : State) : Res :=
  s.streamStart die stream 3 fun s x _ r => s.setStream die stream { x with cmd := some (r.cmd (s.coreCycle (s.timingCore die)) 0) }

/-- STREAM_SIGV (R60): a single-copy atomic store of the value. One that cannot be performed ends in ILLCMD (a choice). -/
def execStreamSigv (die stream : Nat) (s : State) : Res :=
  s.streamStart die stream 4 fun s x c r =>
    match s.cpCanWrite (x.agent die) r.w1.toNat with
    | (s, .ok ps) => (s.cpWrite (x.agent die) r.w2.toNat ps).cmdDone die stream x c.read
    | (s, .wait) => s
    | (s, .trap _ _) => s.cmdError die stream x 1 0

/-- STREAM_TRIGWAIT (R60): begins to wait. -/
def execStreamTrigwait (die stream : Nat) (s : State) : Res :=
  s.streamStart die stream 5 fun s x _ r => s.setStream die stream { x with cmd := some (r.cmd 0 0) }

/-- A gang has triggered (R63): every group has been created and has triggered. -/
def State.gangTriggered (s : State) (gn : Nat) : Bool :=
  match s.gang? gn with
  | some q => q.created == q.groups && s.groups.all fun p => p.2.gang != gn || p.2.trig
  | none => false

/-- A LAUNCH command has its answer (R60): the status word at these parts, where one is written, and LAUNCHFAIL where it was refused. -/
def State.launchDone (s : State) (d n : Nat) (x : Stream) (read : Nat) (u : Submit) (code : Nat) (ps : List Piece) : State :=
  let s := ({ s with submits := s.submits.erase u } : State).cpWrite (x.agent d) code ps
  if code = 0 then s.cmdDone d n { x with accepted := (match u.gang with
    | some g => g :: x.accepted
    | none => x.accepted) } read
  else s.cmdError d n x 2 code

/-- STREAM_COMMAND_COMPLETE (R60, R61): what the stream's command waits for has come. A state that is not running executes nothing. A WAITV whose word cannot
be translated or read waits on, to its limit (DESIGN CHOICE, entry 15). -/
def execStreamCommandComplete (die stream : Nat) (s : State) : Res :=
  match s.stream? die stream with
  | none => .next s
  | some x =>
    match x.cmd, (if s.cpRuns die then s.cpRead (x.agent die) x.ctl.toNat 512 else (s, .wait)) with
    | some c, (s, .ok v) =>
      let ctl := ctlOf v
      if ctl.state ≠ 0 then .next s else
      (match c.op with
       | 1 =>
         (match s.submits.find? fun u => u.fromSid == none && u.die == die && u.stream == stream with
          | some u =>
            (match u.status with
             | some code =>
               (match s.mayWrite (x.agent die) u.statusAddr with
                | (s, .wait) => .next s
                | (s, .ok ps) => .next (s.launchDone die stream x ctl.read u code ps)
                | (s, .trap _ _) => .next (s.launchDone die stream x ctl.read u code []))
             | none => .next s)
          | none => .next s)
       | 2 =>
         let k := s.copyCtx (128 * die + c.a)
         if k.timeline < c.num then .next s
         else if hasNat k.failed c.num then .next (s.cmdError die stream x 4 0)
         else .next (s.cmdDone die stream x ctl.read)
       | 3 =>
         (match s.cpRead (x.agent die) c.w1.toNat 64 with
          | (s, .ok w) =>
            if condHolds (1 - c.a) (BitVec.ofNat 64 w) c.w2 then .next (s.cmdDone die stream x ctl.read) else .next s
          | (s, _) => .next s)
       | _ =>
         if s.gangTriggered (nth 0 x.accepted c.a) then .next (s.cmdDone die stream x ctl.read) else .next s)
    | _, (s, _) => .next s

/-- A submission may be judged: a stream's only while the stream runs (R61), as far as its control block says. -/
def State.heeds (s : State) (u : Submit) : Bool :=
  u.fromSid.isSome || (match s.stream? u.die u.stream with
    | none => true
    | some x => (match (s.cpRead (x.agent u.die) x.ctl.toNat 512).2 with
      | .ok v => (ctlOf v).state == 0
      | .wait => true
      | .bad => false))

/-- The control block of a submission's stream can be read; where its region must come to the package first, the transfer is asked for. -/
def State.heedNow (s : State) (u : Submit) : State × Bool :=
  match u.fromSid, s.stream? u.die u.stream with
  | none, some x => (match s.cpRead (x.agent u.die) x.ctl.toNat 512 with
    | (s, .wait) => (s, false)
    | (s, _) => (s, true))
  | _, _ => (s, true)

/-- A launch has its answer. A stream's LAUNCH completes with it (R61), unless a word it writes waits for an ownership transfer: then STREAM_COMMAND_COMPLETE
completes it. -/
def State.answered (s : State) (u : Submit) (code : Nat) (gang : Option Nat) : Res :=
  let s := s.answer u code gang
  if u.fromSid.isSome then .next s else execStreamCommandComplete u.die u.stream s

/-- GANG_ACCEPTANCE (R53, R54, R57, R61): the command processor of a die checks its next launch, and accepts or refuses it. -/
def execGangAcceptance (die : Nat) (s : State) : Res :=
  if (s.die die).stopped || (s.die die).inReset then .next s else
  match s.submits.find? fun u => u.die == die && u.status.isNone && s.heeds u with
  | none => .next s
  | some u =>
    match s.heedNow u with
    | (s, false) => .next s
    | (s, true) =>
    match s.launcher u with
    | none => .next (s.answer u 4 none)
    | some l =>
      match s.judge u l with
      | (s, .wait) => .next s
      | (s, .status code) => s.answered u code none
      | (s, .accept q join) =>
        let gn := s.gangs.length
        let s1 := s.setGang gn q
        match (if q.resident then s1.placeAll gn q.groups else some s1) with
        | none => s.answered u 3 none
        | some s => (s.cpWrite (cpAgent die l.asid l.sup) 0 join).answered u 0 (some gn)

/-- STREAM_WAITV_TIMEOUT (R61): the limit of a WAITV of a running stream has expired. -/
def execStreamWaitvTimeout (die stream : Nat) (s : State) : Res :=
  match s.stream? die stream with
  | none => .next s
  | some x =>
    match x.cmd, (if s.cpRuns die then s.cpRead (x.agent die) x.ctl.toNat 512 else (s, .wait)) with
    | some c, (s1, .ok v) =>
      if (ctlOf v).state ≠ 0 || c.op ≠ 3 || c.w3 = 0 || s.cmdCycles die c < c.w3.toNat then .next s1
      else .next (s1.cmdError die stream x 3 0)
    | _, (s1, _) => .next s1

end Sys2Proof.Machine
end

