-- ==== Sys2Proof/Machine/Engines.lean ====
section
/-!
DEFINITION. The copy engines (R196 to R202, R222 to R224) and the memory units' side of RRED (R203, R292). Completion addresses and failures are recorded
in the context as R196 has it.
-/

namespace Sys2Proof.Machine

/-- The engine that runs an operation of a context, as an agent. It joins ownership transfers under a number of its own; the core that issued the operation
gives up its copies of lines that the engine writes (R273). -/
def CopyOp.agent (o : CopyOp) (pc : Nat) : Agent :=
  { core := o.core.getD (64 * (pc / 128)), onCore := false, asid := o.asid, sup := o.sup, group := o.group, sid := some (2 ^ 20 + pc), later := o.later
    gives := o.core.isSome }

/-- The engine as it writes destination i of a COPY.MC: each destination has its answer from the ownership transfers it joins (R201, R336). -/
def CopyOp.destAgent (o : CopyOp) (pc i : Nat) : Agent := { o.agent pc with sid := some (2 ^ 22 + 16 * pc + i) }

/-- What an engine needs of a source (R191, R222). -/
def Want.engineSrc : Want := { r := true, noDev := true, peer := true, far := true, many := true }
/-- What an engine needs of a destination. -/
def Want.engineDst : Want := { w := true, noDev := true, peer := true, far := true, many := true }

/-- Bits of payload. -/
def CopyOp.total (o : CopyOp) : Nat := o.len * o.rows

/-- A stretch of payload in one row: source, destination, length. -/
structure Seg where
  src : Nat
  dst : Nat
  len : Nat
deriving DecidableEq, Repr

/-- The stretches that payload bits lo to hi − 1 of an operation lie in (R222). -/
def CopyOp.segs (o : CopyOp) (dst : Word) (lo hi : Nat) : List Seg :=
  if o.len = 0 || hi ≤ lo then [] else
  (List.range ((hi - 1) / o.len - lo / o.len + 1)).map fun j =>
    let i := lo / o.len + j
    let a := max lo (i * o.len) - i * o.len
    let b := min hi ((i + 1) * o.len) - i * o.len
    { src := (o.src + BitVec.ofNat 64 i * o.sstr + BitVec.ofNat 64 a).toNat
      dst := (dst + BitVec.ofNat 64 i * o.dstr + BitVec.ofNat 64 a).toNat, len := b - a }

/-- Peers that an operation does not reach: those with no live link, and those whose last link was lost while it ran (R340). -/
def State.lostTo (s : State) (o : CopyOp) : List Nat := s.peersDown ++ o.lost

/-- An engine's access of w bits at a: a lost peer gives TRANSLATE (R340). -/
def State.engineCheck (s : State) (ag : Agent) (o : CopyOp) (want : Want) (a w : Nat) : State × Chk :=
  match s.check ag want a w with
  | (s, .ok ps) =>
    (match ps.find? fun p => p.tr.fa < 2 ^ 61 && spaceOfPhys p.tr.fa == 2 && hasNat (s.lostTo o) (peerOf p.tr.fa) with
     | some p => (s, .trap 5 p.va)
     | none => (s, .ok ps))
  | r => r

/-- Check one side of payload stretches in order: the translations of each, or the first fault or wait. -/
def State.checkSide (s : State) (ag : Agent) (o : CopyOp) (want : Want) : List (Nat × Nat) → State × Except Chk (List (List Piece))
  | [] => (s, .ok [])
  | (a, w) :: t =>
    match s.engineCheck ag o want a w with
    | (s, .ok ps) =>
      (match State.checkSide s ag o want t with
       | (s, .ok l) => (s, .ok (ps :: l))
       | r => r)
    | (s, k) => (s, .error k)

/-- Payload bits before which chunk k ends (R200: chunks of 32,768 bits). -/
def chunkEnd (o : CopyOp) (k : Nat) : Nat := min o.total ((k + 1) * 32768)

/-- The chunks of an operation from payload bit lo on. -/
def CopyOp.chunks (o : CopyOp) (lo : Nat) : List Nat :=
  if o.total ≤ lo then [] else (List.range ((o.total - 1) / 32768 - lo / 32768 + 1)).map (· + lo / 32768)

/-- Check a chunk: its source where asked, its destination where one is named (R200). The translations of each stretch come back. -/
def State.checkChunk (s : State) (ag : Agent) (o : CopyOp) (src : Bool) (dst : Option Word) (k : Nat) :
    State × Except Chk (List (List Piece) × List (List Piece)) :=
  let sg := o.segs (dst.getD 0) (k * 32768) (chunkEnd o k)
  match (if src then s.checkSide ag o .engineSrc (sg.map fun g => (g.src, g.len)) else (s, .ok [])) with
  | (s, .error c) => (s, .error c)
  | (s, .ok a) =>
    match (if dst.isSome then s.checkSide ag o .engineDst (sg.map fun g => (g.dst, g.len)) else (s, .ok [])) with
    | (s, .error c) => (s, .error c)
    | (s, .ok b) => (s, .ok (a, b))

/-- What a run of chunks meets: nothing, a fault of a chunk with its cause and address, or a wait at a chunk. -/
inductive RunChk where
  | clear
  | fault (chunk cause addr : Nat)
  | wait (chunk : Nat)
deriving DecidableEq, Repr

/-- A chunk's failed check, as what the run meets. -/
def RunChk.of (k : Nat) : Chk → RunChk
  | .trap c v => .fault k c v
  | _ => .wait k

/-- Check chunks in order. -/
def State.copyCheck (s : State) (ag : Agent) (o : CopyOp) (src : Bool) (dst : Option Word) : List Nat → State × RunChk
  | [] => (s, .clear)
  | k :: t =>
    match s.checkChunk ag o src dst k with
    | (s, .ok _) => State.copyCheck s ag o src dst t
    | (s, .error c) => (s, .of k c)

/-- Which bits of a unit change (R201): every one, or those of a free value (entry 2), each bit holding its old or its new value. -/
def State.unitMask (s : State) (mixed : Bool) : State × Nat :=
  if mixed then
    (List.range 8).foldl (fun r i => (r.1.fresh.2, r.2 + r.1.fresh.1.toNat * 2 ^ (64 * i))) (s, 0)
  else (s, 2 ^ 512 - 1)

/-- Bits o to o + n − 1 of a translated stretch. -/
def slicePieces (ps : List Piece) (o n : Nat) : List Piece :=
  ps.filterMap fun p =>
    let lo := max p.off o
    let hi := min (p.off + p.len) (o + n)
    if lo < hi then some { off := lo - o, len := hi - lo, va := (p.va + (lo - p.off)) % 2 ^ 64, tr := { p.tr with fa := p.tr.fa + (lo - p.off) } }
    else none

/-- Move one unit of at most 512 bits: read, then written (R198). The cover gains the lines it writes without poison. -/
def moveUnit (ag : Agent) (cls : Nat) (mixed : Bool) (r : State × Cover) (ps qs : List Piece) : State × Cover :=
  let v := r.1.readArea ag cls ps
  let m := v.1.unitMask mixed
  let old := m.1.readArea ag cls qs
  let new := (v.2.1 &&& m.2) ||| (old.2.1 &&& (m.2 ^^^ (2 ^ 512 - 1)))
  (old.1.writeArea ag none cls new v.2.2 qs, if mixed || v.2.2 != 0 then r.2 else coverPieces r.2 qs)

/-- Move the stretches of a chunk, in ascending units (R198), through the translations of its check. -/
def moveChunk (ag : Agent) (cls : Nat) (mixed : Bool) (r : State × Cover) (ps : List (List Piece × List Piece)) : State × Cover :=
  ps.foldl (fun r p =>
    let n := (p.1.map (·.len)).sum
    (List.range (ceilDiv n 512)).foldl (fun r i =>
      let w := min 512 (n - 512 * i)
      moveUnit ag cls mixed r (slicePieces p.1 (512 * i) w) (slicePieces p.2 (512 * i) w)) r) r

/-- Check and move chunks to a destination one after another (R198, R200), up to a fault or a wait. -/
def runChunks (ag : Agent) (o : CopyOp) (dst : Word) (mixed : Bool) : List Nat → State × Cover → (State × Cover) × RunChk
  | [], r => (r, .clear)
  | k :: t, r =>
    match r.1.checkChunk ag o true (some dst) k with
    | (s, .ok (a, b)) => runChunks ag o dst mixed t (moveChunk ag o.cls mixed (s, r.2) (a.zip b))
    | (s, .error c) => ((s, r.2), .of k c)

/-- Move the payload in these chunks to a destination; lines written whole without poison lose theirs (R95). -/
def State.movePayload (s : State) (ag : Agent) (o : CopyOp) (dst : Word) (ks : List Nat) (mixed : Bool := false) : State × RunChk :=
  let r := runChunks ag o dst mixed ks (s, [])
  (r.1.1.clearCovered ag r.1.2, r.2)

/-- Read a stretch of payload whose first bit is payload bit off. -/
def takeSeg (ag : Agent) (cls off : Nat) (r : State × CopyOp) (ps : List Piece) : State × CopyOp :=
  (linePieces ps).foldl (fun r p =>
    match r.1.readPiece ag cls false p with
    | (s, .ok v q) => (s, { r.2 with
        bits := r.2.bits ||| v * 2 ^ (off + p.off), pois := if q then r.2.pois ||| ones (off + p.off) p.len else r.2.pois })
    | (s, .err _) => (s, r.2)) r

/-- Do something with stretches of payload in order, told each one's first payload bit. -/
def eachSeg {α : Type} (g : Nat → α → List Piece → α) : Nat → List (List Piece) → α → α
  | _, [], r => r
  | off, ps :: t, r => eachSeg g (off + (ps.map (·.len)).sum) t (g off r ps)

/-- The engine reads the payload of a COPY.MC in chunks, each checked before it is read, up to a fault or a wait. What it has read, every destination receives
(R201). -/
def State.gather (ag : Agent) : List Nat → State × CopyOp → (State × CopyOp) × RunChk
  | [], r => (r, .clear)
  | k :: t, r =>
    match r.1.checkChunk ag r.2 true none k with
    | (s, .ok (a, _)) =>
      let q := eachSeg (takeSeg ag r.2.cls) (k * 32768) a (s, r.2)
      State.gather ag t (q.1, { q.2 with got := chunkEnd r.2 k })
    | (s, .error c) => ((s, r.2), .of k c)

/-- Write a stretch of the payload read, whose first bit is payload bit off, in ascending units (R198). The cover gains the lines it writes without poison. -/
def giveSeg (ag : Agent) (o : CopyOp) (mixed : Bool) (off : Nat) (r : State × Cover) (ps : List Piece) : State × Cover :=
  (List.range (ceilDiv (ps.map (·.len)).sum 512)).foldl (fun r i =>
    let qs := linePieces (slicePieces ps (512 * i) 512)
    let m := r.1.unitMask mixed
    let old := m.1.readArea ag o.cls qs
    let v := field o.bits (off + 512 * i) 512
    let new := (v &&& m.2) ||| (old.2.1 &&& (m.2 ^^^ (2 ^ 512 - 1)))
    qs.foldl (fun r p =>
      let z := field o.pois (off + 512 * i + p.off) p.len != 0
      ((r.1.writePiece ag none o.cls false new z p).1, if mixed || z then r.2 else coverPieces r.2 [p])) (old.1, r.2)) r

/-- Write chunks of the payload read to a destination, each checked first, up to a fault or a wait. -/
def State.scatter (ag : Agent) (o : CopyOp) (dst : Word) (mixed : Bool) : List Nat → State × Cover → (State × Cover) × RunChk
  | [], r => (r, .clear)
  | k :: t, r =>
    match r.1.checkChunk ag o false (some dst) k with
    | (s, .ok (_, b)) => State.scatter ag o dst mixed t (eachSeg (giveSeg ag o mixed) (k * 32768) b (s, r.2))
    | (s, .error c) => ((s, r.2), .of k c)

/-- Give a destination of a COPY.MC these chunks of the payload read; lines written whole without poison lose theirs (R95). -/
def State.deliver (s : State) (ag : Agent) (o : CopyOp) (dst : Word) (ks : List Nat) (mixed : Bool := false) : State × RunChk :=
  let r := State.scatter ag o dst mixed ks (s, [])
  (r.1.1.clearCovered ag r.1.2, r.2)

/-- The chunks of an operation from payload bit lo on that end at or before bit hi. -/
def CopyOp.chunksTo (o : CopyOp) (lo hi : Nat) : List Nat := (o.chunks lo).filter fun k => k * 32768 < hi

/-- Write a completion word as one single-copy atomic store (R197): none where it can no longer be written. -/
def State.complete (s : State) (ag : Agent) (o : CopyOp) (comp : Option Word) : State × Chk :=
  match comp with
  | none => (s, .ok [])
  | some a =>
    match s.check ag { Want.store with far := true, noHost := true } a.toNat 64 with
    | (s, .ok ps) => (s.cpWrite ag o.cv.toNat ps, .ok [])
    | r => r

/-- A completion word must wait for a scratchpad window whose group is on its way between cores (R73). -/
def State.compWaits (s : State) (ag : Agent) (comp : Option Word) : Bool :=
  match comp with
  | none => false
  | some a => (s.check ag { Want.store with far := true, noHost := true } a.toNat 64).2 == .wait

/-- Record a failure in a context (R196): bits 15:0 gather, and the first cause stays with its operation's number. -/
def CopyCtx.record (c : CopyCtx) (num bits cause : Nat) : CopyCtx :=
  let e := c.err ||| bits
  { c with err := if field e 16 8 = 0 then putField (putField e 16 8 cause) 32 32 num else e }

/-- Operation num ends: the timeline counter becomes num, and the next may start (R197). -/
def CopyCtx.finish (c : CopyCtx) (num : Nat) (bad : Bool) : CopyCtx :=
  { c with timeline := num, prog := 0, ops := c.ops.drop 1, failed := if bad then insertNat c.failed num else c.failed }

/-- Replace the operation at the head of a context. -/
def CopyCtx.setHead (c : CopyCtx) (o : CopyOp) : CopyCtx := { c with ops := o :: c.ops.drop 1 }

/-- The operation a context executes: its first, once started and not stopped, its die not in reset. -/
def State.headOp (s : State) (pc : Nat) : Option CopyOp :=
  let c := s.copyCtx pc
  if c.stopped || (s.die (pc / 128)).inReset then none else c.ops.head?.filter (·.started)

/-- COPY_OPERATION_START (R197): a context that executes nothing takes its next operation, in number order. -/
def execCopyOperationStart (die ctx : Nat) (s : State) : Res :=
  let c := s.copyCtx (128 * die + ctx)
  match c.ops with
  | o :: _ =>
    if o.started || c.stopped || (s.die die).inReset then .next s
    else .next (s.setCopyCtx (128 * die + ctx) (c.setHead { o with started := true }))
  | [] => .next s

/-- The bits of the error register for destinations that had not completed (R196). -/
def undoneBits (ds : List Dest) : Nat :=
  (List.range ds.length).foldl (fun b i => match ds[i]? with
    | some d => if d.done then b else b ||| 2 ^ i
    | none => b) 0

/-- The range of a PERSIST, by its parts (R224): a fault ends it. -/
def State.persistRange (s : State) (ag : Agent) (o : CopyOp) : State × Chk :=
  if o.len = 0 then (s, .ok []) else
  let r := s.xlateParts ag { noDev := true, far := true, many := true } (parts o.src.toNat o.len)
  match firstErr .translate r.2 with
  | some v => (r.1, .trap 5 v)
  | none =>
  match firstErr .protect r.2 with
  | some v => (r.1, .trap 6 v)
  | none =>
  match firstErr .wait r.2 with
  | some _ => (r.1, .wait)
  | none => (r.1, .ok (okParts r.2))

/-- The address lies in a range of host or CXL memory that is not DEV: a fault there stops the context (R200, R222). -/
def State.hostHomed (s : State) (ag : Agent) (a : Nat) : Bool :=
  (s.capAddr a).isNone && (s.windowGroup ag a).isNone &&
    (match (s.findRange ag a).2 with
     | some e => e.ok s && (e.il == 4 || e.il == 5) && !e.dev
     | none => false)

/-- The context stops at a chunk boundary, resumable (R200). -/
def CopyCtx.stop (c : CopyCtx) (num cause prog : Nat) : CopyCtx :=
  let c := c.record num 0 cause
  { c with stopped := true, prog := prog, err := c.err ||| 2 ^ 24 }

/-- A COPY meets a fault at a chunk (R200): one on host memory stops its context there, any other ends the operation as failed. -/
def State.copyFault (s : State) (pc : Nat) (o : CopyOp) (k c v : Nat) : State :=
  let x := s.copyCtx pc
  s.setCopyCtx pc (if s.hostHomed (o.agent pc) v then x.stop o.num c (max x.prog (k * 32768)) else (x.record o.num 1 c).finish o.num true)

/-- A COPY runs (R197, R200): its payload, its completion word, the end of the operation; or up to a fault, which stops or ends it, or to a chunk that
waits, from which it goes on. The answer says whether it met a fault. -/
def State.runCopy (s : State) (pc : Nat) (o : CopyOp) (d : Dest) : State × Bool :=
  let ag := o.agent pc
  match s.movePayload ag o d.addr (o.chunks (s.copyCtx pc).prog) with
  | (s, .fault k c v) => (s.copyFault pc o k c v, true)
  | (s, .wait k) => (s.setCopyCtx pc { s.copyCtx pc with prog := max (s.copyCtx pc).prog (k * 32768) }, false)
  | (s, .clear) =>
    if s.compWaits ag d.comp then (s.setCopyCtx pc { s.copyCtx pc with prog := o.total }, false)
    else
      match s.complete ag o d.comp with
      | (s, .trap c _) => (s.setCopyCtx pc (((s.copyCtx pc).record o.num 1 c).finish o.num true), true)
      | (s, _) => (s.setCopyCtx pc ((s.copyCtx pc).finish o.num false), false)

/-- COPY_OPERATION_END (R197, R201, R202): the payload, then the completion word, then the timeline. A COPY that meets a fault instead stops or fails there
(R200). -/
def execCopyOperationEnd (die ctx : Nat) (s : State) : Res :=
  let pc := 128 * die + ctx
  match s.headOp pc with
  | none => .next s
  | some o =>
    match o.kind with
    | .copy =>
      (match o.dests with
       | d :: _ => .next (s.runCopy pc o d).1
       | [] => .next s)
    | .mc =>
      if o.dests.all fun d => d.done || d.failed then
        .next (s.setCopyCtx pc ((s.copyCtx pc).finish o.num (o.dests.any (·.failed))))
      else .next s
    | .persist =>
      (match s.persistRange (o.agent pc) o with
       | (s', .ok ps) =>
         if o.acked || !(ps.any fun p => p.tr.il == 5) then .next (s'.setCopyCtx pc ((s'.copyCtx pc).finish o.num false)) else .next s
       | _ => .next s)

/-- A destination of a COPY.MC faults (R201): its bit and the cause; what stands before the fault holds its old or its new value. -/
def State.failDest (s : State) (pc : Nat) (o : CopyOp) (i : Nat) (d : Dest) (hi cause : Nat) : State :=
  let s := (s.deliver (o.destAgent pc i) o d.addr (o.chunksTo (s.copyCtx pc).prog hi) true).1
  s.setCopyCtx pc (((s.copyCtx pc).record o.num (2 ^ i) cause).setHead { o with dests := setNth o.dests i { d with failed := true } })

/-- COPY_MC_DESTINATION_COMPLETE (R201): a destination of the operation in progress receives its payload and its completion word, or faults. The payload is read
once, for all destinations. -/
def execCopyMcDestinationComplete (die ctx dest : Nat) (s : State) : Res :=
  let pc := 128 * die + ctx
  match s.headOp pc with
  | none => .next s
  | some o =>
    match o.dests[dest]? with
    | none => .next s
    | some d =>
      if o.kind != .mc || d.done || d.failed then .next s else
      let ag := o.destAgent pc dest
      let ks := o.chunks (s.copyCtx pc).prog
      match State.gather (o.agent pc) (o.chunks o.got) (s, o) with
      | ((s0, o), .clear) =>
        let s1 := s0.setCopyCtx pc ((s0.copyCtx pc).setHead o)
        let fails := fun (s : State) (c : Nat) => s.setCopyCtx pc (((s.copyCtx pc).record o.num (2 ^ dest) c).setHead
          { o with dests := setNth o.dests dest { d with failed := true } })
        (match s1.copyCheck ag o false (some d.addr) ks with
         | (s2, .clear) =>
           if s2.compWaits ag d.comp then .next s2 else
           (match s2.deliver ag o d.addr ks with
            | (s3, .fault _ c _) => .next (fails s3 c)
            | (s3, .wait _) => .next s3
            | (s3, .clear) =>
              match s3.complete ag o d.comp with
              | (s4, .trap c _) => .next (fails s4 c)
              | (s4, _) => .next (s4.setCopyCtx pc ((s4.copyCtx pc).setHead { o with dests := setNth o.dests dest { d with done := true } })))
         | (s2, .fault k c _) => .next (s2.failDest pc o dest d (k * 32768) c)
         | (s2, .wait _) => .next s2)
      | ((s0, _), .wait _) => .next s0
      | (_, .fault _ _ _) => .next s

/-- The chunks before a fault of a COPY.MC's source reach the destinations that have not completed; one that faults fails (R201). The answer is false where a
destination must wait, for a transfer or a window on its way between cores (R73). -/
def State.mcBefore (s : State) (pc hi : Nat) (mixed : Bool) : List Nat → State × Bool
  | [] => (s, true)
  | i :: t =>
    match s.headOp pc with
    | none => (s, true)
    | some o =>
      match o.dests[i]? with
      | none => State.mcBefore s pc hi mixed t
      | some d =>
        if d.done || d.failed then State.mcBefore s pc hi mixed t
        else
          let ks := o.chunksTo (s.copyCtx pc).prog hi
          match s.copyCheck (o.destAgent pc i) o false (some d.addr) ks with
          | (s, .clear) => State.mcBefore (s.deliver (o.destAgent pc i) o d.addr ks mixed).1 pc hi mixed t
          | (s, .fault k c _) => State.mcBefore (s.failDest pc o i d (k * 32768) c) pc hi mixed t
          | (s, .wait _) => (s, false)

/-- A COPY.MC's source faults at chunk k with cause c at v, once what was read before it is where it belongs (R200, R201). Until then the source's fault stands. -/
def State.mcFault (s : State) (pc : Nat) (o : CopyOp) (k c v : Nat) : State :=
  let host := s.hostHomed (o.agent pc) v
  match (s.setCopyCtx pc ((s.copyCtx pc).setHead o)).mcBefore pc (k * 32768) (!host) (List.range o.dests.length) with
  | (s, false) => s
  | (s, true) =>
    let x := s.copyCtx pc
    let s := if c = 7 then s.leaveFailed (o.agent pc).sid else s
    s.setCopyCtx pc (if host then x.stop o.num c (max x.prog (k * 32768)) else (x.record o.num (undoneBits o.dests) c).finish o.num true)

/-- COPY_FAULT_STOP (R200, R201): the operation in progress meets a fault at a chunk. One on host memory, of a COPY or of the source of a COPY.MC, stops the
context; any other ends the operation as failed. -/
def execCopyFaultStop (die ctx : Nat) (s : State) : Res :=
  let pc := 128 * die + ctx
  match s.headOp pc with
  | none => .next s
  | some o =>
    let ag := o.agent pc
    match o.kind with
    | .copy =>
      (match o.dests with
       | [] => .next s
       | d :: _ =>
         let r := s.runCopy pc o d
         .next (if r.2 then r.1 else s))
    | .mc =>
      (match State.gather ag (o.chunks o.got) (s, o) with
       | ((_, o), .fault k c v) => .next (s.mcFault pc o k c v)
       | ((s, _), .wait _) => .next s
       | (_, .clear) => .next s)
    | .persist =>
      (match s.persistRange ag o with
       | (s, .trap c _) => .next (s.setCopyCtx pc (((s.copyCtx pc).record o.num 1 c).finish o.num true))
       | (s, _) => .next s)

/-- PERSISTENCE_FLUSH_ACK (R202): every CXL target of the range has acknowledged a persistence flush. -/
def execPersistenceFlushAck (die ctx : Nat) (s : State) : Res :=
  let pc := 128 * die + ctx
  match s.headOp pc with
  | some o => if o.kind == .persist then .next (s.setCopyCtx pc ((s.copyCtx pc).setHead { o with acked := true })) else .next s
  | none => .next s

/-- What d + x is, rounded once to f32 in RNE (R203); NaNs follow R139. -/
def RElem.sum (x : RElem) (d : Nat) : Nat :=
  let fin : Ex := { neg := x.m < 0 || x.sp == 4, n := x.m.natAbs, e := x.e }
  match f32.val d, x.sp with
  | .nan _, _ => f32.qnan
  | _, 3 => f32.qnan
  | .inf n, 1 => if n then f32.qnan else f32.inf
  | .inf n, 2 => if n then f32.inf + f32.sign else f32.qnan
  | .inf n, _ => f32.inf + f32.signIf n
  | .fin _, 1 => f32.inf
  | .fin _, 2 => f32.inf + f32.sign
  | .fin y, _ => (f32.round 0 (y.add fin false)).1

/-- One element update at the destination's home (R203). -/
def State.rredElem (s : State) (x : RElem) : State :=
  let d := s.home x.dst 32
  s.homeWrite x.dst 32 (x.sum d) (x.p || s.homePois x.dst 32)

/-- A log of the last 64 packets (R292). -/
def logPut (l : List RredRec) (r : RredRec) : List RredRec :=
  let l := l ++ [r]
  if 64 < l.length then l.drop 1 else l

/-- A core's logs of its scratchpad and its K-channel gain an entry. -/
def Core.rredLog (c : Core) (scratch : Bool) (r : RredRec) : Core :=
  if scratch then { c with logS := logPut c.logS r } else { c with logK := logPut c.logK r }

/-- Packet p waits for an earlier one q of another member of its strand: of its class (R264), or with bits in common (R265). -/
def RPacket.follows (p q : RPacket) : Bool :=
  q.sender == p.sender && q.sid == p.sid && q.mid != p.mid &&
    (q.cls == p.cls || p.elems.any fun x => q.elems.any fun y => x.dst < y.dst + 32 && y.dst < x.dst + 32)

/-- RRED_UPDATE (R203, R292): a memory unit applies a packet in flight, element by element, and logs it. The sender's cached copies are written back first, so
that its own later reads see the update (R273). One to a peer with no live link is dropped (R340). -/
def execRredUpdate (index : Nat) (s : State) : Res :=
  match s.packets[index]? with
  | none => .next s
  | some p =>
    if (s.packets.take index).any p.follows then .next s else
    let rest := s.packets.take index ++ s.packets.drop (index + 1)
    let s1 : State := { s with packets := rest }
    if 2 ^ 20 ≤ p.unit && hasNat s.peersDown (p.unit - 2 ^ 20) then .next s1
    else
      let s2 := (p.elems.flatMap fun x => linesOf x.dst 32).foldl (fun s l => s.evict p.sender l) s1
      let s3 := p.elems.foldl State.rredElem s2
      if p.unit < 2 ^ 20 then
        let k := p.unit / 2
        let r : RredRec := { cycle := s3.coreCycle k, sender := p.sender, vl := p.vl, mask := p.mask, payload := p.payload, scales := p.scales
                             dst := p.elems.map (·.dst), after := p.elems.map fun x => s3.home x.dst 32 }
        .next (s3.modCore k fun c => c.rredLog (p.unit % 2 == 0) r)
      else .next s3

end Sys2Proof.Machine
end

