-- ==== Sys2Proof/Machine/Migrate.lean ====
section
/-!
DEFINITION. Migration and placement (R70 to R79, R325): the record a group leaves in the migration range, and how a group starts or resumes on a core.
-/

namespace Sys2Proof.Machine

/-- Bits laid out one area after another, each from a multiple of 512 bits: areas are (bits, length). -/
def layAreas (l : List (Nat × Nat)) : Nat × Nat :=
  l.foldl (fun a x => (a.1 + x.1 * 2 ^ a.2, a.2 + ceilDiv x.2 512 * 512)) (0, 0)

/-- Fields laid one after another. -/
def layFields (l : List (Nat × Nat)) : Nat × Nat := l.foldl (fun a x => (a.1 + x.1 % 2 ^ x.2 * 2 ^ a.2, a.2 + x.2)) (0, 0)

/-- 64-bit words laid one after another. -/
def layWords (ws : List Nat) : Nat := (layFields (ws.map fun w => (w, 64))).1

/-- A list padded with zeros to n entries. -/
def padNat (n : Nat) (l : List Nat) : List Nat := (l ++ List.replicate n 0).take n

/-- The watchdog's code (word 80). -/
def WdState.code : WdState → Nat
  | .off => 0
  | .armed => 1
  | .warned => 2

/-- Word 80 of a per-strand area (R307). -/
def Group.wdWord (g : Group) : Nat := g.wdBase % 2 ^ 32 + g.wd.code * 2 ^ 32 + if g.progress then 2 ^ 34 else 0

/-- Word 98 of the area of strand i: its arrivals on the core barriers (R74). -/
def barWord (bars : List (Nat × Nat × Bool)) (i : Nat) : Nat :=
  (bars.filter fun b => b.1 == i).foldl (fun w b => w + 2 ^ (b.2.1 + if b.2.2 then 8 else 0)) 0

/-- The 128 words of a strand's area (R74). -/
def Strand.recordWords (t : Strand) (g : Group) (bars : List (Nat × Nat × Bool)) (i : Nat) : List Nat :=
  padNat 128 (
    ((List.range 31).map fun r => (t.getX (BitVec.ofNat 5 (r + 1))).w.toNat) ++ [t.pc.toNat] ++
    [t.fcsr.toNat, t.vl, t.vtype, t.estart, t.vdirty.toNat, t.vstate, t.lpart, t.share] ++
    [t.vpc.toNat] ++ t.lc.toList.map (·.toNat) ++ t.b.toList.map (fun w => w.w.toNat) ++
    t.wm.toList.flatMap (fun m => [m.base.toNat, m.w1.toNat, m.pub.toNat, m.lim.toNat, m.obs.toNat]) ++
    [t.tpc.toNat, t.tcause.toNat, t.taddr.toNat, t.tinfo.toNat, if t.topen then 1 else 0, t.tvec.toNat] ++
    [g.wdwin.toNat, g.wdWord, t.rq.length] ++ padNat 16 (t.rq.map fun w => w.w.toNat) ++ [barWord bars i] ++
    (match t.blk with
     | some b => [1, b.vl, ewRm b.ew b.rm]
     | none => [0, 0, 0]))

/-- The registers of a strand that a migration carries: those with their vdirty bit set (R75). -/
def Strand.dirtyRegs (t : Strand) : List Nat := setBits t.vdirty.toNat (2 ^ t.n2)

/-- The header of a record (R74). More than 127 dirty registers do not fit bits 16:10 of word 7: their count runs on into the bits above (DESIGN CHOICE, entry 37). -/
def Group.recordHeader (g : Group) (src : Nat) (ts : List Strand) (parked : Bool) : Nat :=
  let t0 := ts.headD {}
  layWords [
    0x10 + (ts.length - 1) * 2 ^ 8 + t0.g * 2 ^ 11 + t0.n2 * 2 ^ 17 + (if parked then 2 ^ 20 else 0) +
      (if g.matrix && !g.mstarted then 2 ^ 21 else 0),
    src, g.gid, g.migAddr.toNat,
    g.migStrand % 8 + (if g.migConvoy then 8 else 0) + g.migSlot * 16,
    ((t0.rebase + BitVec.ofNat 64 g.migCycle)).toNat, g.migCost,
    g.grant.length + (ts.map fun t => t.dirtyRegs.length).sum * 2 ^ 10]

/-- The matrix area of a record (R77): accumulators, thresholds, slots with their headers, the macro image, the matrix control strand's registers,
then pc, mcfg, tlm and the status words of MSTAT. R77 gives the order and the sizes alone: the last 2,048 bits hold pc, mcfg and tlm, a word each, then MSTAT's words 0
to 2, and the macro image element (k, n) as bf16 at 16 × (k × N + n) (DESIGN CHOICE, entry 37). -/
def matrixArea (m : Matrix) (t : Strand) : Nat × Nat :=
  layFields (
    ((List.range 64).map fun j => ((m.row j).bits, 16384)) ++
    ((List.range 64).map fun j => (m.thr j, 32)) ++
    ((List.range 16).map fun i => ((m.slot i).bits, 17664)) ++
    [(m.bmat, 1048576)] ++
    ((List.range 32).map fun r => ((t.getX (BitVec.ofNat 5 r)).w.toNat, 64)) ++
    [(layWords [t.pc.toNat, m.mcfg, m.tlm, m.stat 0, m.stat 1, m.stat 2], 2048)])

/-- A scratchpad window's image: its units in order (the poison of its lines goes beside it). -/
def State.scratchImage (s : State) (k : Nat) (us : List Nat) : Nat × Nat :=
  layFields (us.map fun u => (s.home (2 ^ 58 + k * 2 ^ 32 + u * 32768) 32768, 32768))

/-- Where a group's migration record lies, as an offset in the migration range (R74). -/
def recordOffset (src : Nat) : Nat := src * 2 ^ 26

/-- The flat address of bit o of the migration range (R353). -/
def migAddrOf (o : Nat) : Nat := locate 3 (2 ^ 32 - 2 ^ 27) o

/-- Write n bits at offset o of the migration range, in parts of 4 KiB. -/
def State.writeRecord (s : State) (o v n : Nat) : State :=
  (List.range (ceilDiv n (2 ^ 15))).foldl (fun s j =>
    let lo := j * 2 ^ 15
    s.homeWrite (migAddrOf (o + lo)) (min (2 ^ 15) (n - lo)) (v / 2 ^ lo % 2 ^ min (2 ^ 15) (n - lo))) s

/-- Whether a flat address lies in the storage that holds a group's window. -/
def Group.holdsFlat (g : Group) (fa : Nat) : Bool := fa / 2 ^ 32 == 2 ^ 26 + g.core && hasNat g.grant (fa % 2 ^ 32 / 2 ^ 15)

/-- The members a strand's convoys have under way touch a group's window: a wait by VWAITV, which reads its words afresh, aside (R280). -/
def Strand.underWay (t : Strand) (g : Group) : Bool :=
  t.convs.any fun c =>
    match c.pend with
    | .none => false
    | .vwait _ _ => false
    | _ => (Sparse.get [] c.probes c.slot).any fun p => p.ps.any fun q => g.holdsFlat q.tr.fa

/-- Accesses under way to a group's window, of any agent (R73): members of other strands' convoys, RRED updates in flight, matrix moves. -/
def State.windowBusy (s : State) (g : Group) : Bool :=
  (s.packets.any fun p => p.elems.any fun e => g.holdsFlat e.dst) ||
  (s.strands.any fun p => !hasNat g.all p.1 && p.2.underWay g) ||
  s.cores.any fun c => c.2.mx.ops.any fun o => !o.done && o.pages.any fun r => g.holdsFlat r.2

/-- The convoy's members that have not started and reach into a group's window translate again when they execute. -/
def Conv.probeAfresh (g : Group) (c : Conv) : Conv :=
  let hit := (c.probes.filter fun q => c.slot ≤ q.1 && q.2.any fun x => x.ps.any fun y => g.holdsFlat y.tr.fa).map (·.1)
  let hit := match c.pend with
    | .none => hit
    | _ => hit.filter (· != c.slot)
  { c with probes := c.probes.filter fun q => !hasNat hit q.1, late := hit.foldl insertNat c.late }

/-- Members of other strands' convoys that have not started and reach into the window translate again when they execute, after the resume (R73). -/
def State.probeAfresh (s : State) (g : Group) : State :=
  { s with strands := s.strands.map fun p =>
    if hasNat g.all p.1 then p else
    (p.1, { p.2 with conv := p.2.conv.map (Conv.probeAfresh g), past := p.2.past.map fun q => { q with conv := q.conv.probeAfresh g } }) }

/-- The poison of a window's lines in the record's image of it, which begins at an offset (R76, R95). -/
def State.poisonImage (s : State) (k : Nat) (us : List Nat) (o : Nat) : State :=
  (List.range us.length).foldl (fun s i =>
    (List.range 64).foldl (fun s j =>
      if s.homePois (2 ^ 58 + k * 2 ^ 32 + nth 0 us i * 32768 + j * 512) 512 then s.setPoison (migAddrOf (o + i * 32768 + j * 512) / 512) true
      else s) s) s

/-- The number under which a copy of a strand in migration counts: strand i of group n, 8 the matrix control strand (R71 step 3). -/
def movedKey (n i : Nat) : Nat := 2 ^ 23 + 16 * n + i

/-- Change each copy operation of the package. -/
def State.mapCopies (s : State) (f : CopyOp → CopyOp) : State :=
  { s with dies := s.dies.map fun d => (d.1, { d.2 with ctxs := d.2.ctxs.map fun c => (c.1, { c.2 with ops := c.2.ops.map f }) }) }

/-- Give copies that count for strands to others. -/
def State.rebindCopies (s : State) (f : Nat → Nat) : State := s.mapCopies fun o => { o with sid := o.sid.map f }

/-- The index of a strand context in its group: 8 for the matrix control strand. -/
def Group.idxOf? (g : Group) (sid : Nat) : Option Nat :=
  if g.mcsRuns && sid == mcsOf g.core then some 8 else (List.range g.sids.length).find? fun i => nth 0 g.sids i == sid

/-- Where a record's scratchpad image begins: after the header, strand areas, masks and scales, and dirty registers (R75). -/
def imageOffset (ts : List Strand) : Nat :=
  (layAreas [(0, 512), (0, 8192 * ts.length), (0, (ts.map fun t => 8 * (t.g * 40960 / 2 ^ t.n2)).sum),
    (0, (ts.map fun t => t.dirtyRegs.length * regBits t.g t.n2).sum)]).2

/-- The whole record (R74, R75, R77): bits and length. The strands stand as they stopped: vstate is as it was then (DEDUCED, entry 37). -/
def State.record (s : State) (g : Group) (ts : List Strand) (bars : List (Nat × Nat × Bool)) (mx : Option (Matrix × Strand)) : Nat × Nat :=
  let ms := layFields (ts.map fun t => (t.maskScale.1, 8 * (t.g * 40960 / 2 ^ t.n2)))
  let vs := layFields (ts.flatMap fun t => t.dirtyRegs.map fun r => ((Sparse.get {} t.v r).bits, regBits t.g t.n2))
  let areas := (List.range ts.length).map fun i => (layWords ((nth {} ts i).recordWords g bars i), 8192)
  layAreas ([(g.recordHeader (s.coreId g.core) ts mx.isSome, 512)] ++ areas ++ [ms, vs, s.scratchImage g.core g.grant] ++
    (match mx with
     | some x => [matrixArea x.1 x.2]
     | none => []))

/-- The source cost (R79). -/
def sourceCost (bits dirty : Nat) (parked : Bool) : Nat :=
  2400 + ceilDiv bits 2048 + 900 * ceilDiv dirty 8 + if parked then 1165 else 0

/-- The arrivals of a group's strands on its core's barriers (R76): strand, barrier, and whether its phase had completed. Word 98 has no place for one of the matrix
control strand: that stays counted on the source's barrier, and its record is dropped (DESIGN CHOICE, entry 37). -/
def State.arrivals (s : State) (g : Group) : List (Nat × Nat × Bool) :=
  let bars := (s.core g.core).cbs.toList
  (List.range g.sids.length).flatMap fun i => (List.range 8).filterMap fun k =>
    let b := bars.getD k {}
    match Sparse.get none (b.recs.map fun p => (p.1, some p.2)) (ctxOf (nth 0 g.sids i)) with
    | some p => some (i, k, p != b.P)
    | none => none

/-- Take arrivals of the current phase off the core's barriers (R76). -/
def State.leaveBars (s : State) (k : Nat) (bars : List (Nat × Nat × Bool)) : State :=
  bars.foldl (fun s b => if b.2.2 then s else
    s.modCore k fun c => { c with cbs := if h : b.2.1 < 8 then c.cbs.set b.2.1 { c.cbs[b.2.1] with a := c.cbs[b.2.1].a - 1 } h else c.cbs }) s

/-- A strand as a migration carries it: vector registers whose vdirty bit is clear stay behind, and then vstate is off (R76). A pre-emption request, which
the record does not hold, stays behind too, and so does a YIELD's wait, which is over long before a resume (R79). -/
def Strand.carried (t : Strand) : Strand :=
  let live := t.v.filter fun p => !bitAt t.vdirty.toNat p.1
  { t with v := t.v.filter fun p => bitAt t.vdirty.toNat p.1, vstate := if t.vstate = 0 || !live.isEmpty then 0 else t.vstate
           conv := none, wait := none, convWait := none, link := none, vlinks := [], deficit := 0, notBefore := 0, preq := false, heldPre := none }

/-- What a migration still waits for (R71): convoys that have performed an element, held strands (a choice), RRED updates, copies not stopped, and where its
matrix state is parked its matrix operations (R260), and accesses of any agent under way to its window (R73). -/
def State.migrationWaits (s : State) (n : Nat) (g : Group) : Bool :=
  g.all.any (fun sid => (s.strand sid).performing || (s.strand sid).hold.isSome || s.packets.any fun p => p.sid == some sid) ||
  s.dies.any (fun d => d.2.ctxs.any fun c => !c.2.stopped && c.2.ops.any fun o => o.group == some n && !o.later) || !s.matrixDone g || s.windowBusy g

/-- MIGRATION (R71): the source stops the group, drains, writes back and writes the record, and gives everything up; the group waits for a core. Matrix state is
parked for a group whose matrix control strand was started: one that has no matrix program parks none, whatever its strands have put into slots and thresholds
(DESIGN CHOICE, entry 37). -/
def execMigration (group : Nat) (s : State) : Res :=
  match s.group? group with
  | none => .next s
  | some g =>
    if g.phase != .migrating || s.frozen g.core || s.migrationWaits group g then .next s
    else
      let s := g.all.foldl (fun s sid => ((s.unwind sid).dropTags sid).settleLaunch sid) s
      let s := s.cleanCore g.core
      let bars := s.arrivals g
      let ts := g.sids.map s.strand
      let mx :=
        if g.mcsRuns then some ((s.core g.core).mx, (s.strand (mcsOf g.core)).carried)
        else match g.savedMx, g.savedMcs with
          | some m, some t => some (m, t)
          | _, _ => none
      let g := { g with
        migCost := sourceCost (g.grant.length * 32768) (ts.map fun t => t.dirtyRegs.length).sum mx.isSome, migSrc := g.core
        wdBase := g.wdBase + (s.coreCycle g.core - g.wdStart) }
      let r := s.record g ts bars mx
      let s := ((s.leaveBars g.core bars).writeRecord (recordOffset g.core) r.1 r.2).poisonImage g.core g.grant (recordOffset g.core + imageOffset ts)
      let s := (s.probeAfresh g).rebindCopies fun k => ((g.idxOf? k).map (movedKey group)).getD k
      let s := (g.all.foldl State.freeContext s).zeroUnits g.core g.grant
      let s := (s.resetMatrix group g).setGroup group { g with
        phase := .waiting, saved := ts.map Strand.carried, savedMcs := mx.map (·.2), savedMx := mx.map (·.1), savedBar := bars
        grant := g.grant.map fun _ => 0 }
      .next (if s.brkMigrate then s.modCore g.migSrc fun c => { c with halted := true } else s)

/-- What a migrating group needs of a core (R78): the profile it lacked, and the shares it held, those of blocks queued before a SETVL included
(DEDUCED, entry 37). -/
def Group.need (g : Group) (q : Gang) : Need :=
  { strands := g.saved.length, shares := (g.saved.map (·.held)).sum, scratch := g.grant.length, matrix := q.mentry.isSome
    allows := fun d => q.allows d && bitAt (dieProfiles d) g.migProf }

/-- Put a group's arrivals on its new core's barriers (R76). -/
def State.joinBars (s : State) (g : Group) : State :=
  g.savedBar.foldl (fun s b =>
    let sid := nth 0 g.sids b.1
    let s := { s with cur := sid }
    match s.getBar 0 b.2.1 with
    | .error _ => s
    | .ok x =>
      if b.2.2 then s.putBar 0 b.2.1 { x with recs := Sparse.put x.recs (ctxOf sid) (2 ^ 64) }
      else
        let y := { x with a := x.a + 1, recs := Sparse.put x.recs (ctxOf sid) x.P }
        let s := if y.c ≤ y.a then s.barProgress 0 y x.P else s
        s.putBar 0 b.2.1 y.finish) s

/-- Restore the scratchpad window from the record, unit by unit, poison with it (R76). -/
def State.restoreImage (s : State) (g : Group) (k : Nat) (units : List Nat) : State :=
  let base := recordOffset g.migSrc + imageOffset g.saved
  (List.range units.length).foldl (fun s i =>
    (List.range 64).foldl (fun s j =>
      let src := migAddrOf (base + i * 32768 + j * 512)
      s.homeWrite (2 ^ 58 + k * 2 ^ 32 + nth 0 units i * 32768 + j * 512) 512 (s.home src 512) (s.homePois src 512)) s) s

/-- Restore or start the matrix state of a group that resumes on core k (R77): on a Marl core it stays parked, its strand's cycle rebased with the others' (R76),
or unstarted. -/
def State.resumeMatrix (s : State) (n : Nat) (g : Group) (q : Gang) (k : Nat) (rebase : Strand → Word) : State :=
  if !isLoam k then s.modGroup n fun g => { g with savedMcs := g.savedMcs.map fun t => { t with rebase := rebase t } }
  else if !g.matrix then s
  else
    match g.savedMx, g.savedMcs with
    | some m, some t =>
      ((s.modStrand (mcsOf k) fun old => { t with rebase := rebase t, grace := old.grace }).modMx k fun x => { m with vtoaQ := x.vtoaQ }).modGroup n
        fun g => { g with savedMx := none, savedMcs := none }
    | _, _ => s.startMatrix n q k (rebase (nth {} g.saved 0))

/-- RESUME (R72, R76): a group's strands, scratchpad and barriers restored on core k, after an acquire there of every class. Its stopped copies count for its
strands again. -/
def State.resume (s : State) (n : Nat) (g : Group) (q : Gang) (k : Nat) : State :=
  let sids := (s.freeCtxs k).take g.saved.length
  let units := (s.freeUnits k).take g.grant.length
  let off := BitVec.ofNat 64 (g.migCycle + g.migCost) - BitVec.ofNat 64 (s.coreCycle k)
  let rebase := fun (t : Strand) => t.rebase + off
  let wait := if g.savedMx.isSome && isLoam k then s.coreCycle k + 1165 else 0
  let g := { g with core := k, sids := sids }
  let s := s.acqCache k allClasses 4
  let s := (List.range sids.length).foldl (fun s i =>
    let t := nth {} g.saved i
    s.modStrand (nth 0 sids i) fun old => { t with rebase := rebase t, grace := old.grace }) s
  let s := s.restoreImage g k units
  let rec0 := recordOffset g.migSrc
  let s := s.writeRecord (rec0 + 64 + 16) (s.coreId k) 16
  let s := s.setGroup n { g with phase := .placed, saved := [], savedBar := [], grant := units, wdStart := s.coreCycle k, readyAt := wait }
  let s := s.resumeMatrix n g q k rebase
  let back := (List.range sids.length).map (fun i => (movedKey n i, nth 0 sids i)) ++ if isLoam k then [(movedKey n 8, mcsOf k)] else []
  let s := s.mapCopies fun o => { o with later := o.later && o.group != some n }
  let s := (s.rebindCopies fun o => Sparse.get o back o).joinBars g
  if s.brkResume then s.modCore k fun c => { c with halted := true } else s

/-- A waiting group that some core can take (R56, R70). -/
inductive Cand where
  | moved (n : Nat) (g : Group) (q : Gang) (core : Nat)
  | fresh (gn : Nat) (q : Gang) (core : Nat)
deriving DecidableEq, Repr

/-- The waiting groups of a priority, in order: those in migration first (R78), among them by the order of their creation (DESIGN CHOICE, entry 37), then by
acceptance. -/
def State.waitingAt (s : State) (prio : Nat) : List Cand :=
  (s.groups.filterMap fun p =>
    match p.2.phase, s.gang? p.2.gang with
    | .waiting, some q => if q.prio == prio then (s.chooseCore (p.2.need q) p.2.migSrc).map fun k => .moved p.1 p.2 q k else none
    | _, _ => none) ++
  s.gangs.filterMap fun p =>
    if p.2.prio == prio && !p.2.resident && p.2.created < p.2.groups then (s.chooseCore p.2.need p.2.origin).map fun k => .fresh p.1 p.2 k
    else none

/-- PLACEMENT (R56, R70): the first waiting group of the highest priority for which some core is eligible is placed; `window` is where a new group's
scratchpad window stands, a free value where it is none (entry 2). -/
def execPlacement (window : Option Word) (s : State) : Res :=
  match ([3, 2, 1, 0].flatMap s.waitingAt).head? with
  | none => .next s
  | some (.moved n g q k) => .next (s.resume n g q k)
  | some (.fresh gn q k) =>
    match window with
    | some a => .next (s.createGroup gn q k (windowBase a))
    | none => .next (s.fresh.2.createGroup gn q k (windowBase s.fresh.1))

end Sys2Proof.Machine
end

