-- ==== Sys2Proof/Machine/Ownership.lean ====
section
/-!
DEFINITION. Ownership transfers (R335, R336), the host's accesses (R274, R331), and what happens to lines of caches by itself (R91, R92, R189, R267).
-/

namespace Sys2Proof.Machine

/-- The transfer of a region that runs. -/
def State.transfer? (s : State) (region : Nat) : Option Transfer := s.transfers.find? fun t => t.region == region && s.runs t

/-- Lines of a core's cache that lie in an ownership region. -/
def Core.regionLines (c : Core) (region : Nat) : List Nat := (c.lines.map (·.1)).filter fun l => regionOf (l * 512) == region

/-- Every line cache writes back and drops its lines of a region. -/
def State.regionBack (s : State) (region : Nat) : State :=
  s.cores.foldl (fun s c => (c.2.regionLines region).foldl (fun s l => s.evict c.1 l) s) s

/-- A mailbox command completes with a status (R332). -/
def State.reply (s : State) (fn code : Nat) : State := { s with mailbox := Sparse.put s.mailbox fn (code :: Sparse.get [] s.mailbox fn) }

/-- A transfer has failed (R336): the owner stays, and the accesses that joined it raise OWNERSHIP. -/
def State.failTransfer (s : State) (t : Transfer) : State :=
  { s with transfers := if t.joined.isEmpty then s.transfers.erase t
           else s.transfers.map fun x => if x == t then { x with failed := true } else x }

/-- Cycles a transfer has counted: of the core R2 and R336 name, of the package where the host asked, whose transfers have no limit. -/
def State.transferCycles (s : State) (t : Transfer) : Nat := t.base + ((t.core.map s.coreCycle).getD s.now - t.since)

/-- A transfer toward the device has not been acknowledged within 2^20 cycles (R336). -/
def State.transferLate (s : State) (t : Transfer) : Bool := t.toDev && 2 ^ 20 ≤ s.transferCycles t

/-- The transfers that count by a core go on from the value they had reached where the core's counter starts again from zero (R2, R352). -/
def State.rebaseTransfers (s : State) (k : Nat) : List Transfer :=
  s.transfers.map fun t => if t.core = some k then { t with base := s.transferCycles t, since := 0 } else t

/-- OWNERSHIP_TRANSFER_COMPLETE (R274, R335): the former owner's copies are written back, the owner flips, and the accesses held proceed, before a transfer the
other way begins; link tags in the region break (R109). Pins that waited for the transfer take effect (R334). One toward the device whose domain is no longer enabled, or whose limit has passed,
fails (R336). -/
def execOwnershipTransferComplete (region : Nat) (s : State) : Res :=
  match s.transfer? region with
  | none => .next s
  | some t =>
    if (t.toDev && !hasNat s.domains t.dom) || s.transferLate t then .next (s.failTransfer t) else
    let s := (s.regionBack region).dropRegionTags region
    let s : State := { s with
      transfers := if t.toDev && !t.joined.isEmpty then s.transfers.map fun x => if x == t then { t with flipped := true } else x else s.transfers.erase t
      owners := Sparse.put s.owners region (if t.toDev then .dev else if t.pins.isEmpty then .host else .pinned) }
    .next (t.pins.foldl (fun s fn => s.reply fn 0) s)

/-- OWNERSHIP_TRANSFER_TIMEOUT (R336): a transfer toward the device that is not acknowledged within 2^20 cycles fails. -/
def execOwnershipTransferTimeout (region : Nat) (s : State) : Res :=
  match s.transfer? region with
  | none => .next s
  | some t => .next (if s.transferLate t then s.failTransfer t else s)

/-- What stops a host access of n bytes at a flat byte address (R195, R274, R335): 0 nothing, 1 it waits for a transfer, 2 it is none the host port
makes (one line at a time, Kaolin, host or CXL memory). -/
def State.hostAccess (s : State) (byte n : Nat) : Nat :=
  let fa := byte * 8
  if n = 0 || 64 < byte % 64 + n || 3 * 2 ^ 64 ≤ fa then 2
  else if fa < 2 ^ 64 then (if kaolinOk s fa then 0 else 2)
  else if s.transferring (regionOf fa) || s.owner (regionOf fa) == .dev then 1
  else 0

/-- A host access to a region the device owns starts its transfer (R335). -/
def State.hostTransfer (s : State) (byte : Nat) : State := s.startTransfer (regionOf (byte * 8)) false

/-- The words that n bytes from a byte on touch. -/
def hostWords (byte n : Nat) : List Nat := (List.range ((byte % 8 + n + 7) / 8)).map (· + byte / 8)

/-- A host read of n bytes is atomic: within one word, or a whole line (R195). -/
def hostAtomic (byte n : Nat) : Bool := (hostWords byte n).length ≤ 1 || (byte % 64 == 0 && n == 64)

/-- What a host read has read, printed as a value and a poison flag. -/
def State.hostGot (s : State) (val : Nat) (pois : Bool) : State := s.view "hostread" [val, if pois then 1 else 0]

/-- A read reads word w of its words. -/
def HostRd.take (r : HostRd) (s : State) (w : Nat) : HostRd :=
  let lo := max r.byte (8 * w)
  let n := 8 * (min (r.byte + r.n) (8 * w + 8) - lo)
  { r with left := r.left.erase w, val := r.val ||| s.home (8 * lo) n * 2 ^ (8 * (lo - r.byte)), pois := r.pois || s.homePois (8 * lo) n }

/-- One word of a host read that is not atomic, in an order that nothing fixes (R195; entry 36): it is printed once all are read. -/
def State.hostWord (s : State) (byte n : Nat) : State :=
  let r := (s.hostReads.find? fun r => r.byte == byte && r.n == n).getD { byte := byte, n := n, left := hostWords byte n }
  let w := nth 0 r.left (s.fresh.1.toNat % r.left.length)
  let q := r.take s w
  let s := s.fresh.2
  let rest := s.hostReads.filter fun r => !(r.byte == byte && r.n == n)
  if q.left.isEmpty then ({ s with hostReads := rest } : State).hostGot q.val q.pois else { s with hostReads := q :: rest }

/-- HOST_READ (R195, R274): n bytes at a flat byte address, printed as a value and a poison flag; a turn reads one word of a read that is not atomic. -/
def execHostRead (byte n : Nat) (s : State) : Res :=
  match s.hostAccess byte n with
  | 0 => .next (if hostAtomic byte n then s.hostGot (s.home (byte * 8) (n * 8)) (s.homePois (byte * 8) (n * 8)) else s.hostWord byte n)
  | 1 => .next (s.hostTransfer byte)
  | _ => .next s

/-- HOST_WRITE (R195, R274): n bytes, at the home, breaking link tags (R109). The host's data carries no poison (DESIGN CHOICE, entry 36): a host or CXL line is
poisoned only by a device's store. -/
def execHostWrite (byte n : Nat) (value : BitVec 512) (s : State) : Res :=
  match s.hostAccess byte n with
  | 0 => .next (s.homeWrite (byte * 8) (n * 8) value.toNat)
  | 1 => .next (s.hostTransfer byte)
  | _ => .next s

/-- LINE_EVICTION (R189): at any time; only dirty bits are written. -/
def execLineEviction (core line : Nat) (s : State) : Res := .next (if coreBuilt core then s.evict core line else s)

/-- STORE_PERFORMED_AT_HOME (R267): the dirty bits of a line reach the home. -/
def execStorePerformedAtHome (core line : Nat) (s : State) : Res := .next (if coreBuilt core then s.writeBack core line else s)

/-- FETCH_FILL (R91, R93): a fetch cache may fill a line of memory at any time. -/
def execFetchFill (core line : Nat) (s : State) : Res :=
  if coreBuilt core && (2 ^ 64 ≤ line * 512 || kaolinOk s (line * 512)) then .next (s.fetchLine core line).1 else .next s

/-- A line lies in translated parts. -/
def inPieces (ps : List Piece) (line : Nat) : Bool := ps.any fun p => p.tr.fa < (line + 1) * 512 && line * 512 < p.tr.fa + p.len

/-- CODE_OBJECT_LOAD (R17, R19, R92): the loader accepts or refuses a code object of `len` bits at a descriptor of an address space, and one it accepts drops
its lines from every fetch cache. It prints 0 or 1. -/
def execCodeObjectLoad (asid : Nat) (desc : Word) (len : Nat) (s : State) : Res :=
  let ag := cpAgent 0 asid true
  match s.cpRead ag desc.toNat 256 with
  | (s, .wait) => .next s
  | (s, .bad) => .next (s.view "load" [1])
  | (s, .ok v) =>
    match (if desc.toNat % 64 = 0 then descOf v else none).filter Desc.loadable with
    | none => .next (s.view "load" [1])
    | some _ =>
      let r := s.xlateParts ag {} (parts desc.toNat len)
      let ps := okParts r.2
      let s : State := { r.1 with
        objects := (asid, desc, len) :: r.1.objects
        cores := r.1.cores.map fun c => (c.1, { c.2 with fetch := c.2.fetch.filter fun l => !inPieces ps l.1 }) }
      .next (s.view "load" [0])

/-- HOST_LINK_TRAINING (R331): the link works at the rate at which it trains, PCIe generation 1 to 6. -/
def execHostLinkTraining (gen : Nat) (s : State) : Res := .next (if 1 ≤ gen && gen ≤ 6 then { s with linkRate := gen } else s)

end Sys2Proof.Machine
end

