-- ==== Sys2Proof/Machine/Fyv.lean ====
section
/-!
DEFINITION. The debugger (R262, R289, R290, R292, R293, R302, R323 to R325): it halts and restarts cores, sets a pre-emption, prints state, and makes host accesses.
A view changes nothing but the list of what has been printed.
-/

namespace Sys2Proof.Machine

/-- A strand of a group stands at a line: its scalar side at an instruction, or its vector side at a convoy (R262). -/
def State.standsAt (s : State) (n : Nat) (line : Word) : Bool :=
  match s.group? n with
  | some g => g.phase == .placed && g.all.any fun sid =>
      let t := s.strand sid
      let u := t.forward
      t.phase == .running && ((t.hold.isNone && t.pc == line) || (u.blk.isSome && u.conv.isNone && u.vpc == line))
  | none => false

/-- BREAKPOINT (R262, R291, R325): fyv sets or deletes a breakpoint. A strand that reaches its line halts the whole core (State.arrived); the event `reach` halts
the core of a group with a strand that stands at the line already (entry 45). -/
def execBreakpoint (b : Break) (s : State) : Res :=
  match b with
  | .set g a => .next (if s.breaks.contains (g, a) then s else { s with breaks := s.breaks ++ [(g, a)] })
  | .delete g a => .next { s with breaks := s.breaks.erase (g, a) }
  | .migrate on => .next { s with brkMigrate := on }
  | .resume on => .next { s with brkResume := on }
  | .reach n a =>
    .next (match s.group? n with
      | some g =>
        if (s.breaks.contains (some n, a) || s.breaks.contains (none, a)) && s.standsAt n a then s.modCore g.core fun c => { c with halted := true } else s
      | none => s)

/-- CONTINUE (R262): the core's strands, sequencer, gang and cycle counter go on. -/
def execFyvContinue (core : Nat) (s : State) : Res := .next (if coreBuilt core then s.modCore core fun c => { c with halted := false } else s)

/-- FYV_PREEMPT (R323): the value 2^63 + G is written into preempt of a strand context of a halted core. -/
def execFyvPreempt (sid : Nat) (grace : BitVec 32) (s : State) : Res :=
  .next (if (s.core (coreOf sid)).halted && (s.strand sid).phase == .running then
      s.setPreempt sid (BitVec.ofNat 64 (2 ^ 63 + grace.toNat)) else s)

/-- What is printed of a word with poison: its value, and 2^64 more where it is poisoned. -/
def PWord.shown (w : PWord) : Nat := w.w.toNat + if w.p then 2 ^ 64 else 0

/-- Bits of a register of a file: 0 vector, 1 mask, 2 scale. -/
def regBitsOf (v : Sparse VReg) (m : Sparse Nat) (sc : Sparse VReg) (r : Nat × Nat) : Nat :=
  match r.1 with
  | 0 => (Sparse.get {} v r.2).bits
  | 1 => Sparse.get 0 m r.2
  | _ => (Sparse.get {} sc r.2).bits

/-- A convoy as `convoy` prints it, of a strand whose registers it sees as `t` has them: address, strips issued, slot, words; for each destination its file and
number, the physical registers that hold its old and its new contents, the old contents, and the elements written, in groups of one width: width, count, and each
element with its value. Which physical registers those are the spec does not say: their numbers are free values (entry 41). -/
def Conv.shown (k : Conv) (sid : Nat) (t : Strand) (b : Blk) : List Nat :=
  let now := k.soFar (t.env b k)
  let file := fun (r : Nat × Nat) => 64 * r.1 + r.2
  [k.addr.toNat, k.issued, k.slot] ++ k.words ++
    (List.range k.words.length).flatMap fun i =>
      (memberOf (nth 0 k.words i)).writes.flatMap fun r =>
        let new := regBitsOf t.v t.m t.sc r
        let mine := now.filter fun x => x.slot == i && (x.file, x.reg) == r
        [r.1, r.2, (Config.physReg sid (file r) (2 * k.num)).toNat, (Config.physReg sid (file r) (2 * k.num + 1)).toNat,
          regBitsOf k.hist.v k.hist.m k.hist.sc r, mine.length] ++
          mine.flatMap fun x => [x.w, x.es.length] ++ x.es.flatMap fun e => [e, field new (e * x.w) x.w]

/-- The strand as each of its convoys under way has it in progress, oldest first. -/
def Strand.eachConv (t : Strand) : List Strand := (List.range t.past.length).map t.focus ++ [t]

/-- The convoys of a strand that have issued and not retired, oldest first (R324). -/
def Strand.convoyView (t : Strand) (sid : Nat) : List Nat :=
  t.eachConv.flatMap fun u => match u.conv, u.blk with
    | some k, some b => k.shown sid u b
    | _, _ => []

/-- The bits of translated parts as a core reads them now, changing nothing: from its line cache where that holds the line. -/
def State.peek (s : State) (k : Nat) (ps : List Piece) : Nat :=
  (linePieces ps).foldl (fun v p =>
    let b := if p.tr.cached then field (s.cacheLine k (p.tr.fa / 512)).data (p.tr.fa % 512) p.len else s.home p.tr.fa p.len
    v + b * 2 ^ p.off) 0

/-- n bits at an address of a strand's address space, at supervisor level, none where they do not translate. -/
def State.peekAt (s : State) (sid a n : Nat) : Option Nat :=
  match s.xlateParts { s.agentOf sid with sup := true } {} (parts a n) with
  | (_, l) => if l.all (fun p => match p.2.2.2 with
      | .ok _ => true
      | .error _ => false) then some (s.peek (coreOf sid) (okParts l)) else none

/-- A save area as R318 lays it out, by the vtype of its header: words 0 to 175, the mask and the scale registers, then each vector register its mask names
with its number. -/
def State.areaView (s : State) (sid a : Nat) : List Nat :=
  match s.peekAt sid a 11264 with
  | none => []
  | some h =>
    let g := field h (2 * 64 + 5) 6
    let n2 := field h (2 * 64 + 2) 3
    if 6 < n2 || 32 < g then (List.range 176).map fun i => field h (64 * i) 64 else
    let mb := maskBits g n2
    let sb := scaleBits g n2
    let ms := (s.peekAt sid (a + 11264) (8 * (mb + sb))).getD 0
    (List.range 176).map (fun i => field h (64 * i) 64) ++ (List.range 8).map (fun i => field ms (i * mb) mb) ++
      (List.range 8).map (fun i => field ms (8 * mb + i * sb) sb) ++
      (setBits (field h 0 64) (2 ^ n2)).flatMap fun i => [i, (s.peekAt sid (a + saveV g n2 + i * regBits g n2) (regBits g n2)).getD 0]

/-- The state of a strand context (R324): pc, parked or held, vpc, which is the next convoy's where the one before it has issued, the vector CSRs, those that
retirement changes as the last convoy retired left them, the trap state. -/
def Strand.strandView (t : Strand) (sid : Nat) : List Nat :=
  let r := t.lastRetired
  [ctxOf sid, t.pc.toNat, if t.hold.isSome then 2 else if t.parked then 1 else 0, t.forward.vpc.toNat, t.vl, t.vtype, r.estart, r.vdirty.toNat, r.vstate, t.lpart,
    t.share, t.tpc.toNat, t.tcause.toNat, t.taddr.toNat, t.tinfo.toNat, if t.topen then 1 else 0, t.tvec.toNat]

/-- The strands of a group with the contexts that hold them: those of a group that is off every core, and a matrix control strand parked on a Marl core, as they
are saved, with the cycle of the stop and the geometry of its parked matrix state (R76, R77, R325). -/
def State.strandsOf (s : State) (g : Group) : State × List Nat :=
  let k := if g.phase == .waiting then g.migSrc else g.core
  let stop := BitVec.ofNat 64 (g.migCycle + g.migCost) - BitVec.ofNat 64 (s.coreCycle k)
  let off := if g.phase == .waiting then stop else 0
  let put := fun (s : State) (sid : Nat) (t : Strand) => s.setStrand sid { t with rebase := t.rebase + off }
  let s1 := if g.phase == .waiting then
      ((List.range g.saved.length).foldl (fun s i => put s (sidOf k i) (nth {} g.saved i)) s).modMx k fun _ => g.savedMx.getD {} else s
  let s2 := match g.savedMcs with
    | some t => put s1 (mcsOf k) t
    | none => s1
  (s2, (if g.phase == .waiting then (List.range g.saved.length).map (sidOf k) else g.all) ++ if g.savedMcs.isSome then [mcsOf k] else [])

/-- FYV_VIEW (R324, R325): `strand K`, `convoy K`, `area a`, and `csr NAME` for every strand of a group. -/
def execFyvView (v : FyvView) (s : State) : Res :=
  match v with
  | .strand sid => .next (s.view "strand" ((s.strand sid).strandView sid))
  | .convoy sid => .next (s.view "convoy" ((s.strand sid).convoyView sid))
  | .area sid a => .next (s.view "area" (s.areaView sid a.toNat))
  | .csr n c =>
    .next (match s.group? n with
      | some g =>
        let q := s.strandsOf g
        s.view "csr" (c.toNat :: q.2.flatMap fun sid => [q.1.csrGet sid 0x024 |>.w.toNat, (q.1.csrGet sid c.toNat).shown])
      | none => s)

/-- The physical bit address of a flat one (R186): that of host and CXL memory within its own space. -/
def physOf (fa : Nat) : Nat := fa % 2 ^ 64

/-- What xlate gives fyv: the flat address of a virtual one on a strand's core, at supervisor level. -/
def State.debugAddr (s : State) (sid : Nat) (a : Nat) : Option Nat :=
  match (s.xlate { s.agentOf sid with sup := true } { peer := true, far := true } a).2 with
  | .ok t => some t.fa
  | .error _ => none

/-- The log of the memory unit that a flat address lies in: a scratchpad's or a K-channel's (R292). -/
def State.rredLogAt (s : State) (fa : Nat) : List RredRec :=
  let c := s.core (coreOfPhys fa)
  if spaceOfPhys fa = 0 then c.logK else if spaceOfPhys fa = 1 then c.logS else []

/-- RREDLOG (R292): the logged packets that updated bits of an area, of each memory unit the area lies in, oldest first: cycle, sender, vl, mask, payload and
scale entries as carried, and the destination words after. An area is looked up page by page, since its pages and stripes may lie anywhere (R187). -/
def execRredlog (a : RredArea) (s : State) : Res :=
  let at' := (parts a.addr.toNat a.bits).filterMap fun p => (s.debugAddr a.sid p.1).map fun fa => (fa, p.2.2)
  let units := (at'.map fun x => unitOf x.1).eraseDups
  .next (s.view "rredlog" (units.flatMap fun u =>
    let mine := at'.filter fun x => unitOf x.1 == u
    (((mine.head?).map fun x => s.rredLogAt x.1).getD []).flatMap fun r =>
      if r.dst.any fun d => mine.any fun x => d < x.1 + x.2 && x.1 < d + 32 then
        [r.cycle, s.coreId r.sender, r.vl, r.mask] ++ r.payload ++ r.scales ++ r.after
      else []))

/-- What `ctx` names a completed destination of a copy by (R293): the coreid of the core it lies on, in the peer package where it lies in a peer's memory, or 2^16
for host and CXL memory and 2^16 + 1 where its address no longer translates, which name no core (entry 41). -/
def State.deliveredTo (s : State) (o : CopyOp) (d : Dest) : Nat :=
  match (s.xlate { core := o.core.getD 0, onCore := false, asid := o.asid, sup := true } { peer := true, far := true } d.addr.toNat).2 with
  | .ok t =>
    let k := coreOfPhys t.fa
    if 2 ^ 64 ≤ t.fa then 2 ^ 16 else if spaceOfPhys t.fa = 2 then k % 64 + dieOf k * 2 ^ 6 + peerOf t.fa * 2 ^ 10 else s.coreId k
  | .error _ => 2 ^ 16 + 1

/-- CTX (R196, R293): the copy context of a number of an address space: the physical one, its state, counts and error register, and a line for each operation
that has not ended, with its issuing core and the destinations delivered. A context is idle until its first operation (DEDUCED, entry 29). -/
def execCtx (asid k : Nat) (s : State) : Res :=
  match s.physCtx asid k with
  | none => .next (s.view "ctx" [])
  | some pc =>
    let c := s.copyCtx pc
    .next (s.view "ctx" ([pc, if c.stopped then 2 else if c.issue = 0 then 0 else 1, c.issue, c.timeline, c.err] ++
      c.ops.flatMap fun o => [o.num, (o.core.map s.coreId).getD 0, (o.dests.filter (·.done)).length] ++
        (o.dests.filter (·.done)).map (s.deliveredTo o)))

/-- A convoy's VAMO has reserved register reg: its elements valid (R219). Those that are not active are so from issue, once the mask is known. -/
def Conv.reserves (k : Conv) (c : Env) (reg : Nat) : Option (List Nat) :=
  (List.range k.words.length).findSome? fun i => match memberOf (nth 0 k.words i) with
    | .vm op f =>
      if op < 0x342 || 0x349 < op || f.vd.toNat != reg then none
      else if k.slot < i || (k.slot == i && k.pend == .none) then
        some (if f.me == 1 && ((k.words.take i).drop k.slot).any (fun w => (memberOf w).writes.contains (1, f.mask.toNat)) then []
          else (List.range c.vl).filter fun e => !c.active f.mask f.me e)
      else some k.valid
    | _ => none

/-- The elements valid of a register that a VAMO of a convoy under way has reserved (R219), none where no VAMO has: one from before a SETVL boundary holds another. -/
def Strand.vamoValid (t : Strand) (reg : Nat) : Option (List Nat) :=
  (List.range (t.past.length + 1)).reverse.findSome? fun i =>
    let u := t.focus i
    match u.conv, u.blk with
    | some k, some b => if (t.past.drop i).any fun p => p.taken.any QItem.isDead then none else k.reserves (u.env b k) reg
    | _, _ => none

/-- The rounds of the VAMOs in progress (R218, R290): of each its number, the elements left, and those whose link reads have been sent, each with whether the reply is
in and whether every tag of it stands. -/
def State.vamoRound (s : State) (sid : Nat) : List Nat :=
  (s.strand sid).convs.flatMap fun c => match c.pend with
    | .vamo r left sent came =>
      let ps := Sparse.get [] c.probes c.slot
      [r, left.length, sent.length] ++ left ++ sent.flatMap fun e =>
        [e, if hasNat came e then 1 else 0, if ps.any (fun p => p.id == e && p.lines.all fun l => s.tagged amoTag l sid) then 1 else 0]
    | _ => []

/-- VAMO_VIEW (R290): `vamo`, the round of a strand's VAMO; `tags`, the link tags on a line, broken ones among them: holder's coreid, context, what the tag serves,
and 1 where it is unbroken; `v`, a register with its poison, 1 while a VAMO has reserved it, and the elements valid. -/
def execVamoView (v : VamoView) (s : State) : Res :=
  match v with
  | .vamo sid => .next (s.view "vamo" (s.vamoRound sid))
  | .tags sid a =>
    .next (match s.debugAddr sid a.toNat with
      | some fa =>
        let on := fun (l : List (Nat × Nat × Nat)) (whole : Nat) => (l.filter fun t => t.1 == fa / 512).flatMap fun t =>
          [s.coreId (coreOf t.2.1), ctxOf t.2.1, t.2.2, whole]
        s.view "tags" (physOf fa / 512 * 512 :: (on s.tags 1 ++ on s.broken 0))
      | none => s)
  | .v sid reg =>
    let r := Sparse.get {} (s.strand sid).v reg
    .next (s.view "v" ([reg, r.bits, r.pois] ++ (match (s.strand sid).vamoValid reg with
      | some es => 1 :: es
      | none => 0 :: List.range (s.strand sid).vl)))

/-- Length of the migration record of a source core (R74, R75), from its header and, strand by strand, the vtype and vdirty of its areas. -/
def State.recordLen (s : State) (src : Nat) : Nat :=
  let at' := fun (o n : Nat) => s.home (migAddrOf (recordOffset src + o)) n
  let h := at' 0 512
  let ts := (List.range (field h 8 3 + 1)).map fun i => (at' (512 + 8192 * i + 64 * 34) 64, at' (512 + 8192 * i + 64 * 36) 64)
  let g := fun (v : Nat) => field v 5 6
  let n2 := fun (v : Nat) => field v 2 3
  (layAreas ([(0, 512), (0, 8192 * ts.length), (0, (ts.map fun t => 8 * (g t.1 * 40960 / 2 ^ n2 t.1)).sum),
      (0, (ts.map fun t => (setBits t.2 (2 ^ n2 t.1)).length * regBits (g t.1) (n2 t.1)).sum), (0, field h 448 10 * 32768)] ++
    if bitAt h 20 then [(0, (matrixArea {} {}).2)] else [])).2

/-- MREC (R325): the words of a group's migration record. -/
def execMrec (group : Nat) (s : State) : Res :=
  match s.group? group with
  | none => .next s
  | some g =>
    if g.migCost = 0 then .next s
    else
      .next (s.view "mrec" ((List.range (s.recordLen g.migSrc / 64)).map fun i =>
        s.home (migAddrOf (recordOffset g.migSrc + 64 * i)) 64))

/-- XLATE (R325): the physical bit address (R186) of a virtual one on a strand's core, or nothing where it does not translate. -/
def execXlate (sid : Nat) (addr : Word) (s : State) : Res :=
  .next (s.view "xlate" (addr.toNat :: ((s.debugAddr sid addr.toNat).map physOf).toList))

/-- The flat byte address of byte k of the window over a gang's argument range (R289): device bit D + 8k, D being the base of the range that holds the gang's
argument. None where the n bytes leave the range or do not translate. -/
def State.argByte (s : State) (gang k n : Nat) : Option Nat :=
  match s.gang? gang with
  | none => none
  | some q =>
    let ag : Agent := { core := q.origin, onCore := false, asid := q.asid, sup := true }
    match (s.findRange ag q.arg.toNat).2 with
    | none => none
    | some e =>
      if e.len < 8 * (k + n) then none
      else
        match (s.xlate ag { far := true } (e.base + 8 * k)).2 with
        | .ok t => if t.fa % 8 = 0 then some (t.fa / 8) else none
        | .error _ => none

/-- HOSTRD (R289): one host read of n bytes at byte k of the window over a gang's argument range. -/
def execHostrd (gang k n : Nat) (s : State) : Res :=
  match s.argByte gang k n with
  | some b => execHostRead b n s
  | none => .next s

/-- HOSTWR (R289). -/
def execHostwr (gang k n : Nat) (value : BitVec 512) (s : State) : Res :=
  match s.argByte gang k n with
  | some b => execHostWrite b n value s
  | none => .next s

end Sys2Proof.Machine
end

