-- ==== Sys2Proof/Machine/Gang.lean ====
section
/-!
DEFINITION. The matrix engine at work (R231 to R241, R245, R249 to R252, R260, R263): operands in the macros, rows going through the gang plane by plane, the
bound monitor, loads of B, clears and stores. No event of a core happens while the core is halted or its die stopped (R262, R351).
-/

namespace Sys2Proof.Machine

/-- Element (k, n) of B as bf16 bits. -/
def Matrix.b (m : Matrix) (k n : Nat) : Nat := field m.bmat (16 * (k * m.N + n)) 16

/-- Segments of K (R230). -/
def Matrix.segs (m : Matrix) : Nat := m.K / 32

/-- Stages of K. -/
def Matrix.stages (m : Matrix) : Nat := m.K / 128

/-- The elements of segment i of column n. -/
def Matrix.bSeg (m : Matrix) (i n : Nat) : List Nat := (List.range 32).map fun j => m.b (32 * i + j) n

/-- A segment of B that holds a NaN or an infinity (R233). -/
def nanSeg (xs : List Nat) : Bool := xs.any fun x => field x 7 8 == 255

/-- Magnitudes b of a column segment (R233). -/
def bMags (xs : List Nat) : List Nat := let f := maxExp xs; xs.map fun x => alignMag x f 3

/-- ψ of a column segment (R233): exact. -/
def psi (xs : List Nat) : Ex := { n := (bMags xs).sum, e := (maxExp xs : Int) - 137 }

/-- A sum of exact values. -/
def exSum (xs : List Ex) : Ex := xs.foldl (fun a x => a.add x false) { n := 0 }

/-- Ψ(j, n), as f32 bits (R233): 0 beyond the last segment. -/
def Matrix.bigPsi (m : Matrix) (j n : Nat) : Nat :=
  (f32.round 2 (exSum (((List.range m.segs).filter fun i => j ≤ i).map fun i => psi (m.bSeg i n)))).1

/-- Byte i of a slot header (R232). -/
def Slot.hdr (q : Slot) (i : Nat) : Nat := field q.bits (17408 + 8 * i) 8

/-- Super-scale j of a scaled slot. -/
def Slot.sup (q : Slot) (j : Nat) : Nat := field q.bits (17536 + 32 * j) 32

/-- Magnitude and sign of element k. -/
def Slot.mag (q : Slot) (k : Nat) : Nat := field q.bits (17 * k) 16
/-- Sign of element k. -/
def Slot.neg (q : Slot) (k : Nat) : Bool := bitAt q.bits (17 * k + 16)

/-- α of segment i (R232). -/
def Slot.alpha (q : Slot) (i : Nat) : Int := if q.scaled then (q.hdr (i / 2) : Int) - 127 else (q.hdr i : Int) - 126 - q.planes

/-- S of segment i, as f32 bits. -/
def Slot.scale (q : Slot) (i : Nat) : Nat := if q.scaled then q.sup (i / 8) else 0x3F800000

/-- Segment i of A is marked NaN (R232). -/
def Slot.nan (q : Slot) (i : Nat) : Bool := if q.scaled then q.hdr (i / 2) == 255 || f32.isNan (q.scale i) else q.hdr i == 255

/-- D of segment i for output n, from the planes above the p still to come (R235, R237). -/
def dotSeg (m : Matrix) (q : Slot) (i n p : Nat) : Int :=
  let xs := m.bSeg i n
  (((List.range 32).zip (xs.zip (bMags xs))).map fun j =>
    let k := 32 * i + j.1
    let v : Int := (q.mag k / 2 ^ p * 2 ^ p * j.2.2 : Nat)
    if q.neg k != bitAt j.2.1 15 then -v else v).foldl (· + ·) 0

/-- D × 2^(α + f − 137), exact. -/
def Slot.dTerm (m : Matrix) (q : Slot) (i n p : Nat) : Ex :=
  let x := Ex.ofInt (dotSeg m q i n p)
  x.scale (q.alpha i + maxExp (m.bSeg i n) - 137)

/-- The term of one segment, rounded (R235). -/
def segTerm (m : Matrix) (q : Slot) (i n : Nat) : Nat :=
  if q.nan i || nanSeg (m.bSeg i n) then f32.qnan
  else
    let d := q.dTerm m i n 0
    if d.n = 0 then 0
    else
      match f32.val (q.scale i) with
      | .fin s => if s.n = 0 then 0 else (f32.round 0 (d.mul s)).1
      | .inf s => f32.signIf (d.neg != s) + f32.inf
      | .nan _ => f32.qnan

/-- An output after the four segments of a stage (R235). -/
def stageSum (m : Matrix) (q : Slot) (stage n acc : Nat) : Nat :=
  (List.range 4).foldl (fun a i => (f32.add 0 a (segTerm m q (4 * stage + i) n)).1) acc

/-- The product of two values of the bound: a zero factor makes +0, beside an infinity too, as R235 has D = 0 give +0 (DEDUCED, entry 28). -/
def FVal.times (a b : FVal) : FVal :=
  match a, b with
  | .nan s, _ => .nan s
  | _, .nan s => .nan s
  | .fin x, .fin y => .fin (x.mul y)
  | .fin x, .inf s => if x.n = 0 then .fin { n := 0 } else .inf (x.neg != s)
  | .inf s, .fin y => if y.n = 0 then .fin { n := 0 } else .inf (s != y.neg)
  | .inf s, .inf r => .inf (s != r)

/-- The magnitude of a value. -/
def FVal.abs (v : FVal) : FVal :=
  match v with
  | .fin x => .fin x.abs
  | .inf _ => .inf false
  | .nan s => .nan s

/-- A value rounded towards +∞, as f32 bits (R237). -/
def FVal.up (v : FVal) : Nat :=
  match v with
  | .fin x => (f32.round 2 x).1
  | .inf s => f32.signIf s + f32.inf
  | .nan _ => f32.qnan

/-- The larger of two values; a NaN where one is. -/
def FVal.larger (a b : FVal) : FVal :=
  match a, b with
  | .nan s, _ => .nan s
  | _, .nan s => .nan s
  | .fin x, .fin y => .fin (if x.lt y then y else x)
  | .inf s, v => if s then v else a
  | _, .inf s => if s then a else b

/-- γ of segment j (R237). -/
def Slot.gamma (q : Slot) (j : Nat) : FVal :=
  if q.scaled then
    f32.val ((FVal.fin { n := 1, e := (q.planes : Int) - 1 + ((q.hdr (j / 2) : Int) - 127) }).times (f32.val (q.scale j)).abs).up
  else if q.hdr j = 0 then .fin { n := 0 }
  else .fin { n := 1, e := (q.hdr j : Int) - 126 }

/-- G(j): the largest γ of segments j and above (R237). -/
def bigG (m : Matrix) (q : Slot) (j : Nat) : FVal :=
  ((List.range m.segs).filter fun i => j ≤ i).foldl (fun g i => g.larger (q.gamma i)) (.fin { n := 0 })

/-- A sum of values. -/
def FVal.total (xs : List FVal) : FVal := (xs.foldl Acc.add ({} : Acc)).val

/-- ψ of a column segment (R233): a NaN where the segment is marked so (DEDUCED, entry 28). -/
def psiVal (xs : List Nat) : FVal := if nanSeg xs then .nan false else .fin (psi xs)

/-- Ψ(j, n) (R233): a NaN where a segment is marked so. -/
def Matrix.bigPsiVal (m : Matrix) (j n : Nat) : FVal :=
  if (List.range m.segs).any fun i => j ≤ i && nanSeg (m.bSeg i n) then .nan false else f32.val (m.bigPsi j n)

/-- The term of one segment in S (R237), exact: a NaN where the segment is marked so, as in R235 (DEDUCED, entry 28). -/
def boundTerm (m : Matrix) (q : Slot) (p n i : Nat) : FVal :=
  if q.nan i || nanSeg (m.bSeg i n) then .nan false else (FVal.fin (q.dTerm m i n p)).times (f32.val (q.scale i))

/-- S of R237 for output n, exact. -/
def boundS (m : Matrix) (q : Slot) (stage n p acc : Nat) : FVal :=
  FVal.total (f32.val acc :: (List.range 4).map fun i => boundTerm m q p n (4 * stage + i))

/-- The term of one segment in R (R237): nothing for a bf16 segment of zeros. -/
def restTerm (m : Matrix) (q : Slot) (p n i : Nat) : FVal :=
  if !q.scaled && q.hdr i = 0 then .fin { n := 0 }
  else ((FVal.fin ((Ex.ofInt ((2 ^ p - 1 : Nat) : Int)).scale (q.alpha i))).times (f32.val (q.scale i)).abs).times (psiVal (m.bSeg i n))

/-- R of R237, as f32 bits: +∞ where it overflows. -/
def boundR (m : Matrix) (q : Slot) (stage n p : Nat) : Nat :=
  (FVal.total (((bigG m q (4 * stage + 4)).times (m.bigPsiVal (4 * stage + 4) n)) ::
    (List.range 4).map fun i => restTerm m q p n (4 * stage + i))).up

/-- A finite f32 as an exact value. -/
def finite? (b : Nat) : Option Ex :=
  match f32.val b with
  | .fin x => some x
  | _ => none

/-- E of R237, exact as rounded; none where it overflows. -/
def boundE (m : Matrix) (stage : Nat) (s r : Ex) : Option Ex :=
  let k := Ex.ofInt (2 * (m.segs - 4 * stage : Nat) : Int)
  let x := ((s.abs.add r false).scale (-23)).add { n := 1, e := -150 } false
  finite? (f32.round 2 (k.mul x)).1

/-- The verdict on an output (R238): some false settled positive, some true settled negative or below, none not settled. `topk` gives T. -/
def verdict (s r e : Ex) (topk : Option Nat) : Option Bool :=
  let lo := (f32.round 3 ((s.add r.opp false).add e.opp false)).1
  let hi := (f32.round 2 ((s.add r false).add e false)).1
  match topk with
  | some t => if f32.lt hi t then some true else none
  | none => if f32.lt 0 lo then some false else if f32.lt hi 0 then some true else none

/-- An output that no input NaN or poison blocks (R238). -/
def maySettle (m : Matrix) (q : Slot) (n acc : Nat) (p : Bool) : Bool :=
  !p && !f32.isNan acc && (List.range m.segs).all fun i => !q.nan i && !nanSeg (m.bSeg i n)

/-- The poison of outputs (R235): of the row, of A, of column n of B. -/
def outPoison (m : Matrix) (q : Slot) (acc : AccRow) (settled : Nat) : Nat :=
  let a := q.pois % 2 ^ m.K != 0
  (List.range m.N).foldl (fun b n =>
    if !bitAt settled n && (a || (List.range m.K).any fun k => bitAt m.bpois (k * m.N + n)) then b ||| 2 ^ n else b) acc.pois

/-- Operation n of a core. -/
def Matrix.op (m : Matrix) (n : Nat) : Option MxOp := m.ops.find? fun o => o.num == n && !o.done

/-- Replace an operation. -/
def Matrix.setOp (m : Matrix) (o : MxOp) : Matrix := { m with ops := m.ops.map fun x => if x.num = o.num then o else x }

/-- The operations not complete that were issued before one. -/
def Matrix.before (m : Matrix) (n : Nat) : List MxOp := m.open.filter fun o => o.num < n

/-- The rows before operation n have left a stage (R231). -/
def Matrix.stageFree (m : Matrix) (n stage : Nat) : Bool :=
  (m.before n).all fun o => !o.isRow || (o.entered && (o.left || stage < o.stage))

/-- A row may enter stage 0 (R231, R245): earlier rows have left it, earlier MLDBs have completed, and nothing earlier writes or stores its row. -/
def Matrix.mayEnter (m : Matrix) (n acc : Nat) : Bool :=
  ((m.before n).all fun o => !o.isLoad && !o.writesRow acc && !o.storesRow acc) && m.stageFree n 0

/-- A row as it enters the gang (R250): its accumulator row's values; a vNaN there counts as settled. -/
def Matrix.enter (m : Matrix) (o : MxOp) (acc slot : Nat) : MxOp :=
  let r := m.row acc
  let settled := (List.range m.N).foldl (fun b c => if isVNan (r.get c) then b + 2 ^ c else b) 0
  { o with entered := true, vals := r.bits, settled := settled, pois := outPoison m (m.slot slot) r settled }

/-- A row leaves the gang: its slot is empty (R228, R231). -/
def Matrix.leave (m : Matrix) (o : MxOp) (slot : Nat) : Matrix :=
  { m.setOp { o with left := true } with slots := Sparse.put m.slots slot {} }

/-- Every output is settled. -/
def allSettled (m : Matrix) (settled : Nat) : Bool := settled % 2 ^ m.N == 2 ^ m.N - 1

/-- A value as the trace holds it (R263): the mantissa is exact, of any length. -/
def FVal.traced (v : FVal) : TraceNum :=
  match v with
  | .fin x => .fin (if x.neg then -(x.n : Int) else x.n) x.e
  | .inf n => .inf n
  | .nan _ => .nan

/-- What the monitor decides for an output not settled (R237, R238): nothing where S, R or E is infinite or a NaN. -/
def monitorVerdict (m : Matrix) (q : Slot) (o : MxOp) (topk : Option Nat) (n p acc : Nat) (poisoned : Bool) : Option Bool :=
  match boundS m q o.stage n p acc, f32.val (boundR m q o.stage n p) with
  | .fin s, .fin r =>
    match boundE m o.stage s r with
    | some e => if maySettle m q n acc poisoned then verdict s r e topk else none
    | none => none
  | _, _ => none

/-- The monitor at a check point (R237 to R239): new values and settled outputs, and its trace entry (R263). -/
def monitor (m : Matrix) (q : Slot) (o : MxOp) (topk : Option Nat) : MxOp × TraceEnt :=
  let p := q.planes - o.plane
  let r := (List.range m.N).foldl (fun (a : MxOp × List (Option (TraceNum × Nat) × Nat)) n =>
    let acc := field a.1.vals (32 * n) 32
    if bitAt a.1.settled n then (a.1, a.2 ++ [(none, 0)])
    else
      let bounds := ((boundS m q o.stage n p acc).traced, boundR m q o.stage n p)
      match monitorVerdict m q o topk n p acc (bitAt a.1.pois n) with
      | none => (a.1, a.2 ++ [(some bounds, 0)])
      | some b =>
        let w := if p = 0 then vNan b 0 (4 * o.stage + 4) else vNan b o.plane (4 * o.stage)
        ({ a.1 with vals := putField a.1.vals (32 * n) 32 w, settled := a.1.settled ||| 2 ^ n }, a.2 ++ [(some bounds, w)])) (o, [])
  (r.1, { stage := o.stage, p := p, thr := topk.getD 0, cols := r.2 })

/-- CHECK_POINT (R231, R237): a row takes one more plane of its stage, entering the stage once the rows before it have left that, and the gang first; an MVRD's monitor tests its outputs, and a
row with every output settled leaves. After the last plane of the last stage every output completes (R239). -/
def execCheckPoint (core n : Nat) (s : State) : Res :=
  let m := (s.core core).mx
  match m.op n with
  | none => .next s
  | some o =>
    match o.kind with
    | .row acc slot pred =>
      let q := m.slot slot
      if s.frozen core || o.left || q.planes ≤ o.plane || !(if o.entered then m.stageFree n o.stage else m.mayEnter n acc) then .next s
      else
        let fresh := !o.entered
        let o := if fresh then m.enter o acc slot else o
        let o := { o with plane := o.plane + 1 }
        .next (s.modMx core fun m =>
          match pred with
          | none => m.setOp o
          | some topk =>
            let old := if fresh then [] else Sparse.get [] m.trace acc
            if o.plane = q.planes && o.stage + 1 = m.stages then { m.setOp o with trace := Sparse.put m.trace acc old }
            else
              let r := monitor m q o (if topk then some (m.thr acc) else none)
              let m1 := { m with trace := Sparse.put m.trace acc (old ++ [r.2]) }
              if allSettled m r.1.settled then m1.leave r.1 slot else m1.setOp r.1)
    | _ => .next s

/-- ROW_LEAVES_STAGE (R231): a row whose planes of a stage are done leaves that stage, whether or not the next one is free: the four segments of the stage enter
the sums; after the last stage the row leaves the gang. -/
def execRowLeavesStage (core n : Nat) (s : State) : Res :=
  let m := (s.core core).mx
  match m.op n with
  | none => .next s
  | some o =>
    match o.kind with
    | .row _ slot _ =>
      let q := m.slot slot
      let next := o.stage + 1
      if s.frozen core || !o.entered || o.left || o.plane < q.planes then .next s
      else
        let vals := (List.range m.N).foldl (fun v c =>
          if bitAt o.settled c then v else putField v (32 * c) 32 (stageSum m q o.stage c (field v (32 * c) 32))) o.vals
        let o := { o with vals := vals, stage := next, plane := 0 }
        .next (s.modMx core fun m => if next < m.stages then m.setOp o else m.leave o slot)
    | _ => .next s

/-- ACCUMULATOR_ROW_WRITE (R231, R250): the row's accumulator is written, and the operation is complete. -/
def execAccumulatorRowWrite (core n : Nat) (s : State) : Res :=
  let m := (s.core core).mx
  match m.op n with
  | none => .next s
  | some o =>
    match o.kind with
    | .row acc _ _ =>
      if s.frozen core || !o.left then .next s
      else .next (s.modMx core fun m => ({ m with acc := Sparse.put m.acc acc { bits := o.vals, pois := o.pois } }).complete n)
    | _ => .next s

/-- Element n of a source row, as bf16 bits, with its poison, from the row's bits and byte poison (R247). -/
def sourceElem (fmt w : Nat) (bits pois n : Nat) : Nat × Bool :=
  let bad := fun (o len : Nat) => field pois (o / 8) ((o + len - 1) / 8 - o / 8 + 1) != 0
  if fmt = 0 then (field bits (16 * n) 16, bad (16 * n) 16)
  else
    let j := n / 256
    let rec0 := j * (256 * w + 64)
    let e := field bits (rec0 + n % 256 * w) w
    let q : FVal := if fmt = 2 then bf16.val (codeBf16 e) else .fin (Ex.ofInt (sextNat w e))
    let tr := rec0 + 256 * w
    let code := field bits (tr + 8 * (n % 256 / 64)) 8
    let sup := field bits (tr + 32) 32
    ((roundScaled bf16 0 (scaled q code sup)).1, bad (rec0 + n % 256 * w) w || bad (tr + 8 * (n % 256 / 64)) 8 || bad (tr + 32) 32)

/-- Bits of a source row, its trailers among them. -/
def sourceLen (fmt w N : Nat) : Nat := if fmt = 0 then 16 * N else ceilDiv N 256 * (256 * w + 64)

/-- Read source row r: its runs, at their offsets in the row (R247). -/
def State.readSource (s : State) (ag : Agent) (cls fmt w N r : Nat) (pages : List (Nat × Nat)) : State × Nat × Nat :=
  (rowRuns fmt w N r).foldl (fun (x : State × Nat × Nat) run =>
    let off := (run.1 + 2 ^ 64 - r) % 2 ^ 64
    let y := x.1.readArea ag cls (pagePieces pages run.1 run.2.2)
    (y.1, x.2.1 ||| y.2.1 * 2 ^ off, x.2.2 ||| y.2.2 * 2 ^ (off / 8))) (s, 0, 0)

/-- The macro image of some rows: bf16 bits and poison, row k at k × N. -/
def State.readRows (s : State) (ag : Agent) (cls fmt w N : Nat) (pages : List (Nat × Nat)) : List (Option Nat) → State × List (Nat × Nat)
  | [] => (s, [])
  | none :: t => let q := State.readRows s ag cls fmt w N pages t; (q.1, (0, 0) :: q.2)
  | some r :: t =>
    let x := s.readSource ag cls fmt w N r pages
    let row := (List.range N).foldl (fun (b : Nat × Nat) n =>
      let e := sourceElem fmt w x.2.1 x.2.2 n
      (b.1 + e.1 * 2 ^ (16 * n), b.2 + if e.2 then 2 ^ n else 0)) (0, 0)
    let q := State.readRows x.1 ag cls fmt w N pages t
    (q.1, row :: q.2)

/-- MLDB_COMPLETE (R245, R247 to R249): once earlier rows have left the gang, B is read and the macros hold it; macro rows beyond the list are zero. -/
def execMldbComplete (core n : Nat) (s : State) : Res :=
  let m := (s.core core).mx
  match m.op n with
  | none => .next s
  | some o =>
    match o.kind with
    | .mldb rows fmt w cls pages =>
      if s.frozen core || (m.before n).any (fun x => (x.isRow && !x.left) || x.cls?.isSome) then .next s
      else
        let r := s.readRows (s.agentOf (mcsOf core)) cls fmt w m.N pages rows
        let img := ((List.range r.2.length).zip r.2).foldl (fun (b : Nat × Nat) x =>
          (b.1 + x.2.1 * 2 ^ (16 * m.N * x.1), b.2 + x.2.2 * 2 ^ (m.N * x.1))) (0, 0)
        .next (r.1.modMx core fun m => ({ m with bmat := img.1, bpois := img.2 }).complete n)
    | _ => .next s

/-- MCLR_COMPLETE (R245, R251): after every earlier operation on its rows, they are +0, and thresholds −∞ after every earlier MVRD on theirs. -/
def execMclrComplete (core n : Nat) (s : State) : Res :=
  let m := (s.core core).mx
  match m.op n with
  | none => .next s
  | some o =>
    match o.kind with
    | .mclr row count flags =>
      let js := (List.range count).map (· + row)
      if s.frozen core || (m.before n).any (fun x => js.any fun j => x.writesRow j || x.storesRow j || x.verdictOn j) then .next s
      else
        .next (s.modMx core fun m =>
          let acc := if bitAt flags 0 then js.foldl (fun a j => Sparse.put a j {}) m.acc else m.acc
          let th := if bitAt flags 1 then js.foldl (fun a j => Sparse.put a j 0xFF800000) m.th else m.th
          ({ m with acc := acc, th := th }).complete n)
    | _ => .next s

/-- What MSTC writes of an accumulator row (R252): bits, and poison by byte. -/
def storedRow (r : AccRow) (bf : Bool) (N : Nat) : Nat × Nat :=
  let w := if bf then 16 else 32
  (List.range N).foldl (fun (b : Nat × Nat) c =>
    let x := if bf then (f32.convert bf16 0 (r.get c)).1 else r.get c
    (b.1 + x * 2 ^ (w * c), b.2 + if r.poi c then ones (w / 8 * c) (w / 8) else 0)) (0, 0)

/-- What stored rows cover with unpoisoned data, and the lines that poisoned data of theirs reaches: each row's parts, with a poison bit for each byte. -/
def storedCover (rows : List (List Piece × Nat)) : Cover × List Nat :=
  (rows.flatMap fun r => (linePieces r.1).map fun p => (p, field r.2 (p.off / 8) (ceilDiv (p.off % 8 + p.len) 8) != 0)).foldl
    (fun k x => if x.2 then (k.1, insertNat k.2 (x.1.tr.fa / 512)) else (coverPieces k.1 [x.1], k.2)) ([], [])

/-- MSTC_COMPLETE (R252): the rows are stored, as the matrix control strand's stores of its class; a line that they write whole with
unpoisoned data loses its poison (R95). -/
def execMstcComplete (core n : Nat) (s : State) : Res :=
  let m := (s.core core).mx
  match m.op n with
  | none => .next s
  | some o =>
    match o.kind with
    | .mstc row count bf dests cls pages =>
      let js := (List.range count).map (· + row)
      if s.frozen core || (m.before n).any (fun x => x.cls?.isSome || js.any x.writesRow) then .next s
      else
        let ag := s.agentOf (mcsOf core)
        let w := if bf then 16 else 32
        let rows := (js.zip dests).map fun x => (storedRow (m.row x.1) bf m.N, pagePieces pages x.2 (w * m.N))
        let s := rows.foldl (fun s x => s.writeArea ag (some (mcsOf core)) cls x.1.1 x.1.2 x.2) s
        let k := storedCover (rows.map fun x => (x.2, x.1.2))
        let s := s.clearCovered ag (k.1.filter fun x => !hasNat k.2 x.1)
        .next (s.modMx core fun m => m.complete n)
    | _ => .next s

/-- A number of the trace as fyv prints it: its kind, sign, mantissa (exact, of any length) and exponent. -/
def TraceNum.print (x : TraceNum) : List Nat :=
  match x with
  | .fin m e => [0, if m < 0 then 1 else 0, m.natAbs, wrap 64 e]
  | .inf n => [1, if n then 1 else 0, 0, 0]
  | .nan => [2, 0, 0, 0]

/-- A check point of the trace as fyv prints it: its stage, p, T, and each column's S, R and settlement. -/
def TraceEnt.print (e : TraceEnt) : List Nat :=
  [e.stage, e.p, e.thr] ++ e.cols.flatMap fun c =>
    (match c.1 with
     | some b => 1 :: b.1.print ++ [b.2]
     | none => [0]) ++ [c.2]

/-- MONITOR_TRACE (R263): fyv prints the trace of a row. -/
def execMonitorTrace (core row : Nat) (s : State) : Res :=
  .next (s.view "trace" ((Sparse.get [] (s.core core).mx.trace row).flatMap TraceEnt.print))

/-- ROW_CLAIM (R228, R250): an MMA or MVRD that waits for its slot executes again, and is numbered once the slot is full. -/
def execRowClaim (core : Nat) (s : State) : Res :=
  let k := mcsOf core
  let s' := { s with cur := k }
  if !s.canIssue k then .next s
  else
    match (s.strand k).waitsOn with
    | some (.mma rd row slot) => execMma rd row slot s'
    | some (.mvrdSgn rd row slot) => execMvrdSgn rd row slot s'
    | some (.mvrdTopk rd row slot) => execMvrdTopk rd row slot s'
    | _ => .next s

end Sys2Proof.Machine
end

