-- ==== Sys2Proof/Machine/HostIf.lean ====
section
/-!
DEFINITION. The host interface (R332 to R334): the commands of the management mailboxes. Each completes with a status: 0 done, 1 an illegal field, 2 an
object in use. Function 0 is the physical function, 1 to 63 are virtual functions.
-/

namespace Sys2Proof.Machine

/-- TDISP state of a function. -/
def State.tdisp (s : State) (fn : Nat) : Tdisp := Sparse.get .unlocked s.vfs fn

/-- A function holds its objects against the others (R337). -/
def State.locked (s : State) (owner : Nat) : Bool := s.tdisp owner == .locked || s.tdisp owner == .run

/-- Function fn may not name an address space (R337). -/
def State.spaceLocked (s : State) (fn asid : Nat) : Bool :=
  s.spaces.any fun p => p.1 == asid && p.2.fn != fn && s.locked p.2.fn

/-- Function fn may not name a stream. -/
def State.streamLocked (s : State) (fn die n : Nat) : Bool :=
  match s.stream? die n with
  | some x => x.fn != fn && s.locked x.fn
  | none => false

/-- Function fn may not name a copy context: one mapped in an address space of a function that holds its objects. -/
def State.ctxLocked (s : State) (fn die ctx : Nat) : Bool :=
  s.ctxMap.any fun p => p.2 == 128 * die + ctx && s.spaceLocked fn (p.1 / 128)

/-- The command of function fn that waits for an ownership transfer of the words it reads. -/
def State.hostCmd? (s : State) (fn : Nat) : Option HostCmd := Sparse.get none (s.hostCmds.map fun p => (p.1, some p.2)) fn

/-- A command of function fn waits: one that it issued before has not completed (R332): a pin, the removal of a supervisor strand, or one whose words lie in
a region on its way to the package. -/
def State.hostBusy (s : State) (fn : Nat) : Bool :=
  (s.transfers.any fun t => hasNat t.pins fn) || (s.removals.any fun r => r.2 == fn) || (s.hostCmd? fn).isSome

/-- A command of function fn (R332, R353): its turn, status 2 until bring-up is over, and otherwise what it does. -/
def State.command (s : State) (fn : Nat) (f : State → State) : Res :=
  if 64 ≤ fn || s.hostBusy fn then .next s
  else if !s.booted then .next (s.reply fn 2)
  else .next (f s)

/-- A command that may wait for an ownership transfer: what `f` answers says whether it has completed. One that waits comes again, and the function's later
commands wait for it (R332). -/
def State.commandOr (s : State) (fn : Nat) (i : HostCmd) (f : State → State × Bool) : Res :=
  if s.hostCmd? fn = some i then
    .next (match f s with
      | (s, true) => { s with hostCmds := Sparse.del s.hostCmds fn }
      | (s, false) => s)
  else
    s.command fn fun s =>
      match f s with
      | (s, true) => s
      | (s, false) => { s with hostCmds := Sparse.put s.hostCmds fn i }

/-- A gang runs that uses an address space. -/
def State.spaceInUse (s : State) (asid : Nat) : Bool := s.gangs.any fun p => p.2.asid == asid && !p.2.joined

/-- A submission is of a stream's LAUNCH. -/
def Submit.ofStream (u : Submit) (die n : Nat) : Bool := u.fromSid == none && u.die == die && u.stream == n

/-- A gang runs that a stream launched, the one a LAUNCH in progress has just had accepted among them. -/
def State.streamInUse (s : State) (die n : Nat) : Bool :=
  let runs := fun (g : Nat) => match s.gang? g with
    | some q => !q.joined
    | none => false
  (match s.stream? die n with
   | some x => x.accepted.any runs
   | none => false) || s.submits.any fun u => u.ofStream die n && u.gang.any runs

/-- A LAUNCH of the stream has its answer, and is completed once the words it writes can be written. -/
def State.launchAnswered (s : State) (die n : Nat) : Bool := s.submits.any fun u => u.ofStream die n && u.status.isSome

/-- A stream begins anew: a command in progress, and its launch, are forgotten (R61). -/
def State.restartStream (s : State) (die n : Nat) (x : Stream) : State :=
  ({ s with submits := s.submits.filter fun u => !u.ofStream die n } : State).setStream die n { x with cmd := none }

/-- REGISTER_ADDRESS_SPACE (R83, R332). A space in use answers 2 before its new descriptor is looked at (DESIGN CHOICE, entry 33). -/
def execRegisterAddressSpace (fn asid : Nat) (desc : Word) (s : State) : Res :=
  s.command fn fun s =>
    if 4096 ≤ asid || s.spaceLocked fn asid then s.reply fn 1
    else if s.spaceInUse asid then s.reply fn 2
    else if !s.descOk desc then s.reply fn 1
    else ({ s with spaces := Sparse.put s.spaces asid { desc := desc, fn := fn } } : State).reply fn 0

/-- REGISTER_STREAM (R332). The control block stands in an address space. A LAUNCH of the stream registered before that has no answer is forgotten with it
(DESIGN CHOICE, entry 32). -/
def execRegisterStream (fn die stream : Nat) (ctl : Word) (asid : Nat) (s : State) : Res :=
  s.command fn fun s =>
    if 16 ≤ die || 64 ≤ stream || 4096 ≤ asid || ctl.toNat % 64 ≠ 0 || s.spaceLocked fn asid || s.streamLocked fn die stream then s.reply fn 1
    else if s.streamInUse die stream then s.reply fn 2
    else (s.restartStream die stream { ctl := ctl, asid := asid, fn := fn }).reply fn 0

/-- MAP_COPY_CONTEXT (R196, R332). -/
def execMapCopyContext (fn asid num die ctx : Nat) (s : State) : Res :=
  s.command fn fun s =>
    if 4096 ≤ asid || 128 ≤ num || 16 ≤ die || 128 ≤ ctx || s.spaceLocked fn asid || s.ctxLocked fn die ctx then s.reply fn 1
    else ({ s with ctxMap := Sparse.put s.ctxMap (128 * asid + num) (128 * die + ctx) } : State).reply fn 0

/-- SET_STREAM_STATE (R61, R332): the state bits of the stream's control block. A stream that runs again executes the record at read again, but for a LAUNCH
that has its answer, which has executed. -/
def execSetStreamState (fn die stream : Nat) (state : BitVec 2) (s : State) : Res :=
  s.commandOr fn (.streamState die stream state) fun s =>
    match s.stream? die stream with
    | none => (s.reply fn 1, true)
    | some x =>
      if state = 3 || s.streamLocked fn die stream then (s.reply fn 1, true)
      else
        match s.cpRead (x.agent die) x.ctl.toNat 512 with
        | (s, .wait) => (s, false)
        | (s, .bad) => (s.reply fn 1, true)
        | (s, .ok v) =>
          let s := s.putCtl die x 4 (putField (field v 256 64) 0 2 state.toNat)
          let s := if state = 0 && field v 256 2 != 0 && !s.launchAnswered die stream then s.restartStream die stream x else s
          (s.reply fn 0, true)

/-- A context's state is set (R196, R200): running clears bit 24 and resumes, and a clear takes bits 23:0 and 63:32. -/
def CopyCtx.set (c : CopyCtx) (run clear : Bool) : CopyCtx :=
  let e := if run then putField c.err 24 1 0 else c.err
  { c with stopped := !run, err := if clear then putField (putField e 0 24 0) 32 32 0 else e }

/-- A group is on its way off a core (R71). -/
def State.groupMoves (s : State) (n : Option Nat) : Bool :=
  match n.bind s.group? with
  | some g => g.phase == .migrating
  | none => false

/-- SET_CONTEXT_STATE (R196, R200, R332). The operations of a moving group in a stopped context that is resumed wait for its window (R73). -/
def execSetContextState (fn die ctx : Nat) (run clear : Bool) (s : State) : Res :=
  s.command fn fun s =>
    if 16 ≤ die || 128 ≤ ctx || s.ctxLocked fn die ctx then s.reply fn 1
    else
      let c := s.copyCtx (128 * die + ctx)
      let c' := c.set run clear
      let resumed := run && c.stopped
      (s.setCopyCtx (128 * die + ctx) { c' with ops := c'.ops.map fun o => if resumed && s.groupMoves o.group then { o with later := true } else o }).reply fn 0

/-- A flat bit address is the base of an ownership region: a multiple of 2 MiB in host or CXL memory (R334). -/
def hostRegion (base : Nat) : Bool := base % 2 ^ 24 == 0 && 2 ^ 64 ≤ base && base < 3 * 2 ^ 64

/-- A pin waits for a transfer toward the host: it joins the one that runs or waits, else it starts its own, which waits for one toward the device (R335). -/
def State.pinLater (s : State) (fn region domain : Nat) : State :=
  let mine := fun (t : Transfer) => t.region == region && !t.failed && !t.flipped && !t.toDev
  { s with transfers :=
      if s.transfers.any mine then s.transfers.map fun t => if mine t then { t with pins := t.pins ++ [fn] } else t
      else s.transfers ++ [{ region := region, toDev := false, pins := [fn], since := s.now, dom := domain }] }

/-- PIN_OWNERSHIP_REGION (R334): a region in DEV, or on its way there, is transferred to the host first. -/
def execPinOwnershipRegion (fn domain base : Nat) (s : State) : Res :=
  s.command fn fun s =>
    let region := regionOf base
    if domain = 0 || 65536 ≤ domain || !hostRegion base then s.reply fn 1
    else if s.owner region == .dev || s.transferring region then
      s.pinLater fn region domain
    else ({ s with owners := Sparse.put s.owners region .pinned } : State).reply fn 0

/-- UNPIN_OWNERSHIP_REGION (R334): PINNED becomes HOST. -/
def execUnpinOwnershipRegion (fn domain base : Nat) (s : State) : Res :=
  s.command fn fun s =>
    let region := regionOf base
    if domain = 0 || 65536 ≤ domain || !hostRegion base then s.reply fn 1
    else (if s.owner region == .pinned then { s with owners := Sparse.put s.owners region .host } else s).reply fn 0

/-- ENABLE_OWNERSHIP_DOMAIN (R332). -/
def execEnableOwnershipDomain (fn domain : Nat) (s : State) : Res :=
  s.command fn fun s =>
    if domain = 0 || 65536 ≤ domain then s.reply fn 1
    else ({ s with domains := insertNat s.domains domain } : State).reply fn 0

/-- DISABLE_OWNERSHIP_DOMAIN (R332, R334). -/
def execDisableOwnershipDomain (fn domain : Nat) (s : State) : Res :=
  s.command fn fun s =>
    if domain = 0 || 65536 ≤ domain then s.reply fn 1
    else ({ s with domains := s.domains.filter (· != domain) } : State).reply fn 0

/-- Push again the notices of the strands that a core holds, in strand order (R333): those with room now; the others wait (R300). -/
def State.pushAgain (s : State) (k : Nat) : State := (coreSids k).foldl (fun s sid => s.pushNotice sid) s

/-- A supervisor strand as it starts (R333): the state of R55 at supervisor level, with the descriptor's minimum shares and share 128. -/
def supStrand (grace asid : Nat) (entry arg : Word) (g : Nat) : Strand :=
  { startStrand grace asid none 0 entry arg g 128 with sup := true }

/-- PLACE_SUPERVISOR_STRAND (R333). -/
def execPlaceSupervisorStrand (p : SupPlace) (s : State) : Res :=
  s.commandOr p.fn (.place p) fun s =>
    let sid := sidOf p.core p.ctx
    if !coreBuilt p.core || 8 ≤ p.ctx || 4096 ≤ p.asid || s.spaceLocked p.fn p.asid || (s.core p.core).withdrawn ||
        (s.die (dieOf p.core)).inReset || p.desc.toNat % 64 ≠ 0 then (s.reply p.fn 1, true)
    else
      match s.cpRead (cpAgent (dieOf p.core) p.asid true) p.desc.toNat 256 with
      | (s, .wait) => (s, false)
      | (s, .bad) => (s.reply p.fn 1, true)
      | (s, .ok v) =>
        match descOf v with
        | none => (s.reply p.fn 1, true)
        | some d =>
          if !kindMatches (Config.isMarl (dieOf p.core)) d.profiles d.minors then (s.reply p.fn 1, true)
          else if (s.strand sid).phase != .free || (s.supOf p.core).isSome || s.freeShares p.core < d.shares then (s.reply p.fn 2, true)
          else
            let t := supStrand (s.strand sid).grace p.asid (p.desc + BitVec.ofNat 64 d.entry) p.arg d.shares
            let s := (s.setStrand sid t).modCore p.core fun c => { c with supFn := p.fn, supEnd := none }
            ((s.pushAgain p.core).reply p.fn 0, true)

/-- A strand of the core is held. -/
def State.anyHeld (s : State) (k : Nat) : Bool := (coreSids k).any fun sid => (s.strand sid).hold.isSome

/-- The supervisor strand of a core ends without a record of a cause (R333, R354). -/
def State.dropSupervisor (s : State) (k : Nat) : State :=
  let e := (s.core k).supEnd
  { (s.endSupervisor k 0).modCore k fun c => { c with supEnd := e } with supEnds := s.supEnds }

/-- REMOVE_SUPERVISOR_STRAND (R332, R333, R337): status 1 unless the command names the supervisor strand's context and address space, and function fn may
name that; then it waits until no strand of the core is held. The event comes again when that is so. -/
def execRemoveSupervisorStrand (fn : Nat) (r : SupRemove) (s : State) : Res :=
  if hasNat (s.removals.map fun x => x.1 * 64 + x.2) (r.core * 64 + fn) then
    if s.anyHeld r.core then .next s
    else .next ((({ s with removals := s.removals.erase (r.core, fn) } : State).dropSupervisor r.core).reply fn 0)
  else
    s.command fn fun s =>
      if s.supOf r.core != some (sidOf r.core r.ctx) || 8 ≤ r.ctx || (s.strand (sidOf r.core r.ctx)).asid != r.asid || s.spaceLocked fn r.asid then
        s.reply fn 1
      else if s.anyHeld r.core then { s with removals := s.removals ++ [(r.core, fn)] }
      else (s.dropSupervisor r.core).reply fn 0

/-- TDISP_STATE_REQUEST (R337): a virtual function moves between CONFIG_UNLOCKED, CONFIG_LOCKED and RUN: it is locked, then runs, and is unlocked from any state
(entry 7). -/
def execTdispStateRequest (fn : Nat) (target : Tdisp) (s : State) : Res :=
  let legal := match s.tdisp fn, target with
    | _, .unlocked => true
    | .unlocked, .locked => true
    | .locked, .run => true
    | _, _ => false
  .next (if 1 ≤ fn && fn < 64 && legal then { s with vfs := Sparse.put s.vfs fn target } else s)

/-- TDISP_ERROR_TRANSITION (R337): every gang of the function's address spaces is killed. -/
def execTdispErrorTransition (fn : Nat) (s : State) : Res :=
  if fn = 0 || 64 ≤ fn then .next s
  else
    let mine := (s.spaces.filter fun p => p.2.fn == fn).map (·.1)
    let gs := (s.gangs.filter fun p => !p.2.joined && hasNat mine p.2.asid).map (·.1)
    .next (gs.foldl State.killWhole { s with vfs := Sparse.put s.vfs fn .error })

end Sys2Proof.Machine
end

