-- ==== Sys2Proof/Machine/Sha.lean ====
section
/-!
DEFINITION. SHA-384 (R338 names it; its standard, FIPS 180-4, is outside the spec: PRESUMED, entry 41), of messages that are whole 64-bit words.
-/

namespace Sys2Proof.Machine

/-- Constants 0 to 19 of the rounds: the fractions of the cube roots of the first 80 primes. -/
def shaK0 : List Nat := [
  0x428A2F98D728AE22, 0x7137449123EF65CD, 0xB5C0FBCFEC4D3B2F, 0xE9B5DBA58189DBBC,
  0x3956C25BF348B538, 0x59F111F1B605D019, 0x923F82A4AF194F9B, 0xAB1C5ED5DA6D8118,
  0xD807AA98A3030242, 0x12835B0145706FBE, 0x243185BE4EE4B28C, 0x550C7DC3D5FFB4E2,
  0x72BE5D74F27B896F, 0x80DEB1FE3B1696B1, 0x9BDC06A725C71235, 0xC19BF174CF692694,
  0xE49B69C19EF14AD2, 0xEFBE4786384F25E3, 0x0FC19DC68B8CD5B5, 0x240CA1CC77AC9C65]

/-- Constants 20 to 39 of the rounds: the fractions of the cube roots of the first 80 primes. -/
def shaK20 : List Nat := [
  0x2DE92C6F592B0275, 0x4A7484AA6EA6E483, 0x5CB0A9DCBD41FBD4, 0x76F988DA831153B5,
  0x983E5152EE66DFAB, 0xA831C66D2DB43210, 0xB00327C898FB213F, 0xBF597FC7BEEF0EE4,
  0xC6E00BF33DA88FC2, 0xD5A79147930AA725, 0x06CA6351E003826F, 0x142929670A0E6E70,
  0x27B70A8546D22FFC, 0x2E1B21385C26C926, 0x4D2C6DFC5AC42AED, 0x53380D139D95B3DF,
  0x650A73548BAF63DE, 0x766A0ABB3C77B2A8, 0x81C2C92E47EDAEE6, 0x92722C851482353B]

/-- Constants 40 to 59 of the rounds: the fractions of the cube roots of the first 80 primes. -/
def shaK40 : List Nat := [
  0xA2BFE8A14CF10364, 0xA81A664BBC423001, 0xC24B8B70D0F89791, 0xC76C51A30654BE30,
  0xD192E819D6EF5218, 0xD69906245565A910, 0xF40E35855771202A, 0x106AA07032BBD1B8,
  0x19A4C116B8D2D0C8, 0x1E376C085141AB53, 0x2748774CDF8EEB99, 0x34B0BCB5E19B48A8,
  0x391C0CB3C5C95A63, 0x4ED8AA4AE3418ACB, 0x5B9CCA4F7763E373, 0x682E6FF3D6B2B8A3,
  0x748F82EE5DEFB2FC, 0x78A5636F43172F60, 0x84C87814A1F0AB72, 0x8CC702081A6439EC]

/-- Constants 60 to 79 of the rounds: the fractions of the cube roots of the first 80 primes. -/
def shaK60 : List Nat := [
  0x90BEFFFA23631E28, 0xA4506CEBDE82BDE9, 0xBEF9A3F7B2C67915, 0xC67178F2E372532B,
  0xCA273ECEEA26619C, 0xD186B8C721C0C207, 0xEADA7DD6CDE0EB1E, 0xF57D4F7FEE6ED178,
  0x06F067AA72176FBA, 0x0A637DC5A2C898A6, 0x113F9804BEF90DAE, 0x1B710B35131C471B,
  0x28DB77F523047D84, 0x32CAAB7B40C72493, 0x3C9EBE0A15C9BEBC, 0x431D67C49C100D4C,
  0x4CC5D4BECB3E42B6, 0x597F299CFC657E2A, 0x5FCB6FAB3AD6FAEC, 0x6C44198C4A475817]

/-- The constants of the 80 rounds. -/
def shaK : List Nat := shaK0 ++ shaK20 ++ shaK40 ++ shaK60

/-- The words before the first block: the fractions of the square roots of the ninth to sixteenth primes. -/
def shaInit : List Nat := [
  0xCBBB9D5DC1059ED8, 0x629A292A367CD507, 0x9159015A3070DD17, 0x152FECD8F70E5939,
  0x67332667FFC00B31, 0x8EB44A8768581511, 0xDB0C2E0D64F98FA7, 0x47B5481DBEFA4FA4]

/-- A 64-bit word turned right by n. -/
def rotr64 (x n : Nat) : Nat := (x / 2 ^ n + x * 2 ^ (64 - n)) % 2 ^ 64

/-- Further words of a block's schedule, the newest first. -/
def shaSchedule : Nat → List Nat → List Nat
  | 0, w => w
  | n + 1, w =>
    let a := w.getD 14 0
    let b := w.getD 1 0
    let s0 := rotr64 a 1 ^^^ rotr64 a 8 ^^^ a / 2 ^ 7
    let s1 := rotr64 b 19 ^^^ rotr64 b 61 ^^^ b / 2 ^ 6
    shaSchedule n ((w.getD 15 0 + s0 + w.getD 6 0 + s1) % 2 ^ 64 :: w)

/-- One round: the eight working words, a constant and a word of the schedule. -/
def shaRound (v : List Nat) (kw : Nat × Nat) : List Nat :=
  match v with
  | [a, b, c, d, e, f, g, h] =>
    let s1 := rotr64 e 14 ^^^ rotr64 e 18 ^^^ rotr64 e 41
    let t1 := h + s1 + ((e &&& f) ^^^ ((2 ^ 64 - 1 - e) &&& g)) + kw.1 + kw.2
    let s0 := rotr64 a 28 ^^^ rotr64 a 34 ^^^ rotr64 a 39
    let t2 := s0 + ((a &&& b) ^^^ (a &&& c) ^^^ (b &&& c))
    [(t1 + t2) % 2 ^ 64, a, b, c, (d + t1) % 2 ^ 64, e, f, g]
  | _ => v

/-- One block of 16 words. -/
def shaBlock (h w : List Nat) : List Nat :=
  ((h.zip ((shaK.zip (shaSchedule 64 w.reverse).reverse).foldl shaRound h)).map fun x => (x.1 + x.2) % 2 ^ 64)

/-- n blocks. -/
def shaBlocks : Nat → List Nat → List Nat → List Nat
  | 0, h, _ => h
  | n + 1, h, w => shaBlocks n (shaBlock h (w.take 16)) (w.drop 16)

/-- A message of whole words, padded to whole blocks: a one, zeros, its length in bits. -/
def shaPad (w : List Nat) : List Nat := w ++ [2 ^ 63] ++ List.replicate ((29 - w.length % 16) % 16) 0 ++ [0, 64 * w.length]

/-- The bytes of a 64-bit word in the other order: memory is little-endian (R81), the hash reads big-endian words. -/
def swapBytes (w : Nat) : Nat := (List.range 8).foldl (fun v i => v * 256 + w / 256 ^ i % 256) 0

/-- SHA-384 of 64 × n bits in memory order, its first byte most significant. -/
def sha384 (bits n : Nat) : BitVec 384 :=
  let w := shaPad ((List.range n).map fun i => swapBytes (bits / 2 ^ (64 * i) % 2 ^ 64))
  BitVec.ofNat 384 (((shaBlocks (w.length / 16) shaInit w).take 6).foldl (fun v x => v * 2 ^ 64 + x) 0)

end Sys2Proof.Machine
end

