-- ==== Sys2Proof/Machine/Power.lean ====
section
/-!
DEFINITION. Bring-up and the capability lists (R23 to R26, R352, R353), errors of the part (R306, R350, R351, R354), peer links (R340), measurement (R338), and the
encoding that is no instruction (R49).
-/

namespace Sys2Proof.Machine

/-- A capability record (R23): next, identifier, version 1.0, payload. -/
def capRecord (next id payload : Nat) : Nat := next + id * 2 ^ 64 + 0x10 * 2 ^ 80 + payload % 2 ^ 40 * 2 ^ 88

/-- Records at consecutive addresses from a: the last one's next is 0 (R23, R24). -/
def capList (a : Nat) : List (Nat × Nat) → List Nat
  | [] => []
  | [(id, p)] => [capRecord 0 id p]
  | (id, p) :: t => capRecord (a + 128) id p :: capList (a + 128) t

/-- Payload of a die record (R25): Loam and Marl meshes have four columns (R68). -/
def diePayload (d avail : Nat) : Nat :=
  (if Config.isMarl d then 1 else 0) + d * 2 ^ 4 + Config.columns * 2 ^ 8 + Config.built d / 4 / Config.columns * 2 ^ 12 + Config.built d * 2 ^ 16 + avail * 2 ^ 24

/-- Payload of a profile record (R25), by profile bit. -/
def profilePayload (i : Nat) : Nat := if i = 1 then 0x2020 else if i = 3 then 0x4008 else 0

/-- A die's list (R26): its die record, its profiles, the pointer to the package list. -/
def dieList (d avail a pkg : Nat) : List Nat :=
  capList a ([(1, diePayload d avail)] ++ ((List.range 6).filter (bitAt (dieProfiles d))).map (fun i => (0x10 + i, profilePayload i)) ++
    [(2, pkg / 2 ^ 21)])

/-- Payload of a die-kind record. -/
def kindPayload (kind mask dies cores : Nat) : Nat := kind + mask * 2 ^ 8 + dies * 2 ^ 16 + cores * 2 ^ 24

/-- The package list (R26): 2 die kinds, 16 compute dies, 4 I/O dies. -/
def pkgList (a index : Nat) : List Nat :=
  capList a [(0x100, 2 + 16 * 2 ^ 8 + 4 * 2 ^ 16 + index * 2 ^ 24), (0x101, kindPayload 0 0x0F 12 64), (0x101, kindPayload 1 0x37 4 48)]

/-- A list's records as bits. -/
def listBits (l : List Nat) : Nat := l.foldr (fun r v => r + v * 2 ^ 128) 0

/-- Write a list's records at their homes. -/
def State.writeList (s : State) (pa : Nat) (l : List Nat) : State := s.homeWrite pa (128 * l.length) (listBits l)

/-- Measurement block 22: the hash of the package list (R338). -/
def listHash (l : List Nat) : BitVec 384 := sha384 (listBits l) (2 * l.length)

/-- Where the package list stands (R25): the next multiple of 2^21 past the die lists. -/
def pkgListVa (capVa : Nat) : Nat := ceilDiv (capVa + 2 ^ 19) (2 ^ 21) * 2 ^ 21

/-- Virtual and physical address of die d's list: each has 4 KiB. -/
def listVa (b : BringUp) (d : Nat) : Nat := b.capVa.toNat + d * 2 ^ 15
/-- Physical address of die d's list; number 16 is the package list's. -/
def listPa (b : BringUp) (d : Nat) : Nat := b.capPa + d * 2 ^ 15

/-- Cores of die d that pass the self-test. -/
def passingCores (b : BringUp) (d : Nat) : Nat := ((List.range (Config.built d)).filter fun c => !hasNat b.failing (64 * d + c)).length

/-- Firmware's choices are ones it may make: aligned, below 2^61, and the lists in one Kaolin slice outside the migration range (R24, R80, R353). -/
def bringUpOk (b : BringUp) (s : State) : Bool :=
  b.capVa.toNat % 2 ^ 15 == 0 && b.capVa.toNat != 0 && b.capPa % 2 ^ 15 == 0 && kaolinOk s b.capPa && b.capPa % 2 ^ 32 + 2 ^ 20 ≤ 2 ^ 32 - 2 ^ 27 &&
  pkgListVa b.capVa.toNat + 2 ^ 15 ≤ 2 ^ 61 && b.migBase.toNat % 2 ^ 15 == 0 && b.migBase.toNat + 2 ^ 36 ≤ 2 ^ 61 && b.failing.all coreBuilt &&
  b.firmware.length == 21

/-- A die as it leaves reset at bring-up, with its list written (R352 steps 3 to 7). -/
def bringUpDie (b : BringUp) (s : State) (d : Nat) : State :=
  let s := s.modDie d fun x =>
    { x with inReset := false, stopped := false, lag := s.now, capVa := BitVec.ofNat 64 (listVa b d), capPa := listPa b d, available := passingCores b d }
  s.writeList (listPa b d) (dieList d (passingCores b d) (listVa b d) (pkgListVa b.capVa.toNat))

/-- POWER_GOOD (R352): bring-up, once. The die firmware's measurements are taken as it is loaded, block 22 at the end (R338). -/
def execPowerGood (b : BringUp) (s : State) : Res :=
  if s.booted || !bringUpOk b s then .next s
  else
    let s := b.failing.foldl (fun s k => s.modCore k fun c => { c with withdrawn := true }) s
    let s := (List.range Config.dies).foldl (bringUpDie b) s
    let va := pkgListVa b.capVa.toNat
    let l := pkgList va b.pkgIndex.toNat
    let s := s.writeList (listPa b 16) l
    let firmware := (List.range 21).map fun i => (i + 1, b.firmware.getD i 0)
    .next { s with
      booted := true, migBase := b.migBase, pkg := b.pkgIndex.toNat, pkgVa := BitVec.ofNat 64 va, pkgPa := listPa b 16
      measures := Sparse.put (firmware.foldl (fun m p => Sparse.put m p.1 p.2) s.measures) 22 (listHash l) }

/-- Groups that stand on a core, or any core of a die. -/
def State.groupsOn (s : State) (on : Nat → Bool) : List (Nat × Group) :=
  s.groups.filter fun p => on p.2.core && (p.2.phase == .placed || p.2.phase == .migrating || p.2.phase == .ending)

/-- THERMAL_SHUTDOWN (R351): issue stops, every gang with a group on the die is killed, supervisor strands of the die end, and the die is held in reset. -/
def execThermalShutdown (die : Nat) (s : State) : Res :=
  if !s.booted || 16 ≤ die || (s.die die).inReset then .next s
  else
    let s := s.modDie die fun d => { d with stopped := true }
    let gs := ((s.groupsOn fun k => dieOf k == die).map (·.2.gang)).eraseDups
    let s := gs.foldl State.killWhole s
    let s := (List.range (Config.built die)).foldl (fun s c => (s.cleanCore (64 * die + c)).dropSupervisor (64 * die + c)) s
    .next (s.modDie die fun d => { d with inReset := true })

/-- A core as it leaves reset, its self-test passed or failed: the cycle counter reads 0, and no strand is placed (R352 steps 5 and 6). -/
def State.resetCore (s : State) (k : Nat) (failed : Bool) : State :=
  let s : State := { (s.cleanCore k).setCore k { withdrawn := failed } with transfers := s.rebaseTransfers k }
  (coreSids k).foldl (fun s sid => s.setStrand sid {}) s

/-- DIE_RESET_RELEASE (R60, R351, R352, R354): once the groups of the die have been torn down, it repeats bring-up from step 4. Cores that fail the self-test
(`r.failing`) are withdrawn, and a withdrawn one that passes returns to service. Streams go on from their read record, a WAITV counting its limit again from
zero. -/
def execDieResetRelease (r : DieRelease) (s : State) : Res :=
  if !s.booted || 16 ≤ r.die || !(s.die r.die).inReset || !(s.groupsOn fun k => dieOf k == r.die).isEmpty then .next s
  else
    let bad := fun c => hasNat r.failing (64 * r.die + c)
    let n := ((List.range (Config.built r.die)).filter fun c => !bad c).length
    let s := (List.range (Config.built r.die)).foldl (fun s c => s.resetCore (64 * r.die + c) (bad c)) s
    let s := s.modDie r.die fun d =>
      { d with
        inReset := false, stopped := false, lag := s.now, available := n
        streams := d.streams.map fun x => (x.1, { x.2 with cmd := x.2.cmd.map fun c => { c with since := 0, base := 0 } }) }
    let s := s.writeList (s.die r.die).capPa (dieList r.die n (s.die r.die).capVa.toNat s.pkgVa.toNat)
    let l := pkgList s.pkgVa.toNat s.pkg
    let s := s.writeList s.pkgPa l
    .next { s with measures := Sparse.put s.measures 22 (listHash l) }

/-- A corrected memory error of a core at its cycle `now`: of more than 64 within 2^30 cycles a withdrawal is due (R354). -/
def Core.countEcc (c : Core) (now : Nat) : Core :=
  let l := now :: c.ecc.filter fun x => now < x + 2 ^ 30
  { c with ecc := l, due := c.due || 64 < l.length }

/-- SOFT_ERROR (R306, R354): corrected, and counted where it struck a core's SRAM, or the poison of what it struck is set; in state without poison its group
ends as faulted with POISON_CONTROL, and its core is due to be withdrawn. -/
def execSoftError (e : SoftError) (s : State) : Res :=
  match e with
  | .corrected none => .next s
  | .corrected (some k) => .next (if coreBuilt k then s.modCore k fun c => c.countEcc (s.coreCycle k) else s)
  | .scratch line => .next (if spaceOfPhys (line * 512) == 1 && physOk s (line * 512) then s.setPoison line true else s)
  | .cacheLine core line =>
    .next (if coreBuilt core then
        s.modCore core fun c => { c with lines := c.lines.map fun p =>
          if p.1 = line then (p.1, { p.2 with pois := true, wpois := p.2.wpois || p.2.dirty != 0 }) else p }
      else s)
  | .vreg sid reg byte =>
    .next (s.modStrand sid fun t =>
      if t.phase == .running && reg < 2 ^ t.n2 && byte < regBits t.g t.n2 / 8 then
        let r := Sparse.get {} t.v reg
        { t with v := Sparse.put t.v reg { r with pois := r.pois ||| 2 ^ byte } }
      else t)
  | .acc core row col =>
    .next (if row < 64 && col < 512 && coreBuilt core && isLoam core then
        s.modMx core fun m =>
          let r := m.row row
          { m with acc := Sparse.put m.acc row { r with pois := r.pois ||| 2 ^ col } }
      else s)
  | .macroCell core k n =>
    .next (if coreBuilt core && isLoam core then
        s.modMx core fun m => if k < m.K && n < m.N then { m with bpois := m.bpois ||| 2 ^ (k * m.N + n) } else m
      else s)
  | .noPoison group =>
    .next (match s.group? group with
      | some g => (if g.phase == .waiting || g.phase == .retired then s else s.modCore g.core fun c => { c with due := true }).endGroup group (.fault 8)
      | none => s)

/-- KAOLIN_UNCORRECTABLE_ERROR (R306). -/
def execKaolinUncorrectableError (line : Nat) (s : State) : Res :=
  .next (if kaolinOk s (line * 512) then s.setPoison line true else s)

/-- The limits of a die's stream commands go on from the value they had reached on its next timing core (R60, R354). -/
def State.moveLimits (s : State) (die : Nat) (s' : State) : State :=
  s'.modDie die fun d =>
    { d with streams := d.streams.map fun x => (x.1, { x.2 with cmd := x.2.cmd.map fun c =>
        { c with base := s.cmdCycles die c, since := s'.coreCycle (s'.timingCore die) } }) }

/-- CORE_WITHDRAWAL (R25, R354): firmware withdraws a core that is due to be, on which a group's state took an uncorrectable error (`faulted`), or that fails
the self-test it runs while no group holds the core. The core leaves placement, its groups end, its barriers cease to exist, and its scratchpad is no longer addressable. -/
def execCoreWithdrawal (core : Nat) (faulted : Option Nat) (s : State) : Res :=
  let why := (s.core core).due || faulted.isSome || (s.groupsOn (· == core)).isEmpty
  if !s.booted || !coreBuilt core || (s.core core).withdrawn || !why then .next s
  else
    let die := dieOf core
    let n := (s.die die).available - 1
    let s1 := (s.modDie die fun d => { d with available := n }).modCore core fun c => { c with withdrawn := true, cbs := Vector.replicate 8 {} }
    let w1 := capRecord 0 1 (diePayload die n) / 2 ^ 64
    let s1 := s1.homeWrite ((s.die die).capPa + 64) 64 w1
    let s1 := (s1.groupsOn (· == core)).foldl (fun s p => s.endGroup p.1 (if faulted = some p.1 then .fault 8 else .killed)) s1
    .next (s.moveLimits die (s1.dropSupervisor core))

/-- PEER_LINK_LOSS (R340): no live link is left on the route to a package: what is in flight to it, and what comes later, fails. Packets in flight to it are
lost; copies under way note the loss, and fail where they reach it. -/
def execPeerLinkLoss (peer : Nat) (s : State) : Res :=
  .next (if peer < 64 then
      { s with
        peersDown := insertNat s.peersDown peer, packets := s.packets.filter fun p => p.unit != 2 ^ 20 + peer
        dies := s.dies.map fun d => (d.1, { d.2 with ctxs := d.2.ctxs.map fun c =>
          (c.1, { c.2 with ops := c.2.ops.map fun o => if o.started then { o with lost := insertNat o.lost peer } else o }) }) }
    else s)

/-- PEER_LINK_RETURN (R340). -/
def execPeerLinkReturn (peer : Nat) (s : State) : Res := .next { s with peersDown := s.peersDown.filter (· != peer) }

/-- The certificate chain of a slot (R338): that of slot 0 is the part's, and slots 1 to 7 are empty until provisioned. -/
def State.cert (s : State) (slot : Nat) : Option Nat :=
  if slot = 0 then some Config.identityChain else Sparse.get none (s.certs.map fun p => (p.1, some p.2)) slot

/-- SPDM_REQUEST (R338): the measurement of a block, where one has been taken; the chain of a certificate slot; or the owner's chain for one of slots 1 to 7. -/
def execSpdmRequest (r : SpdmReq) (s : State) : Res :=
  match r with
  | .measurement block => .next (s.view "spdm" (block :: ((Sparse.get none (s.measures.map fun p => (p.1, some p.2)) block).map BitVec.toNat).toList))
  | .certificate slot => .next (s.view "cert" (slot :: (s.cert slot).toList))
  | .provision slot chain => .next (if 1 ≤ slot && slot ≤ 7 then { s with certs := Sparse.put s.certs slot chain } else s)

/-- FIRMWARE_IMAGE_UPDATE (R338): an image signed under the slot-0 chain is taken and measured; any other leaves both as they are. -/
def execFirmwareImageUpdate (block : Nat) (hash : BitVec 384) (signed : Bool) (s : State) : Res :=
  .next (if signed && 1 ≤ block && block ≤ 21 then { s with measures := Sparse.put s.measures block hash } else s)

/-- ILLEGAL_ENCODING (R49): a word that is no instruction raises ILLEGAL. -/
def execIllegalEncoding (s : State) : Res := s.trap 1

end Sys2Proof.Machine
end

