-- ==== Sys2Proof/Machine/Waits.lean ====
section
/-!
DEFINITION. The ends of waits (R118, R121, R122, R130, R197, R271 to R284, R313): what a strand waits for has come, and the instruction it waits on
executes. Also the writes of CSRs as the table's rows give them apart from the instruction that makes them (R44, R302, R307).
-/

namespace Sys2Proof.Machine

/-- Run again the instruction that strand sid waits on, where f knows it: no effect where the strand cannot issue or still waits. `limit` keeps the time
waited; otherwise only what is waited for ends the wait. -/
def State.endWait (s : State) (sid : Nat) (limit : Bool) (f : Instr → Option (State → Res)) : Res :=
  match (s.strand sid).wait with
  | none => .next s
  | some w =>
    match f w.instr with
    | none => .next s
    | some g =>
      if !s.canIssue sid then .next s
      else
        let s1 : State := { s with cur := sid }
        let since := if limit then w.since else s.coreCycle (coreOf sid)
        match g (s1.setMe { s1.me with wait := some { w with since := since } }) with
        | .next t => if (t.strand sid).wait.isSome then .next s else .next t
        | r => r

/-- WAITA_SATISFIED (R278). -/
def execWaitaSatisfied (sid : Nat) (s : State) : Res :=
  s.endWait sid false fun i =>
    match i with
    | .waita rt rs1 rs2 cond off => some (execWaita rt rs1 rs2 cond off)
    | _ => none

/-- TLWAIT_SATISFIED (R271). -/
def execTlwaitSatisfied (sid : Nat) (s : State) : Res :=
  s.endWait sid false fun i =>
    match i with
    | .tlwait rn rt tl cx im lo => some (execTlwait rn rt tl cx im lo)
    | _ => none

/-- BARRIER_ARRIVAL (R272): an arrival that waited for the strand's earlier blocks is counted. -/
def execBarrierArrival (sid : Nat) (s : State) : Res :=
  s.endWait sid false fun i =>
    match i with
    | .barArv rd kind idx => some (execBarArv rd kind idx)
    | _ => none

/-- BAR_WT_END (R281). -/
def execBarWtEnd (sid : Nat) (s : State) : Res :=
  s.endWait sid false fun i =>
    match i with
    | .barWt rt kind idx => some (execBarWt rt kind idx)
    | _ => none

/-- JOIN_SATISFIED (R284). -/
def execJoinSatisfied (sid : Nat) (s : State) : Res :=
  s.endWait sid false fun i =>
    match i with
    | .join rd rs1 rt => some (execJoin rd rs1 rt)
    | _ => none

/-- RQPOP_END (R118): a word has arrived in the strand's reply queue. -/
def execRqpopEnd (sid : Nat) (s : State) : Res :=
  s.endWait sid false fun i =>
    match i with
    | .rqpop rd => some (execRqpop rd)
    | _ => none

/-- WAITC_END (R121). -/
def execWaitcEnd (sid : Nat) (s : State) : Res :=
  s.endWait sid false fun i =>
    match i with
    | .waitc l sc c m => some (execWaitc l sc c m)
    | _ => none

/-- SHARE_GRANT (R130): register shares are free for a SETVL, or a restore, that waits for them. -/
def execShareGrant (sid : Nat) (s : State) : Res :=
  s.endWait sid false fun i =>
    match i with
    | .setvl rd rs1 ew => some (execSetvl rd rs1 ew)
    | .vrestoreSt rs1 rs2 k => some (execVrestoreSt rs1 rs2 k)
    | _ => none

/-- COPY_SLOT_FREE (R197): a copy slot is free for an instruction that waits for one. -/
def execCopySlotFree (sid : Nat) (s : State) : Res :=
  s.endWait sid false fun i =>
    match i with
    | .copy c => some (execCopy c)
    | .copyMc c => some (execCopyMc c)
    | .persist rd ra rlen cx => some (execPersist rd ra rlen cx)
    | _ => none

/-- IDLE_END (R313): a reply word, a pre-emption request, or the limit. -/
def execIdleEnd (sid : Nat) (s : State) : Res :=
  s.endWait sid true fun i =>
    match i with
    | .idle rd rt => some (execIdle rd rt)
    | _ => none

/-- The register that holds the limit of a wait which ends in TIMEOUT (R276). -/
def limitReg (i : Instr) : Option Reg :=
  match i with
  | .waita rt _ _ _ _ => some rt
  | .tlwait _ rt _ _ _ _ => some rt
  | .barWt rt _ _ => some rt
  | .join _ _ rt => some rt
  | _ => none

/-- The limit of the strand's wait has expired (R276). -/
def State.timedOut (s : State) (sid : Nat) : Bool :=
  let s : State := { s with cur := sid }
  match s.me.wait with
  | none => false
  | some w =>
    match limitReg w.instr with
    | some rt => s.expired w.instr (s.rx rt)
    | none => false

/-- WAIT_TIMEOUT (R276): the wait of a WAITA, TLWAIT, BAR.WT or JOIN ends at its limit, in TIMEOUT unless it is satisfied in the same cycle. -/
def execWaitTimeout (sid : Nat) (s : State) : Res :=
  if !s.timedOut sid then .next s
  else
    s.endWait sid true fun i =>
      match i with
      | .waita rt rs1 rs2 cond off => some (execWaita rt rs1 rs2 cond off)
      | .tlwait rn rt tl cx im lo => some (execTlwait rn rt tl cx im lo)
      | .barWt rt kind idx => some (execBarWt rt kind idx)
      | .join rd rs1 rt => some (execJoin rd rs1 rt)
      | _ => none

/-- PREEMPT_CSR_WRITE (R302): the preempt register of a strand that runs is written at supervisor level. -/
def execPreemptCsrWrite (sid : Nat) (value : Word) (s : State) : Res :=
  .next (if (s.strand sid).phase == .running && csrLegal 0x016 value then s.setPreempt sid value else s)

/-- WDWIN_WRITE (R307): the window of a strand's group is written at supervisor level. -/
def execWdwinWrite (sid : Nat) (value : Word) (s : State) : Res :=
  .next (if (s.strand sid).phase == .running then s.setWdwin sid value else s)

/-- CSR_WRITE (R44): a legal write of a CSR that has no behaviour of its own, at the strand's level, or at supervisor level where it is held. -/
def execCsrWrite (sid : Nat) (csr : BitVec 12) (value : Word) (s : State) : Res :=
  let n := csr.toNat
  let t := s.strand sid
  .next (if t.phase == .running && n != 0x016 && n != 0x017 && csrAccess n (t.sup || t.hold.isSome) == some 2 && csrLegal n value &&
      !(n == 0x040 && value.toNat % 64 != 0) && !(csrWaits n && !t.vecDone && t.hold.isNone)
    then s.csrSet sid n value false else s)

end Sys2Proof.Machine
end

