-- ==== Sys2Proof/Machine/Dispatch.lean ====
section
/-!
DEFINITION. One arm for each row of the opcode table: a direct call of its meaning.
-/

namespace Sys2Proof.Machine

/-- What an instruction or event does to the state. -/
def exec (i : Instr) (s : State) : Host.Outcome State Fault Refusal :=
  match i with
  | .add rd rs1 rs2 => Sys2Proof.Machine.execAdd rd rs1 rs2 s
  | .sub rd rs1 rs2 => Sys2Proof.Machine.execSub rd rs1 rs2 s
  | .and rd rs1 rs2 => Sys2Proof.Machine.execAnd rd rs1 rs2 s
  | .or rd rs1 rs2 => Sys2Proof.Machine.execOr rd rs1 rs2 s
  | .xor rd rs1 rs2 => Sys2Proof.Machine.execXor rd rs1 rs2 s
  | .sll rd rs1 rs2 => Sys2Proof.Machine.execSll rd rs1 rs2 s
  | .srl rd rs1 rs2 => Sys2Proof.Machine.execSrl rd rs1 rs2 s
  | .sra rd rs1 rs2 => Sys2Proof.Machine.execSra rd rs1 rs2 s
  | .slt rd rs1 rs2 => Sys2Proof.Machine.execSlt rd rs1 rs2 s
  | .sltu rd rs1 rs2 => Sys2Proof.Machine.execSltu rd rs1 rs2 s
  | .addi rd rs1 imm => Sys2Proof.Machine.execAddi rd rs1 imm s
  | .andi rd rs1 imm => Sys2Proof.Machine.execAndi rd rs1 imm s
  | .ori rd rs1 imm => Sys2Proof.Machine.execOri rd rs1 imm s
  | .xori rd rs1 imm => Sys2Proof.Machine.execXori rd rs1 imm s
  | .slti rd rs1 imm => Sys2Proof.Machine.execSlti rd rs1 imm s
  | .sltiu rd rs1 imm => Sys2Proof.Machine.execSltiu rd rs1 imm s
  | .slli rd rs1 sh => Sys2Proof.Machine.execSlli rd rs1 sh s
  | .srli rd rs1 sh => Sys2Proof.Machine.execSrli rd rs1 sh s
  | .srai rd rs1 sh => Sys2Proof.Machine.execSrai rd rs1 sh s
  | .lui rd imm => Sys2Proof.Machine.execLui rd imm s
  | .apc rd imm => Sys2Proof.Machine.execApc rd imm s
  | .li rd imm => Sys2Proof.Machine.execLi rd imm s
  | .addiL rd rs1 imm => Sys2Proof.Machine.execAddiL rd rs1 imm s
  | .mul rd rs1 rs2 => Sys2Proof.Machine.execMul rd rs1 rs2 s
  | .mulh rd rs1 rs2 => Sys2Proof.Machine.execMulh rd rs1 rs2 s
  | .mulhu rd rs1 rs2 => Sys2Proof.Machine.execMulhu rd rs1 rs2 s
  | .div rd rs1 rs2 => Sys2Proof.Machine.execDiv rd rs1 rs2 s
  | .divu rd rs1 rs2 => Sys2Proof.Machine.execDivu rd rs1 rs2 s
  | .rem rd rs1 rs2 => Sys2Proof.Machine.execRem rd rs1 rs2 s
  | .remu rd rs1 rs2 => Sys2Proof.Machine.execRemu rd rs1 rs2 s
  | .seq rd rs1 rs2 => Sys2Proof.Machine.execSeq rd rs1 rs2 s
  | .sne rd rs1 rs2 => Sys2Proof.Machine.execSne rd rs1 rs2 s
  | .sge rd rs1 rs2 => Sys2Proof.Machine.execSge rd rs1 rs2 s
  | .sgeu rd rs1 rs2 => Sys2Proof.Machine.execSgeu rd rs1 rs2 s
  | .min rd rs1 rs2 => Sys2Proof.Machine.execMin rd rs1 rs2 s
  | .max rd rs1 rs2 => Sys2Proof.Machine.execMax rd rs1 rs2 s
  | .minu rd rs1 rs2 => Sys2Proof.Machine.execMinu rd rs1 rs2 s
  | .maxu rd rs1 rs2 => Sys2Proof.Machine.execMaxu rd rs1 rs2 s
  | .clz rd rs1 => Sys2Proof.Machine.execClz rd rs1 s
  | .ctz rd rs1 => Sys2Proof.Machine.execCtz rd rs1 s
  | .cpop rd rs1 => Sys2Proof.Machine.execCpop rd rs1 s
  | .bfx rd rs1 pos len1 => Sys2Proof.Machine.execBfx rd rs1 pos len1 s
  | .bfxs rd rs1 pos len1 => Sys2Proof.Machine.execBfxs rd rs1 pos len1 s
  | .bfd rd rs1 pos len1 => Sys2Proof.Machine.execBfd rd rs1 pos len1 s
  | .ldZ r base w1 off => Sys2Proof.Machine.execLdZ r base w1 off s
  | .ldS r base w1 off => Sys2Proof.Machine.execLdS r base w1 off s
  | .st r base w1 off => Sys2Proof.Machine.execSt r base w1 off s
  | .ll r base w1 off => Sys2Proof.Machine.execLl r base w1 off s
  | .sc rd base rs2 w1 => Sys2Proof.Machine.execSc rd base rs2 w1 s
  | .ldZOrdered o => Sys2Proof.Machine.execLdZOrdered o s
  | .ldSOrdered o => Sys2Proof.Machine.execLdSOrdered o s
  | .stOrdered o => Sys2Proof.Machine.execStOrdered o s
  | .llOrdered o => Sys2Proof.Machine.execLlOrdered o s
  | .scOrdered o => Sys2Proof.Machine.execScOrdered o s
  | .beq rs1 rs2 off => Sys2Proof.Machine.execBeq rs1 rs2 off s
  | .bne rs1 rs2 off => Sys2Proof.Machine.execBne rs1 rs2 off s
  | .blt rs1 rs2 off => Sys2Proof.Machine.execBlt rs1 rs2 off s
  | .bge rs1 rs2 off => Sys2Proof.Machine.execBge rs1 rs2 off s
  | .bltu rs1 rs2 off => Sys2Proof.Machine.execBltu rs1 rs2 off s
  | .bgeu rs1 rs2 off => Sys2Proof.Machine.execBgeu rs1 rs2 off s
  | .j off => Sys2Proof.Machine.execJ off s
  | .call off => Sys2Proof.Machine.execCall off s
  | .jr rs1 imm => Sys2Proof.Machine.execJr rs1 imm s
  | .callr k rs1 imm => Sys2Proof.Machine.execCallr k rs1 imm s
  | .ret => Sys2Proof.Machine.execRet s
  | .csrrd rd csr => Sys2Proof.Machine.execCsrrd rd csr s
  | .csrwr rd rs1 csr => Sys2Proof.Machine.execCsrwr rd rs1 csr s
  | .csrmw rd rs1 csr => Sys2Proof.Machine.execCsrmw rd rs1 csr s
  | .setvl rd rs1 ew => Sys2Proof.Machine.execSetvl rd rs1 ew s
  | .setvlK rd rs1 ew => Sys2Proof.Machine.execSetvlK rd rs1 ew s
  | .vcfg n => Sys2Proof.Machine.execVcfg n s
  | .vblk off => Sys2Proof.Machine.execVblk off s
  | .vblkr rs1 => Sys2Proof.Machine.execVblkr rs1 s
  | .rqpop rd => Sys2Proof.Machine.execRqpop rd s
  | .smb xc xa stride1 off => Sys2Proof.Machine.execSmb xc xa stride1 off s
  | .smbLong xc xa n1 off strides => Sys2Proof.Machine.execSmbLong xc xa n1 off strides s
  | .waitc l sc c m => Sys2Proof.Machine.execWaitc l sc c m s
  | .fence scope mask => Sys2Proof.Machine.execFence scope mask s
  | .waita rt rs1 rs2 cond off => Sys2Proof.Machine.execWaita rt rs1 rs2 cond off s
  | .tlwait rn rt tl ctx im lo => Sys2Proof.Machine.execTlwait rn rt tl ctx im lo s
  | .barArv rd kind idx => Sys2Proof.Machine.execBarArv rd kind idx s
  | .barWt rt kind idx => Sys2Proof.Machine.execBarWt rt kind idx s
  | .barInit rs1 kind idx level => Sys2Proof.Machine.execBarInit rs1 kind idx level s
  | .trig => Sys2Proof.Machine.execTrig s
  | .exit => Sys2Proof.Machine.execExit s
  | .join rd rs1 rt => Sys2Proof.Machine.execJoin rd rs1 rt s
  | .wmcfg rs1 k => Sys2Proof.Machine.execWmcfg rs1 k s
  | .wmpub rs1 rs2 => Sys2Proof.Machine.execWmpub rs1 rs2 s
  | .strmPush rd rs1 rs2 => Sys2Proof.Machine.execStrmPush rd rs1 rs2 s
  | .progress => Sys2Proof.Machine.execProgress s
  | .launch rd rb => Sys2Proof.Machine.execLaunch rd rb s
  | .copy c => Sys2Proof.Machine.execCopy c s
  | .copyMc c => Sys2Proof.Machine.execCopyMc c s
  | .persist rd ra rlen ctx => Sys2Proof.Machine.execPersist rd ra rlen ctx s
  | .ecall rs1 code => Sys2Proof.Machine.execEcall rs1 code s
  | .tret => Sys2Proof.Machine.execTret s
  | .tretS rd k => Sys2Proof.Machine.execTretS rd k s
  | .hget rd rs1 k => Sys2Proof.Machine.execHget rd rs1 k s
  | .hput rs1 rs2 k => Sys2Proof.Machine.execHput rs1 rs2 k s
  | .tren => Sys2Proof.Machine.execTren s
  | .idle rd rt => Sys2Proof.Machine.execIdle rd rt s
  | .yield => Sys2Proof.Machine.execYield s
  | .tinvAll rs1 rs2 scope => Sys2Proof.Machine.execTinvAll rs1 rs2 scope s
  | .tinvAs rs1 rs2 scope => Sys2Proof.Machine.execTinvAs rs1 rs2 scope s
  | .tinvPg rs1 rs2 scope => Sys2Proof.Machine.execTinvPg rs1 rs2 scope s
  | .lcclean rs1 rs2 => Sys2Proof.Machine.execLcclean rs1 rs2 s
  | .lcinval rs1 rs2 => Sys2Proof.Machine.execLcinval rs1 rs2 s
  | .ownhintDev rs1 => Sys2Proof.Machine.execOwnhintDev rs1 s
  | .ownhintHost rs1 => Sys2Proof.Machine.execOwnhintHost rs1 s
  | .vsave rs1 rs2 k => Sys2Proof.Machine.execVsave rs1 rs2 k s
  | .vrestore rs1 rs2 k => Sys2Proof.Machine.execVrestore rs1 rs2 k s
  | .vrestoreSt rs1 rs2 k => Sys2Proof.Machine.execVrestoreSt rs1 rs2 k s
  | .mcfg geom => Sys2Proof.Machine.execMcfg geom s
  | .mldb rd rs rst fmt w1 cls => Sys2Proof.Machine.execMldb rd rs rst fmt w1 cls s
  | .mldbX rd rs rst ri rn fmt w1 cls => Sys2Proof.Machine.execMldbX rd rs rst ri rn fmt w1 cls s
  | .mma rd row slot => Sys2Proof.Machine.execMma rd row slot s
  | .mvrdSgn rd row slot => Sys2Proof.Machine.execMvrdSgn rd row slot s
  | .mvrdTopk rd row slot => Sys2Proof.Machine.execMvrdTopk rd row slot s
  | .mclr rd row count1 flags => Sys2Proof.Machine.execMclr rd row count1 flags s
  | .mstc rd ra rst row count1 fmt cls => Sys2Proof.Machine.execMstc rd ra rst row count1 fmt cls s
  | .mthr rd row => Sys2Proof.Machine.execMthr rd row s
  | .mthw rs row => Sys2Proof.Machine.execMthw rs row s
  | .mstat rd sel => Sys2Proof.Machine.execMstat rd sel s
  | .vadd f => Sys2Proof.Machine.execVadd f s
  | .vsub f => Sys2Proof.Machine.execVsub f s
  | .vrsub f => Sys2Proof.Machine.execVrsub f s
  | .vand f => Sys2Proof.Machine.execVand f s
  | .vor f => Sys2Proof.Machine.execVor f s
  | .vxor f => Sys2Proof.Machine.execVxor f s
  | .vsll f => Sys2Proof.Machine.execVsll f s
  | .vsrl f => Sys2Proof.Machine.execVsrl f s
  | .vsra f => Sys2Proof.Machine.execVsra f s
  | .vmin f => Sys2Proof.Machine.execVmin f s
  | .vmax f => Sys2Proof.Machine.execVmax f s
  | .vminu f => Sys2Proof.Machine.execVminu f s
  | .vmaxu f => Sys2Proof.Machine.execVmaxu f s
  | .vmul f => Sys2Proof.Machine.execVmul f s
  | .vmulh f => Sys2Proof.Machine.execVmulh f s
  | .vmulhu f => Sys2Proof.Machine.execVmulhu f s
  | .vdiv f => Sys2Proof.Machine.execVdiv f s
  | .vdivu f => Sys2Proof.Machine.execVdivu f s
  | .vrem f => Sys2Proof.Machine.execVrem f s
  | .vremu f => Sys2Proof.Machine.execVremu f s
  | .vmadd f => Sys2Proof.Machine.execVmadd f s
  | .vsadd f => Sys2Proof.Machine.execVsadd f s
  | .vsaddu f => Sys2Proof.Machine.execVsaddu f s
  | .vssub f => Sys2Proof.Machine.execVssub f s
  | .vssubu f => Sys2Proof.Machine.execVssubu f s
  | .vgadd f => Sys2Proof.Machine.execVgadd f s
  | .vgsub f => Sys2Proof.Machine.execVgsub f s
  | .vgcy f => Sys2Proof.Machine.execVgcy f s
  | .vgbw f => Sys2Proof.Machine.execVgbw f s
  | .vmseq f => Sys2Proof.Machine.execVmseq f s
  | .vmsne f => Sys2Proof.Machine.execVmsne f s
  | .vmslt f => Sys2Proof.Machine.execVmslt f s
  | .vmsltu f => Sys2Proof.Machine.execVmsltu f s
  | .vmsle f => Sys2Proof.Machine.execVmsle f s
  | .vmsleu f => Sys2Proof.Machine.execVmsleu f s
  | .vmsgt f => Sys2Proof.Machine.execVmsgt f s
  | .vmsgtu f => Sys2Proof.Machine.execVmsgtu f s
  | .vredsum f => Sys2Proof.Machine.execVredsum f s
  | .vredmax f => Sys2Proof.Machine.execVredmax f s
  | .vredmin f => Sys2Proof.Machine.execVredmin f s
  | .vredmaxu f => Sys2Proof.Machine.execVredmaxu f s
  | .vredminu f => Sys2Proof.Machine.execVredminu f s
  | .vredand f => Sys2Proof.Machine.execVredand f s
  | .vredor f => Sys2Proof.Machine.execVredor f s
  | .vredxor f => Sys2Proof.Machine.execVredxor f s
  | .vfadd f => Sys2Proof.Machine.execVfadd f s
  | .vfsub f => Sys2Proof.Machine.execVfsub f s
  | .vfmul f => Sys2Proof.Machine.execVfmul f s
  | .vfdiv f => Sys2Proof.Machine.execVfdiv f s
  | .vfsqrt f => Sys2Proof.Machine.execVfsqrt f s
  | .vfmin f => Sys2Proof.Machine.execVfmin f s
  | .vfmax f => Sys2Proof.Machine.execVfmax f s
  | .vfma f => Sys2Proof.Machine.execVfma f s
  | .vfms f => Sys2Proof.Machine.execVfms f s
  | .vfnma f => Sys2Proof.Machine.execVfnma f s
  | .vfsgnj f => Sys2Proof.Machine.execVfsgnj f s
  | .vfsgnjn f => Sys2Proof.Machine.execVfsgnjn f s
  | .vfcvtF32Bf16 f => Sys2Proof.Machine.execVfcvtF32Bf16 f s
  | .vfcvtBf16F32 f => Sys2Proof.Machine.execVfcvtBf16F32 f s
  | .vfcvtFI f => Sys2Proof.Machine.execVfcvtFI f s
  | .vfcvtFU f => Sys2Proof.Machine.execVfcvtFU f s
  | .vfcvtIF f => Sys2Proof.Machine.execVfcvtIF f s
  | .vfcvtUF f => Sys2Proof.Machine.execVfcvtUF f s
  | .vmfeq f => Sys2Proof.Machine.execVmfeq f s
  | .vmfne f => Sys2Proof.Machine.execVmfne f s
  | .vmflt f => Sys2Proof.Machine.execVmflt f s
  | .vmfle f => Sys2Proof.Machine.execVmfle f s
  | .vmfgt f => Sys2Proof.Machine.execVmfgt f s
  | .vmfge f => Sys2Proof.Machine.execVmfge f s
  | .vmford f => Sys2Proof.Machine.execVmford f s
  | .vmfclass f => Sys2Proof.Machine.execVmfclass f s
  | .vfredsum f => Sys2Proof.Machine.execVfredsum f s
  | .vfredmax f => Sys2Proof.Machine.execVfredmax f s
  | .vfredmin f => Sys2Proof.Machine.execVfredmin f s
  | .vfaddF64 f => Sys2Proof.Machine.execVfaddF64 f s
  | .vfsubF64 f => Sys2Proof.Machine.execVfsubF64 f s
  | .vfmulF64 f => Sys2Proof.Machine.execVfmulF64 f s
  | .vfdivF64 f => Sys2Proof.Machine.execVfdivF64 f s
  | .vfsqrtF64 f => Sys2Proof.Machine.execVfsqrtF64 f s
  | .vfminF64 f => Sys2Proof.Machine.execVfminF64 f s
  | .vfmaxF64 f => Sys2Proof.Machine.execVfmaxF64 f s
  | .vfmaF64 f => Sys2Proof.Machine.execVfmaF64 f s
  | .vfmsF64 f => Sys2Proof.Machine.execVfmsF64 f s
  | .vfnmaF64 f => Sys2Proof.Machine.execVfnmaF64 f s
  | .vfsgnjF64 f => Sys2Proof.Machine.execVfsgnjF64 f s
  | .vfsgnjnF64 f => Sys2Proof.Machine.execVfsgnjnF64 f s
  | .vfcvtF64F32 f => Sys2Proof.Machine.execVfcvtF64F32 f s
  | .vfcvtF32F64 f => Sys2Proof.Machine.execVfcvtF32F64 f s
  | .vfcvtFIF64 f => Sys2Proof.Machine.execVfcvtFIF64 f s
  | .vfcvtFUF64 f => Sys2Proof.Machine.execVfcvtFUF64 f s
  | .vfcvtIFF64 f => Sys2Proof.Machine.execVfcvtIFF64 f s
  | .vfcvtUFF64 f => Sys2Proof.Machine.execVfcvtUFF64 f s
  | .vmfeqF64 f => Sys2Proof.Machine.execVmfeqF64 f s
  | .vmfneF64 f => Sys2Proof.Machine.execVmfneF64 f s
  | .vmfltF64 f => Sys2Proof.Machine.execVmfltF64 f s
  | .vmfleF64 f => Sys2Proof.Machine.execVmfleF64 f s
  | .vmfgtF64 f => Sys2Proof.Machine.execVmfgtF64 f s
  | .vmfgeF64 f => Sys2Proof.Machine.execVmfgeF64 f s
  | .vmfordF64 f => Sys2Proof.Machine.execVmfordF64 f s
  | .vmfclassF64 f => Sys2Proof.Machine.execVmfclassF64 f s
  | .vfredsumF64 f => Sys2Proof.Machine.execVfredsumF64 f s
  | .vfredmaxF64 f => Sys2Proof.Machine.execVfredmaxF64 f s
  | .vfredminF64 f => Sys2Proof.Machine.execVfredminF64 f s
  | .vqscale f => Sys2Proof.Machine.execVqscale f s
  | .vreds f => Sys2Proof.Machine.execVreds f s
  | .vqapply f => Sys2Proof.Machine.execVqapply f s
  | .vqquant f => Sys2Proof.Machine.execVqquant f s
  | .vtopk f => Sys2Proof.Machine.execVtopk f s
  | .vmand f => Sys2Proof.Machine.execVmand f s
  | .vmor f => Sys2Proof.Machine.execVmor f s
  | .vmxor f => Sys2Proof.Machine.execVmxor f s
  | .vmandn f => Sys2Proof.Machine.execVmandn f s
  | .vmorn f => Sys2Proof.Machine.execVmorn f s
  | .vmnand f => Sys2Proof.Machine.execVmnand f s
  | .vmnor f => Sys2Proof.Machine.execVmnor f s
  | .vmxnor f => Sys2Proof.Machine.execVmxnor f s
  | .vmrel f => Sys2Proof.Machine.execVmrel f s
  | .vmpopc f => Sys2Proof.Machine.execVmpopc f s
  | .vmfirst f => Sys2Proof.Machine.execVmfirst f s
  | .vmslide1 f => Sys2Proof.Machine.execVmslide1 f s
  | .vshiftUp f => Sys2Proof.Machine.execVshiftUp f s
  | .vshiftDn f => Sys2Proof.Machine.execVshiftDn f s
  | .vshiftInsUp f => Sys2Proof.Machine.execVshiftInsUp f s
  | .vshiftInsDn f => Sys2Proof.Machine.execVshiftInsDn f s
  | .vrotDn f => Sys2Proof.Machine.execVrotDn f s
  | .vrotUp f => Sys2Proof.Machine.execVrotUp f s
  | .vrgather f => Sys2Proof.Machine.execVrgather f s
  | .vmv f => Sys2Proof.Machine.execVmv f s
  | .vsel f => Sys2Proof.Machine.execVsel f s
  | .vcompress f => Sys2Proof.Machine.execVcompress f s
  | .vexpand f => Sys2Proof.Machine.execVexpand f s
  | .viota f => Sys2Proof.Machine.execViota f s
  | .vid f => Sys2Proof.Machine.execVid f s
  | .vconfl f => Sys2Proof.Machine.execVconfl f s
  | .vsegscan f => Sys2Proof.Machine.execVsegscan f s
  | .visect f => Sys2Proof.Machine.execVisect f s
  | .vmerge f => Sys2Proof.Machine.execVmerge f s
  | .vmpopcRq f => Sys2Proof.Machine.execVmpopcRq f s
  | .vmfirstRq f => Sys2Proof.Machine.execVmfirstRq f s
  | .vrqb f => Sys2Proof.Machine.execVrqb f s
  | .vrqe f => Sys2Proof.Machine.execVrqe f s
  | .vsetlc f => Sys2Proof.Machine.execVsetlc f s
  | .vsetvl f => Sys2Proof.Machine.execVsetvl f s
  | .vld f => Sys2Proof.Machine.execVld f s
  | .vlds f => Sys2Proof.Machine.execVlds f s
  | .vldx f => Sys2Proof.Machine.execVldx f s
  | .vldff f => Sys2Proof.Machine.execVldff f s
  | .vst f => Sys2Proof.Machine.execVst f s
  | .vsts f => Sys2Proof.Machine.execVsts f s
  | .vstx f => Sys2Proof.Machine.execVstx f s
  | .vstr f => Sys2Proof.Machine.execVstr f s
  | .vlink f => Sys2Proof.Machine.execVlink f s
  | .vscond f => Sys2Proof.Machine.execVscond f s
  | .vamoAdd f => Sys2Proof.Machine.execVamoAdd f s
  | .vamoMin f => Sys2Proof.Machine.execVamoMin f s
  | .vamoMax f => Sys2Proof.Machine.execVamoMax f s
  | .vamoMinu f => Sys2Proof.Machine.execVamoMinu f s
  | .vamoMaxu f => Sys2Proof.Machine.execVamoMaxu f s
  | .vamoSwap f => Sys2Proof.Machine.execVamoSwap f s
  | .vamoCas f => Sys2Proof.Machine.execVamoCas f s
  | .vamoFadd f => Sys2Proof.Machine.execVamoFadd f s
  | .rred f => Sys2Proof.Machine.execRred f s
  | .vwaitv f => Sys2Proof.Machine.execVwaitv f s
  | .vtoa f => Sys2Proof.Machine.execVtoa f s
  | .vtoaS f => Sys2Proof.Machine.execVtoaS f s
  | .vfromc f => Sys2Proof.Machine.execVfromc f s
  | .vthrmax f => Sys2Proof.Machine.execVthrmax f s
  | .blockStart sid => Sys2Proof.Machine.execBlockStart sid s
  | .convoyStripIssue core elig => Sys2Proof.Machine.execConvoyStripIssue core elig s
  | .memoryReply sid => Sys2Proof.Machine.execMemoryReply sid s
  | .vamoCommit sid => Sys2Proof.Machine.execVamoCommit sid s
  | .convoyRetire sid => Sys2Proof.Machine.execConvoyRetire sid s
  | .trapNoticePush sid => Sys2Proof.Machine.execTrapNoticePush sid s
  | .forcedPreemption sid => Sys2Proof.Machine.execForcedPreemption sid s
  | .heldPreemptExpiry sid => Sys2Proof.Machine.execHeldPreemptExpiry sid s
  | .watchdogWindowEnd group => Sys2Proof.Machine.execWatchdogWindowEnd group s
  | .migration group => Sys2Proof.Machine.execMigration group s
  | .placement window => Sys2Proof.Machine.execPlacement window s
  | .gangAcceptance die => Sys2Proof.Machine.execGangAcceptance die s
  | .groupRetirement group => Sys2Proof.Machine.execGroupRetirement group s
  | .joinStatusWrite gang => Sys2Proof.Machine.execJoinStatusWrite gang s
  | .groupKill k => Sys2Proof.Machine.execGroupKill k s
  | .groupFaultEnd group cause => Sys2Proof.Machine.execGroupFaultEnd group cause s
  | .streamLaunch die stream => Sys2Proof.Machine.execStreamLaunch die stream s
  | .streamCopy die stream => Sys2Proof.Machine.execStreamCopy die stream s
  | .streamWaitv die stream => Sys2Proof.Machine.execStreamWaitv die stream s
  | .streamSigv die stream => Sys2Proof.Machine.execStreamSigv die stream s
  | .streamTrigwait die stream => Sys2Proof.Machine.execStreamTrigwait die stream s
  | .streamCommandComplete die stream => Sys2Proof.Machine.execStreamCommandComplete die stream s
  | .streamWaitvTimeout die stream => Sys2Proof.Machine.execStreamWaitvTimeout die stream s
  | .registerAddressSpace fn asid desc => Sys2Proof.Machine.execRegisterAddressSpace fn asid desc s
  | .registerStream fn die stream ctl asid => Sys2Proof.Machine.execRegisterStream fn die stream ctl asid s
  | .mapCopyContext fn asid num die ctx => Sys2Proof.Machine.execMapCopyContext fn asid num die ctx s
  | .setStreamState fn die stream state => Sys2Proof.Machine.execSetStreamState fn die stream state s
  | .setContextState fn die ctx run clear => Sys2Proof.Machine.execSetContextState fn die ctx run clear s
  | .pinOwnershipRegion fn domain base => Sys2Proof.Machine.execPinOwnershipRegion fn domain base s
  | .unpinOwnershipRegion fn domain base => Sys2Proof.Machine.execUnpinOwnershipRegion fn domain base s
  | .enableOwnershipDomain fn domain => Sys2Proof.Machine.execEnableOwnershipDomain fn domain s
  | .disableOwnershipDomain fn domain => Sys2Proof.Machine.execDisableOwnershipDomain fn domain s
  | .placeSupervisorStrand p => Sys2Proof.Machine.execPlaceSupervisorStrand p s
  | .removeSupervisorStrand fn r => Sys2Proof.Machine.execRemoveSupervisorStrand fn r s
  | .copyOperationStart die ctx => Sys2Proof.Machine.execCopyOperationStart die ctx s
  | .copyOperationEnd die ctx => Sys2Proof.Machine.execCopyOperationEnd die ctx s
  | .copyFaultStop die ctx => Sys2Proof.Machine.execCopyFaultStop die ctx s
  | .copyMcDestinationComplete die ctx dest => Sys2Proof.Machine.execCopyMcDestinationComplete die ctx dest s
  | .persistenceFlushAck die ctx => Sys2Proof.Machine.execPersistenceFlushAck die ctx s
  | .rredUpdate index => Sys2Proof.Machine.execRredUpdate index s
  | .ownershipTransferComplete region => Sys2Proof.Machine.execOwnershipTransferComplete region s
  | .ownershipTransferTimeout region => Sys2Proof.Machine.execOwnershipTransferTimeout region s
  | .hostRead byte n => Sys2Proof.Machine.execHostRead byte n s
  | .hostWrite byte n value => Sys2Proof.Machine.execHostWrite byte n value s
  | .lineEviction core line => Sys2Proof.Machine.execLineEviction core line s
  | .fetchFill core line => Sys2Proof.Machine.execFetchFill core line s
  | .codeObjectLoad asid desc len => Sys2Proof.Machine.execCodeObjectLoad asid desc len s
  | .rowClaim core => Sys2Proof.Machine.execRowClaim core s
  | .mldbComplete core n => Sys2Proof.Machine.execMldbComplete core n s
  | .checkPoint core n => Sys2Proof.Machine.execCheckPoint core n s
  | .accumulatorRowWrite core n => Sys2Proof.Machine.execAccumulatorRowWrite core n s
  | .mclrComplete core n => Sys2Proof.Machine.execMclrComplete core n s
  | .mstcComplete core n => Sys2Proof.Machine.execMstcComplete core n s
  | .waitaSatisfied sid => Sys2Proof.Machine.execWaitaSatisfied sid s
  | .tlwaitSatisfied sid => Sys2Proof.Machine.execTlwaitSatisfied sid s
  | .barrierArrival sid => Sys2Proof.Machine.execBarrierArrival sid s
  | .barWtEnd sid => Sys2Proof.Machine.execBarWtEnd sid s
  | .joinSatisfied sid => Sys2Proof.Machine.execJoinSatisfied sid s
  | .rqpopEnd sid => Sys2Proof.Machine.execRqpopEnd sid s
  | .waitcEnd sid => Sys2Proof.Machine.execWaitcEnd sid s
  | .shareGrant sid => Sys2Proof.Machine.execShareGrant sid s
  | .copySlotFree sid => Sys2Proof.Machine.execCopySlotFree sid s
  | .watermarkWaitEnd sid => Sys2Proof.Machine.execWatermarkWaitEnd sid s
  | .vwaitvElementSatisfied sid elem => Sys2Proof.Machine.execVwaitvElementSatisfied sid elem s
  | .waitTimeout sid => Sys2Proof.Machine.execWaitTimeout sid s
  | .watermarkTimeout sid => Sys2Proof.Machine.execWatermarkTimeout sid s
  | .vwaitvExpiry sid => Sys2Proof.Machine.execVwaitvExpiry sid s
  | .idleEnd sid => Sys2Proof.Machine.execIdleEnd sid s
  | .preemptCsrWrite sid value => Sys2Proof.Machine.execPreemptCsrWrite sid value s
  | .wdwinWrite sid value => Sys2Proof.Machine.execWdwinWrite sid value s
  | .csrWrite sid csr value => Sys2Proof.Machine.execCsrWrite sid csr value s
  | .breakpoint b => Sys2Proof.Machine.execBreakpoint b s
  | .fyvContinue core => Sys2Proof.Machine.execFyvContinue core s
  | .fyvPreempt sid grace => Sys2Proof.Machine.execFyvPreempt sid grace s
  | .fyvView v => Sys2Proof.Machine.execFyvView v s
  | .monitorTrace core row => Sys2Proof.Machine.execMonitorTrace core row s
  | .rredlog a => Sys2Proof.Machine.execRredlog a s
  | .ctx asid k => Sys2Proof.Machine.execCtx asid k s
  | .vamoView v => Sys2Proof.Machine.execVamoView v s
  | .mrec group => Sys2Proof.Machine.execMrec group s
  | .xlate sid addr => Sys2Proof.Machine.execXlate sid addr s
  | .hostrd gang k n => Sys2Proof.Machine.execHostrd gang k n s
  | .hostwr gang k n value => Sys2Proof.Machine.execHostwr gang k n value s
  | .powerGood b => Sys2Proof.Machine.execPowerGood b s
  | .thermalShutdown die => Sys2Proof.Machine.execThermalShutdown die s
  | .dieResetRelease r => Sys2Proof.Machine.execDieResetRelease r s
  | .softError e => Sys2Proof.Machine.execSoftError e s
  | .kaolinUncorrectableError line => Sys2Proof.Machine.execKaolinUncorrectableError line s
  | .coreWithdrawal core faulted => Sys2Proof.Machine.execCoreWithdrawal core faulted s
  | .peerLinkLoss peer => Sys2Proof.Machine.execPeerLinkLoss peer s
  | .tdispErrorTransition fn => Sys2Proof.Machine.execTdispErrorTransition fn s
  | .spdmRequest r => Sys2Proof.Machine.execSpdmRequest r s
  | .firmwareImageUpdate block hash signed => Sys2Proof.Machine.execFirmwareImageUpdate block hash signed s
  | .illegalEncoding => Sys2Proof.Machine.execIllegalEncoding s
  | .rowLeavesStage core n => Sys2Proof.Machine.execRowLeavesStage core n s
  | .storePerformedAtHome core line => Sys2Proof.Machine.execStorePerformedAtHome core line s
  | .hostLinkTraining gen => Sys2Proof.Machine.execHostLinkTraining gen s
  | .tdispStateRequest fn target => Sys2Proof.Machine.execTdispStateRequest fn target s
  | .peerLinkReturn peer => Sys2Proof.Machine.execPeerLinkReturn peer s

end Sys2Proof.Machine
end

