-- ==== Sys2Proof/Machine/Sched.lean ====
section
/-!
DEFINITION. What a turn runs: the instruction at a strand's pc (R27, R30), the next step of a strand's vector side (R123 to R126), events that are
due by themselves, and the schedule where the agenda names nobody (entry 1).
-/

namespace Sys2Proof.Machine

/-- What fetching and decoding at a strand's pc gives: an instruction, or a cause with taddr (R27, R30, R93). A word that is no instruction is
the table's ILLEGAL_ENCODING. -/
inductive Fetched where
  | instr (i : Instr)
  | trap (cause : Nat) (addr : Nat)
deriving DecidableEq, Repr

/-- The instruction a decoding gives: an encoding that is none is ILLEGAL_ENCODING (R49). -/
def instrOf (r : Except DecodeError Instr) : Instr :=
  match r with
  | .ok i => i
  | .error _ => .illegalEncoding

/-- Fetch and decode at the pc of strand sid. The second word of a long form that cannot be fetched gives taddr = pc + 32 (R30). -/
def State.fetchScalar (s : State) (sid : Nat) : State × Fetched :=
  let pc := (s.strand sid).pc.toNat
  let ag := s.agentOf sid
  match s.fetch32 ag false pc with
  | (s, .trap c a) => (s, .trap c a)
  | (s, .ok w) =>
    if isLongWord w then
      let pc1 := (pc + 32) % 2 ^ 64
      match s.fetch32 ag false pc1 with
      | (s, .trap c _) => (s, .trap c pc1)
      | (s, .ok x) => (s, .instr (instrOf (decodeLong (w + x * 2 ^ 32))))
    else (s, .instr (instrOf (decodeScalar w)))

/-- A turn's cycles pass (R2): cores that fyv halts and dies whose issue is stopped do not count them (R262, R351). -/
def State.tick (s : State) (dt : Nat) : State :=
  if dt = 0 then s else
  { s with
    now := s.now + dt
    dies := s.dies.map fun d => (d.1, if d.2.stopped || d.2.inReset then { d.2 with lag := d.2.lag + dt } else d.2)
    cores := s.cores.map fun c =>
      (c.1, if c.2.halted && !((s.die (dieOf c.1)).stopped || (s.die (dieOf c.1)).inReset) then { c.2 with lag := c.2.lag + dt } else c.2) }

/-- The eligibility bits that name one strand context (R127). -/
def eligOf (sid : Nat) : BitVec 8 := BitVec.ofNat 8 (2 ^ ctxOf sid)

/-- What a VWAITV in progress does next (R280): it expires, or one of the elements left is read again. -/
noncomputable def State.vwaitTodo (s : State) (sid : Nat) : Instr :=
  match s.vwaiting sid with
  | none => .vwaitvExpiry sid
  | some (f, left, since, c) =>
    let lim := (c.arg f.mfmt.toNat).w.toNat
    if lim != 0 && lim ≤ s.coreCycle (coreOf sid) - since then .vwaitvExpiry sid
    else .vwaitvElementSatisfied sid (nth 0 left (s.now % left.length))

/-- A strip of the strand alone issues. -/
noncomputable def stripOf (sid : Nat) : Instr := .convoyStripIssue (coreOf sid) (eligOf sid)

/-- What the convoy in progress does next: its strips issue, its members execute in order, it retires (R126). None where it may not go on. -/
noncomputable def State.convTodo (s : State) (sid : Nat) (c : Conv) : Option Instr :=
  match c.pend with
  | .elems _ _ => some (.memoryReply sid)
  | .vamo r _ sent came => some (if r < 9 && came.length < sent.length then .memoryReply sid else .vamoCommit sid)
  | .vwait _ _ => some (s.vwaitTodo sid)
  | .none | .heads _ _ =>
    if !s.vecGoes sid then none
    else if c.issued < c.strips then some (stripOf sid)
    else if c.slot < c.words.length then some (instrOf (decodeMember (nth 0 c.words c.slot)))
    else some (.convoyRetire sid)

/-- What the strand's vector side does where its last convoy strip has issued: the next block starts, or its next convoy is checked and issues (R123, R126, R127). -/
noncomputable def State.nextTodo (s : State) (sid : Nat) : Option Instr :=
  let t := s.strand sid
  if !s.vecStarts sid then none else
  match t.conv, t.blk with
  | none, none => if t.queue.isEmpty then none else some (.blockStart sid)
  | none, some b =>
    if t.convWait.isNone then (if s.wantsStrip sid then some (stripOf sid) else none)
    else
      (match (({ s with cur := sid } : State).checkConvoy sid b).2 with
       | .trap _ => some (.watermarkTimeout sid)
       | _ => some (.watermarkWaitEnd sid))
  | some c, _ =>
    if t.issuedAll && !(blocksOf t.queue).isEmpty then some (.blockStart sid)
    else if c.strips ≤ c.issued && s.wantsStrip sid then some (stripOf sid)
    else none

/-- The next step of a strand's vector side (R123 to R127): the oldest convoy behind the one in progress retires, or else the turn's choice of what goes on: a
convoy behind, the one in progress, or what comes next. -/
noncomputable def State.vectorTodo (s : State) (sid : Nat) : Option Instr :=
  let t := s.strand sid
  let n := t.behind.length
  if s.pastGoes sid then some (.convoyRetire sid) else
  match s.choice sid with
  | some i =>
    let u := t.focus i
    u.conv.bind ((s.setStrand sid u).convTodo sid)
  | none =>
    match t.conv with
    | none => s.nextTodo sid
    | some c => if s.pick % (n + 2) = n then (s.convTodo sid c).orElse fun _ => s.nextTodo sid else (s.nextTodo sid).orElse fun _ => s.convTodo sid c

/-- What is due at a cycle by itself: forced pre-emptions, watchdog windows, removals that waited (R299, R303, R307, R333). -/
noncomputable def State.due (s : State) : List Instr :=
  (s.strands.filter fun p => s.preemptDue p.1 && !p.2.performing).map (fun p => Instr.forcedPreemption p.1) ++
  (s.strands.filter fun p => p.2.heldPre.isSome && !p.2.topen && !p.2.performing && s.canIssue p.1 &&
    p.2.heldPre.getD 0 + p.2.grace ≤ s.coreCycle (coreOf p.1)).map (fun p => Instr.heldPreemptExpiry p.1) ++
  (s.groups.filter fun p => (p.2.phase == .placed || p.2.phase == .migrating) && p.2.wd != .off && p.2.wdwin != 0 && !s.frozen p.2.core &&
    p.2.wdwin.toNat ≤ p.2.wdBase + (s.coreCycle p.2.core - p.2.wdStart)).map (fun p => Instr.watchdogWindowEnd p.1) ++
  (s.removals.filter fun r => !s.anyHeld r.1).map (fun r =>
    let sid := (s.supOf r.1).getD 0
    Instr.removeSupervisorStrand r.2 { core := r.1, ctx := ctxOf sid, asid := (s.strand sid).asid })

/-- Events of a core's matrix engine for its numbered operations (R228 to R252). -/
noncomputable def mxDuties (k : Nat) (o : MxOp) : List Instr :=
  [.mldbComplete k o.num, .checkPoint k o.num, .rowLeavesStage k o.num, .accumulatorRowWrite k o.num, .mclrComplete k o.num, .mstcComplete k o.num]

/-- Events of a copy context with an operation to execute (R197 to R202). -/
noncomputable def copyDuties (d : Nat) (c : Nat × CopyCtx) : List Instr :=
  match c.2.ops with
  | [] => []
  | o :: _ =>
    if !o.started then [.copyOperationStart d c.1]
    else (List.range o.dests.length).map (Instr.copyMcDestinationComplete d c.1) ++ [.copyOperationEnd d c.1, .copyFaultStop d c.1]

/-- Events of a stream (R60, R61). -/
noncomputable def streamDuties (d : Nat) (x : Nat × Stream) : List Instr :=
  if x.2.cmd.isSome then [.streamCommandComplete d x.1, .streamWaitvTimeout d x.1]
  else [.streamLaunch d x.1, .streamCopy d x.1, .streamWaitv d x.1, .streamSigv d x.1, .streamTrigwait d x.1]

/-- A command of the host that waits goes on by being run again (R332, R335). -/
noncomputable def hostDuty (p : Nat × HostCmd) : Instr :=
  match p.2 with
  | .streamState die stream state => .setStreamState p.1 die stream state
  | .place q => .placeSupervisorStrand q

/-- Whose turn may come where the agenda names nobody: strands, vector sides, and every event of the part that something waits for. -/
noncomputable def State.duties (s : State) : List Who :=
  ((s.strands.filter fun p => s.canIssue p.1).map fun p => Who.strand p.1) ++
  ((s.strands.filter fun p => !p.2.vecIdle).map fun p => Who.vector p.1) ++
  (((s.strands.filter fun p => (p.2.hold.filter fun h => !h.pushed).isSome).map fun p => Instr.trapNoticePush p.1) ++
   (s.submits.filter fun u => u.status.isNone).map (fun u => Instr.gangAcceptance u.die) ++
   s.hostCmds.map hostDuty ++
   (if (s.gangs.any fun p => p.2.created < p.2.groups) || s.groups.any (fun p => p.2.phase == .waiting) then [Instr.placement none] else []) ++
   (s.groups.filter fun p => p.2.phase == .migrating).map (fun p => Instr.migration p.1) ++
   (s.groups.filter fun p => p.2.phase == .placed || p.2.phase == .ending).map (fun p => Instr.groupRetirement p.1) ++
   (s.gangs.filter fun p => !p.2.joined && p.2.groups ≤ p.2.ended).map (fun p => Instr.joinStatusWrite p.1) ++
   (s.cores.flatMap fun c => c.2.mx.ops.flatMap (mxDuties c.1)) ++
   ((s.cores.filter fun c => !c.2.mx.ops.isEmpty).map fun c => Instr.rowClaim c.1) ++
   (s.dies.flatMap fun d => d.2.ctxs.flatMap (copyDuties d.1)) ++
   (s.dies.flatMap fun d => d.2.streams.flatMap (streamDuties d.1)) ++
   ((List.range s.packets.length).map Instr.rredUpdate) ++
   ((s.transfers.filter s.runs).map fun t => Instr.ownershipTransferComplete t.region)).map Who.event

/-- The line a strand's scalar side stands at, and that of its vector side at a convoy boundary (R262). -/
def Strand.lines (t : Strand) : List (Bool × Word) :=
  if t.phase != .running || t.hold.isSome then []
  else (false, t.pc) :: let u := t.forward; if u.blk.isSome && u.conv.isNone && !t.stopped then [(true, u.vpc)] else []

/-- A breakpoint is set at a line for a strand: for any, or for its group (R291). -/
def State.breakAt (s : State) (t : Strand) (a : Word) : Bool := s.breaks.any fun b => b.2 == a && (b.1.isNone || b.1 == t.group)

/-- A strand that has reached a breakpoint's line halts its whole core (R262, R291), the supervisor strand's line among them. -/
def State.arrived (old new : State) : State :=
  if new.breaks.isEmpty then new
  else
    (new.strands.filter fun p => p.2.lines.any fun l => !(old.strand p.1).lines.contains l && new.breakAt p.2 l.2).foldl
      (fun s p => s.modCore (coreOf p.1) fun c => { c with halted := true }) new

/-- A turn's answer, with the stops of the breakpoints that strands have reached in it. -/
def State.watch (s : State) (r : Res) : Res :=
  match r with
  | .next t => .next (s.arrived t)
  | r => r

/-- Which of a strand's convoys a turn of the model's schedule goes on with: in rotation. -/
noncomputable def State.rotate (s : State) : State := { s with pick := s.now / s.duties.length }

/-- Whose turn comes where the agenda names nobody (entry 1): what is due first, then in rotation. -/
noncomputable def State.defaultTurn (s : State) : Who :=
  match s.due with
  | i :: _ => .event i
  | [] => nth (.strand s.cur) s.duties (s.now % s.duties.length)

end Sys2Proof.Machine
end

