-- ==== Sys2Proof/Machine/Step.lean ====
section
/-!
DEFINITION. One step: the next turn, its cycles, and the instruction or event it runs.
-/

namespace Sys2Proof.Machine

/-- The scalar side of strand sid runs the instruction at its pc. -/
noncomputable def strandTurn (s : State) (sid : Nat) : Host.Outcome State Fault Refusal :=
  if !sidExists sid then .fault .noSuchAgent else
  let s := { s with cur := sid }
  if !s.canIssue sid || s.coreCycle (coreOf sid) < s.me.notBefore then .next s else
  match s.fetchScalar sid with
  | (s, .instr i) => exec i s
  | (s, .trap c a) => s.trap c (BitVec.ofNat 64 a)

/-- The vector side of strand sid takes its next step. -/
noncomputable def vectorTurn (s : State) (sid : Nat) : Host.Outcome State Fault Refusal :=
  if !sidExists sid then .fault .noSuchAgent else
  match s.vectorTodo sid with
  | some i => if i.isEvent then exec i { s with cur := sid } else ({ s with cur := sid } : State).among sid (exec i)
  | none => .next s

/-- A turn. An agenda may name any event of the table; one whose moment has not come changes nothing. -/
noncomputable def turn (s : State) (who : Who) : Host.Outcome State Fault Refusal :=
  match who with
  | .strand sid => strandTurn s sid
  | .vector sid => vectorTurn s sid
  | .event i => if i.isEvent then exec i s else .next s
  | .idle => .next s

/-- One step of the machine: the agenda's next turn, or one of the model's schedule, after its cycles (entry 1); a breakpoint that a strand has then reached
halts its core. -/
noncomputable def step (s : State) : Host.Outcome State Fault Refusal :=
  match s.agenda with
  | t :: rest => s.watch (turn (({ s with agenda := rest, pick := t.nth } : State).tick t.dt) t.who)
  | [] => s.watch (turn (s.tick 1).rotate (s.tick 1).defaultTurn)

/-- Where withFetchWord puts code: virtual and physical bit address of a slice of Kaolin that one range maps as it is. -/
def codeBase : Nat := 2 ^ 25

/-- Address space 0 with one range over the first 2^26 bits of Kaolin, with every permission: its descriptor at 2^20, its table at 2^21. -/
def State.withSpace (s : State) : State :=
  let m := Mem.writeBits s.mem (2 ^ 20) 128 (2 ^ 21 + 2 ^ 64)
  { s with
    mem := Mem.writeBits m (2 ^ 21) 256 (2 ^ 26 * 2 ^ 64 + 0x3E1 * 2 ^ 192)
    spaces := Sparse.put s.spaces 0 { desc := BitVec.ofNat 64 (2 ^ 20), fn := 0 } }

/-- The strand that runs the word: the supervisor strand of core 0 in context 0, with two register shares, at the code. -/
def State.withStrand (s : State) : State :=
  let t := ({ phase := .running, sup := true, asid := 0, pc := BitVec.ofNat 64 codeBase, g := 2, held := 2, lpart := 2, share := 128 } : Strand)
  let s := (s.setStrand 0 t).modDie 0 fun d => { d with inReset := false, stopped := false }
  s.modCore 0 fun c => { c with fetch := [], rlb := [], pages := [], halted := false }

/-- Place an instruction's words where the next step fetches, and what the fetch needs (entry 9): an address space, a running strand and its turn. A vector member
stands as the only slot of a convoy of a one-convoy block, whose check is over. -/
def State.withFetchWord (s : State) (nbits w : Nat) : State :=
  let w := w % 2 ^ nbits
  let s := (s.withSpace.withStrand).setPoison (codeBase / 512) false
  if nbits ≤ 32 || isLongWord w then
    { s with mem := Mem.writeBits s.mem codeBase 64 w, agenda := [{ who := .strand 0, dt := 1 }] }
  else
    let hdr : Header := { kind := 6, count := 0, units := 0, lc := 0, back := 0 }
    let b : Blk := { vl := 1, ew := 2, rm := 0, g := 2 }
    let t := s.strand 0
    let c : Conv := { addr := BitVec.ofNat 64 codeBase, hdr := hdr, konst := 0, words := [w], strips := 1, issued := 1, late := [0]
                      hist := { v := t.v, m := t.m, sc := t.sc, blk := b } }
    let s := s.setStrand 0 { t with vpc := BitVec.ofNat 64 codeBase, blk := some b, conv := some c, vl := 1, smbVl := 1, ew := 2 }
    { s with mem := Mem.writeBits s.mem codeBase 128 (6 * 2 ^ 29 + w * 2 ^ 64), agenda := [{ who := .vector 0, dt := 1 }] }

end Sys2Proof.Machine
end

