-- ==== Sys2Proof/Safety.lean ====
section
/-!
DEFINITION. What counts as a safe run, in the terms the statements use.
-/

namespace Sys2Proof.Machine

/-- A state no run leaves: memory is in its canonical form. -/
def State.Ok (s : State) : Prop := Mem.wf s.mem = true

/-- A run of k steps from s is safe: it neither faults nor is refused. -/
def SafeFor (k : Nat) (s : State) : Prop := ∃ t, Sys2Proof.core.run k s = .next t

/-- Every run from s is safe. -/
def Safe (s : State) : Prop := ∀ k, SafeFor k s

end Sys2Proof.Machine
end

