-- ==== Sys2Proof/Certificates/Slice0/Obligations.lean ====
section
/-!
DEFINITION. The statements of this row, from the numbered rules of spec/. Most say that an instruction or an event completes, in the state its rule
gives, for every state and operands that meet hypotheses on those alone; the others say when it traps, what it leaves unchanged, how it is encoded, and what every
step keeps.
-/

set_option linter.unusedVariables false

namespace Sys2Proof.Spec

open Sys2Proof Sys2Proof.Machine

/-! ### What the statements are made of -/

/-- What an instruction of `len` bits that writes x[rd] and goes on leaves: x[rd] holds the value with its poison (nothing where rd is x0), the pc is past
the instruction, and all else of the machine is as it was (R29, R94, R95). -/
def Writes (s : State) (i : Instr) (len : Nat) (rd : Reg) (v : Word) (p : Bool) : Prop :=
  exec i s = .next (s.setMe { s.me.setX rd { w := v, p := p } with pc := s.me.pc + BitVec.ofNat 64 len, wait := none })

/-- What an instruction of `len` bits leaves that writes no register: the pc is past it, and all else is as it was. -/
def GoesOn (s : State) (i : Instr) (len : Nat) : Prop :=
  exec i s = .next (s.setMe { s.me with pc := s.me.pc + BitVec.ofNat 64 len, wait := none })

/-- The strand whose turn it is continues at a (R94), and all else is as it was. -/
def GoesTo (s : State) (i : Instr) (a : Word) : Prop := exec i s = .next (s.setMe { s.me with pc := a, wait := none })

/-- The instruction raises a cause at its own pc, with taddr a, and has no other effect (R94, R295). -/
def Raises (s : State) (i : Instr) (code : Nat) (a : Word) : Prop :=
  exec i s = .next (s.takeTrap s.cur s.me.pc { code := code, addr := a })

/-- The value of register r, and its poison. -/
def val (s : State) (r : Reg) : Word := (s.me.getX r).w

/-- The poison of register r. -/
def poi (s : State) (r : Reg) : Bool := (s.me.getX r).p

/-- 1 where a condition holds, else 0. -/
def one (b : Bool) : Word := if b then 1#64 else 0#64

/-- The scalar registers other than rd, the vector, mask, scale, argument and loop registers and every special register of a strand are as before. -/
def OnlyX (t u : Strand) (rd : Reg) : Prop :=
  (∀ r : Reg, r ≠ rd → u.getX r = t.getX r) ∧ u = { t with x := u.x, pc := u.pc, wait := u.wait }

/-- Every byte of memory reads as before: at its home, and in every core's line cache. -/
def SameMemory (s t : State) : Prop :=
  (∀ k, t.home (8 * k) 8 = s.home (8 * k) 8) ∧ (∀ c l, t.cacheLine c l = s.cacheLine c l) ∧ t.poison = s.poison ∧ t.tags = s.tags

/-- All of the machine but one strand is as before. -/
def OnlyStrand (s t : State) (sid : Nat) : Prop := t = { s with strands := t.strands } ∧ ∀ k, k ≠ sid → t.strand k = s.strand k

/-- A byte with the stores of core c's strands in it: dirty bits of its line cache over what the home holds (R189). -/
def stored (s : State) (c k : Nat) : Nat :=
  match Sparse.get none ((s.core c).lines.map fun p => (p.1, some p.2)) (8 * k / 512) with
  | none => s.home (8 * k) 8
  | some l => (s.home (8 * k) 8 &&& ((2 ^ 8 - 1) ^^^ field l.dirty (8 * k % 512) 8)) ||| (field l.data (8 * k % 512) 8 &&& field l.dirty (8 * k % 512) 8)

/-- A byte as core c sees it: in its line cache where the line is there, else at its home (R189). -/
def seen (s : State) (c k : Nat) : Nat := field (s.cacheLine c (8 * k / 512)).data (8 * k % 512) 8

/-- t holds the memory that s holds once core c has written the dirty lines of every class back (R269): no line of its cache that holds a class is dirty, and homes and line caches are those that
writing back gives. -/
def Released (s t : State) (c : Nat) : Prop :=
  let r := (s.classLines c 0xFFFF).foldl (fun q l => q.writeBack c l) s
  t.mem = r.mem ∧ t.poison = r.poison ∧ (∀ k, (t.core k).lines = (r.core k).lines) ∧
    ∀ n l, Sparse.get none ((t.core c).lines.map fun p => (p.1, some p.2)) n = some l → (∃ i, i < 16 ∧ l.classes.testBit i = true) → l.dirty = 0

/-- Byte k lies outside every translated part of an access. -/
def Outside (ps : List Piece) (k : Nat) : Prop := ∀ p ∈ ps, 8 * k + 8 ≤ p.tr.fa ∨ p.tr.fa + p.len ≤ 8 * k

/-- The strand in t with x[rd] written and the pc len past, as the end of an instruction whose memory work left t. -/
def ends (t : State) (len : Nat) (rd : Reg) (v : Word) (p : Bool) : State :=
  t.setMe { t.me.setX rd { w := v, p := p } with pc := t.me.pc + BitVec.ofNat 64 len, wait := none }

/-- The strand in t with the pc len past. -/
def past (t : State) (len : Nat) : State := t.setMe { t.me with pc := t.me.pc + BitVec.ofNat 64 len, wait := none }


/-- A convoy of a block is in progress on the strand whose turn it is, and its next member comes. -/
def Runs (s : State) (b : Blk) (k : Conv) : Prop := s.me.blk = some b ∧ s.me.conv = some k

/-- What a member completes with: only its strand changes, and of it only vector, mask and scale registers and the convoy, which goes on to its next slot with the
member's flags and staged effects added. -/
def After (s : State) (i : Instr) (k : Conv) (fl : Nat) (st : List Staged) (t : State) : Prop :=
  exec i s = .next t ∧ OnlyStrand s t s.cur ∧ t.me = { s.me with v := t.me.v, m := t.me.m, sc := t.me.sc, conv := t.me.conv } ∧
    ∃ d wr, t.me.conv = some { k with slot := k.slot + 1, pend := .none, flags := k.flags ||| fl, dirty := d, staged := k.staged ++ st, wrote := k.wrote ++ wr }

/-- Register vd has element e of each e in es written with r e, w bits wide, and its poison; every other element and register is as before. -/
def ElemsOf (t u : Strand) (vd w : Nat) (es : List Nat) (r : Nat → Nat) (p : Nat → Bool) : Prop :=
  (∀ j, j ≠ vd → Sparse.get {} u.v j = Sparse.get {} t.v j) ∧
    ∀ e, (Sparse.get {} u.v vd).get w e = (if e ∈ es then r e % 2 ^ w else (Sparse.get {} t.v vd).get w e) ∧
      (Sparse.get {} u.v vd).poi w e = (if e ∈ es then p e else (Sparse.get {} t.v vd).poi w e)

/-- The member writes those elements of vd, and nothing else but its flags. -/
def Elems (s : State) (i : Instr) (k : Conv) (vd : BitVec 6) (w : Nat) (es : List Nat) (r : Nat → Nat) (p : Nat → Bool) (fl : Nat → Nat := fun _ => 0) : Prop :=
  ∃ t, After s i k (joinFlags es fl) [] t ∧ t.me.m = s.me.m ∧ t.me.sc = s.me.sc ∧ ElemsOf s.me t.me vd.toNat w es r p

/-- The member writes those bits of mask register md, and nothing else but its flags. -/
def MaskBits (s : State) (i : Instr) (k : Conv) (md : BitVec 6) (es : List Nat) (g : Nat → Prop) (fl : Nat → Nat := fun _ => 0) : Prop :=
  ∃ t, After s i k (joinFlags es fl) [] t ∧ t.me.v = s.me.v ∧ t.me.sc = s.me.sc ∧
    (∀ j, j ≠ md.toNat / 8 → Sparse.get 0 t.me.m j = Sparse.get 0 s.me.m j) ∧
    ∀ e, ((Sparse.get 0 t.me.m (md.toNat / 8)).testBit e = true ↔ if e ∈ es then g e else (Sparse.get 0 s.me.m (md.toNat / 8)).testBit e = true)

/-- The member raises a cause for its convoy, naming its slot and an element, and writes nothing of its own. -/
def ConvoyRaises (s : State) (i : Instr) (k : Conv) (code : Nat) (e : Option Nat) : Prop :=
  exec i s = .next (s.convoyTrap s.cur { code := code, slot := k.slot, elem := e })

/-- An element of some that satisfies p comes first. -/
def First (es : List Nat) (p : Nat → Prop) (e : Nat) : Prop := ∃ l r, es = l ++ e :: r ∧ p e ∧ ∀ x ∈ l, ¬ p x

/-- What a member that writes no register notes as written (R324): nothing, where the convoy's word at the slot is no memory member. -/
def NoNotes (k : Conv) (wr : List Wrote) : Prop := (∀ op f, memberOf (nth 0 k.words k.slot) ≠ .vm op f) → wr = []

/-- The member writes no register: its convoy goes on to its next slot with these staged effects added, which take place at its retirement. -/
def Stages (s : State) (i : Instr) (k : Conv) (st : List Staged) : Prop :=
  ∃ wr, NoNotes k wr ∧
    exec i s = .next (s.setMe { s.me with conv := some { k with slot := k.slot + 1, pend := .none, staged := k.staged ++ st, wrote := k.wrote ++ wr } })

/-- A memory member whose operands are in order and whose probe pass is over comes, no earlier access of its strand keeping it waiting (R264, R265): what the pass found, elements first and trailers after them, in which order it
is performed (R207, R208). A member that a lower slot decides was probed for the elements it has now. -/
def Probed (s : State) (k : Conv) (op : Nat) (f : VMForm) (c : Env) (ps : List Probe) : Prop :=
  vmCheck op f c true = none ∧
    (hasNat k.late k.slot = false ∨ ∃ l, (k.slot, l) ∈ k.probes ∧ stillProbed (c.probeItems op f) (Sparse.get [] k.probes k.slot) = true) ∧
    s.memWaits op f (Sparse.get [] k.probes k.slot) = false ∧ ps = performOrder (Sparse.get [] k.probes k.slot)

end Sys2Proof.Spec

open Sys2Proof Sys2Proof.Machine Sys2Proof.Spec

/-! ### Encoding, the step and reset -/

/-- DECODE AND ENCODE AGREE (R28, R30, R35, R49), both ways, for every instruction that has words: decoding the words of a well-formed instruction gives it
back with every operand, and words that decode are the words of the instruction they give. -/
def Obligations.EncodeDecode : Prop :=
  (∀ i : Instr, i.wf = true →
    (∀ w, encode i = .word w → w < 2 ^ 32 ∧ decodeScalar w = .ok i) ∧
    (∀ w, encode i = .long w → w < 2 ^ 64 ∧ isLongWord w = true ∧ decodeLong w = .ok i) ∧
    (∀ w, encode i = .member w → w < 2 ^ 64 ∧ decodeMember w = .ok i)) ∧
  (∀ w i, decodeScalar w = .ok i → encode i = .word w ∧ i.wf = true) ∧
  (∀ w i, decodeLong w = .ok i → encode i = .long w ∧ i.wf = true) ∧
  (∀ w i, decodeMember w = .ok i → encode i = .member w ∧ i.wf = true)

/-- Words written out field by field from the spec's formats decode to the instructions they stand for: add x3, x1, x2 (R28 format R); ld.z64 x5, [x10] (R104);
beq x1, x2, −1 (R110); li x7, −1, a long form (R30, R99); vadd.i32 v3, v1, v2 (R36); vld.z32 v1, [b0] (R37); and the all-zero word decodes to nothing (R45). -/
def Obligations.DecodedWords : Prop :=
  decodeScalar (0b0000001_00011_00001_00010_000000_0000) = .ok (.add 3 1 2) ∧
  decodeScalar (0b0100000_00101_01010_111111_000000000) = .ok (.ldZ 5 10 63 0) ∧
  decodeScalar (0b0110000_00001_00010_111111111111111) = .ok (.beq 1 2 0x7FFF) ∧
  decodeLong (0b11111111111111111111111111111111_1111111_000000001_00111_11111111111) = .ok (.li 7 0x7FFFFFFFFFF) ∧
  decodeMember (0b0000000001_000011_000001_000010_000000_000_0_10_00_000_000_0000000000000000) =
    .ok (.vadd { vd := 3, vs1 := 1, vs2 := 2, f35 := 0, mask := 0, me := 0, ew := 2, os := 0, rm := 0, variant := 0 }) ∧
  decodeMember (0b1100000000_000001_000_000_000000_000000_000_0_10_011111_000_000_0000_00_000_000) =
    .ok (.vld { vd := 1, hi3 := 0, base := 0, vs2 := 0, f35 := 0, mask := 0, me := 0, ew := 2, w1 := 31, mfmt := 0, am := 0, cls := 0, order := 0, scope := 0, scale := 0 }) ∧
  decodeScalar 0 = .error .illegalForever

/-- A STEP RUNS THE DECODED INSTRUCTION (R27, R30): where the agenda gives a turn to a strand that may issue, and the bits at its pc fetch and decode, the step is
exec of what they decode to, in the state the turn's cycles and the fetch leave; a word whose major is 0x7F takes the next 32 bits with it, and a word, or two, of no
instruction runs ILLEGAL_ENCODING. What a breakpoint makes of the answer (R262) is `watch`, which changes none where no breakpoint is set. The agenda and the turn are
the model's own (log entry 1). -/
def Sys2Proof.Spec.StepRunsDecoded : Prop :=
  ∀ (s u t : State) (sid dt j w : Nat) (rest : List Turn), s.agenda = { who := .strand sid, dt := dt, nth := j } :: rest → sidExists sid = true →
    u = { (({ s with agenda := rest, pick := j } : State).tick dt) with cur := sid } →
    u.canIssue sid = true → u.me.notBefore ≤ u.coreCycle (coreOf sid) →
    u.fetch32 (u.agentOf sid) false u.me.pc.toNat = (t, .ok w) →
    (∀ i, isLongWord w = false → decodeScalar w = .ok i → step s = s.watch (exec i t)) ∧
    (∀ e, isLongWord w = false → decodeScalar w = .error e → step s = s.watch (exec .illegalEncoding t)) ∧
    (∀ i r x, isLongWord w = true → t.fetch32 (u.agentOf sid) false ((u.me.pc.toNat + 32) % 2 ^ 64) = (r, .ok x) →
      decodeLong (w + x * 2 ^ 32) = .ok i → step s = s.watch (exec i r)) ∧
    (∀ e r x, isLongWord w = true → t.fetch32 (u.agentOf sid) false ((u.me.pc.toNat + 32) % 2 ^ 64) = (r, .ok x) →
      decodeLong (w + x * 2 ^ 32) = .error e → step s = s.watch (exec .illegalEncoding r)) ∧
    (∀ r c a, isLongWord w = true → t.fetch32 (u.agentOf sid) false ((u.me.pc.toNat + 32) % 2 ^ 64) = (r, .trap c a) →
      step s = s.watch (r.trap c (u.me.pc + 32#64))) ∧
    (∀ y : State, y.breaks = [] → s.watch (.next y) = .next y)

/-- A STEP OF THE VECTOR SIDE RUNS THE DECODED MEMBER (R118, R123, R126): where the agenda gives a turn to the vector side of a strand, and no complete convoy at the head of those under way has room
to retire, which comes first, the turn's number chooses a convoy under way. Where that has issued every strip, waits for nothing and may go on, and its next slot holds a member word that decodes, the step
is exec of that member: on the strand as it is where the convoy is the newest, and on the strand as an older convoy has it (`among`) where it is one of those. Where the number chooses what comes next,
the newest convoy ends its block and another block is queued, that block starts. An event of the table that the agenda names runs likewise. The agenda and the number are the model's own (log entry 1). -/
def Sys2Proof.Spec.StepRunsMember : Prop :=
  ∀ (s u : State) (dt j : Nat) (rest : List Turn) (who : Who), s.agenda = { who := who, dt := dt, nth := j } :: rest →
    u = ({ s with agenda := rest, pick := j } : State).tick dt →
    (∀ sid, who = .vector sid → sidExists sid = true →
      let t := u.strand sid
      let n := t.behind.length
      let runs := fun (v : State) (c : Conv) (i : Instr) => (v.strand sid).conv = some c ∧ (c.pend = .none ∨ ∃ a b, c.pend = .heads a b) ∧ v.vecGoes sid = true ∧
        c.strips ≤ c.issued ∧ c.slot < c.words.length ∧ decodeMember (nth 0 c.words c.slot) = .ok i
      (u.pastGoes sid = true → step s = s.watch (exec (.convoyRetire sid) { u with cur := sid })) ∧
      (∀ c i, u.pastGoes sid = false → u.pick % (n + 2) = n ∨ u.pick % (n + 2) = n + 1 ∧ u.vecStarts sid = false → runs u c i →
        step s = s.watch (exec i { u with cur := sid })) ∧
      (∀ k c i, u.pastGoes sid = false → t.behind[u.pick % (n + 2)]? = some k → runs (u.setStrand sid (t.focus k)) c i →
        step s = s.watch (({ u with cur := sid } : State).among sid (exec i))) ∧
      (∀ c b, u.pastGoes sid = false → u.pick % (n + 2) = n + 1 → u.vecStarts sid = true → t.conv = some c → c.hdr.kind = 6 → c.strips ≤ c.issued → .block b ∈ t.queue →
        step s = s.watch (exec (.blockStart sid) { u with cur := sid }))) ∧
    (∀ i, who = .event i → i.isEvent = true → step s = s.watch (exec i u))

/-- WHAT RESET LEAVES (R352 step 1): every die of the package is held in reset, and nothing runs: no strand, group, gang, registration, transfer or command. Memory lists
nothing, and no line is poisoned: the spec states no power-on contents, so that part is the model's choice (log entry 6). -/
def Obligations.ResetState : Prop :=
  (∀ d, d < 16 → (State.reset.die d).inReset = true) ∧ (∀ k, (State.reset.strand k).phase = .free) ∧ State.reset.groups = [] ∧
  State.reset.gangs = [] ∧ State.reset.spaces = [] ∧ State.reset.submits = [] ∧ State.reset.packets = [] ∧ State.reset.transfers = [] ∧
  State.reset.booted = false ∧ Mem.wf State.reset.mem = true ∧ (∀ fa w, State.reset.home fa w = 0) ∧ State.reset.poison = []

/-- MEMORY KEEPS ITS CANONICAL FORM: whatever the step runs, if memory is a list of cells at rising addresses with no empty byte listed, it still is after the step. The
form is the model's own way to hold the bits of R80 to R82. -/
def Obligations.MemoryStaysCanonical : Prop := ∀ s t : State, Mem.wf s.mem = true → step s = .next t → Mem.wf t.mem = true

/-- NO STEP STOPS THE MACHINE BUT A TURN OF A STRAND THE PACKAGE LACKS (R67): the step answers a next state, except where the agenda names a strand or vector side the package
does not have: that such a turn stops, and what the default turn is, is the model's agenda (log entry 1). Every instruction and event the machine decodes completes,
with its effect or with a trap. -/
def Obligations.OnlyAbsentStrandsStop : Prop :=
  ∀ s : State, (∃ t, step s = .next t) ∨
    (step s = .fault .noSuchAgent ∧ ∃ dt rest sid, sidExists sid = false ∧
      (s.agenda = { who := .strand sid, dt := dt } :: rest ∨ s.agenda = { who := .vector sid, dt := dt } :: rest ∨
        (s.agenda = [] ∧ ((s.tick 1).defaultTurn = .strand sid ∨ (s.tick 1).defaultTurn = .vector sid))))

/-! ### Scalar instructions -/

/-- TWO-REGISTER OPERATIONS (R96, R100, R101): what each writes to x[rd], for every register and value; x0 discards it (R29), the result is poisoned where a source is
(R95), and nothing else of the machine changes but the pc. Quotients go toward zero, all ones for a zero divisor. -/
def Sys2Proof.Spec.TwoRegisterResults : Prop :=
  ∀ (s : State) (rd rs1 rs2 : Reg),
    let a := val s rs1
    let b := val s rs2
    let w := fun (i : Instr) (v : Word) => Writes s i 32 rd v (poi s rs1 || poi s rs2)
    w (.add rd rs1 rs2) (a + b) ∧ w (.sub rd rs1 rs2) (a - b) ∧ w (.and rd rs1 rs2) (a &&& b) ∧ w (.or rd rs1 rs2) (a ||| b) ∧
    w (.xor rd rs1 rs2) (a ^^^ b) ∧ w (.sll rd rs1 rs2) (a <<< (b % 64#64)) ∧ w (.srl rd rs1 rs2) (a >>> (b % 64#64)) ∧
    w (.sra rd rs1 rs2) (a.sshiftRight' (b % 64#64)) ∧ w (.slt rd rs1 rs2) (one (a.toInt < b.toInt)) ∧
    w (.sltu rd rs1 rs2) (one (a.toNat < b.toNat)) ∧ w (.mul rd rs1 rs2) (a * b) ∧
    w (.mulh rd rs1 rs2) ((a.signExtend 128 * b.signExtend 128).extractLsb' 64 64) ∧
    w (.mulhu rd rs1 rs2) ((a.zeroExtend 128 * b.zeroExtend 128).extractLsb' 64 64) ∧
    w (.div rd rs1 rs2) (if b = 0 then BitVec.allOnes 64 else a.sdiv b) ∧
    w (.divu rd rs1 rs2) (if b = 0 then BitVec.allOnes 64 else a / b) ∧
    w (.rem rd rs1 rs2) (if b = 0 then a else a.srem b) ∧ w (.remu rd rs1 rs2) (if b = 0 then a else a % b) ∧
    w (.seq rd rs1 rs2) (one (a = b)) ∧ w (.sne rd rs1 rs2) (one (a ≠ b)) ∧ w (.sge rd rs1 rs2) (one (b.toInt ≤ a.toInt)) ∧
    w (.sgeu rd rs1 rs2) (one (b.toNat ≤ a.toNat)) ∧ w (.min rd rs1 rs2) (if a.toInt ≤ b.toInt then a else b) ∧
    w (.max rd rs1 rs2) (if a.toInt ≤ b.toInt then b else a) ∧ w (.minu rd rs1 rs2) (if a.toNat ≤ b.toNat then a else b) ∧
    w (.maxu rd rs1 rs2) (if a.toNat ≤ b.toNat then b else a)

/-- IMMEDIATE FORMS, UPPER IMMEDIATES AND THE ARITHMETIC LONG FORMS (R97, R98, R99): what each writes to x[rd]; the long forms are 64 bits long. -/
def Sys2Proof.Spec.ImmediateResults : Prop :=
  ∀ (s : State) (rd rs1 : Reg) (imm : BitVec 15) (sh : BitVec 6) (u : BitVec 20) (l : BitVec 43) (m : BitVec 38),
    let a := val s rs1
    let i := imm.signExtend 64
    let w := fun (i : Instr) (v : Word) => Writes s i 32 rd v (poi s rs1)
    w (.addi rd rs1 imm) (a + i) ∧ w (.andi rd rs1 imm) (a &&& i) ∧ w (.ori rd rs1 imm) (a ||| i) ∧ w (.xori rd rs1 imm) (a ^^^ i) ∧
    w (.slti rd rs1 imm) (one (a.toInt < imm.toInt)) ∧ w (.sltiu rd rs1 imm) (one (a.toNat < i.toNat)) ∧
    w (.slli rd rs1 sh) (a <<< sh) ∧ w (.srli rd rs1 sh) (a >>> sh) ∧ w (.srai rd rs1 sh) (a.sshiftRight' sh) ∧
    Writes s (.lui rd u) 32 rd (BitVec.ofInt 64 (u.toInt * 2 ^ 15)) false ∧
    Writes s (.apc rd u) 32 rd (s.me.pc + BitVec.ofInt 64 (u.toInt * 2 ^ 15)) false ∧
    Writes s (.li rd l) 64 rd (l.signExtend 64) false ∧ Writes s (.addiL rd rs1 m) 64 rd (a + m.signExtend 64) (poi s rs1)

/-- COUNTS AND BIT FIELDS (R102, R103): clz and ctz give the distance of the highest and lowest set bit from the ends, 64 for zero, cpop the number of set bits;
bfx and bfxs extract a field, zero- and sign-extended, and bfd deposits one into x[rd], bit by bit. -/
def Sys2Proof.Spec.CountsAndFields : Prop :=
  ∀ (s : State) (rd rs1 : Reg) (pos len1 : BitVec 6),
    let a := val s rs1
    let p := poi s rs1
    let n := len1.toNat + 1
    (∃ c : Nat, Writes s (.clz rd rs1) 32 rd (BitVec.ofNat 64 c) p ∧ c ≤ 64 ∧ a.toNat < 2 ^ (64 - c) ∧ (c < 64 → 2 ^ (63 - c) ≤ a.toNat)) ∧
    (∃ c : Nat, Writes s (.ctz rd rs1) 32 rd (BitVec.ofNat 64 c) p ∧ c ≤ 64 ∧ a.toNat % 2 ^ c = 0 ∧ (c < 64 → a.getLsbD c = true)) ∧
    (∃ v : Word, Writes s (.cpop rd rs1) 32 rd v p ∧ v.toNat = ((List.range 64).map fun i => (a.getLsbD i).toNat).sum) ∧
    (pos.toNat + n ≤ 64 →
      (∃ v : Word, Writes s (.bfx rd rs1 pos len1) 32 rd v p ∧ ∀ i, i < 64 → v.getLsbD i = (decide (i < n) && a.getLsbD (pos.toNat + i))) ∧
      (∃ v : Word, Writes s (.bfxs rd rs1 pos len1) 32 rd v p ∧ ∀ i, i < 64 → v.getLsbD i = a.getLsbD (pos.toNat + min i (n - 1))) ∧
      (∃ v : Word, Writes s (.bfd rd rs1 pos len1) 32 rd v (poi s rd || p) ∧
        ∀ i, i < 64 → v.getLsbD i = if pos.toNat ≤ i ∧ i < pos.toNat + n then a.getLsbD (i - pos.toNat) else (val s rd).getLsbD i))

/-- THE FRAME OF SCALAR ARITHMETIC (R29, R94): when one of the register-only instructions named here answers a next state, every register but rd, every CSR and vector register of the
strand, every other strand, every core, die, group and gang, and every byte of memory is as before; only the pc, rd and the end of a wait differ. -/
def Obligations.ScalarArithmeticFrame : Prop :=
  ∀ (s t : State) (rd rs1 rs2 : Reg) (imm : BitVec 15) (sh pos len1 : BitVec 6) (u : BitVec 20) (l : BitVec 43) (m : BitVec 38) (i : Instr),
    i ∈ [.add rd rs1 rs2, .sub rd rs1 rs2, .and rd rs1 rs2, .or rd rs1 rs2, .xor rd rs1 rs2, .sll rd rs1 rs2, .srl rd rs1 rs2, .sra rd rs1 rs2,
      .slt rd rs1 rs2, .sltu rd rs1 rs2, .mul rd rs1 rs2, .mulh rd rs1 rs2, .mulhu rd rs1 rs2, .div rd rs1 rs2, .divu rd rs1 rs2, .rem rd rs1 rs2,
      .remu rd rs1 rs2, .seq rd rs1 rs2, .sne rd rs1 rs2, .sge rd rs1 rs2, .sgeu rd rs1 rs2, .min rd rs1 rs2, .max rd rs1 rs2, .minu rd rs1 rs2,
      .maxu rd rs1 rs2, .addi rd rs1 imm, .andi rd rs1 imm, .ori rd rs1 imm, .xori rd rs1 imm, .slti rd rs1 imm, .sltiu rd rs1 imm, .slli rd rs1 sh,
      .srli rd rs1 sh, .srai rd rs1 sh, .lui rd u, .apc rd u, .li rd l, .addiL rd rs1 m, .clz rd rs1, .ctz rd rs1, .cpop rd rs1, .bfx rd rs1 pos len1,
      .bfxs rd rs1 pos len1, .bfd rd rs1 pos len1] →
    exec i s = .next t →
      OnlyX s.me t.me rd ∧ OnlyStrand s t s.cur ∧ SameMemory s t ∧ t.me.getX 0 = {} ∧
      (t.me.pc = s.me.pc + 32#64 ∨ (t.me.pc = s.me.pc + 64#64 ∧ (i = .li rd l ∨ i = .addiL rd rs1 m)))

/-- BRANCHES (R110, R95, R27): for unpoisoned comparands the strand continues at pc + 32 × offset where the condition holds, else at pc + 32; a poisoned comparand
raises POISON_CONTROL (8). Nothing else changes. -/
def Sys2Proof.Spec.Branches : Prop :=
  ∀ (s : State) (rs1 rs2 : Reg) (off : BitVec 15),
    let a := val s rs1
    let b := val s rs2
    let target := s.me.pc + off.signExtend 64 * 32#64
    let br := fun (i : Instr) (c : Prop) =>
      (poi s rs1 = false → poi s rs2 = false → (c → GoesTo s i target) ∧ (¬ c → GoesOn s i 32)) ∧
      (poi s rs1 = true ∨ poi s rs2 = true → Raises s i 8 0)
    br (.beq rs1 rs2 off) (a = b) ∧ br (.bne rs1 rs2 off) (a ≠ b) ∧ br (.blt rs1 rs2 off) (a.toInt < b.toInt) ∧
    br (.bge rs1 rs2 off) (b.toInt ≤ a.toInt) ∧ br (.bltu rs1 rs2 off) (a.toNat < b.toNat) ∧ br (.bgeu rs1 rs2 off) (b.toNat ≤ a.toNat)

/-- JUMPS (R111, R27, R95): j continues at pc + 32 × offset; jr at x[rs1] + sext(imm) where that is a multiple of 32, and raises ALIGN (4) with it as taddr where it is
not, POISON_CONTROL (8) where x[rs1] is poisoned. -/
def Sys2Proof.Spec.Jumps : Prop :=
  ∀ (s : State) (off : BitVec 25) (rs1 : Reg) (imm : BitVec 15),
    let a := val s rs1 + imm.signExtend 64
    GoesTo s (.j off) (s.me.pc + off.signExtend 64 * 32#64) ∧
    (poi s rs1 = false → a.toNat % 32 = 0 → GoesTo s (.jr rs1 imm) a) ∧
    (poi s rs1 = false → a.toNat % 32 ≠ 0 → Raises s (.jr rs1 imm) 4 a) ∧
    (poi s rs1 = true → Raises s (.jr rs1 imm) 8 0)

/-- A STEP RUNS WHAT IT DECODES, on a strand's scalar side, on its vector side, and for an event (R27, R30, R126). -/
def Obligations.StepRuns : Prop := Sys2Proof.Spec.StepRunsDecoded ∧ Sys2Proof.Spec.StepRunsMember

/-- SCALAR ARITHMETIC: two-register operations, immediates and long forms, counts and bit fields (R96 to R103). -/
def Obligations.ScalarResults : Prop := Sys2Proof.Spec.TwoRegisterResults ∧ Sys2Proof.Spec.ImmediateResults ∧ Sys2Proof.Spec.CountsAndFields

/-- BRANCHES AND JUMPS (R110, R111). -/
def Obligations.BranchesAndJumps : Prop := Sys2Proof.Spec.Branches ∧ Sys2Proof.Spec.Jumps

/-- SCALAR LOADS (R104, R106): where x[rs1] is not poisoned, nothing holds the access back, and the w bits at x[rs1] + sext(offset) pass CheckAccess, no earlier access to them is open,
and they are read, the load completes: x[rd] holds them, zero-extended (ld.z) or sign-extended (ld.s), with the poison of the lines read; an ordered form with order 01 is then an acquire of its classes. -/
def Sys2Proof.Spec.ScalarLoads : Prop :=
  ∀ (s s1 s2 : State) (rd base : Reg) (w1 : BitVec 6) (off : BitVec 9) (o : OrdForm) (ps : List Piece) (v : Nat) (p : Bool),
    (poi s base = false → s.heldBack {} = false →
      s.check s.myAgent .load (val s base + off.signExtend 64).toNat (w1.toNat + 1) = (s1, .ok ps) →
      s1.bitsPending s.cur ps = false → s1.readPieces s1.myAgent 0 false ps = (s2, .ok v p) →
      exec (.ldZ rd base w1 off) s = .next (ends s2 32 rd (BitVec.ofNat 64 v) p) ∧
      exec (.ldS rd base w1 off) s = .next (ends s2 32 rd (BitVec.ofInt 64 (sextNat (w1.toNat + 1) v)) p)) ∧
    (poi s o.base = false → s.heldBack (orderOf o) = false →
      s.check s.myAgent .load (val s o.base + o.tail.signExtend 64).toNat (o.w1.toNat + 1) = (s1, .ok ps) →
      s1.bitsPending s.cur ps = false → s1.readPieces s1.myAgent o.cls.toNat false ps = (s2, .ok v p) →
      let q := if o.order = 1 then s2.acquire o.mask.toNat o.scope.toNat else s2
      exec (.ldZOrdered o) s = .next (ends q 64 o.r (BitVec.ofNat 64 v) p) ∧
      exec (.ldSOrdered o) s = .next (ends q 64 o.r (BitVec.ofInt 64 (sextNat (o.w1.toNat + 1) v)) p))

/-- SCALAR STORES (R104, R106): where x[rs1] is not poisoned, nothing holds the access back, and the w bits at x[rs1] + sext(offset) pass CheckAccess, no earlier access to them is open, and they
are written, the store completes and writes no register: the low w bits of x[rs] stand there, with its poison. A release first writes back the dirty lines of its classes, and at quad scope and wider its
own lines reach their home (R267, R269). -/
def Sys2Proof.Spec.ScalarStores : Prop :=
  ∀ (s s1 s2 : State) (r base : Reg) (w1 : BitVec 6) (off : BitVec 9) (o : OrdForm) (ps : List Piece),
    (poi s base = false → s.heldBack {} = false →
      s.check s.myAgent .store (val s base + off.signExtend 64).toNat (w1.toNat + 1) = (s1, .ok ps) →
      s1.bitsPending s.cur ps = false → s1.writePieces s1.myAgent (some s1.cur) 0 false (val s1 r).toNat (poi s1 r) ps = (s2, none) →
      exec (.st r base w1 off) s = .next (past s2 32)) ∧
    (poi s o.base = false → s.heldBack (orderOf o) = false →
      s.check s.myAgent .store (val s o.base + o.tail.signExtend 64).toNat (o.w1.toNat + 1) = (s1, .ok ps) →
      s1.bitsPending s.cur ps = false →
      let q := if o.order = 2 then s1.release o.mask.toNat o.scope.toNat else s1
      q.writePieces q.myAgent (some q.cur) o.cls.toNat false (val q o.r).toNat (poi q o.r) ps = (s2, none) →
      exec (.stOrdered o) s = .next (past (if o.order = 2 ∧ 2 ≤ o.scope.toNat then
        ps.foldl (fun s p => (linesOf p.tr.fa p.len).foldl (fun s l => s.writeBack s.myCore l) s) s2 else s2) 64))

/-- THE FRAME OF A SCALAR STORE (R104, R189): when st answers a next state, every register and special register of its strand and every other strand is as before, and so is every byte of
memory that lies wholly outside the translated parts of the w bits at x[rs1] + sext(offset), and in a byte they cover in part every bit outside them: what the home holds with the dirty bits of the
core's line cache over it. No device is written (R90); an ordered store, whose release writes other lines back, is not named here. The line caches of other cores are as before. -/
def Obligations.ScalarStoreFrame : Prop :=
  ∀ (s s1 t : State) (r base : Reg) (w1 : BitVec 6) (off : BitVec 9) (ps : List Piece), Mem.wf s.mem = true → poi s base = false →
    s.heldBack {} = false → s.check s.myAgent .store (val s base + off.signExtend 64).toNat (w1.toNat + 1) = (s1, .ok ps) →
    s1.bitsPending s.cur ps = false → (∀ p ∈ ps, p.tr.device = false) →
    exec (.st r base w1 off) s = .next t →
      t.me = { s.me with pc := s.me.pc + 32#64, wait := none } ∧ (∀ k, k ≠ s.cur → t.strand k = s.strand k) ∧
      (∀ k, Outside ps k → stored t s.myCore k = stored s s.myCore k) ∧
      (∀ k j, j < 8 → (∀ p ∈ ps, 8 * k + j < p.tr.fa ∨ p.tr.fa + p.len ≤ 8 * k + j) →
        (stored t s.myCore k).testBit j = (stored s s.myCore k).testBit j) ∧
      ∀ c, c ≠ s.myCore → (t.core c).lines = (s.core c).lines

/-- THE FRAME OF A SCALAR LOAD (R104, R189): when ld.z or ld.s answers a next state and no device is read, every register but rd, every special register of its strand and every other strand
is as before, and so is every byte of memory: what the home holds with the dirty bits of the core's line cache over it. The line caches of other cores are as before. -/
def Sys2Proof.Spec.ScalarLoadFrame : Prop :=
  ∀ (s s1 t : State) (rd base : Reg) (w1 : BitVec 6) (off : BitVec 9) (ps : List Piece) (i : Instr), i ∈ [.ldZ rd base w1 off, .ldS rd base w1 off] →
    Mem.wf s.mem = true → poi s base = false → s.heldBack {} = false →
    s.check s.myAgent .load (val s base + off.signExtend 64).toNat (w1.toNat + 1) = (s1, .ok ps) → s1.bitsPending s.cur ps = false →
    (∀ p ∈ ps, p.tr.device = false) → exec i s = .next t →
      OnlyX s.me t.me rd ∧ t.me.pc = s.me.pc + 32#64 ∧ (∀ k, k ≠ s.cur → t.strand k = s.strand k) ∧
      (∀ k, stored t s.myCore k = stored s s.myCore k) ∧ ∀ c, c ≠ s.myCore → (t.core c).lines = (s.core c).lines

/-- A LOAD READS WHAT THE SAME CORE STORED (R6, R104, R189): w bits of a value written to a translated part, through the line cache or at the home, are read back from that part by
the same agent as those bits. -/
def Obligations.StoreThenLoad : Prop :=
  ∀ (s t : State) (ag : Agent) (sid : Option Nat) (cls v : Nat) (pz : Bool) (p : Piece), Mem.wf s.mem = true → p.off = 0 → 0 < p.len →
    p.tr.device = false → s.writePiece ag sid cls false v pz p = (t, true) →
    ∃ u q, t.readPiece ag cls false p = (u, .ok (v % 2 ^ p.len) q) ∧ (pz = true → q = true)

/-- LOAD-LINK AND STORE-CONDITIONAL, short and ordered forms (R106, R107, R108, R109): where the base is not poisoned, the w bits do not cross a line, nothing holds the access back,
CheckAccess admits both a load and a store, and no earlier access to the bits is open, ll reads at the home, remembers address and width, places the strand's tag on the line (on both, where the bits
of one virtual line lie in two physical ones) and writes x[rd]; sc with that link and its tags in place writes at the home and gives 0; any other sc leaves the bits at their homes alone and gives 1;
either way the link clears. The copies of the lines in the core's cache are written back first. That the line is the virtual address's, and that the sc's own write breaks its tags, of which
R109 says nothing, is the model's reading (log entry 25). -/
def Obligations.LinkAndConditional : Prop :=
  ∀ (s s1 s2 : State) (i : Instr) (len : Nat) (rd base rs2 : Reg) (a : Word) (w : Nat) (o : Order) (w1 : BitVec 6) (off : BitVec 9) (f : OrdForm)
    (p : Piece) (v : Nat) (z : Bool),
    poi s base = false → a.toNat % 512 + w ≤ 512 → s.heldBack o = false → s.check s.myAgent .rmw a.toNat w = (s1, .ok [p]) → s1.bitsPending s.cur [p] = false →
    ((i = .ll rd base w1 off ∧ len = 32 ∧ a = val s base + off.signExtend 64 ∧ w = w1.toNat + 1 ∧ o = {}) ∨
      (i = .llOrdered f ∧ len = 64 ∧ rd = f.r ∧ base = f.base ∧ a = val s base + f.tail.signExtend 64 ∧ w = f.w1.toNat + 1 ∧ o = orderOf f) →
      s1.readPieces s1.myAgent o.cls true [p] = (s2, .ok v z) →
      let t := (linesOf p.tr.fa p.len).foldl (fun q l => q.placeTag linkTag l s.cur) (s2.forgetBroken linkTag s.cur)
      let u := t.setMe { t.me with link := some (a.toNat, w) }
      exec i s = .next (ends (if o.order = 1 then u.acquire o.mask o.scope else u) len rd (BitVec.ofNat 64 v) z) ∧
        ∀ l ∈ linesOf p.tr.fa p.len, t.tagged linkTag l s.cur = true) ∧
    ((i = .sc rd base rs2 w1 ∧ len = 32 ∧ a = val s base ∧ w = w1.toNat + 1 ∧ o = {}) ∨
      (i = .scOrdered f ∧ len = 64 ∧ rd = f.r ∧ base = f.base ∧ rs2.toNat = f.tail.toNat / 4 % 32 ∧ a = val s base ∧ w = f.w1.toNat + 1 ∧
        o = orderOf f) →
      let r := if o.order = 2 then s1.release o.mask o.scope else s1
      let u := (linesOf p.tr.fa p.len).foldl (fun q l => q.evict s.myCore l) r
      (s.me.link = some (a.toNat, w) → (∀ l ∈ linesOf p.tr.fa p.len, u.tagged linkTag l s.cur = true) →
        let q := (u.writePieces u.myAgent (some s.cur) o.cls true (val s rs2).toNat (poi s rs2) [p]).1
        exec i s = .next (ends ((q.setMe { q.me with link := none }).forgetBroken linkTag s.cur) len rd 0 false) ∧
          ∀ l ∈ linesOf p.tr.fa p.len, q.tagged linkTag l s.cur = false) ∧
      (s.me.link ≠ some (a.toNat, w) ∨ (∃ l ∈ linesOf p.tr.fa p.len, u.tagged linkTag l s.cur = false) →
        exec i s = .next (ends ((u.setMe { u.me with link := none }).forgetBroken linkTag s.cur) len rd 1 false)))

/-- WHERE A SCALAR ACCESS TRAPS (R95, R104, R105, R107): a poisoned base raises POISON_CONTROL (8); an ll or sc across a line raises ALIGN (4) with its address; what CheckAccess refuses
raises its cause, with its address as taddr, and nothing but the lookaside buffers has changed before the trap is taken. -/
def Sys2Proof.Spec.ScalarAccessTraps : Prop :=
  ∀ (s s1 : State) (r base rs2 : Reg) (w1 : BitVec 6) (off : BitVec 9) (c x : Nat),
    let a := val s base + off.signExtend 64
    let w := w1.toNat + 1
    let fails := fun (i : Instr) => exec i s = .next (s1.takeTrap s.cur s.me.pc { code := c, addr := BitVec.ofNat 64 x })
    (poi s base = true → Raises s (.ldZ r base w1 off) 8 0 ∧ Raises s (.ldS r base w1 off) 8 0 ∧ Raises s (.st r base w1 off) 8 0 ∧
      Raises s (.ll r base w1 off) 8 0 ∧ Raises s (.sc r base rs2 w1) 8 0) ∧
    (poi s base = false → 512 < a.toNat % 512 + w → Raises s (.ll r base w1 off) 4 a) ∧
    (poi s base = false → 512 < (val s base).toNat % 512 + w → Raises s (.sc r base rs2 w1) 4 (val s base)) ∧
    (poi s base = false → s.heldBack {} = false →
      (s.check s.myAgent .load a.toNat w = (s1, .trap c x) → fails (.ldZ r base w1 off) ∧ fails (.ldS r base w1 off)) ∧
      (s.check s.myAgent .store a.toNat w = (s1, .trap c x) → fails (.st r base w1 off)) ∧
      (a.toNat % 512 + w ≤ 512 → s.check s.myAgent .rmw a.toNat w = (s1, .trap c x) → fails (.ll r base w1 off)) ∧
      ((val s base).toNat % 512 + w ≤ 512 → s.check s.myAgent .rmw (val s base).toNat w = (s1, .trap c x) → fails (.sc r base rs2 w1)))

/-- SCALAR LOADS AND STORES, plain and ordered, what a load leaves alone, and where they trap (R104 to R107). -/
def Obligations.ScalarAccesses : Prop :=
  Sys2Proof.Spec.ScalarLoads ∧ Sys2Proof.Spec.ScalarStores ∧ Sys2Proof.Spec.ScalarLoadFrame ∧ Sys2Proof.Spec.ScalarAccessTraps

/-- CALLS AND RETURNS (R112, R113, R27): where nothing holds the frame's access back and x2 is an unpoisoned multiple of 64 whose 128 bits below it may be written, call and callr store
the vector-state word vl + ew·2^20 + k·2^22 there with the return address above it, move x2 down 128 bits and continue at the target. ret, where the 128 bits at x2 are
read without poison and hold an aligned address, continues there with x2 up 128 bits, ew as saved and vl the saved vl or the largest that fits. -/
def Sys2Proof.Spec.CallsReturn : Prop :=
  ∀ (s s1 s2 : State) (off : BitVec 25) (rs1 : Reg) (imm : BitVec 15) (k : BitVec 3) (ps : List Piece) (v : Nat),
    let t := s.me
    let sp := val s 2
    let ra := t.pc + 32#64
    let word := fun (k : Nat) => t.vl + t.ew * 2 ^ 20 + k * 2 ^ 22 + ra.toNat * 2 ^ 64
    let target := val s rs1 + imm.signExtend 64
    s.heldBack {} = false → poi s 2 = false →
    (sp.toNat % 64 = 0 → s.check s.myAgent .store (sp - 128#64).toNat 128 = (s1, .ok ps) → s.bitsPending s.cur ps = false →
      (s1.writePieces s.myAgent (some s.cur) 0 false (word 0) false ps = (s2, none) →
        exec (.call off) s = .next (s2.setMe { t.setX 2 { w := sp - 128#64 } with pc := t.pc + off.signExtend 64 * 32#64, wait := none })) ∧
      (s1.writePieces s.myAgent (some s.cur) 0 false (word k.toNat) false ps = (s2, none) → poi s rs1 = false → target.toNat % 32 = 0 →
        exec (.callr k rs1 imm) s = .next (s2.setMe { t.setX 2 { w := sp - 128#64 } with pc := target, wait := none }))) ∧
    (s.check s.myAgent .load sp.toNat 128 = (s1, .ok ps) → s.bitsPending s.cur ps = false →
      s1.readPieces s.myAgent 0 false ps = (s2, .ok v false) → v / 2 ^ 64 % 32 = 0 →
      let ew := v / 2 ^ 20 % 4
      let vl := min (v % 2 ^ 20) (maxVl t.g t.n2 (ewOf ew))
      exec .ret s = .next (s2.setMe { t.setX 2 { w := sp + 128#64 } with
        vl := vl, smbVl := vl, ew := ew, pc := BitVec.ofNat 64 (v / 2 ^ 64), wait := none }))

/-- WHERE A CALL OR RETURN TRAPS (R95, R112, R113): a callr target that is poisoned raises POISON_CONTROL (8), one that is not a multiple of 32 ALIGN (4) with it as taddr, before anything
is pushed (that its ALIGN comes first is log entry 39); where nothing holds the frame's access back, a poisoned x2 raises POISON_CONTROL, and an x2 that is not a multiple of 64 makes a call raise ALIGN with x2 − 128. A call or
return that is held back waits, its pc staying. -/
def Sys2Proof.Spec.CallTraps : Prop :=
  ∀ (s : State) (off : BitVec 25) (rs1 : Reg) (imm : BitVec 15) (k : BitVec 3),
    let a := val s rs1 + imm.signExtend 64
    (poi s rs1 = true → Raises s (.callr k rs1 imm) 8 0) ∧
    (poi s rs1 = false → a.toNat % 32 ≠ 0 → Raises s (.callr k rs1 imm) 4 a) ∧
    (s.frameWaits .store (val s 2 - 128#64) = false →
      (poi s 2 = true → Raises s (.call off) 8 0) ∧ (poi s 2 = false → (val s 2).toNat % 64 ≠ 0 → Raises s (.call off) 4 (val s 2 - 128#64))) ∧
    (s.frameWaits .load (val s 2) = false → poi s 2 = true → Raises s .ret 8 0) ∧
    (s.heldBack {} = true → exec (.call off) s = .next s ∧ exec .ret s = .next s)

/-- READING A CSR (R43, R44, R114): csrrd of a CSR that the strand's level may read puts its value, with its poison, in x[rd], once the strand's earlier blocks have retired where R44 says so;
a number that is not listed, or that the level may not read, raises ILLEGAL (1). The values of the CSRs are those of R43's table; those of R44's list, read while a convoy waits to retire (the queue being stopped), are what the last retired convoy left (R298). -/
def Sys2Proof.Spec.CsrReads : Prop :=
  ∀ (s : State) (rd : Reg) (n : BitVec 12) (lv : Nat),
    let v := s.csrGet s.cur n.toNat
    let t := s.me
    let q := t.past.head?
    (csrAccess n.toNat t.sup = some lv → 1 ≤ lv → (csrWaits n.toNat = false ∨ t.vecDone = true) → Writes s (.csrrd rd n) 32 rd v.w v.p) ∧
    (csrAccess n.toNat t.sup = none ∨ csrAccess n.toNat t.sup = some 0 → Raises s (.csrrd rd n) 1 0) ∧
    (n = 0x000 → v.w = BitVec.ofNat 64 t.vl) ∧ (n = 0x001 → v.w = BitVec.ofNat 64 (t.ew + t.n2 * 4 + t.g * 32)) ∧
    (n = 0x002 → v.w = BitVec.ofNat 64 ((q.map (·.estart)).getD t.estart)) ∧
    (n = 0x003 → v.w = (q.map (·.vdirty)).getD t.vdirty) ∧ (n = 0x004 → v.w = BitVec.ofNat 64 ((q.map (·.vstate)).getD t.vstate)) ∧
    (n = 0x005 → v.w = BitVec.ofNat 64 t.lpart) ∧ (n = 0x006 → v.w = BitVec.ofNat 64 t.share) ∧ (n = 0x007 → v.w = t.fcsr) ∧ (n = 0x010 → v.w = t.tpc) ∧ (n = 0x011 → v.w = t.tcause) ∧ (n = 0x012 → v.w = t.taddr) ∧ (n = 0x013 → v.w = t.tinfo) ∧
    (n = 0x014 → v.w = one t.topen) ∧ (n = 0x015 → v.w = t.tvec) ∧
    (n = 0x016 → v.w = BitVec.ofNat 64 (t.grace + if t.preq = true then 2 ^ 63 else 0)) ∧
    (n = 0x017 → v.w = (match s.groupOf s.cur with
      | some g => g.wdwin
      | none => 0#64)) ∧
    (n = 0x020 → v.w = (s.die (dieOf s.myCore)).capVa) ∧ (n = 0x022 → v.w = BitVec.ofNat 64 (s.myCore % 64 + dieOf s.myCore * 64 + s.pkg * 1024)) ∧
    (n = 0x024 → v.w = BitVec.ofNat 64 (if ctxOf s.cur = 8 then 8 else t.idx)) ∧
    (n = 0x030 → v.w = BitVec.ofNat 64 (if isLoam s.myCore = true then (s.core s.myCore).mx.mcfg else 0)) ∧
    (∀ i : Fin 4, n.toNat = 0x060 + i.val → v.w = BitVec.ofNat 64 (t.wm[i].w1.toNat / 2 ^ 56 % 2 ^ 8 * 2 ^ 56 + t.wm[i].obs.toNat % 2 ^ 56)) ∧
    (n = 0x021 → v.w = BitVec.ofNat 64 (s.coreCycle s.myCore) + t.rebase) ∧
    (n = 0x023 → v.w = BitVec.ofNat 64 (s.gidOf s.cur)) ∧ (n = 0x040 → v.w = (q.map (·.conv.addr)).getD t.vpc) ∧
    (∀ i : Fin 4, n.toNat = 0x041 + i.val → v.w = ((q.map (·.lc)).getD t.lc)[i]) ∧ (∀ i : Fin 8, n.toNat = 0x048 + i.val → v = ((q.map (·.b)).getD t.b)[i])

/-- WRITING A CSR (R31, R43, R44, R95, R114, R294): csrwr puts x[rs1], csrmw the bits of x[rd] under the mask x[rs1], in a CSR that the level may write, where the value is legal; x[rd] gets the old value.
An illegal value, or a CSR the level may not write, raises ILLEGAL (1) and writes nothing; a poisoned operand of one it may write, x[rs1] of either form or x[rd] of csrmw, raises
POISON_CONTROL (8) (R95); a value of vpc that is not a multiple of 64 raises ALIGN (4): R31 gives a misaligned vpc ALIGN and R294 its level, the trap row of these instructions
lists none, and that software's write of one raises it is the model's reading (log entry 39). -/
def Sys2Proof.Spec.CsrWrites : Prop :=
  ∀ (s : State) (rd rs1 : Reg) (n : BitVec 12),
    let old := s.csrGet s.cur n.toNat
    let mixed := (old.w &&& ~~~(val s rs1)) ||| (val s rd &&& val s rs1)
    let done := fun (i : Instr) (v : Word) => exec i s = .next (ends (s.csrSet s.cur n.toNat v false) 32 rd old.w old.p)
    let aligned := fun (v : Word) => n.toNat = 0x040 → v.toNat % 64 = 0
    (csrAccess n.toNat s.me.sup = some 2 → (csrWaits n.toNat = false ∨ s.me.vecDone = true) → poi s rs1 = false →
      (csrLegal n.toNat (val s rs1) = true → aligned (val s rs1) → done (.csrwr rd rs1 n) (val s rs1)) ∧
      (csrLegal n.toNat (val s rs1) = false → Raises s (.csrwr rd rs1 n) 1 0) ∧
      (poi s rd = false → csrLegal n.toNat mixed = true → aligned mixed → done (.csrmw rd rs1 n) mixed) ∧
      (poi s rd = false → csrLegal n.toNat mixed = false → Raises s (.csrmw rd rs1 n) 1 0)) ∧
    (csrAccess n.toNat s.me.sup ≠ some 2 → Raises s (.csrwr rd rs1 n) 1 0 ∧ Raises s (.csrmw rd rs1 n) 1 0) ∧
    (csrAccess n.toNat s.me.sup = some 2 → poi s rs1 = true → Raises s (.csrwr rd rs1 n) 8 0 ∧ Raises s (.csrmw rd rs1 n) 8 0) ∧
    (csrAccess n.toNat s.me.sup = some 2 → poi s rd = true → Raises s (.csrmw rd rs1 n) 8 0) ∧
    (s.me.sup = true → n = 0x040 → s.me.vecDone = true → poi s rs1 = false → (val s rs1).toNat % 64 ≠ 0 → Raises s (.csrwr rd rs1 n) 4 (val s rs1))

/-- A WRITTEN CSR READS BACK (R43): after a CSR of the strand that its level may write takes a legal value, reading it gives that value, but for preempt and wdwin, which have rules of their
own, and every other CSR reads as before. -/
def Sys2Proof.Spec.CsrReadBack : Prop :=
  ∀ (s : State) (n m : Nat) (v : Word), csrAccess n true = some 2 → csrLegal n v = true → n ≠ 0x016 → n ≠ 0x017 →
    let t := s.csrSet s.cur n v false
    t.csrGet t.cur n = { w := v, p := false } ∧ (m ≠ n → t.csrGet t.cur m = s.csrGet s.cur m)

/-- CALLS AND RETURNS, and where they trap (R112, R113). -/
def Obligations.CallsAndReturns : Prop := Sys2Proof.Spec.CallsReturn ∧ Sys2Proof.Spec.CallTraps

/-- CSRS READ AND WRITTEN (R31, R43, R44, R95, R114, R294, R298; log entry 39). -/
def Obligations.Csrs : Prop := Sys2Proof.Spec.CsrReads ∧ Sys2Proof.Spec.CsrWrites ∧ Sys2Proof.Spec.CsrReadBack

/-! ### The strand's side of the vector unit -/

/-- SETVL AND SETVL.K (R115, R130, R305): with x[rs1] unpoisoned, no pre-emption pending and the shares to be had, setvl takes the shares lpart asks for, declares every register dead (at once
where no block is queued or running; the shares it gives up become free once every convoy before it has retired), and gives vl = the smaller of x[rs1] and what a register holds; setvl.k gives vl and ew alone. Both write vl to x[rd]. A pending pre-emption
makes setvl raise PREEMPT (15), its request cleared, whatever its operand; else a poisoned x[rs1] raises POISON_CONTROL (8); setvl.k raises VEC_ABSENT (12) where vstate is off (R305). That registers
declared dead set vdirty to 0 and vstate to 1, and that this is so where the blocks before have retired, is the model's choice (log entry 22). -/
def Sys2Proof.Spec.VectorLength : Prop :=
  ∀ (s : State) (rd rs1 : Reg) (ew : BitVec 2),
    let t := s.me
    let vl := fun (g : Nat) => min (val s rs1).toNat (maxVl g t.n2 (8 * 2 ^ ew.toNat))
    let u := { t with g := t.lpart, held := t.held + (t.lpart - t.g) - (t.g - t.lpart), queue := [], vl := vl t.lpart, smbVl := vl t.lpart, ew := ew.toNat,
                      v := [], m := [], sc := [], vdirty := 0, vstate := 1 }
    let w := { t with vl := vl t.g, smbVl := vl t.g, ew := ew.toNat }
    (poi s rs1 = false → t.preq = false → (t.lpart ≤ t.g ∨ t.lpart - t.g ≤ s.freeShares s.myCore) →
      (t.queue = [] → t.blk = none → t.past = [] → exec (.setvl rd rs1 ew) s = .next (ends (s.setMe u) 32 rd (BitVec.ofNat 64 (vl t.lpart)) false)) ∧
      (t.queue = [] → t.blk = none → t.past ≠ [] → exec (.setvl rd rs1 ew) s = .next (ends (s.setMe { u with
        held := t.held + (t.lpart - t.g), past := addTaken t.past [.dead (t.g - t.lpart)] }) 32 rd (BitVec.ofNat 64 (vl t.lpart)) false)) ∧
      (t.blk.isSome = true → exec (.setvl rd rs1 ew) s = .next (ends (s.setMe { t with
        g := t.lpart, held := t.held + (t.lpart - t.g), queue := t.queue ++ [.dead (t.g - t.lpart)], vl := vl t.lpart, smbVl := vl t.lpart, ew := ew.toNat })
          32 rd (BitVec.ofNat 64 (vl t.lpart)) false))) ∧
    (t.preq = true → exec (.setvl rd rs1 ew) s =
      .next ((s.setMe { t with preq := false, heldPre := none }).takeTrap s.cur t.pc { code := 15 })) ∧
    (t.preq = false → poi s rs1 = true → Raises s (.setvl rd rs1 ew) 8 0) ∧ (poi s rs1 = true → Raises s (.setvlK rd rs1 ew) 8 0) ∧
    (poi s rs1 = false → t.vstate ≠ 0 → exec (.setvlK rd rs1 ew) s = .next (ends (s.setMe w) 32 rd (BitVec.ofNat 64 (vl t.g)) false)) ∧
    (poi s rs1 = false → t.vstate = 0 → Raises s (.setvlK rd rs1 ew) 12 0)

/-- THE REGISTER COUNT AND BLOCKS (R31, R41, R95, R116, R117, R298): vcfg with 4, 8, 16, 32 or 64 registers and an idle queue declares every register dead and sets vl to 0; any other count, or a
handler whose queue is stopped, raises ILLEGAL (1). vblk and vblkr queue the block at an aligned target with x8 to x15, vl, ew, rounding mode and shares as they are now; a target that
is not a multiple of 64 raises ALIGN (4), a poisoned x[rs1] POISON_CONTROL (8), and a vblk in a handler whose queue is stopped ILLEGAL (R298). vdirty 0 and vstate 1 after vcfg are the
model's choice (log entry 22); so are the order of a poisoned x[rs1] and a stopped queue (log entry 39) and which blocks count against the eight (log entry 42). -/
def Sys2Proof.Spec.BlocksAndCounts : Prop :=
  ∀ (s : State) (n : BitVec 7) (k : Nat) (off : BitVec 25) (rs1 : Reg),
    let t := s.me
    let q := fun (a : Word) => QItem.block { addr := a, args := [t.getX 8, t.getX 9, t.getX 10, t.getX 11, t.getX 12, t.getX 13, t.getX 14, t.getX 15],
                                             vl := t.vl, ew := t.ew, rm := t.fcsr.toNat % 8, g := t.g }
    let a := t.pc + off.signExtend 64 * 32#64
    (n.toNat = 2 ^ k → 2 ≤ k → t.stopped = false → t.vecIdle = true → exec (.vcfg n) s =
      .next (past (s.setMe { t with v := [], m := [], sc := [], vdirty := 0, vstate := 1, vl := 0, smbVl := 0, n2 := k }) 32)) ∧
    ((∀ k, 2 ≤ k → n.toNat ≠ 2 ^ k) ∨ t.stopped = true → Raises s (.vcfg n) 1 0) ∧
    (t.stopped = false → t.queued < 8 →
      (a.toNat % 64 = 0 → exec (.vblk off) s = .next (past (s.setMe { t with queue := t.queue ++ [q a] }) 32)) ∧
      (a.toNat % 64 ≠ 0 → Raises s (.vblk off) 4 a) ∧
      (poi s rs1 = false → (val s rs1).toNat % 64 = 0 → exec (.vblkr rs1) s = .next (past (s.setMe { t with queue := t.queue ++ [q (val s rs1)] }) 32)) ∧
      (poi s rs1 = false → (val s rs1).toNat % 64 ≠ 0 → Raises s (.vblkr rs1) 4 (val s rs1))) ∧
    (poi s rs1 = true → Raises s (.vblkr rs1) 8 0) ∧
    (t.stopped = true → Raises s (.vblk off) 1 0 ∧ (poi s rs1 = false → Raises s (.vblkr rs1) 1 0))

/-- THE REPLY QUEUE AND WAITC (R118, R121, R122, R132): rqpop takes the oldest word with its poison, and waits with its pc on it while the queue is empty; waitc completes when the blocks have issued (R132)
and each of the four counts is at most its field, a field of 63 setting no limit, and with four such fields it waits for nothing. -/
def Sys2Proof.Spec.RepliesAndCounts : Prop :=
  ∀ (s : State) (rd : Reg) (w : PWord) (q : List PWord) (l sc c m : BitVec 6),
    let n := s.counts s.cur
    let ok := fun (f : BitVec 6) (n : Nat) => f = 63 ∨ n ≤ f.toNat
    (s.me.rq = w :: q → exec (.rqpop rd) s = .next (ends (s.setMe { s.me with rq := q }) 32 rd w.w w.p)) ∧
    (s.me.rq = [] → exec (.rqpop rd) s = .next (s.park (.rqpop rd)) ∧ (s.park (.rqpop rd)).me.pc = s.me.pc) ∧
    (s.me.allIssued = true → ok l n.1 → ok sc n.2.1 → ok c n.2.2.1 → ok m n.2.2.2 → GoesOn s (.waitc l sc c m) 32) ∧
    GoesOn s (.waitc 63 63 63 63) 32 ∧
    (s.me.allIssued = false ∨ ¬ ok l n.1 ∨ ¬ ok sc n.2.1 ∨ ¬ ok c n.2.2.1 ∨ ¬ ok m n.2.2.2 → ¬ (l = 63 ∧ sc = 63 ∧ c = 63 ∧ m = 63) →
      exec (.waitc l sc c m) s = .next (s.park (.waitc l sc c m)))

/-- STRIP-MINE BRANCHES (R95, R119, R120): smb subtracts v, the vl granted last, from x[xc] and adds v × stride to its address register (none for x0; the long form has one to four, at xa,
xa + 1, …, each with its stride); it branches to pc + 32 × offset while the new count is positive, else goes on. A poisoned count or address raises POISON_CONTROL (8) (R95). -/
def Sys2Proof.Spec.StripMine : Prop :=
  ∀ (s : State) (xc xa : Reg) (stride1 : BitVec 6) (off : BitVec 9) (n1 : BitVec 2) (offL : BitVec 12) (strides : BitVec 24),
    let t := s.me
    let v := BitVec.ofNat 64 t.smbVl
    let c := val s xc - v
    let step := fun (u : Strand) (r : Reg) (k : Nat) => u.setX r { w := val s r + v * BitVec.ofNat 64 k }
    let go := fun (u : Strand) (o : Word) (len : Nat) => { u with pc := if 0 < c.toInt then t.pc + o * 32#64 else t.pc + BitVec.ofNat 64 len, wait := none }
    let u := t.setX xc { w := c }
    let ks := smbStrides n1 strides
    (poi s xc = false → (xa = 0 ∨ poi s xa = false) →
      exec (.smb xc xa stride1 off) s = .next (s.setMe (go (if xa = 0 then u else step u xa (stride1.toNat + 1)) (off.signExtend 64) 32))) ∧
    (poi s xc = false → (∀ i, i < ks.length → poi s (xa + BitVec.ofNat 5 i) = false) →
      exec (.smbLong xc xa n1 offL strides) s = .next (s.setMe (go
        (ks.zipIdx.foldl (fun u k => step u (xa + BitVec.ofNat 5 k.2) k.1) u) (offL.signExtend 64) 64))) ∧
    (poi s xc = true → Raises s (.smb xc xa stride1 off) 8 0 ∧ Raises s (.smbLong xc xa n1 offL strides) 8 0) ∧
    (xa ≠ 0 → poi s xa = true → Raises s (.smb xc xa stride1 off) 8 0) ∧
    (∀ i, i < ks.length → poi s (xa + BitVec.ofNat 5 i) = true → Raises s (.smbLong xc xa n1 offL strides) 8 0)

/-- VECTOR LENGTH, REGISTER COUNT AND BLOCKS (R115 to R117; log entries 22, 39, 42). -/
def Obligations.BlocksAndLengths : Prop := Sys2Proof.Spec.VectorLength ∧ Sys2Proof.Spec.BlocksAndCounts

/-- REPLIES, WAITC AND STRIP-MINE BRANCHES (R95, R118 to R122, R132). -/
def Obligations.CountsAndStrips : Prop := Sys2Proof.Spec.RepliesAndCounts ∧ Sys2Proof.Spec.StripMine

/-! ### Synchronisation, launch, copy -/

/-- FENCE (R133, R264, R268, R277): a fence completes once the strand's earlier accesses of its classes are performed, whatever is open in other classes, and has then written back and dropped
the lines of its classes at quad scope and wider; until then it waits with its pc on it. Accesses are open as RRED updates, as matrix operations of the matrix control strand, as the members of the convoys
under way that have not completed, and as those of blocks that are queued and of convoys ahead in the block in progress, as their code reads now; a stopped queue's convoys that have not begun do not
count. That code that has not begun counts by the classes it names is the model's choice (log entry 10). Nothing lies ahead of a strand whose queue is empty and whose convoy ends its block; a
queued block of one convoy with one member counts that member's class. -/
def Sys2Proof.Spec.Fences : Prop :=
  ∀ (s : State) (scope : BitVec 3) (mask : BitVec 16),
    let t := s.me
    let done := past (if scope.toNat < 2 then s else (s.classLines s.myCore mask.toNat).foldl (fun q l => q.evict s.myCore l) s) 32
    let noUpdate := ∀ p ∈ s.packets, p.sid = some s.cur → mask.toNat.testBit p.cls = false
    let noMatrix := ctxOf s.cur = 8 → ∀ o ∈ (s.core s.myCore).mx.ops, o.done = false → ∀ c, o.cls? = some c → mask.toNat.testBit c = false
    let none := fun (m : Nat) => ∀ i, mask.toNat.testBit i = true → m.testBit i = false
    let noBlock := (∀ c ∈ t.convs, none c.classes) ∧ (t.stopped = true ∨ t.vecIdle = true ∨ none (s.classesAhead s.cur))
    let ag := s.agentOf s.cur
    (noUpdate → noMatrix → noBlock → exec (.fence scope mask) s = .next done) ∧
    (¬ (noUpdate ∧ noMatrix ∧ noBlock) → exec (.fence scope mask) s = .next (s.park (.fence scope mask))) ∧
    (t.queue = [] → (t.blk = .none ∨ ∃ c, t.conv = some c ∧ c.hdr.kind = 6) → s.classesAhead s.cur = 0) ∧
    (∀ b h w, t.queue = [.block b] → t.blk = .none → s.peekWords ag b.addr.toNat 1 = some [h] → headerOk (h % 2 ^ 32) = true →
      (headerOf (h % 2 ^ 32)).kind = 6 → (headerOf (h % 2 ^ 32)).count = 0 → s.peekWords ag (b.addr.toNat + 64) 1 = some [w] →
      s.classesAhead s.cur = wordClasses [w])

/-- PROGRESS, as R288 states it: one progress event of its group is recorded, and nothing else of the machine changes but the pc past the instruction. -/
def Obligations.ProgressAlone : Prop :=
  ∀ s : State, ∃ t, exec .progress s = .next t ∧ t = { s with strands := t.strands, groups := t.groups } ∧
    t.me = { s.me with pc := s.me.pc + 32#64, wait := none } ∧ (∀ k, k ≠ s.cur → t.strand k = s.strand k) ∧
    (∀ n g, s.group? n = some g → t.group? n = some (if s.me.group = some n then { g with progress := true } else g))

/-- YIELD, as R314 states it: the strand's deficit is 0, its next scalar instruction issues no earlier than the next cycle (a turn before it does not fetch), and nothing
else changes but the pc. -/
def Obligations.YieldAlone : Prop :=
  ∀ s : State, ∃ t, exec .yield s = .next t ∧ t.me.deficit = 0 ∧
    t.me = { s.me with pc := s.me.pc + 32#64, wait := none, deficit := 0, notBefore := t.me.notBefore } ∧ OnlyStrand s t s.cur ∧
    (∀ u, sidExists s.cur = true → u.strand s.cur = t.me → u.coreCycle s.myCore ≤ s.coreCycle s.myCore →
      strandTurn u s.cur = .next { u with cur := s.cur })

/-- WAITS ON MEMORY AND TIMELINES (R95, R271, R276, R278, R279, R284): waita, join and tlwait whose condition holds in what they read complete, as a progress event of the group: waita at [x[rs1] + 64 × offset],
join where bit 63 of the join word is set, an acquire at package scope that gives the word in x[rd], tlwait once the timeline has reached its number. A condition that does not hold waits, or
raises TIMEOUT (16) where the limit in its register has expired, with the waited-on address as taddr for waita and join and 0 for tlwait. A waita or join that an
earlier access of its strand holds back waits likewise, from then on (log entry 10). A poisoned word satisfies nothing, and a poisoned comparand of
waita raises POISON_CONTROL as its other registers do (the model's choices, log entry 14). A poisoned register raises POISON_CONTROL (8), an address that is not a multiple of 64 ALIGN (4). That a
tlwait that goes on drops every line of the core's cache, where R271 allows it to, is log entry 38. -/
def Sys2Proof.Spec.Waits : Prop :=
  ∀ (s u : State) (rd rt rs1 rs2 rn : Reg) (cond : BitVec 2) (off : BitVec 8) (v : PWord) (tl im : BitVec 1) (cx : BitVec 7) (lo : BitVec 6),
    let a := val s rs1 + off.signExtend 64 * 64#64
    let j := val s rs1
    let w := Instr.waita rt rs1 rs2 cond off
    let jn := Instr.join rd rs1 rt
    let tw := Instr.tlwait rn rt tl cx im lo
    let n := if im = 1 then rn.toNat * 64 + lo.toNat else (val s rn).toNat
    let times := fun (u : State) (i : Instr) (a : Word) => exec i s = .next (u.takeTrap s.cur s.me.pc { code := 16, addr := a })
    (s.heldBack {} = false → poi s rs1 = false → poi s rs2 = false → poi s rt = false → a.toNat % 64 = 0 → s.waitRead a = (u, .ok v) →
      let holds := v.p = false ∧ (if cond = 0 then v.w = val s rs2 else (val s rs2).toNat ≤ v.w.toNat)
      (holds → exec w s = .next (past (u.progress u.cur) 32)) ∧
      (¬ holds → u.expired w (val s rt) = false → exec w s = .next (u.park w)) ∧
      (¬ holds → u.expired w (val s rt) = true → times u w a)) ∧
    (s.heldBack {} = true → poi s rs1 = false → poi s rs2 = false → poi s rt = false → a.toNat % 64 = 0 →
      (s.expired w (val s rt) = false → exec w s = .next (s.park w)) ∧ (s.expired w (val s rt) = true → times s w a)) ∧
    (s.heldBack {} = true → poi s rs1 = false → poi s rt = false → j.toNat % 64 = 0 →
      (s.expired jn (val s rt) = false → exec jn s = .next (s.park jn)) ∧ (s.expired jn (val s rt) = true → times s jn j)) ∧
    (poi s rs1 = true ∨ poi s rs2 = true ∨ poi s rt = true → Raises s w 8 0) ∧
    (poi s rs1 = false → poi s rs2 = false → poi s rt = false → a.toNat % 64 ≠ 0 → Raises s w 4 a) ∧
    (s.heldBack {} = false → poi s rs1 = false → poi s rt = false → j.toNat % 64 = 0 → s.waitRead j = (u, .ok v) →
      (v.p = false → 2 ^ 63 ≤ v.w.toNat → exec jn s = .next (ends ((u.acquire 0xFFFF 4).progress u.cur) 32 rd v.w false)) ∧
      ((v.p = true ∨ v.w.toNat < 2 ^ 63) → u.expired jn (val s rt) = false → exec jn s = .next (u.park jn)) ∧
      ((v.p = true ∨ v.w.toNat < 2 ^ 63) → u.expired jn (val s rt) = true → times u jn j)) ∧
    (poi s rs1 = true ∨ poi s rt = true → Raises s jn 8 0) ∧ (poi s rs1 = false → poi s rt = false → j.toNat % 64 ≠ 0 → Raises s jn 4 j) ∧
    (∀ tm, poi s rt = false → im = 1 ∨ poi s rn = false →
      ((tl = 0 ∧ ∃ pc, s.physCtx s.me.asid cx.toNat = some pc ∧ tm = (s.copyCtx pc).timeline) ∨ (tl = 1 ∧ isLoam s.myCore = true ∧ tm = s.tlmOf s.cur)) →
      (n ≤ tm → exec tw s = .next (past ((s.dropLines s.myCore).progress s.cur) 32)) ∧
      (tm < n → s.expired tw (val s rt) = false → exec tw s = .next (s.park tw)) ∧
      (tm < n → s.expired tw (val s rt) = true → Raises s tw 16 0)) ∧
    (poi s rt = false → im = 1 ∨ poi s rn = false → tl = 0 → s.physCtx s.me.asid cx.toNat = none → Raises s tw 6 0)

/-- BARRIERS (R272, R281): bar.arv, once the strand's earlier blocks have retired and its earlier accesses are performed, counts one arrival, records the phase in which it was made, and gives that phase in x[rd]; an arrival that meets the count completes the phase: arrivals 0, phase
one more. bar.wt goes on once the phase has passed the recorded one, the record gone, and waits till then. bar.init sets the count of a core barrier, and configures a gang barrier. -/
def Obligations.Barriers : Prop :=
  (∀ (s : State) (rs1 : Reg) (idx level : BitVec 3) (q : Gang), s.gangOf s.cur = some q → idx.toNat < q.gbs.length → nth none q.gbs idx.toNat = none →
    poi s rs1 = false → 1 ≤ (val s rs1).toNat → (val s rs1).toNat ≤ 255 → ∃ t, exec (.barInit rs1 1 idx level) s = .next t ∧
      t.getBar 1 idx.toNat = .ok { c := (val s rs1).toNat, a := 0, P := 0, recs := [], level := level.toNat }) ∧
  ∀ (s : State) (rd rt rs1 : Reg) (kind : BitVec 1) (idx level : BitVec 3) (b : Bar), s.getBar kind idx.toNat = .ok b →
    let done := decide (b.c ≤ b.a + 1)
    let n := (val s rs1).toNat
    (s.vectorDone s.cur = true → s.accessesDone s.cur = true → ∃ t b', exec (.barArv rd kind idx) s = .next t ∧
      t.me = { s.me.setX rd { w := BitVec.ofNat 64 b.P } with pc := s.me.pc + 32#64, wait := none } ∧ t.getBar kind idx.toNat = .ok b' ∧
      b'.c = b.c ∧ b'.a = (if done then 0 else b.a + 1) ∧ b'.P = (if done then (b.P + 1) % 2 ^ 64 else b.P) ∧ b'.level = b.level ∧
      Sparse.get (2 ^ 65) b'.recs (s.barKey kind) = b.P) ∧
    (s.vectorDone s.cur = false ∨ s.accessesDone s.cur = false → exec (.barArv rd kind idx) s = .next (s.park (.barArv rd kind idx))) ∧
    (poi s rt = false → Sparse.get b.P b.recs (s.barKey kind) < b.P → ∃ t b', exec (.barWt rt kind idx) s = .next t ∧
      t.me = { s.me with pc := s.me.pc + 32#64, wait := none } ∧ t.getBar kind idx.toNat = .ok b' ∧ b'.P = b.P ∧ b'.a = b.a ∧
      b'.recs = Sparse.del b.recs (s.barKey kind)) ∧
    (poi s rt = false → Sparse.get b.P b.recs (s.barKey kind) = b.P → b.P < 2 ^ 64 → s.me.wait = none →
      ∃ t, exec (.barWt rt kind idx) s = .next t ∧ t.me = { s.me with wait := t.me.wait }) ∧
    (poi s rs1 = false → 1 ≤ n → n ≤ 255 → kind = 0 → ∃ t b', exec (.barInit rs1 kind idx level) s = .next t ∧ t.getBar kind idx.toNat = .ok b' ∧ b'.c = n ∧
      b'.a = (if n ≤ b.a then 0 else b.a) ∧ b'.P = (if n ≤ b.a then (b.P + 1) % 2 ^ 64 else b.P)) ∧
    (poi s rs1 = false → 1 ≤ n → n ≤ 255 → kind = 1 →
      (b.level = level.toNat → b.c = n → GoesOn s (.barInit rs1 kind idx level) 32) ∧ (b.level ≠ level.toNat ∨ b.c ≠ n → Raises s (.barInit rs1 kind idx level) 1 0)) ∧
    (poi s rs1 = false → n = 0 ∨ 255 < n → Raises s (.barInit rs1 kind idx level) 1 0)

/-- TRIG AND EXIT (R64, R269, R283, R326, R333): once the strand's earlier blocks have retired, a stopped queue's too, trig marks the strand as triggered and exit ends it, both after a release of
every class at package scope, which writes back the dirty lines of the core's cache; in a supervisor strand trig does nothing, and exit frees its context and records cause 0 for the function that placed it. -/
def Sys2Proof.Spec.TriggerAndExit : Prop :=
  ∀ s : State,
    (s.me.sup = false → s.vectorDone s.cur = true →
      (∃ t, exec .trig s = .next t ∧ t.me = { s.me with trig := true, pc := s.me.pc + 32#64, wait := none } ∧ Released s t s.myCore ∧
        (∀ n g, s.me.group = some n → s.group? n = some g → ∃ g', t.group? n = some g' ∧ (g.trig = true → g'.trig = true) ∧
          (g.sids = [s.cur] → g.mstarted = false → g'.trig = true))) ∧
      (∃ t, exec .exit s = .next t ∧ t.me = { s.me with trig := true, phase := .ended, wait := none, rq := [] } ∧ Released s t s.myCore)) ∧
    (s.me.sup = false → s.vectorDone s.cur = false → exec .trig s = .next (s.park .trig) ∧ exec .exit s = .next (s.park .exit)) ∧
    (s.me.sup = true → GoesOn s .trig 32 ∧
      (s.supOf s.myCore = some s.cur → ∃ t, exec .exit s = .next t ∧ t.me.phase = .free ∧ t.me.sup = false ∧
        (t.core s.myCore).supEnd = some ((s.core s.myCore).supFn, 0) ∧
        Sparse.get [] t.supEnds (s.core s.myCore).supFn = (s.myCore, 0) :: Sparse.get [] s.supEnds (s.core s.myCore).supFn))

/-- WATERMARKS AND STREAMS FROM A STRAND (R58, R59, R65, R285, R286, R287, R306): wmcfg takes words 0 to 3 of a watermark from memory and zero for word 4; wmpub raises the word at x[rs1] to the unsigned
maximum of it and x[rs2], at its home; strm.push gives −1 for a full ring, else it writes the tail n + 1 and record n with its lap, and gives n; a poisoned control block raises POISON_CONTROL (8). -/
def Sys2Proof.Spec.WatermarksAndPushes : Prop :=
  ∀ (s s1 s2 s3 s4 s5 s6 x : State) (rd rs1 rs2 : Reg) (k : BitVec 2) (ws ps qs rs es : List Piece) (v r c : Nat) (p q : Bool),
    let a := val s rs1
    let b := val s rs2
    let w := fun (i : Nat) => BitVec.ofNat 64 (v / 2 ^ (64 * i))
    poi s rs1 = false → a.toNat % 64 = 0 →
    (s.me.vecIdle = true → s.heldBack {} = false → s.check s.myAgent { Want.load with many := true } a.toNat 256 = (s1, .ok ps) → s1.bitsPending s.cur ps = false →
      s1.readPieces s1.myAgent 0 false ps = (s2, .ok v false) → v / 2 ^ 126 % 2 = 0 → v / 2 ^ 224 % 2 ^ 32 = 0 → (w 2).toNat % 64 = 0 →
      exec (.wmcfg rs1 k) s = .next (past (s2.setMe { s2.me with wm := s2.me.wm.set k.toNat { base := w 0, w1 := w 1, pub := w 2, lim := w 3, obs := 0 } k.isLt }) 32)) ∧
    (s.accessesDone s.cur = true → poi s rs2 = false → s.check s.myAgent .rmw a.toNat 64 = (s1, .ok ps) →
      let q := s1.release 0xFFFF 4
      q.readPieces q.myAgent 0 true ps = (s2, .ok v p) →
      exec (.wmpub rs1 rs2) s = .next (past (s2.writePieces s2.myAgent (some s2.cur) 0 true (max v b.toNat) p ps).1 32)) ∧
    (s.accessesDone s.cur = true → poi s rs2 = false → b.toNat % 64 = 0 → s.checkAll s.myAgent (ctlWants a) = (s1, .ok ws) →
      s1.check s1.myAgent { Want.homeLoad with many := true } b.toNat 256 = (s2, .ok qs) →
      (s2.check s2.myAgent { Want.homeLoad with many := true } a.toNat 256).2 = .ok ps →
      let d := s2.release 0xFFFF 4
      d.readPieces d.myAgent 0 true ps = (s3, .ok c p) → d.readPieces d.myAgent 0 false qs = (x, .ok r q) →
      let n := c / 2 ^ 128 % 2 ^ 64
      let head := c / 2 ^ 192 % 2 ^ 64
      let L := c / 2 ^ 64 % 32
      (p = true → exec (.strmPush rd rs1 rs2) s = .next (s3.takeTrap s.cur s.me.pc { code := 8 })) ∧
      (p = false → head + 2 ^ L ≤ n → exec (.strmPush rd rs1 rs2) s = .next (ends s3 32 rd (BitVec.allOnes 64) false)) ∧
      (p = false → n < head + 2 ^ L →
        s3.check s3.myAgent { Want.store with noDev := true, many := true } ((c % 2 ^ 64 + n % 2 ^ L * 256) % 2 ^ 64) 256 = (s4, .ok rs) →
        s4.check s4.myAgent .rmw (a + 128#64).toNat 64 = (s5, .ok es) →
        s6 = (s5.writePieces s5.myAgent (some s5.cur) 0 true ((n + 1) % 2 ^ 64) false es).1 →
        exec (.strmPush rd rs1 rs2) s = .next (ends (s6.writePieces s6.myAgent (some s6.cur) 0 true (putField r 8 8 (n / 2 ^ L % 255 + 1)) q rs).1
          32 rd (BitVec.ofNat 64 n) false)))

/-- LAUNCH FROM A STRAND (R60, R269, R282): launch hands its launch block, after a release of every class at package scope, which writes back the dirty lines of the core's cache, to the die's command processor and waits with its pc on it; when
the answer has come, the next turn takes the status in x[rd] and goes on 64 bits further. -/
def Sys2Proof.Spec.Launches : Prop :=
  ∀ (s : State) (rd rb : Reg) (u : Submit) (c : Nat), poi s rb = false →
    ((∀ u ∈ s.submits, u.fromSid ≠ some s.cur) → s.accessesDone s.cur = true → ∃ t, exec (.launch rd rb) s = .next t ∧
      t.submits = s.submits ++ [{ die := dieOf s.myCore, fromSid := some s.cur, stream := 0, block := val s rb }] ∧ t.me.pc = s.me.pc ∧ t.me.x = s.me.x ∧
        Released s t s.myCore) ∧
    ((∀ u ∈ s.submits, u.fromSid ≠ some s.cur) → s.accessesDone s.cur = false → exec (.launch rd rb) s = .next (s.park (.launch rd rb))) ∧
    (s.submits.find? (fun u => u.fromSid == some s.cur) = some u → u.status = some c →
      exec (.launch rd rb) s = .next (ends { s with submits := s.submits.erase u } 64 rd (BitVec.ofNat 64 c) false)) ∧
    (s.submits.find? (fun u => u.fromSid == some s.cur) = some u → u.status = none → exec (.launch rd rb) s = .next (s.park (.launch rd rb)))

/-- COPY, COPY.MC AND PERSIST FROM A STRAND (R196, R197, R221 to R225): with a free copy slot, earlier accesses performed and every operand and completion address good, the operation joins its context with the next
number of the context, which x[rd] receives; the strand goes on at once. -/
def Sys2Proof.Spec.Copies : Prop :=
  ∀ (s s1 s2 s3 : State) (c : CopyForm) (m : CopyMcForm) (rd ra rlen : Reg) (cx : BitVec 7) (pc v : Nat) (ps qs : List Piece),
    let rel := fun (s : State) => s.release 0xFFFF 4
    let free := fun (s : State) => s.slotsUsed s.myCore < 256 ∧ s.accessesDone s.cur = true
    let queued := fun (i : Instr) (s' : State) (rd : Reg) (o : CopyOp) =>
      let n := ((rel s').copyCtx pc).issue + 1
      exec i s = .next (ends ((rel s').setCopyCtx pc { (rel s').copyCtx pc with issue := n, ops := ((rel s').copyCtx pc).ops ++ [{ o with num := n }] })
        64 rd (BitVec.ofNat 64 n) false)
    (free s → s.physCtx s.me.asid cx.toNat = some pc → (val s rlen).toNat < 2 ^ 48 → poi s ra = false → poi s rlen = false →
      queued (.persist rd ra rlen cx) s rd (s.myOp .persist (val s ra) [] (val s rlen).toNat 1)) ∧
    (let lr := fun (i : Nat) => c.rlen + BitVec.ofNat 5 i
      let two := fun {α : Type} (a b : α) => if c.twoD = 1 then a else b
      let rows := two (val s (lr 1)).toNat 1
      (val s c.rlen).toNat < 2 ^ 48 → (val s c.rlen).toNat * rows < 2 ^ 48 →
      (∀ r ∈ [c.rdst, c.rsrc, c.rlen, c.rc, c.rv] ++ two [lr 1, lr 2, lr 3] [], poi s r = false) →
      ((c.rc = 0 ∧ s1 = s) ∨ (c.rc ≠ 0 ∧ s.checkComp (val s c.rc) = (s1, .ok ps))) → s1.physCtx s1.me.asid c.ctx.toNat = some pc → free s1 →
      queued (.copy c) s1 c.rd { s.myOp .copy (val s c.rsrc) [{ addr := val s c.rdst, comp := if c.rc = 0 then none else some (val s c.rc) }]
          (val s c.rlen).toNat c.cls.toNat with
        rows := rows, sstr := two (val s (lr 2)) 0, dstr := two (val s (lr 3)) 0, cv := val s c.rv }) ∧
    (s.heldBack {} = false → (val s m.rlen).toNat < 2 ^ 48 →
      (∀ r ∈ [m.rtab, m.rsrc, m.rlen, m.rv], poi s r = false) → (val s m.rtab).toNat % 64 = 0 →
      s.check s.myAgent { Want.load with many := true } (val s m.rtab).toNat (128 * (m.n1.toNat + 1)) = (s1, .ok ps) → s1.bitsPending s.cur ps = false →
      s1.readPieces s.myAgent 0 false ps = (s2, .ok v false) → s2.checkComps (mcDests v (m.n1.toNat + 1)) = (s3, .ok qs) →
      s3.physCtx s3.me.asid m.ctx.toNat = some pc → free s3 →
      queued (.copyMc m) s3 m.rd { s.myOp .mc (val s m.rsrc) (mcDests v (m.n1.toNat + 1)) (val s m.rlen).toNat m.cls.toNat with cv := val s m.rv })

/-- FENCES AND WAITS (R268, R271, R276 to R279, R284; log entries 10, 14, 38). -/
def Obligations.FencesAndWaits : Prop := Sys2Proof.Spec.Fences ∧ Sys2Proof.Spec.Waits

/-- TRIG, EXIT, WATERMARKS AND STREAM PUSHES (R283, R285 to R287, R326, R333). -/
def Obligations.TriggersAndWatermarks : Prop := Sys2Proof.Spec.TriggerAndExit ∧ Sys2Proof.Spec.WatermarksAndPushes

/-- LAUNCHES AND COPIES OF A STRAND (R221 to R225, R282). -/
def Obligations.LaunchesAndCopies : Prop := Sys2Proof.Spec.Launches ∧ Sys2Proof.Spec.Copies

/-! ### Traps, held strands, system instructions -/

/-- A TRAP TO THE STRAND'S OWN HANDLER (R109, R264, R265, R295, R296, R298): a cause of level U, in an open window with tvec set and a frame that can be pushed below x2, writes tpc, tcause, taddr and tinfo,
closes the window, pushes the resume pc with vl and ew (k = 0) as CALL does, moves x2 down 128 bits, stops the vector queue and continues at tvec; the link and the wait are gone, it asks for no ownership transfer any more, the
convoys that have not retired unwind (R296), and no other register of the strand changes. Where the frame's memory needs an ownership transfer, or an earlier access keeps it waiting (R264, R265), the trap is not yet
taken, and the strand stays as it was, to raise it again (log entry 10). -/
def Sys2Proof.Spec.TrapToHandler : Prop :=
  ∀ (s s3 s4 : State) (sid : Nat) (a : Word) (c : Cause) (ps : List Piece),
    let t := s.strand sid
    let sp := (t.getX 2).w
    supLevel c.code = false → t.topen = true → t.tvec ≠ 0 → t.conv = none → (t.getX 2).p = false → sp.toNat % 64 = 0 →
    let s1 := (((s.dropTags sid).forgetBroken linkTag sid).leaveSlots sid (t.stayer.map (·.conv.fills)).toList.flatten).asksNo sid
    let s2 := s1.setStrand sid { t.unwound with
      tpc := a, tcause := c.word false, taddr := c.addr, tinfo := c.info, topen := false, stopped := true, wait := none, convWait := none, link := none }
    s2.check (s2.agentOf sid) .store (sp - 128#64).toNat 128 = (s3, .ok ps) →
    (s3.frameHeld sid ps = true → (s.takeTrap sid a c).strands = s.strands ∧ (s.takeTrap sid a c).mem = s.mem) ∧
    (s3.frameHeld sid ps = false → s3.writePieces (s2.agentOf sid) (some sid) 0 false (t.vl + t.ew * 2 ^ 20 + t.pc.toNat * 2 ^ 64) false ps = (s4, none) →
    (t.past = [] → t.unwound = { t with convWait := none }) ∧
    ((s.takeTrap sid a c).strand sid = { (t.unwound.setX 2 { w := sp - 128#64 }) with
      tpc := a, tcause := BitVec.ofNat 64 (c.code + if c.async then 256 else 0), taddr := c.addr, tinfo := c.info, topen := false
      stopped := true, wait := none, convWait := none, link := none, pc := t.tvec }) ∧
    (s.takeTrap sid a c).mem = s4.mem ∧ ∀ k, k ≠ sid → (s.takeTrap sid a c).strand k = s.strand k)

/-- A TRAP TO THE SUPERVISOR STRAND (R294, R298, R299, R300, R333): a cause of level S, or one met with tvec = 0, in an open window writes the trap registers, closes the window and holds the strand at its pc with its
notice; in a closed window it is DOUBLE_TRAP (14), which names the inner cause and leaves the trap registers. The notice's three words enter the supervisor strand's reply queue where three
entries are free and no notice of a strand before it on the core waits (R333; that this holds of notices that do not follow a placement is the model's choice, log entry 13). The convoys that have not retired unwind (R296). A supervisor strand's own such trap ends it: its context is freed and its cause recorded for the function that placed it. -/
def Sys2Proof.Spec.TrapToSupervisor : Prop :=
  ∀ (s : State) (sid p : Nat) (a : Word) (c : Cause),
    let t := s.strand sid
    let q := s.strand p
    let u := s.takeTrap sid a c
    let room := decide (q.rq.length ≤ 13) && !s.noticeAhead sid
    let notice := fun (n : Nat) (pushed : Bool) =>
      ({ n0 := BitVec.ofNat 64 (n + s.noticeId sid + 2 ^ 63), n1 := a, n2 := c.addr, pushed := pushed, service := false } : Hold)
    t.conv = none →
    (t.sup = false → t.topen = true → (supLevel c.code = true ∨ t.tvec = 0) →
      (s.supOf (coreOf sid) = none → u.strand sid = { t.unwound with
        tpc := a, tcause := BitVec.ofNat 64 (c.code + (if c.async then 256 else 0) + 512), taddr := c.addr, tinfo := c.info, topen := false, link := none
        wait := none, convWait := none, hold := some (notice c.code false) }) ∧
      (s.supOf (coreOf sid) = some p → (u.strand sid).pc = t.pc ∧ (u.strand sid).hold = some (notice c.code room) ∧
        (room = true → (u.strand p).rq = q.rq ++ [{ w := BitVec.ofNat 64 (c.code + s.noticeId sid + 2 ^ 63) }, { w := a }, { w := c.addr }]) ∧
        (room = false → (u.strand p).rq = q.rq))) ∧
    (0 < c.code → t.sup = false → t.topen = false → s.supOf (coreOf sid) = none →
      u.strand sid = { t.unwound with link := none, wait := none, convWait := none, hold := some (notice (14 + c.code * 256) false) }) ∧
    (t.sup = true → s.supOf (coreOf sid) = some sid → (supLevel c.code = true ∨ t.tvec = 0 ∨ t.topen = false) →
      (u.strand sid).phase = .free ∧ (u.core (coreOf sid)).supEnd = some ((s.core (coreOf sid)).supFn, c.code))

/-- ECALL (R95, R309, R311, R322): the strand is held at pc + 32 with a service notice of the code, its identity, the ecall's address and x[rs1]; no trap register and no window changes; the three words enter
the supervisor strand's reply queue where there is room and no notice of a strand before it on the core waits (log entry 13). In the supervisor strand it raises ILLEGAL (1), elsewhere with a poisoned x[rs1] POISON_CONTROL (8), as R309 says (R322 lists no such cause: log entry 46). -/
def Sys2Proof.Spec.ServiceCalls : Prop :=
  ∀ (s : State) (rs1 : Reg) (code : BitVec 15) (p : Nat),
    let n := code.toNat + s.noticeId s.cur
    let hold := fun (pushed : Bool) =>
      ({ n0 := BitVec.ofNat 64 n, n1 := s.me.pc, n2 := val s rs1, pushed := pushed, service := true } : Hold)
    (s.me.sup = true → Raises s (.ecall rs1 code) 1 0) ∧
    (s.me.sup = false → poi s rs1 = true → Raises s (.ecall rs1 code) 8 0) ∧
    (s.me.sup = false → poi s rs1 = false → s.me.conv = none →
      (s.supOf s.myCore = none → ∃ t, exec (.ecall rs1 code) s = .next t ∧
        t.me = { s.me.unwound with pc := s.me.pc + 32#64, wait := none, convWait := none, hold := some (hold false) }) ∧
      (s.supOf s.myCore = some p → (s.strand p).rq.length ≤ 13 → s.noticeAhead s.cur = false → ∃ t, exec (.ecall rs1 code) s = .next t ∧
        t.me = { s.me.unwound with pc := s.me.pc + 32#64, wait := none, convWait := none, hold := some (hold true) } ∧
        (t.strand p).rq = (s.strand p).rq ++ [{ w := BitVec.ofNat 64 n }, { w := s.me.pc }, { w := val s rs1 }]))

/-- RETURNS FROM A TRAP (R310, R312): tret pops the frame as ret does, opens the window and frees the queue; tren opens the window and goes on; tret.s releases held strand K, gives 1, opens
the window of one that a trap held and leaves that of one that an ecall held, and gives 0, changing nothing else, where K is not held. No asynchronous cause is held. -/
def Sys2Proof.Spec.TrapReturns : Prop :=
  ∀ (s s1 s2 : State) (rd : Reg) (k : StrandSel) (ps : List Piece) (v : Nat) (h : Hold),
    let t := s.me
    let sid := s.selSid k
    (t.heldPre = none → exec .tren s = .next (past (s.setMe { t with topen := true }) 32)) ∧
    (t.heldPre = none → s.heldBack {} = false → poi s 2 = false → s.check s.myAgent .load (val s 2).toNat 128 = (s1, .ok ps) → s.bitsPending s.cur ps = false →
      s1.readPieces s.myAgent 0 false ps = (s2, .ok v false) → v / 2 ^ 64 % 32 = 0 →
      let ew := v / 2 ^ 20 % 4
      let vl := min (v % 2 ^ 20) (maxVl t.g t.n2 (ewOf ew))
      exec .tret s = .next (s2.setMe { t.setX 2 { w := val s 2 + 128#64 } with
        vl := vl, smbVl := vl, ew := ew, pc := BitVec.ofNat 64 (v / 2 ^ 64), wait := none, topen := true, stopped := false })) ∧
    (t.sup = true → (s.strand sid).hold = none → Writes s (.tretS rd k) 32 rd 0 false) ∧
    (t.sup = true → sid ≠ s.cur → (s.strand sid).heldPre = none → (s.strand sid).hold = some h → exec (.tretS rd k) s = .next ((ends s 32 rd 1 false).setStrand sid { s.strand sid with
        hold := none, stopped := false, topen := (s.strand sid).topen || !h.service }))

/-- ACCESS TO A HELD STRAND (R31, R95, R294, R312): where the vector side of held strand K stands at a convoy boundary, hget gives x[rd] the CSR, the x register or the resume pc that the selector names in it; hput
writes x[rs2] into it, a resume pc that is not a multiple of 32, or a vpc that is not one of 64 (R31 and R294; log entry 39), raising ALIGN (4). A target that is not held raises ILLEGAL (1), as does a selector that names nothing: a CSR
number not listed, for hput one that cannot be written or takes no such value, or a set bit that must be zero. Until the boundary both wait. A poisoned operand raises POISON_CONTROL (8). -/
def Sys2Proof.Spec.HeldStrandAccess : Prop :=
  ∀ (s : State) (rd rs1 rs2 : Reg) (k : StrandSel) (n : BitVec 12) (r : Reg) (lv : Nat),
    let sid := s.selSid k
    let t := s.strand sid
    let sel := (val s rs1).toNat
    let v := val s rs2
    let put := fun (u : Strand) => exec (.hput rs1 rs2 k) s = .next (past (s.setStrand sid u) 32)
    s.me.sup = true →
    (poi s rs1 = true → Raises s (.hget rd rs1 k) 8 0) ∧ (poi s rs1 = true ∨ poi s rs2 = true → Raises s (.hput rs1 rs2 k) 8 0) ∧
    (poi s rs1 = false → poi s rs2 = false →
      (t.hold = none → Raises s (.hget rd rs1 k) 1 0 ∧ Raises s (.hput rs1 rs2 k) 1 0) ∧
      (t.hold.isSome = true → t.conv.isSome = true ∨ t.past ≠ [] → exec (.hget rd rs1 k) s = .next s ∧ exec (.hput rs1 rs2 k) s = .next s) ∧
      (t.hold.isSome = true → t.conv = none → t.past = [] →
        (sel = n.toNat → csrAccess n.toNat true = some lv → Writes s (.hget rd rs1 k) 32 rd (s.csrGet sid n.toNat).w (s.csrGet sid n.toNat).p) ∧
        (sel = 2 ^ 12 + r.toNat → Writes s (.hget rd rs1 k) 32 rd (t.getX r).w (t.getX r).p ∧ put (t.setX r { w := v })) ∧
        (sel = 2 ^ 13 → Writes s (.hget rd rs1 k) 32 rd t.pc false ∧ (v.toNat % 32 = 0 → put { t with pc := v }) ∧
          (v.toNat % 32 ≠ 0 → Raises s (.hput rs1 rs2 k) 4 v)) ∧
        (sel = n.toNat → csrAccess n.toNat true = some 2 → csrLegal n.toNat v = true →
          ((n = 0x040 → v.toNat % 64 = 0) → exec (.hput rs1 rs2 k) s = .next (past (s.csrSet sid n.toNat v false) 32)) ∧
          (n = 0x040 → v.toNat % 64 ≠ 0 → Raises s (.hput rs1 rs2 k) 4 v)) ∧
        (2 ^ 13 < sel ∨ (2 ^ 12 + 32 ≤ sel ∧ sel < 2 ^ 13) ∨ (sel = n.toNat ∧ csrAccess n.toNat true = none) →
          Raises s (.hget rd rs1 k) 1 0 ∧ Raises s (.hput rs1 rs2 k) 1 0) ∧
        (sel = n.toNat → csrAccess n.toNat true ≠ some 2 ∨ csrLegal n.toNat v = false → Raises s (.hput rs1 rs2 k) 1 0)))

/-- IDLE (R313): it completes with 0 where the reply queue holds a word, else with 1 where a pre-emption is requested, else with 2 where its limit has expired, and else waits; it pops nothing. -/
def Sys2Proof.Spec.IdleEnds : Prop :=
  ∀ (s : State) (rd rt : Reg), poi s rt = false →
    (s.me.rq ≠ [] → Writes s (.idle rd rt) 32 rd 0 false) ∧
    (s.me.rq = [] → s.me.preq = true → Writes s (.idle rd rt) 32 rd 1 false) ∧
    (s.me.rq = [] → s.me.preq = false → s.expired (.idle rd rt) (val s rt) = true → Writes s (.idle rd rt) 32 rd 2 false) ∧
    (s.me.rq = [] → s.me.preq = false → s.expired (.idle rd rt) (val s rt) = false → exec (.idle rd rt) s = .next (s.park (.idle rd rt)) ∧
      (s.park (.idle rd rt)).me.pc = s.me.pc ∧ (s.park (.idle rd rt)).me.parked = true)

/-- PRIVILEGED INSTRUCTIONS (R309): outside the supervisor strand each of level S raises ILLEGAL (1), whatever its operands. -/
def Sys2Proof.Spec.Privileged : Prop :=
  ∀ (s : State) (rd rs1 rs2 : Reg) (k : StrandSel) (scope : BitVec 3) (i : Instr), s.me.sup = false →
    i ∈ [.tretS rd k, .hget rd rs1 k, .hput rs1 rs2 k, .tinvAll rs1 rs2 scope, .tinvAs rs1 rs2 scope, .tinvPg rs1 rs2 scope, .vsave rs1 rs2 k, .vrestore rs1 rs2 k,
      .vrestoreSt rs1 rs2 k] → Raises s i 1 0

/-- DROPPING CACHED TRANSLATIONS (R249, R309, R315): in the supervisor strand tinv.all, tinv.as and tinv.pg have each core of the scope keep exactly the range and page entries they do not name, for tinv.pg
those that do not hold the page of bit x[rs1]; cores outside the scope keep all. They go on at once where no core of the scope has a checked matrix move under way, nor an access that was translated through
what they name (a part of a probed member of a convoy, a RRED update in flight, of an address that a dropped entry or the names cover), and else wait till those accesses, and no others or later ones, have finished. An address space
above 4095 raises ILLEGAL (1), a poisoned operand POISON_CONTROL (8). That tinv.all has no use for its operands, poisoned ones too, which R309 can be read against, that tinv.pg drops the whole page, and which accesses count, are the
model's readings (log entry 38). -/
def Sys2Proof.Spec.TranslationDrops : Prop :=
  ∀ (s : State) (rs1 rs2 : Reg) (scope : BitVec 3), s.me.sup = true →
    let a := (val s rs1).toNat
    let b := (val s rs2).toNat
    let hit := fun (k : Nat) => sameInst scope.toNat s.myCore k
    let drops := fun (i : Instr) (r : Range → Bool) (p : PageEnt → Bool) (names : Nat → Nat → Bool) =>
      let via := fun (k asid va : Nat) => hit k &&
        (names asid va || (s.core k).rlb.any (fun e => r e && e.asid == asid && e.covers va) || (s.core k).pages.any fun e => p e && e.holds asid (va / 2 ^ 15))
      let unused := (∀ t ∈ s.strands, ∀ c ∈ t.2.convs, ∀ x ∈ c.translated, via (coreOf t.1) t.2.asid x.2.2 = false) ∧
        (∀ c ∈ s.cores, hit c.1 = true → ∀ o ∈ c.2.mx.ops, o.done = true ∨ o.cls? = none) ∧
        ∀ q ∈ s.packets, ∀ x ∈ q.vas, via q.sender q.asid x = false
      ((∀ w, s.me.wait = some w → w.instr = i → w.flight = none) → ∃ t, exec i s = .next t ∧ t.mem = s.mem ∧
        (∀ k, (hit k = true → (t.core k).rlb = (s.core k).rlb.filter (fun e => !r e) ∧ (t.core k).pages = (s.core k).pages.filter (fun e => !p e)) ∧
          (hit k = false → t.core k = s.core k)) ∧
        (unused → t.me = { s.me with pc := s.me.pc + 32#64, wait := none }) ∧
        (¬ unused → t.me = { s.me with wait := t.me.wait } ∧ ∃ w, t.me.wait = some w ∧ w.instr = i ∧ w.flight = some (s.flights hit via))) ∧
      (∀ w f, s.me.wait = some w → w.instr = i → w.flight = some f →
        let ended := (∀ x ∈ f.convs, ∀ c ∈ (s.strand x.1).convs, c.num = x.2.1 → x.2.2 ∉ c.translated) ∧
          (∀ x ∈ f.mxs, ∀ o ∈ (s.core x.1).mx.ops, o.num = x.2 → o.done = true) ∧ ∀ m ∈ f.mids, ∀ q ∈ s.packets, q.mid ≠ m
        (ended → GoesOn s i 32) ∧ (¬ ended → exec i s = .next s))
    drops (.tinvAll rs1 rs2 scope) (fun _ => true) (fun _ => true) (fun _ _ => true) ∧
    (poi s rs1 = false → a < 4096 → drops (.tinvAs rs1 rs2 scope) (fun e => e.asid == a) (fun e => e.asid == a) fun asid _ => asid == a) ∧
    (poi s rs1 = false → poi s rs2 = false → b < 4096 → drops (.tinvPg rs1 rs2 scope) (fun e => e.asid == b && decide (e.base ≤ a ∧ a < e.base + e.len))
      (fun e => e.asid == b && decide (e.vpage * 2 ^ 15 ≤ a ∧ a < (e.vpage + e.n) * 2 ^ 15)) fun asid va => asid == b && (va / 2 ^ 15 == a / 2 ^ 15 ||
        (s.findRange { s.myAgent with walk := true, asid := b } a).2.any fun r => r.asid == b && r.covers va)) ∧
    (poi s rs1 = false → 4096 ≤ a → Raises s (.tinvAs rs1 rs2 scope) 1 0) ∧
    (poi s rs1 = false → poi s rs2 = false → 4096 ≤ b → Raises s (.tinvPg rs1 rs2 scope) 1 0) ∧
    (poi s rs1 = true → Raises s (.tinvAs rs1 rs2 scope) 8 0) ∧ (poi s rs1 = true ∨ poi s rs2 = true → Raises s (.tinvPg rs1 rs2 scope) 8 0)

/-- LINE-CACHE UPKEEP AND OWNERSHIP HINTS (R316, R317): once the strand's earlier accesses to the range are performed, lcclean takes each page of the range in turn and writes back the lines of it that the range covers where the page
translates; lcinval drops them and their fetch-cache lines too. Until then both wait; accesses elsewhere, of a convoy under way that goes on
or waits, do not keep them (which accesses of code not yet begun count as touching the range is log entry 10). A length of 2^48 or more raises ILLEGAL (1), a poisoned operand POISON_CONTROL (8). ownhint.dev and ownhint.host start a
transfer of the region of x[rs1] where it is a host or CXL region of an admitted domain that the other side owns, and else go on; neither waits for it. -/
def Sys2Proof.Spec.LinesAndHints : Prop :=
  ∀ (s s1 : State) (rs1 rs2 : Reg) (t : Tr),
    let a := (val s rs1).toNat
    let len := (val s rs2).toNat
    let pages := fun (f : State → Nat → State) => (parts a len).foldl (fun q p =>
      match q.xlate q.myAgent {} p.1 with
      | (q, .ok t) => (linesOf t.fa p.2.2).foldl f q
      | (q, .error _) => q) s
    (poi s rs1 = false → poi s rs2 = false → len < 2 ^ 48 → (len = 0 ∨ s.rangeDone s.cur a len = true) →
      exec (.lcclean rs1 rs2) s = .next (past (pages fun q l => q.writeBack q.myCore l) 32) ∧
      exec (.lcinval rs1 rs2) s = .next (past (pages fun q l => (q.evict q.myCore l).modCore q.myCore fun c => { c with fetch := Sparse.del c.fetch l }) 32)) ∧
    (poi s rs1 = false → poi s rs2 = false → 0 < len → len < 2 ^ 48 → s.rangeDone s.cur a len = false → exec (.lcclean rs1 rs2) s = .next s ∧ exec (.lcinval rs1 rs2) s = .next s) ∧
    (s.me.queue = [] → (s.me.blk = none ∨ ∃ c, s.me.conv = some c ∧ c.hdr.kind = 6) →
      (∀ c ∈ s.me.convs, c.isMerge = false ∧ c.blind = false ∧ ∀ q ∈ c.open, ∀ y ∈ q.2.ps, a + len ≤ y.va ∨ y.va + y.len ≤ a) →
      (∀ q ∈ s.packets, q.sid ≠ some s.cur) → ctxOf s.cur ≠ 8 → s.rangeDone s.cur a len = true) ∧
    (poi s rs1 = false → poi s rs2 = false → 2 ^ 48 ≤ len → Raises s (.lcclean rs1 rs2) 1 0 ∧ Raises s (.lcinval rs1 rs2) 1 0) ∧
    (poi s rs1 = true ∨ poi s rs2 = true → Raises s (.lcclean rs1 rs2) 8 0 ∧ Raises s (.lcinval rs1 rs2) 8 0) ∧
    (poi s rs1 = false → s.xlate s.myAgent {} a = (s1, .ok t) →
      let r := regionOf t.fa
      let moves := (t.il = 4 ∨ t.il = 5) ∧ hasNat s1.domains t.dom = true
      (moves → s1.owner r = .host → exec (.ownhintDev rs1) s = .next (past (s1.startTransfer r true none (some s.myCore) t.dom) 32)) ∧
      (moves → s1.owner r = .dev → exec (.ownhintHost rs1) s = .next (past (s1.startTransfer r false none (some s.myCore) t.dom) 32)) ∧
      (¬ moves ∨ s1.owner r ≠ .host → exec (.ownhintDev rs1) s = .next (past s1 32)) ∧
      (¬ moves ∨ s1.owner r ≠ .dev → exec (.ownhintHost rs1) s = .next (past s1 32))) ∧
    (∀ e, poi s rs1 = false → s.xlate s.myAgent {} a = (s1, .error e) → exec (.ownhintDev rs1) s = .next (past s1 32) ∧ exec (.ownhintHost rs1) s = .next (past s1 32)) ∧
    (poi s rs1 = true → Raises s (.ownhintDev rs1) 8 0 ∧ Raises s (.ownhintHost rs1) 8 0)

/-- SAVING VECTOR STATE AND RESTORING REGISTERS (R309, R318 to R321): in the supervisor strand, for a held strand at a convoy boundary whose area is aligned and checked whole, vsave writes the header words, the
masks and scales and the chosen registers, clears the dirty bits of these, and marks the state clean where none is left; vrestore reads the chosen registers back, one after another, and leaves the others, clearing
the chosen ones' dirty bits. With no shares there are no register slots, and the dirty bits clear all the same. An area part that CheckAccess refuses raises its cause. -/
def Sys2Proof.Spec.SaveRestore : Prop :=
  ∀ (s s1 s2 : State) (rs1 rs2 : Reg) (k : StrandSel) (ps qs : List Piece) (slots : List (Nat × List Piece)),
    let sid := s.selSid k
    let t := s.strand sid
    let a := (val s rs1).toNat
    let mask := (val s rs2).toNat % 2 ^ (2 ^ t.n2)
    let len := regBits t.g t.n2
    let regs := if len = 0 then [] else setBits mask (2 ^ t.n2)
    let vd := t.vdirty &&& ~~~(BitVec.ofNat 64 mask)
    let u := { t with vdirty := vd, vstate := if vd = 0 ∧ t.vstate = 2 then 1 else t.vstate }
    let hd := packWords (u.saveWords mask)
    let read := fun (q : State) (x : Nat × List Piece) =>
      let z := q.readArea q.myAgent 0 x.2
      z.1.setStrand sid { z.1.strand sid with v := Sparse.put (z.1.strand sid).v x.1 { bits := z.2.1, pois := z.2.2 } }
    s.me.sup = true → poi s rs1 = false → poi s rs2 = false → t.hold.isSome = true → a % 512 = 0 → s.heldBack {} = false → t.conv = none → t.past = [] →
    (s.checkArea (.area true) a (saveV t.g t.n2) (a + saveV t.g t.n2) len regs = (s2, .ok (ps, slots)) → s2.slotsPending ps slots = false →
      let q := s2.setStrand sid u
      let q := q.writeArea q.myAgent (some q.cur) 0 (hd.1 + u.maskScale.1 * 2 ^ 11264) (hd.2 + u.maskScale.2 * 2 ^ 1408) ps
      let q := slots.foldl (fun q x => q.writeArea q.myAgent (some q.cur) 0 (Sparse.get {} u.v x.1).bits (Sparse.get {} u.v x.1).pois x.2) q
      exec (.vsave rs1 rs2 k) s = .next (past q 32) ∧ q.strand sid = u) ∧
    (s.checkArea (.area false) 0 0 (a + saveV t.g t.n2) len regs = (s1, .ok (qs, slots)) → s1.slotsPending [] slots = false →
      let q := slots.foldl read s1
      let u := q.setStrand sid { q.strand sid with vdirty := vd }
      exec (.vrestore rs1 rs2 k) s = .next (past u 32) ∧ (sid ≠ s.cur → u.strand sid = { t with v := (u.strand sid).v, vdirty := vd }) ∧
        (∀ l i ps r, slots = l ++ (i, ps) :: r → (∀ x ∈ r, x.1 ≠ i) → sid ≠ s.cur →
          let z := (l.foldl read s1).readArea s.myAgent 0 ps
          Sparse.get {} (u.strand sid).v i = { bits := z.2.1, pois := z.2.2 }) ∧
        (∀ i, (∀ x ∈ slots, x.1 ≠ i) → Sparse.get {} (u.strand sid).v i = Sparse.get {} t.v i)) ∧
    (∀ c x, (s.checkArea (.area true) a (saveV t.g t.n2) (a + saveV t.g t.n2) len regs = (s2, .error (.trap c x)) →
        exec (.vsave rs1 rs2 k) s = .next (s2.takeTrap s.cur s.me.pc { code := c, addr := BitVec.ofNat 64 x })) ∧
      (s.checkArea (.area false) 0 0 (a + saveV t.g t.n2) len regs = (s1, .error (.trap c x)) →
        exec (.vrestore rs1 rs2 k) s = .next (s1.takeTrap s.cur s.me.pc { code := c, addr := BitVec.ofNat 64 x })))

/-- WHERE A SAVE OR RESTORE TRAPS OR WAITS (R309, R312, R321): in the supervisor strand a poisoned operand raises POISON_CONTROL (8), a target that is not held ILLEGAL (1), and an area address
that is not a multiple of 512 ALIGN (4) with it; until the strand's earlier accesses are performed and the vector side of the target stands at a convoy boundary it waits. -/
def Sys2Proof.Spec.SaveTraps : Prop :=
  ∀ (s : State) (rs1 rs2 : Reg) (k : StrandSel) (i : Instr), i ∈ [.vsave rs1 rs2 k, .vrestore rs1 rs2 k, .vrestoreSt rs1 rs2 k] → s.me.sup = true →
    let t := s.strand (s.selSid k)
    (poi s rs1 = true ∨ poi s rs2 = true → Raises s i 8 0) ∧
    (poi s rs1 = false → poi s rs2 = false →
      (t.hold = none → Raises s i 1 0) ∧
      (t.hold.isSome = true → (val s rs1).toNat % 512 ≠ 0 → Raises s i 4 (val s rs1)) ∧
      (t.hold.isSome = true → (val s rs1).toNat % 512 = 0 → s.heldBack {} = true ∨ t.conv.isSome = true ∨ t.past ≠ [] → exec i s = .next s))

/-- RESTORING EVERYTHING (R31, R318, R320): vrestore.st of a legal area whose control words are not poisoned, with its shares to be had, gives held strand K what the area's words hold: vl, ew, the register count,
the shares, estart, vdirty but for the chosen registers' bits, vstate, lpart, share, vpc, the loop counters, the b registers with their poison, the block in progress, the reply queue, the watermarks and the
queued blocks, then the masks, the scales, and the chosen registers, one after another; the other registers stay where shares and count are as they were, and are dead otherwise. A poisoned vpc, loop counter or
block vl, that of a queued block among them, raises POISON_CONTROL (8), an illegal word ILLEGAL (1), a vpc that is not a multiple of 64 ALIGN (4); where the shares are not to be had it waits. -/
def Sys2Proof.Spec.RestoreState : Prop :=
  ∀ (s s1 s2 s3 s4 : State) (rs1 rs2 : Reg) (k : StrandSel) (ps qs : List Piece) (slots : List (Nat × List Piece)) (bits pois ms msp : Nat),
    let sid := s.selSid k
    let old := s.strand sid
    let a := (val s rs1).toNat
    let w := fun (i : Nat) => bits / 2 ^ (64 * i) % 2 ^ 64
    let bad := fun (i : Nat) => pois / 2 ^ (8 * i) % 2 ^ 8 ≠ 0
    let g := w 2 / 32 % 64
    let n2 := w 2 / 4 % 8
    let len := regBits g n2
    let mask := (val s rs2).toNat % 2 ^ (2 ^ n2)
    let regs := if len = 0 then [] else setBits mask (2 ^ n2)
    let W := fun (i : Nat) => BitVec.ofNat 64 (w i)
    let P := fun (i : Nat) => ({ w := W i, p := decide (bad i) } : PWord)
    let control := bad 22 ∨ (∃ i, 8 ≤ i ∧ i < 13 ∧ bad i) ∨ ∃ i, i < w 72 % 16 ∧ bad (82 + 12 * i)
    let mb := g * 32768 / 2 ^ n2
    let sb := g * 8192 / 2 ^ n2
    let read := fun (q : State) (x : Nat × List Piece) =>
      let z := q.readArea q.myAgent 0 x.2
      z.1.setStrand sid { z.1.strand sid with v := Sparse.put (z.1.strand sid).v x.1 { bits := z.2.1, pois := z.2.2 } }
    s.me.sup = true → poi s rs1 = false → poi s rs2 = false → (s.strand sid).hold.isSome = true → a % 512 = 0 → s.heldBack {} = false →
    (s.strand sid).conv = none → (s.strand sid).past = [] → s.check s.myAgent (.area false) a 11264 = (s1, .ok ps) → s1.readArea s1.myAgent 0 ps = (s2, bits, pois) →
    (areaOk bits = false → exec (.vrestoreSt rs1 rs2 k) s = .next (s2.takeTrap s.cur s.me.pc { code := 1 })) ∧
    (areaOk bits = true → control →
      exec (.vrestoreSt rs1 rs2 k) s = .next (s2.takeTrap s.cur s.me.pc { code := 8 })) ∧
    (areaOk bits = true → ¬ control → w 8 % 64 ≠ 0 →
      exec (.vrestoreSt rs1 rs2 k) s = .next (s2.takeTrap s.cur s.me.pc { code := 4, addr := W 8 })) ∧
    (areaOk bits = true → ¬ control → w 8 % 64 = 0 →
      s2.checkArea (.area false) ((a + 11264) % 2 ^ 64) (saveV g n2 - 11264) (a + saveV g n2) len regs = (s3, .ok (qs, slots)) →
      s3.slotsPending (ps ++ qs) slots = false →
      (s3.freeShares s3.myCore + old.held < g → exec (.vrestoreSt rs1 rs2 k) s = .next (s3.park (.vrestoreSt rs1 rs2 k))) ∧
      (g ≤ s3.freeShares s3.myCore + old.held → sid ≠ s.cur → s3.readArea s3.myAgent 0 qs = (s4, ms, msp) →
      ∃ u, exec (.vrestoreSt rs1 rs2 k) s = .next u ∧ u.me = { s.me with pc := s.me.pc + 32#64, wait := none } ∧
        let t := u.strand sid
        let q := s4.setStrand sid (old.restoreState bits pois ms msp)
        t.vdirty = W 4 &&& ~~~(BitVec.ofNat 64 mask) ∧ (∀ i : Fin 4, t.lc[i] = W (9 + i.val)) ∧ (∀ i : Fin 8, t.b[i] = P (13 + i.val)) ∧
        t.rq = (List.range (min 16 (w 24 % 32))).map (fun i => P (25 + i)) ∧
        (∀ i : Fin 4, t.wm[i] = { base := W (48 + 5 * i.val), w1 := W (49 + 5 * i.val), pub := W (50 + 5 * i.val), lim := W (51 + 5 * i.val)
                                  obs := W (52 + 5 * i.val) }) ∧
        t.queue = (List.range (w 72 % 16)).map (fun i => QItem.block {
          addr := W (73 + 12 * i), args := (List.range 8).map (fun j => P (74 + 12 * i + j)), vl := w (82 + 12 * i) % 2 ^ 20
          ew := w (83 + 12 * i) % 4, rm := w (83 + 12 * i) / 4 % 8, g := g }) ∧ t.past = [] ∧
        (∀ i, i < 8 → Sparse.get 0 t.m i = ms / 2 ^ (mb * i) % 2 ^ mb ∧
          Sparse.get {} t.sc i = { bits := ms / 2 ^ (8 * mb + sb * i) % 2 ^ sb, pois := msp / 2 ^ (mb + sb / 8 * i) % 2 ^ (sb / 8) }) ∧
        (∀ l i qs r, slots = l ++ (i, qs) :: r → (∀ x ∈ r, x.1 ≠ i) →
          let z := (l.foldl read q).readArea s.myAgent 0 qs
          Sparse.get {} t.v i = { bits := z.2.1, pois := z.2.2 }) ∧
        (∀ i, (∀ x ∈ slots, x.1 ≠ i) → Sparse.get {} t.v i = if g = old.g ∧ n2 = old.n2 then Sparse.get {} old.v i else {}) ∧
        t.vl = w 1 % 2 ^ 20 ∧ t.ew = w 2 % 4 ∧ t.n2 = n2 ∧ t.g = g ∧ t.held = g ∧ t.estart = w 3 ∧ t.vstate = w 5 % 4 ∧ t.lpart = w 6 ∧ t.share = w 7 % 256 ∧
        t.vpc.toNat = w 8 ∧ (w 21 = 0 → t.blk = none) ∧ (w 21 = 1 → t.blk = some { vl := w 22, ew := w 23 % 4, rm := w 23 / 4 % 8, g := g }) ∧
        t.x = old.x ∧ t.pc = old.pc ∧ t.hold = old.hold))

/-- TAKING A TRAP, in the strand's own handler or through the supervisor strand (R294 to R296, R298 to R300, R333; log entries 10 and 13). -/
def Obligations.Traps : Prop := Sys2Proof.Spec.TrapToHandler ∧ Sys2Proof.Spec.TrapToSupervisor

/-- SERVICE CALLS, RETURNS FROM TRAPS, AND HELD STRANDS (R31, R310 to R312; log entries 13, 39, 46). -/
def Obligations.HeldStrands : Prop := Sys2Proof.Spec.ServiceCalls ∧ Sys2Proof.Spec.TrapReturns ∧ Sys2Proof.Spec.HeldStrandAccess

/-- IDLE, PRIVILEGE, CACHED TRANSLATIONS AND LINE-CACHE UPKEEP (R309, R313, R315 to R317; log entries 10, 38). -/
def Obligations.SupervisorWork : Prop := Sys2Proof.Spec.IdleEnds ∧ Sys2Proof.Spec.Privileged ∧ Sys2Proof.Spec.TranslationDrops ∧ Sys2Proof.Spec.LinesAndHints

/-- SAVING AND RESTORING VECTOR STATE, and where that traps (R309, R318 to R321). -/
def Obligations.SaveAndRestore : Prop := Sys2Proof.Spec.SaveRestore ∧ Sys2Proof.Spec.SaveTraps ∧ Sys2Proof.Spec.RestoreState

/-! ### The matrix control strand -/

/-- MATRIX OPERATIONS (R227, R228, R244, R246 to R252): on the matrix control strand of a gang whose matrix profile runs, with an operation number free and the count of matrix members and operations (R132) below 1,023, each of them takes the next number, which x[rd] receives, and
goes on 64 bits further, its work left to the engine: mldb and mldb.x of checked rows, mma, mvrd.sgn and mvrd.topk of a full unclaimed slot, which they claim, mclr, and mstc of checked destinations. mcfg, with no
operation open, sets the geometry and clears B. -/
def Sys2Proof.Spec.MatrixOperations : Prop :=
  ∀ (s s1 s2 : State) (rd rs rst ri rn : Reg) (fmt w1 : BitVec 3) (cls : BitVec 4) (row count1 : BitVec 6) (slot : BitVec 4) (flags f : BitVec 2) (geom : BitVec 3)
    (pages pg : List (Nat × Nat)) (q : Slot) (v : Nat),
    s.fate s.cur .m1 = .runs → ctxOf s.cur = 8 →
    let numbered := fun (i : Instr) (u : State) (kind : MxKind) =>
      exec i s = .next (ends (u.modMx u.myCore fun m => { m with issue := m.issue + 1, ops := m.ops ++ [{ num := m.issue + 1, kind := kind }] }) 64 rd
        (BitVec.ofNat 64 (u.mx.issue + 1)) false)
    let room := fun (u : State) => u.mx.open.length < 16 ∧ (u.counts u.cur).2.2.2 < 1023
    let rowAt := fun (k : Nat) => (val s rs + BitVec.ofNat 64 k * val s rst).toNat
    (s.mx.open = [] → exec (.mcfg geom) s = .next (past (s.modMx s.myCore fun m => { m with mcfg := geom.toNat, bmat := 0, bpois := 0 }) 64)) ∧
    (poi s rs = false → poi s rst = false → s.mxHeld = false →
      (s.checkRows fmt.toNat (mldbWidth fmt w1) ((List.range s.mx.K).map rowAt) = (s1, .ok pages) → room s1 →
        numbered (.mldb rd rs rst fmt w1 cls) s1 (.mldb (((List.range s.mx.K).map rowAt).map some) fmt.toNat (mldbWidth fmt w1) cls.toNat pages)) ∧
      (let n := (val s rn).toNat
       let rows := (List.range n).map fun j => (val s2 rs + BitVec.ofNat 64 (v / 2 ^ (16 * j) % 2 ^ 16) * val s2 rst).toNat
       poi s rn = false → poi s ri = false → 1 ≤ n → n ≤ s.mx.K → s.heldBack { cls := cls.toNat } = false →
       s.checkRun .load (val s ri).toNat 16 (16 * n) = (s1, .ok pg) → s1.bitsPending s1.cur (pagePieces pg (val s1 ri).toNat (16 * n)) = false →
       s1.readPieces s1.myAgent cls.toNat false (pagePieces pg (val s1 ri).toNat (16 * n)) = (s2, .ok v false) → s2.mxHeld = false →
       ∀ u, s2.checkRows fmt.toNat (mldbWidth fmt w1) rows = (u, .ok pages) → room u →
         numbered (.mldbX rd rs rst ri rn fmt w1 cls) u (.mldb (rows.map some) fmt.toNat (mldbWidth fmt w1) cls.toNat pages)) ∧
      (let rows := (List.range (count1.toNat + 1)).map (· + row.toNat)
       let w := if f = 0 then 32 else 16
       let dests := (List.range rows.length).map rowAt
       s.mxHeld = false → (s.mx.open.any fun o => rows.any o.writesRow) = false →
       (f = 1 → (rows.any fun j => (List.range s.mx.N).any fun c => isVNan ((s.mx.row j).get c)) = false) →
       s.checkRuns .store [] (dests.map fun a => (a, w, w * s.mx.N)) = (s1, .ok pages) → room s1 →
         numbered (.mstc rd rs rst row count1 f cls) s1 (.mstc row.toNat rows.length (f == 1) dests cls.toNat pages))) ∧
    (room s → numbered (.mclr rd row count1 flags) s (.mclr row.toNat (count1.toNat + 1) flags.toNat)) ∧
    (q = s.mx.slot slot.toNat → q.full = true → q.claimed = false → s.mx.queuedRows < 4 → room s →
      let u := s.modMx s.myCore fun m => { m with slots := Sparse.put m.slots slot.toNat { q with claimed := true } }
      numbered (.mma rd row slot) u (.row row.toNat slot.toNat none) ∧
      numbered (.mvrdSgn rd row slot) u (.row row.toNat slot.toNat (some false)) ∧
      numbered (.mvrdTopk rd row slot) u (.row row.toNat slot.toNat (some true)))

/-- THRESHOLDS AND STATUS (R242, R253, R254): mthr gives threshold row (−∞, 0xFF800000, until one is written), mthw sets it to the low 32 bits of x[rs] once no verdict on the row is open; mstat gives the slots that are full and scaled with the operations in the gang (an operation enters in issue order), plane and numbering words. -/
def Sys2Proof.Spec.ThresholdsAndStatus : Prop :=
  ∀ (s : State) (rd rs : Reg) (row : BitVec 6) (sel : BitVec 3), s.fate s.cur .m1 = .runs → ctxOf s.cur = 8 →
    Writes s (.mthr rd row) 64 rd (BitVec.ofNat 64 (Sparse.get 0xFF800000 s.mx.th row.toNat)) false ∧
    (poi s rs = false → (∀ o ∈ s.mx.open, o.verdictOn row.toNat = false) → ∃ t, exec (.mthw rs row) s = .next t ∧
      t.me = { s.me with pc := s.me.pc + 64#64, wait := none } ∧ Sparse.get 0xFF800000 t.mx.th row.toNat = (val s rs).toNat % 2 ^ 32 ∧
      (∀ j, j ≠ row.toNat → t.mx.thr j = s.mx.thr j) ∧ t.mx = { s.mx with th := t.mx.th }) ∧
    Writes s (.mstat rd sel) 64 rd (BitVec.ofNat 64 (s.mx.stat sel.toNat)) false ∧
    s.mx.stat 3 = s.mx.issue ∧ s.mx.stat 4 = s.mx.tlm ∧
    (∀ i, i < 16 → (s.mx.stat 0).testBit i = (s.mx.slot i).full ∧ (s.mx.stat 0).testBit (16 + i) = ((s.mx.slot i).full && (s.mx.slot i).scaled)) ∧
    ((s.mx.stat 0).testBit 32 = true ↔ ∃ pre o post, s.mx.open = pre ++ o :: post ∧ (∀ q ∈ pre, q.isRow = true → q.entered = true) ∧ (o.isRow = true → o.entered = true ∧ o.left = false)) ∧
    ((∀ i, (s.mx.slot i).planes ≤ 16) → ∀ i, i < 8 → s.mx.stat 1 / 2 ^ (4 * i) % 16 = (if (s.mx.slot i).full then (s.mx.slot i).planes - 1 else 0) ∧
      s.mx.stat 2 / 2 ^ (4 * i) % 16 = (if (s.mx.slot (8 + i)).full then (s.mx.slot (8 + i)).planes - 1 else 0))

/-- WHERE MATRIX FORMS MAY RUN (R16, R22, R243): every matrix long form raises ILLEGAL (1) on any strand but the matrix control strand; where the gang declared no matrix profile it raises ILLEGAL, and where the die
lacks the profile and the gang is migratable the group begins to migrate. -/
def Sys2Proof.Spec.MatrixFate : Prop :=
  ∀ (s : State) (rd rs rst ri rn : Reg) (fmt w1 : BitVec 3) (cls : BitVec 4) (row count1 : BitVec 6) (slot : BitVec 4) (flags f : BitVec 2) (geom sel : BitVec 3) (i : Instr),
    i ∈ [.mcfg geom, .mldb rd rs rst fmt w1 cls, .mldbX rd rs rst ri rn fmt w1 cls, .mma rd row slot, .mvrdSgn rd row slot, .mvrdTopk rd row slot, .mclr rd row count1 flags,
      .mstc rd rs rst row count1 f cls, .mthr rd row, .mthw rs row, .mstat rd sel] →
    (s.fate s.cur .m1 = .runs → ctxOf s.cur ≠ 8 → Raises s i 1 0) ∧ (s.fate s.cur .m1 = .illegal → Raises s i 1 0) ∧
    (s.fate s.cur .m1 = .migrate → exec i s = .next (s.takeMigrate s.cur s.me.pc false 0 .m1))

/-- THE FATE OF AN OPCODE, R16: an opcode of a profile in a strand of a gang executes where the die carries the profile and the gang declared it; where the gang declared it, the die lacks it and the gang is migratable
it raises MIGRATE; else ILLEGAL. S1 is every gang's. -/
def Sys2Proof.Spec.ProfileFate : Prop :=
  ∀ (s : State) (sid : Nat) (p : Profile) (q : Gang), (s.strand sid).sup = false → s.gangOf sid = some q →
    let declared := p = .s1 ∨ q.profiles.testBit p.bit = true
    let carries := (dieProfiles (dieOf (coreOf sid))).testBit p.bit = true
    (declared → carries → s.fate sid p = .runs) ∧ (declared → ¬ carries → q.migratable = true → s.fate sid p = .migrate) ∧
    (declared → ¬ carries → q.migratable = false → s.fate sid p = .illegal) ∧ (¬ declared → s.fate sid p = .illegal)

/-- THE MATRIX LONG FORMS (R227, R242 to R254). -/
def Obligations.MatrixForms : Prop := Sys2Proof.Spec.MatrixOperations ∧ Sys2Proof.Spec.ThresholdsAndStatus

/-- WHERE MATRIX FORMS AND OPCODES OF A PROFILE MAY RUN (R16, R22, R243). -/
def Obligations.Fates : Prop := Sys2Proof.Spec.MatrixFate ∧ Sys2Proof.Spec.ProfileFate

/-! ### Vector members -/

/-- ELEMENTS AND OPERANDS (R39, R41, R151, R152): element e of a register at width w is its bits e × w on, active where e is below vl and its mask bit is set or masking is off; the second operand is
a register's element, the low bits of a b register, the constant sign-extended from 32 bits (its low bits up to 16), or the six-bit immediate sign-extended. -/
def Obligations.VectorOperands : Prop :=
  ∀ (s : State) (b : Blk) (k : Conv) (f : VAForm) (e i : Nat),
    let c := s.me.env b k
    let w := ewBits f.ew
    (i < w → ((c.vec f.vs1 w).val e).testBit i = (Sparse.get {} s.me.v f.vs1.toNat).bits.testBit (e * w + i)) ∧
    (c.active f.mask f.me e = true ↔ e < b.vl ∧ (f.me = 0 ∨ (Sparse.get 0 s.me.m f.mask.toNat).testBit e = true)) ∧
    (e ∈ c.actives f.mask f.me ↔ c.active f.mask f.me e = true) ∧
    (f.os = 0 → c.op2 f w = c.vec f.vs2 w) ∧
    (f.os = 1 → ∀ j : Fin 8, f.vs2.toNat = j.val → (c.op2 f w).val e = s.me.b[j].w.toNat % 2 ^ w ∧ (c.op2 f w).poi e = s.me.b[j].p) ∧
    (f.os = 2 → (c.op2 f w).val e = ((BitVec.ofNat 32 k.konst).signExtend w).toNat ∧ (c.op2 f w).poi e = false) ∧
    (f.os = 3 → (c.op2 f w).val e = (f.f35.signExtend w).toNat ∧ (c.op2 f w).poi e = false)

/-- INTEGER MEMBERS (R100, R151, R156): each writes the active elements of vd alone, with the result of R156 modulo 2^ew, poisoned where an operand is; shift amounts are b mod ew,
quotients go toward zero and are all ones for a zero divisor, and the saturating members stop at the ends of their range. That a poisoned shift amount of vsll, vsrl and vsra is data, which poisons the result, is the model's reading (log entry 26: R154 lists a shift offset). -/
def Sys2Proof.Spec.VectorIntegers : Prop :=
  ∀ (s : State) (b : Blk) (k : Conv) (f : VAForm), Runs s b k →
    let c := s.me.env b k
    let w := ewBits f.ew
    let x := fun e => BitVec.ofNat w ((c.vec f.vs1 w).val e)
    let y := fun e => BitVec.ofNat w ((c.op2 f w).val e)
    let z := fun e => BitVec.ofNat w ((c.vec f.f35 w).val e)
    let p := fun e => (c.vec f.vs1 w).poi e || (c.op2 f w).poi e
    let hi : Int := 2 ^ (w - 1) - 1
    let lo : Int := -(2 ^ (w - 1))
    let op := fun (i : VAForm → Instr) (g : BitVec w → BitVec w → BitVec w) => Elems s (i f) k f.vd w (c.actives f.mask f.me) (fun e => (g (x e) (y e)).toNat) p
    op .vadd (· + ·) ∧ op .vsub (· - ·) ∧ op .vrsub (fun a b => b - a) ∧ op .vand (· &&& ·) ∧ op .vor (· ||| ·) ∧ op .vxor (· ^^^ ·) ∧
    op .vsll (fun a b => a <<< (b.toNat % w)) ∧ op .vsrl (fun a b => a >>> (b.toNat % w)) ∧ op .vsra (fun a b => a.sshiftRight (b.toNat % w)) ∧
    op .vmin (fun a b => if a.toInt ≤ b.toInt then a else b) ∧ op .vmax (fun a b => if a.toInt ≤ b.toInt then b else a) ∧
    op .vminu (fun a b => if a.toNat ≤ b.toNat then a else b) ∧ op .vmaxu (fun a b => if a.toNat ≤ b.toNat then b else a) ∧
    op .vmul (· * ·) ∧ op .vmulh (fun a b => BitVec.ofInt w (a.toInt * b.toInt / 2 ^ w)) ∧ op .vmulhu (fun a b => BitVec.ofNat w (a.toNat * b.toNat / 2 ^ w)) ∧
    op .vdiv (fun a b => if b = 0 then BitVec.allOnes w else a.sdiv b) ∧ op .vdivu (fun a b => if b = 0 then BitVec.allOnes w else a / b) ∧
    op .vrem (fun a b => if b = 0 then a else a.srem b) ∧ op .vremu (fun a b => if b = 0 then a else a % b) ∧
    op .vsadd (fun a b => BitVec.ofInt w (max lo (min (a.toInt + b.toInt) hi))) ∧ op .vsaddu (fun a b => BitVec.ofNat w (min (a.toNat + b.toNat) (2 ^ w - 1))) ∧
    op .vssub (fun a b => BitVec.ofInt w (max lo (min (a.toInt - b.toInt) hi))) ∧ op .vssubu (fun a b => BitVec.ofNat w (a.toNat - b.toNat)) ∧
    Elems s (.vmadd f) k f.vd w (c.actives f.mask f.me) (fun e => (x e * y e + z e).toNat) (fun e => p e || (c.vec f.f35 w).poi e)

/-- LIMB GROUPS (R157): with groups of L = 2^v elements, vgadd and vgsub give in each group's elements the limbs of A + B + c and A − B − c, modulo 2^(n·ew) for a group of n, with c the carry-in bit
of the group's first element where one is enabled; vgcy and vgbw set the bit of each group's first element where the sum carries out or the difference borrows, and clear the others, and a poisoned limb makes them raise POISON_CONTROL (8, R154), naming the first.
The limbs are least significant first. -/
def Sys2Proof.Spec.LimbGroups : Prop :=
  ∀ (s : State) (b : Blk) (k : Conv) (f : VAForm) (e : Nat), Runs s b k →
    let c := s.me.env b k
    let w := ewBits f.ew
    let L := 2 ^ f.variant.toNat
    let start := fun (e : Nat) => e / L * L
    let n := fun (e : Nat) => min (start e + L) b.vl - start e
    let A := fun (e : Nat) => ((List.range (n e)).map fun j => (c.vec f.vs1 w).val (start e + j) * 2 ^ (j * w)).sum
    let B := fun (e : Nat) => ((List.range (n e)).map fun j => (c.op2 f w).val (start e + j) * 2 ^ (j * w)).sum
    let C := fun (e : Nat) => if f.f35.toNat.testBit 2 && (Sparse.get 0 s.me.m (f.f35.toNat / 8)).testBit (start e) then 1 else 0
    let bad := fun (e : Nat) => (List.range (n e)).any fun j => (c.vec f.vs1 w).poi (start e + j) || (c.op2 f w).poi (start e + j)
    let limb := fun (v : Int) (e : Nat) => (v % 2 ^ (n e * w)).toNat / 2 ^ ((e - start e) * w)
    let es := List.range b.vl
    Elems s (.vgadd f) k f.vd w es (fun e => limb (A e + B e + C e) e) bad ∧
    Elems s (.vgsub f) k f.vd w es (fun e => limb ((A e : Int) - B e - C e) e) bad ∧
    ((∀ e ∈ es, (c.vec f.vs1 w).poi e = false ∧ (c.op2 f w).poi e = false) →
      MaskBits s (.vgcy f) k f.vd es (fun e => e = start e ∧ 2 ^ (n e * w) ≤ A e + B e + C e) ∧
      MaskBits s (.vgbw f) k f.vd es (fun e => e = start e ∧ A e < B e + C e)) ∧
    (First es (fun e => (c.vec f.vs1 w).poi e = true ∨ (c.op2 f w).poi e = true) e → ConvoyRaises s (.vgcy f) k 8 (some e) ∧ ConvoyRaises s (.vgbw f) k 8 (some e))

/-- INTEGER COMPARES (R154, R158): each writes the mask bit of every active element with its condition, the other bits as before; a poisoned active operand raises POISON_CONTROL (8) for the
convoy, naming the first such element. -/
def Sys2Proof.Spec.VectorCompares : Prop :=
  ∀ (s : State) (b : Blk) (k : Conv) (f : VAForm) (e : Nat), Runs s b k →
    let c := s.me.env b k
    let w := ewBits f.ew
    let x := fun e => BitVec.ofNat w ((c.vec f.vs1 w).val e)
    let y := fun e => BitVec.ofNat w ((c.op2 f w).val e)
    let es := c.actives f.mask f.me
    let bad := fun e => (c.vec f.vs1 w).poi e = true ∨ (c.op2 f w).poi e = true
    let cmp := fun (i : VAForm → Instr) (g : BitVec w → BitVec w → Prop) =>
      ((∀ e ∈ es, ¬ bad e) → MaskBits s (i f) k f.vd es (fun e => g (x e) (y e))) ∧ (First es bad e → ConvoyRaises s (i f) k 8 (some e))
    cmp .vmseq (fun a b => a = b) ∧ cmp .vmsne (fun a b => a ≠ b) ∧ cmp .vmslt (fun a b => a.toInt < b.toInt) ∧ cmp .vmsltu (fun a b => a.toNat < b.toNat) ∧
    cmp .vmsle (fun a b => a.toInt ≤ b.toInt) ∧ cmp .vmsleu (fun a b => a.toNat ≤ b.toNat) ∧ cmp .vmsgt (fun a b => b.toInt < a.toInt) ∧
    cmp .vmsgtu (fun a b => b.toNat < a.toNat)

/-- INTEGER REDUCTIONS (R151, R159): element 0 of vd becomes the fold of the active elements of vs1 from element 0 of the second operand, ascending, poisoned where one of them is; at vl = 0 nothing is written. -/
def Sys2Proof.Spec.VectorReductions : Prop :=
  ∀ (s : State) (b : Blk) (k : Conv) (f : VAForm), Runs s b k →
    let c := s.me.env b k
    let w := ewBits f.ew
    let x := fun e => BitVec.ofNat w ((c.vec f.vs1 w).val e)
    let y := BitVec.ofNat w ((c.op2 f w).val 0)
    let es := c.actives f.mask f.me
    let red := fun (i : VAForm → Instr) (g : BitVec w → BitVec w → BitVec w) => Elems s (i f) k f.vd w (if b.vl = 0 then [] else [0])
      (fun _ => (es.foldl (fun acc e => g acc (x e)) y).toNat) (fun _ => (c.op2 f w).poi 0 || es.any (c.vec f.vs1 w).poi)
    red .vredsum (· + ·) ∧ red .vredmax (fun a b => if a.toInt ≤ b.toInt then b else a) ∧ red .vredmin (fun a b => if a.toInt ≤ b.toInt then a else b) ∧
    red .vredmaxu (fun a b => if a.toNat ≤ b.toNat then b else a) ∧ red .vredminu (fun a b => if a.toNat ≤ b.toNat then a else b) ∧
    red .vredand (· &&& ·) ∧ red .vredor (· ||| ·) ∧ red .vredxor (· ^^^ ·)

/-- INTEGER MEMBERS AND LIMB GROUPS (R100, R156, R157). -/
def Obligations.IntegerMembers : Prop := Sys2Proof.Spec.VectorIntegers ∧ Sys2Proof.Spec.LimbGroups

/-- FLOATING MEMBERS (R136, R137, R141, R151, R160, R161, R165): at bf16, f32 and, for the D1 opcodes, f64 each writes the active elements of vd with its operation's once-rounded result in the member's mode or
the block's, poisoned where an operand is, and joins the flags of those elements; a vNaN among the f32 operands of an active element raises VERDICT_CONSUMED (10), naming the first such. -/
def Obligations.VectorFloats : Prop :=
  ∀ (s : State) (b : Blk) (k : Conv) (f : VAForm) (e : Nat), Runs s b k →
    let c := s.me.env b k
    let w := ewBits f.ew
    let F := fmtOf w
    let rm := if f.rm = 6 then b.rm else f.rm.toNat
    let x := (c.vec f.vs1 w).val
    let y := (c.fop2 f w).val
    let z := (c.vec f.f35 w).val
    let es := c.actives f.mask f.me
    let p := fun e => (c.vec f.vs1 w).poi e || (c.fop2 f w).poi e
    let v1 := fun e => w = 32 ∧ isVNan (x e) = true
    let v2 := fun e => w = 32 ∧ (isVNan (x e) = true ∨ isVNan (y e) = true)
    let v3 := fun e => w = 32 ∧ (isVNan (x e) = true ∨ isVNan (y e) = true ∨ isVNan (z e) = true)
    let runs := fun (i : VAForm → Instr) (v : Nat → Prop) (g : Nat → FRes) (p : Nat → Bool) =>
      ((∀ e ∈ es, ¬ v e) → Elems s (i f) k f.vd w es (fun e => (g e).1) p (fun e => (g e).2)) ∧ (First es v e → ConvoyRaises s (i f) k 10 (some e))
    let two := fun (i j : VAForm → Instr) (g : Nat → Nat → FRes) => runs i v2 (fun e => g (x e) (y e)) p ∧ runs j v2 (fun e => g (x e) (y e)) p
    let fma := fun (i j : VAForm → Instr) (np nc : Bool) =>
      runs i v3 (fun e => F.fma rm np nc (x e) (y e) (z e)) (fun e => p e || (c.vec f.f35 w).poi e) ∧
      runs j v3 (fun e => F.fma rm np nc (x e) (y e) (z e)) (fun e => p e || (c.vec f.f35 w).poi e)
    two .vfadd .vfaddF64 (F.add rm) ∧ two .vfsub .vfsubF64 (fun a b => F.add rm a (b ^^^ F.sign)) ∧ two .vfmul .vfmulF64 (F.mul rm) ∧ two .vfdiv .vfdivF64 (F.div rm) ∧
    two .vfmin .vfminF64 (F.minmax false) ∧ two .vfmax .vfmaxF64 (F.minmax true) ∧ two .vfsgnj .vfsgnjF64 (fun a b => (F.sgnj false a b, 0)) ∧
    two .vfsgnjn .vfsgnjnF64 (fun a b => (F.sgnj true a b, 0)) ∧ fma .vfma .vfmaF64 false false ∧ fma .vfms .vfmsF64 false true ∧ fma .vfnma .vfnmaF64 true false ∧
    runs .vfsqrt v1 (fun e => F.sqrt rm (x e)) (c.vec f.vs1 w).poi ∧ runs .vfsqrtF64 v1 (fun e => F.sqrt rm (x e)) (c.vec f.vs1 w).poi

/-- CONVERSIONS (R142, R162, R165): each reads the active elements of vs1 at the source width and writes vd at the destination width, rounded in the mode; integers are read as integers of ew bits, and a result that an
integer cannot hold saturates with NV. A vNaN read as f32 raises VERDICT_CONSUMED (10). -/
def Sys2Proof.Spec.Conversions : Prop :=
  ∀ (s : State) (b : Blk) (k : Conv) (f : VAForm) (e : Nat), Runs s b k →
    let c := s.me.env b k
    let w := ewBits f.ew
    let F := fmtOf w
    let rm := if f.rm = 6 then b.rm else f.rm.toNat
    let es := c.actives f.mask f.me
    let cvt := fun (i : Instr) (r d : Nat) (g : Nat → FRes) =>
      ((∀ e ∈ es, ¬ (r = 32 ∧ isVNan ((c.vec f.vs1 r).val e) = true)) →
        Elems s i k f.vd d es (fun e => (g ((c.vec f.vs1 r).val e)).1) (c.vec f.vs1 r).poi (fun e => (g ((c.vec f.vs1 r).val e)).2)) ∧
      (r = 32 → First es (fun e => isVNan ((c.vec f.vs1 r).val e) = true) e → ConvoyRaises s i k 10 (some e))
    let ofI := fun (i : Instr) (g : Nat → Int) =>
      Elems s i k f.vd w es (fun e => (F.round rm (Ex.ofInt (g ((c.vec f.vs1 w).val e)))).1) (c.vec f.vs1 w).poi
        (fun e => (F.round rm (Ex.ofInt (g ((c.vec f.vs1 w).val e)))).2)
    cvt (.vfcvtF32Bf16 f) 16 32 (Fmt.convert bf16 f32 rm) ∧ cvt (.vfcvtBf16F32 f) 32 16 (Fmt.convert f32 bf16 rm) ∧
    cvt (.vfcvtF64F32 f) 32 64 (Fmt.convert f32 f64 rm) ∧ cvt (.vfcvtF32F64 f) 64 32 (Fmt.convert f64 f32 rm) ∧
    cvt (.vfcvtIF f) w w (F.toInt rm true w) ∧ cvt (.vfcvtUF f) w w (F.toInt rm false w) ∧
    cvt (.vfcvtIFF64 f) w w (F.toInt rm true w) ∧ cvt (.vfcvtUFF64 f) w w (F.toInt rm false w) ∧
    ofI (.vfcvtFI f) (fun v => (BitVec.ofNat w v).toInt) ∧ ofI (.vfcvtFIF64 f) (fun v => (BitVec.ofNat w v).toInt) ∧
    ofI (.vfcvtFU f) (fun v => (v : Int)) ∧ ofI (.vfcvtFUF64 f) (fun v => (v : Int))

/-- FLOATING COMPARES AND CLASSES (R141, R154, R163, R165): each writes the mask bit of every active element; a NaN of either kind makes the pair unordered, which vmfne alone answers with 1; an ordinary NaN
sets NV in vmflt, vmfle, vmfgt and vmfge, only a signalling one in the others, and a vNaN in none; vmfclass tests the class its variant names. A poisoned operand raises POISON_CONTROL (8). -/
def Sys2Proof.Spec.FloatCompares : Prop :=
  ∀ (s : State) (b : Blk) (k : Conv) (f : VAForm) (e : Nat), Runs s b k →
    let c := s.me.env b k
    let w := ewBits f.ew
    let F := fmtOf w
    let x := (c.vec f.vs1 w).val
    let y := (c.fop2 f w).val
    let es := c.actives f.mask f.me
    let bad := fun e => (c.vec f.vs1 w).poi e = true ∨ (c.fop2 f w).poi e = true
    let vn := fun (a : Nat) => w == 32 && isVNan a
    let nv := fun (loud : Bool) (a : Nat) => F.isNan a && !vn a && (loud || F.isSnan a)
    let one := fun (i : Instr) (g : Nat → Nat → Bool) (un loud : Bool) =>
      ((∀ e ∈ es, ¬ bad e) → MaskBits s i k f.vd es (fun e => (if F.isNan (x e) = true ∨ F.isNan (y e) = true then un else g (x e) (y e)) = true)
        (fun e => if nv loud (x e) || nv loud (y e) then 2 ^ 8 else 0)) ∧ (First es bad e → ConvoyRaises s i k 8 (some e))
    let cmp := fun (i j : VAForm → Instr) (g : Nat → Nat → Bool) (un loud : Bool) => one (i f) g un loud ∧ one (j f) g un loud
    cmp .vmfeq .vmfeqF64 (fun a b => !F.lt a b && !F.lt b a) false false ∧ cmp .vmfne .vmfneF64 (fun a b => F.lt a b || F.lt b a) true false ∧
    cmp .vmflt .vmfltF64 (fun a b => F.lt a b) false true ∧ cmp .vmfle .vmfleF64 (fun a b => !F.lt b a) false true ∧
    cmp .vmfgt .vmfgtF64 (fun a b => F.lt b a) false true ∧ cmp .vmfge .vmfgeF64 (fun a b => !F.lt a b) false true ∧
    cmp .vmford .vmfordF64 (fun _ _ => true) false false ∧
    (∀ i ∈ [Instr.vmfclass f, .vmfclassF64 f], ((∀ e ∈ es, (c.vec f.vs1 w).poi e = false) → MaskBits s i k f.vd es (fun e => inClass w f.variant.toNat (x e) = true)) ∧
      (First es (fun e => (c.vec f.vs1 w).poi e = true) e → ConvoyRaises s i k 8 (some e)))

/-- FLOATING REDUCTIONS (R141, R164, R165): element 0 of vd becomes the fold of the active elements from element 0 of the second operand, in ascending order, each addition rounded in the mode; a vNaN among them or as the
initial value raises VERDICT_CONSUMED (10). That the cause names no element where the initial value is the vNaN is the model's choice (log entry 26). -/
def Sys2Proof.Spec.FloatReductions : Prop :=
  ∀ (s : State) (b : Blk) (k : Conv) (f : VAForm) (e : Nat), Runs s b k →
    let c := s.me.env b k
    let w := ewBits f.ew
    let F := fmtOf w
    let rm := if f.rm = 6 then b.rm else f.rm.toNat
    let x := (c.vec f.vs1 w).val
    let init := (c.fop2 f w).val 0
    let es := c.actives f.mask f.me
    let vn := fun (a : Nat) => w = 32 ∧ isVNan a = true
    let red := fun (i : Instr) (g : Nat → Nat → FRes) =>
      let out := es.foldl (fun (r : FRes) e => ((g r.1 (x e)).1, r.2 ||| (g r.1 (x e)).2)) (init, 0)
      (b.vl = 0 → Elems s i k f.vd w [] (fun _ => 0) (fun _ => false)) ∧
      (0 < b.vl → ¬ vn init → (∀ e ∈ es, ¬ vn (x e)) →
        Elems s i k f.vd w [0] (fun _ => out.1) (fun _ => (c.fop2 f w).poi 0 || es.any (c.vec f.vs1 w).poi) (fun _ => out.2)) ∧
      (0 < b.vl → vn init → ConvoyRaises s i k 10 none) ∧
      (0 < b.vl → ¬ vn init → First es (fun e => vn (x e)) e → ConvoyRaises s i k 10 (some e))
    (∀ i ∈ [Instr.vfredsum f, .vfredsumF64 f], red i (F.add rm)) ∧ (∀ i ∈ [Instr.vfredmax f, .vfredmaxF64 f], red i (F.minmax true)) ∧
    (∀ i ∈ [Instr.vfredmin f, .vfredminF64 f], red i (F.minmax false))

/-- ROUNDING (R135, R136, R137): a nonzero exact value rounded to a format keeps its sign; a finite result lies on the mode's side of it (toward zero, down, up), and NX is raised exactly where it differs from the value. -/
def Sys2Proof.Spec.Rounding : Prop :=
  ∀ (F : Fmt) (rm : Nat) (x : Ex), F ∈ [bf16, f32, f64] → rm ≤ 4 → 0 < x.n → 0 < x.d →
    let r := F.round rm x
    let y := F.fin r.1
    F.isNeg r.1 = x.neg ∧ F.isNan r.1 = false ∧
    (F.isInf r.1 = false → (r.2.testBit 11 = false ↔ x.eq y = true) ∧ (rm = 4 → x.abs.lt y.abs = false) ∧ (rm = 3 → x.lt y = false) ∧ (rm = 2 → y.lt x = false))

/-- COMPARES INTO MASKS, integer and floating. -/
def Obligations.CompareMembers : Prop := Sys2Proof.Spec.VectorCompares ∧ Sys2Proof.Spec.FloatCompares

/-- REDUCTIONS, integer and floating. -/
def Obligations.ReductionMembers : Prop := Sys2Proof.Spec.VectorReductions ∧ Sys2Proof.Spec.FloatReductions

/-- CONVERSIONS AND ROUNDING. -/
def Obligations.ConversionsAndRounding : Prop := Sys2Proof.Spec.Conversions ∧ Sys2Proof.Spec.Rounding

/-- BLOCK SCALES (R41, R148, R149, R166, R168): vqscale writes, for each superblock that holds an element below vl, its super-scale and four codes from the active elements, a block with a NaN or infinity getting code 255 and
NV, the flags of rounding the super-scales joined; vqapply writes each active element's scaled value, rounded once to bf16 or f32; vqquant the nq4 code or q integer a narrowing store would store. A vNaN read raises VERDICT_CONSUMED (10). A
poisoned active element poisons the entries of its block and superblock. That a super-scale which is a vNaN is consumed too, and which flags vqscale raises, is the model's reading (log entry 17). -/
def Sys2Proof.Spec.BlockScales : Prop :=
  ∀ (s : State) (b : Blk) (k : Conv) (f : VAForm) (e : Nat), Runs s b k →
    let c := s.me.env b k
    let w := ewBits f.ew
    let F := fmtOf w
    let rm := if f.rm = 6 then b.rm else f.rm.toNat
    let es := c.actives f.mask f.me
    let T := targetOf f.variant.toNat
    let E := maxVl b.g s.me.n2 8
    let sc := fun (u : Strand) (n : Nat) => Sparse.get {} u.sc n
    let r := sc s.me (f.f35.toNat / 8)
    let S := fun (e : Nat) => r.get 32 (E / 256 + e / 256)
    let code := fun (e : Nat) => r.get 8 (e / 64)
    let x := fun (w e : Nat) => (c.vec f.vs1 w).val e
    let p := fun (w e : Nat) => (c.vec f.vs1 w).poi e || r.poi 8 (e / 64) || r.poi 32 (E / 256 + e / 256)
    let inSb := fun (j : Nat) => es.filter fun e => e / 256 == j
    let inBlk := fun (i : Nat) => es.filter fun e => e / 64 == i
    let odd := fun (i : Nat) => (inBlk i).any fun e => F.isNan (x w e) || F.isInf (x w e)
    let sup := fun (j : Nat) => superFor T (maxAbs F ((inSb j).map (x w)))
    (E % 256 = 0 → b.vl ≤ E → (∀ e ∈ es, ¬ (w = 32 ∧ isVNan (x w e) = true)) →
      ∃ t fl, After s (.vqscale f) k fl [] t ∧ t.me.v = s.me.v ∧ t.me.m = s.me.m ∧ (∀ n, n ≠ f.vd.toNat / 8 → sc t.me n = sc s.me n) ∧
        (fl = (if (List.range (4 * ceilDiv b.vl 256)).any odd then 2 ^ 8 else 0) ||| joinFlags (List.range (ceilDiv b.vl 256)) fun j => (superRound T (maxAbs F ((inSb j).map (x w)))).2) ∧
        (∀ j, (sc t.me (f.vd.toNat / 8)).get 32 (E / 256 + j) = if j < ceilDiv b.vl 256 then sup j % 2 ^ 32 else (sc s.me (f.vd.toNat / 8)).get 32 (E / 256 + j)) ∧
        (∀ i, i < E / 64 → (sc t.me (f.vd.toNat / 8)).get 8 i = if i < 4 * ceilDiv b.vl 256 then
          (if odd i then 255 else codeFor T (maxAbs F ((inBlk i).map (x w))) (sup (i / 4))) else (sc s.me (f.vd.toNat / 8)).get 8 i) ∧
        (∀ j, (sc t.me (f.vd.toNat / 8)).poi 32 (E / 256 + j) = if j < ceilDiv b.vl 256 then (inSb j).any (c.vec f.vs1 w).poi else (sc s.me (f.vd.toNat / 8)).poi 32 (E / 256 + j)) ∧
        (∀ i, i < E / 64 → (sc t.me (f.vd.toNat / 8)).poi 8 i = if i < 4 * ceilDiv b.vl 256 then (inBlk i).any (c.vec f.vs1 w).poi else (sc s.me (f.vd.toNat / 8)).poi 8 i)) ∧
    (First es (fun e => w = 32 ∧ isVNan (x w e) = true) e → ConvoyRaises s (.vqscale f) k 10 (some e)) ∧
    (let sw := if f.variant = 0 then 8 else 16
     let q := fun (e : Nat) => if f.variant = 2 then bf16.val (x sw e) else .fin (Ex.ofInt (BitVec.ofNat sw (x sw e)).toInt)
     let v := fun (e : Nat) => roundScaled F rm (scaled (q e) (code e) (S e))
     ((∀ e ∈ es, isVNan (S e) = false) → Elems s (.vqapply f) k f.vd w es (fun e => (v e).1) (p sw) (fun e => (v e).2 ||| if q e = .nan true then 2 ^ 8 else 0)) ∧
     (First es (fun e => isVNan (S e) = true) e → ConvoyRaises s (.vqapply f) k 10 (some e))) ∧
    (let v := fun (e : Nat) => narrow T f32 (x 32 e) (code e) (S e)
     ((∀ e ∈ es, isVNan (x 32 e) = false ∧ isVNan (S e) = false) →
       Elems s (.vqquant f) k f.vd 8 es (fun e => if T.nq4 then (v e).1 else ((BitVec.ofNat T.w (v e).1).signExtend 8).toNat) (p 32) (fun e => (v e).2)) ∧
     (First es (fun e => isVNan (x 32 e) = true ∨ isVNan (S e) = true) e → ConvoyRaises s (.vqquant f) k 10 (some e)))

/-- SCALED REDUCTION AND RANKING (R167, R169): vreds folds superblock after superblock into element 0, from element 0 of the second operand read as f32, each superblock's scaled block sums taken exactly, times its super-scale,
rounded to nearest; vtopk writes, for each group of G elements, the indexes in the group of its k highest active elements, best first, all ones where it has fewer. A group size below k raises ILLEGAL (1), a poisoned one, or a poisoned active element, POISON_CONTROL (8) (R154). At vl = 0 nothing is written. That vreds takes all four blocks of a superblock, that a vNaN as the initial value names no element and that vtopk's group size is a 32-bit number are the model's readings (log entry 26), a vNaN super-scale's too (log entry 17). -/
def Sys2Proof.Spec.ScaledReductionAndRanking : Prop :=
  ∀ (s : State) (b : Blk) (k : Conv) (f : VAForm) (j : Nat), Runs s b k →
    let c := s.me.env b k
    let w := ewBits f.ew
    let es := c.actives f.mask f.me
    let r := c.scaleReg (f.f35.toNat / 8)
    let init := (c.fop2 { f with ew := 2 } 32).val 0
    let out := (List.range (ceilDiv b.vl 256)).foldl (fun (o : FRes) j =>
      let t := redsT r (f.variant == 0) w (c.vec f.vs1 w) es j
      let u := redsU t.1 (c.super r j)
      ((f32.add 0 o.1 u.1).1, o.2 ||| t.2 ||| u.2 ||| (f32.add 0 o.1 u.1).2)) (init, 0)
    let bad := (c.fop2 { f with ew := 2 } 32).poi 0 || es.any (c.vec f.vs1 w).poi || (List.range (4 * ceilDiv b.vl 256)).any fun i => c.scalePoi r (64 * i)
    (0 < b.vl → isVNan init = false → (∀ j, j < ceilDiv b.vl 256 → isVNan (c.super r j) = false) →
      Elems s (.vreds f) k f.vd 32 [0] (fun _ => out.1) (fun _ => bad) (fun _ => out.2)) ∧
    (b.vl = 0 → Elems s (.vreds f) k f.vd 32 [] (fun _ => 0) (fun _ => false)) ∧
    (0 < b.vl → isVNan init = true → ConvoyRaises s (.vreds f) k 10 none) ∧
    (0 < b.vl → isVNan init = false → First (List.range (ceilDiv b.vl 256)) (fun j => isVNan (c.super r j) = true) j → ConvoyRaises s (.vreds f) k 10 (some (256 * j))) ∧
    (let K := f.variant.toNat + 1
     let G := ((c.op2 f 32).val 0)
     let g := min G b.vl
     let a := c.vec f.vs1 32
     ((c.op2 f 32).poi 0 = true → ConvoyRaises s (.vtopk f) k 8 none) ∧
     ((c.op2 f 32).poi 0 = false → K ≤ G → 0 < b.vl → ∀ e, First es (fun e => a.poi e = true) e → ConvoyRaises s (.vtopk f) k 8 (some e)) ∧
     ((c.op2 f 32).poi 0 = false →
     (G < K → ConvoyRaises s (.vtopk f) k 1 none) ∧
     (K ≤ G → 0 < b.vl → (∀ e ∈ es, a.poi e = false) → ∃ order : Nat → List Nat,
       (∀ h, h < ceilDiv b.vl g → (order h).Perm (es.filter fun e => e / g == h) ∧ (order h).Pairwise fun i j => topBefore a i j = true) ∧
       Elems s (.vtopk f) k f.vd 32 ((List.range b.vl).filter fun e => decide (e < ceilDiv b.vl g * K))
         (fun e => match (order (e / K))[e % K]? with
           | some i => i - e / K * g
           | none => 0xFFFFFFFF) (fun _ => false)
         (fun _ => if es.any (fun e => topRank (a.val e) == 2) then 2 ^ 8 else 0))))

/-- MASK MEMBERS (R170 to R172): the eight logic members write every bit below vl, whatever the mask; vmrel writes the relation of each element to the first set one; vmslide1 moves the mask one place; vmpopc and vmfirst write
the count and the index of the first of the set bits at active elements into element 0, all ones where there is none. -/
def Obligations.MaskMembers : Prop :=
  ∀ (s : State) (b : Blk) (k : Conv) (f : VAForm), Runs s b k →
    let w := ewBits f.ew
    let es := (s.me.env b k).actives f.mask f.me
    let m := fun (r : BitVec 6) (e : Nat) => (Sparse.get 0 s.me.m (r.toNat / 8)).testBit e
    let all := List.range b.vl
    let op := fun (i : VAForm → Instr) (g : Bool → Bool → Bool) => MaskBits s (i f) k f.vd all (fun e => g (m f.vs1 e) (m f.vs2 e) = true)
    let below := fun (e : Nat) => ∃ x, x < e ∧ m f.vs1 x = true
    let set := es.filter (m f.vs1)
    op .vmand (fun a b => a && b) ∧ op .vmor (fun a b => a || b) ∧ op .vmxor (fun a b => a != b) ∧ op .vmandn (fun a b => a && !b) ∧ op .vmorn (fun a b => a || !b) ∧
    op .vmnand (fun a b => !(a && b)) ∧ op .vmnor (fun a b => !(a || b)) ∧ op .vmxnor (fun a b => a == b) ∧
    (f.variant.toNat ≤ 4 → MaskBits s (.vmrel f) k f.vd all (fun e =>
      let first := m f.vs1 e = true ∧ ¬ below e
      (f.variant = 0 → ¬ below e ∧ m f.vs1 e = false) ∧ (f.variant = 1 → ¬ below e) ∧ (f.variant = 2 → first) ∧ (f.variant = 3 → below e ∨ first) ∧
      (f.variant = 4 → below e))) ∧
    MaskBits s (.vmslide1 f) k f.vd all (fun e =>
      let fill := f.variant.toNat.testBit 1
      (if f.variant.toNat.testBit 0 then (if e + 1 = b.vl then fill else m f.vs1 (e + 1)) else (if e = 0 then fill else m f.vs1 (e - 1))) = true) ∧
    Elems s (.vmpopc f) k f.vd w (if b.vl = 0 then [] else [0]) (fun _ => set.length) (fun _ => false) ∧
    Elems s (.vmfirst f) k f.vd w (if b.vl = 0 then [] else [0]) (fun _ => set.head?.getD (2 ^ w - 1)) (fun _ => false)

/-- SHIFTS, ROTATES AND MOVES OF ELEMENTS (R154, R173 to R176): where each active element of vd comes from; elements a shift up leaves below its offset, and inactive ones, keep their values. A poisoned offset, or a poisoned index of an
active element, raises POISON_CONTROL (8). -/
def Sys2Proof.Spec.ElementMoves : Prop :=
  ∀ (s : State) (b : Blk) (k : Conv) (f : VAForm) (e : Nat), Runs s b k →
    let c := s.me.env b k
    let w := ewBits f.ew
    let V := c.vlmax w
    let a := c.vec f.vs1 w
    let y := c.op2 f w
    let es := c.actives f.mask f.me
    let o := (c.count f).w.toNat
    let gets := fun (i : Instr) (es : List Nat) (src : Nat → Option Nat) => Elems s i k f.vd w es (fun e => ((src e).map a.val).getD 0) (fun e => ((src e).map a.poi).getD false)
    ((c.count f).p = true → ∀ i ∈ [Instr.vshiftUp f, .vshiftDn f, .vrotUp f, .vrotDn f], ConvoyRaises s i k 8 none) ∧
    ((c.count f).p = false →
      gets (.vshiftUp f) (es.filter fun e => decide (o ≤ e)) (fun e => some (e - o)) ∧ gets (.vshiftDn f) es (fun e => if e + o < V then some (e + o) else none) ∧
      gets (.vrotDn f) es (fun e => some ((e + o) % b.vl)) ∧ gets (.vrotUp f) es (fun e => some ((e + b.vl - o % b.vl) % b.vl))) ∧
    Elems s (.vshiftInsUp f) k f.vd w es (fun e => if e = 0 then y.val 0 else a.val (e - 1)) (fun e => if e = 0 then y.poi 0 else a.poi (e - 1)) ∧
    Elems s (.vshiftInsDn f) k f.vd w es (fun e => if e + 1 = b.vl then y.val 0 else a.val (e + 1)) (fun e => if e + 1 = b.vl then y.poi 0 else a.poi (e + 1)) ∧
    (let i := c.vec f.vs2 w
     ((∀ e ∈ es, i.poi e = false) → gets (.vrgather f) es (fun e => if i.val e < V then some (i.val e) else none)) ∧
     (First es (fun e => i.poi e = true) e → ConvoyRaises s (.vrgather f) k 8 (some e))) ∧
    (let m := Sparse.get 0 s.me.m f.mask.toNat
     Elems s (.vsel f) k f.vd w (List.range b.vl) (fun e => if m.testBit e then a.val e else y.val e) (fun e => if m.testBit e then a.poi e else y.poi e)) ∧
    Elems s (.vmv f) k f.vd w es y.val y.poi ∧
    gets (.vexpand f) es (fun e => some (es.filter (· < e)).length) ∧
    (f.variant ≠ 1 ∨ b.vl = 0 → gets (.vcompress f) (List.range es.length) (fun i => some (es.getD i 0))) ∧
    (f.variant = 1 → 0 < b.vl → ∃ t, After s (.vcompress f) k 0 [.vl es.length none] t ∧ t.me.m = s.me.m ∧
      ElemsOf s.me t.me f.vd.toNat w (List.range es.length) (fun i => a.val (es.getD i 0)) (fun i => a.poi (es.getD i 0)))

/-- INDEXES, CONFLICTS AND SCANS (R177 to R179): viota writes the count of set bits of the mask below each active element, vid its index, vconfl the last earlier active element with the same bits or all ones, and vsegscan the running
result of its operation since the last segment start among the active elements. -/
def Sys2Proof.Spec.IndexesAndScans : Prop :=
  ∀ (s : State) (b : Blk) (k : Conv) (f : VAForm) (e : Nat), Runs s b k →
    let c := s.me.env b k
    let w := ewBits f.ew
    let a := c.vec f.vs1 w
    let es := c.actives f.mask f.me
    let m := fun (r : BitVec 6) (e : Nat) => (Sparse.get 0 s.me.m (r.toNat / 8)).testBit e
    let rm := if f.rm = 6 then b.rm else f.rm.toNat
    Elems s (.viota f) k f.vd w es (fun e => ((List.range e).filter (m f.vs1)).length) (fun _ => false) ∧
    Elems s (.vid f) k f.vd w es (fun e => e) (fun _ => false) ∧
    ((∀ e ∈ es, a.poi e = false) → Elems s (.vconfl f) k f.vd w es (fun e => ((es.filter fun j => decide (j < e) && a.val j == a.val e).getLast?).getD (2 ^ w - 1)) (fun _ => false)) ∧
    (First es (fun e => a.poi e = true) e → ConvoyRaises s (.vconfl f) k 8 (some e)) ∧
    ((f.variant.toNat < 5 ∨ w ≠ 32 ∨ ∀ e ∈ es, isVNan (a.val e) = false) → ∃ t fl, After s (.vsegscan f) k fl [] t ∧ t.me.m = s.me.m ∧ t.me.sc = s.me.sc ∧
      let seg := fun (e : Nat) => es.filter fun j => decide (j ≤ e) && (List.range (e + 1)).all fun i => !(decide (j < i) && m f.f35 i)
      ElemsOf s.me t.me f.vd.toNat w es
        (fun e => match seg e with
          | [] => 0
          | j :: r => r.foldl (fun acc i => (scanOp w rm f.variant.toNat acc (a.val i)).1) (a.val j))
        (fun e => (seg e).any a.poi)) ∧
    (5 ≤ f.variant.toNat → w = 32 → First es (fun e => isVNan (a.val e) = true) e → ConvoyRaises s (.vsegscan f) k 10 (some e))

/-- BLOCK-SCALED FORMATS AND RANKING. -/
def Obligations.BlockScaleMembers : Prop := Sys2Proof.Spec.BlockScales ∧ Sys2Proof.Spec.ScaledReductionAndRanking

/-- MOVES OF ELEMENTS, INDEXES AND SCANS. -/
def Obligations.MoveMembers : Prop := Sys2Proof.Spec.ElementMoves ∧ Sys2Proof.Spec.IndexesAndScans

/-- TRANSFERS (R118, R154, R184): vmpopc.rq, vmfirst.rq, vrqb and vrqe stage a word for the reply queue, vsetlc a loop counter and vsetvl the block's vl and ew, which the convoy's retirement carries out. A poisoned index or value
raises POISON_CONTROL (8). That the words are pushed, and the counters set, at the retirement is log entry 26. -/
def Sys2Proof.Spec.Transfers : Prop :=
  ∀ (s : State) (b : Blk) (k : Conv) (f : VXForm), Runs s b k →
    let c := s.me.env b k
    let w := ewBits f.ew
    let es := c.actives f.mask f.me
    let m := fun (e : Nat) => (Sparse.get 0 s.me.m (f.vs1.toNat / 8)).testBit e
    let n := (es.filter m).length
    let push := fun (i : Instr) (v : Nat) (p : Bool) => Stages s i k [.push { w := BitVec.ofNat 64 v, p := p }]
    let a := c.arg f.idx.toNat
    let v : PWord := if f.param.toNat = 16 then { w := BitVec.ofNat 64 k.konst } else c.arg f.param.toNat
    push (.vmpopcRq f) (n + if n < b.vl then 2 ^ 63 else 0) false ∧
    push (.vmfirstRq f) (match (es.filter m).head? with
      | some e => e + 2 ^ 63
      | none => b.vl) false ∧
    Stages s (.vrqb f) k [.push a] ∧
    (a.p = false → c.active f.mask f.me a.w.toNat = true → push (.vrqe f) ((c.vec f.vs1 w).val a.w.toNat) ((c.vec f.vs1 w).poi a.w.toNat)) ∧
    (a.p = false → c.active f.mask f.me a.w.toNat = false → push (.vrqe f) 0 false) ∧
    (a.p = true → ConvoyRaises s (.vrqe f) k 8 none) ∧
    (v.p = false → Stages s (.vsetlc f) k [.lc f.idx.toNat v.w] ∧
      Stages s (.vsetvl f) k [.vl (min v.w.toNat (maxVl b.g s.me.n2 w)) (some f.ew.toNat)]) ∧
    (v.p = true → ConvoyRaises s (.vsetlc f) k 8 none ∧ ConvoyRaises s (.vsetvl f) k 8 none)

/-- COUPLING TO THE MATRIX ENGINE (R118, R141, R228, R229, R232, R256 to R259): vtoa stages the fill of an empty slot, no strand and no earlier convoy of its own waiting to fill it before it, with each bf16 element's sign and aligned magnitude at P planes and each segment's exponent; vtoa.s
with saturated integers and the scale register's entries, of a register too short for one 0 (log entry 26), poisoned as elements and entries are, a vNaN super-scale raising VERDICT_CONSUMED (10); a slot that is full, or that an earlier convoy of the strand has yet to fill, makes either wait. vfromc writes columns of an accumulator row once no open operation writes it; vthrmax stages the maximum of the active elements for a threshold.
The magnitude of a NaN or infinite bf16 element is a free value (log entry 18). -/
def Sys2Proof.Spec.MatrixCoupling : Prop :=
  ∀ (s : State) (b : Blk) (k : Conv) (f : VXForm) (e : Nat), Runs s b k →
    let c := s.me.env b k
    let i := f.idx.toNat
    let P := f.param.toNat
    let es := c.actives f.mask f.me
    let free := (s.mx.slot i).full = false ∧ (∀ q ∈ s.mx.vtoaQ, q.1 = i → q.2 = s.cur) ∧ ∀ p ∈ s.me.past, hasNat p.conv.fills i = false
    let on := fun (e : Nat) => c.active f.mask f.me e
    let fills := fun (j : Instr) (scaled : Bool) (good : Nat → Nat → Prop) => ∃ t bits pois wr, exec j s = .next t ∧ NoNotes k wr ∧
      t.me = { s.me with convWait := none, conv := some { k with slot := k.slot + 1, pend := .none, staged := k.staged ++ [.fill i scaled P bits pois], wrote := k.wrote ++ wr } } ∧
      good bits pois
    (free → P ≤ 16 →
      (let x := fun (e : Nat) => if on e then (c.vec f.vs1 16).val e else 0
       let top := fun (j : Nat) => (List.range 32).foldl (fun m l => max m (segExp (x (32 * j + l)))) 0
       fills (.vtoa f) false fun bits pois => (∀ e, e < 1024 → bits / 2 ^ (17 * e) % 2 ^ 17 = x e / 2 ^ 15 * 2 ^ 16 + slotMag (x e) (top (e / 32)) P ∧
           (pois.testBit e = true ↔ on e = true ∧ (c.vec f.vs1 16).poi e = true)) ∧ ∀ j, j < 32 → bits / 2 ^ (17408 + 8 * j) % 2 ^ 8 = top j) ∧
      (let x := fun (e : Nat) => if on e then satI8 P ((c.vec f.vs1 8).val e) else 0
       let r := Sparse.get {} s.me.sc f.sreg.toNat
       let E := c.vlmax 8
       let sup := fun (j : Nat) => if j < E / 256 then c.super r j else 0
       0 < P → (∀ j, j < 4 → isVNan (sup j) = false) → fills (.vtoaS f) true fun bits pois =>
         (∀ e, e < 1024 → bits / 2 ^ (17 * e) % 2 ^ 17 = (if x e < 0 then 2 ^ 16 else 0) + (x e).natAbs) ∧
         (∀ j, j < 16 → bits / 2 ^ (17408 + 8 * j) % 2 ^ 8 = if j < E / 64 then r.get 8 j else 0) ∧
         (∀ e, e < 1024 → (pois.testBit e = true ↔ (on e = true ∧ (c.vec f.vs1 8).poi e = true) ∨ (e < E ∧ c.scalePoi r e = true))) ∧
         ∀ j, j < 4 → bits / 2 ^ (17536 + 32 * j) % 2 ^ 32 = sup j) ∧
      (let sup := fun (j : Nat) => if j < c.vlmax 8 / 256 then c.super (Sparse.get {} s.me.sc f.sreg.toNat) j else 0
       let u := (if 0 < s.mx.vtoaQ.count (i, s.cur) then s else s.modMx s.myCore fun m => { m with vtoaQ := m.vtoaQ ++ [(i, s.cur)] }).convGoes s.cur false
       ∀ j, First (List.range 4) (fun j => isVNan (sup j) = true) j →
         exec (.vtoaS f) s = .next (u.convoyTrap s.cur { code := 10, slot := k.slot, elem := some (256 * j) }))) ∧
    ((s.mx.slot i).full = true ∨ (∃ p ∈ s.me.past, hasNat p.conv.fills i = true) → ∀ j ∈ [Instr.vtoa f, .vtoaS f], ∃ t, exec j s = .next t ∧ t.me = { s.me with convWait := t.me.convWait } ∧ t.me.convWait.isSome = true) ∧
    ((∀ o ∈ s.mx.open, o.writesRow i = false) → Elems s (.vfromc f) k f.vd 32 es (fun e => (s.mx.row i).bits / 2 ^ (32 * e)) (fun e => (s.mx.row i).pois.testBit e)) ∧
    ((∃ o ∈ s.mx.open, o.writesRow i = true) → exec (.vfromc f) s = .next s) ∧
    (let a := c.vec f.vs1 32
     let bad := fun (e : Nat) => isVNan (a.val e) = true ∨ a.poi e = true
     (es = [] → Stages s (.vthrmax f) k []) ∧
     (∀ x l, es = x :: l → (∀ e ∈ es, ¬ bad e) →
       let v := l.foldl (fun m e => (f32.minmax true m (a.val e)).1) (a.val x)
       Stages s (.vthrmax f) k (if f32.isNan v then [] else [.thr i v])) ∧
     (First es bad e → ConvoyRaises s (.vthrmax f) k (if isVNan (a.val e) then 10 else 8) (some e)))

/-- WHAT A MEMORY MEMBER FINDS AS IT STARTS (R50, R65, R88, R90, R95, R141, R210, R264, R265, R297): an operand with a cause raises it for the convoy; an earlier access of the strand in its class or to its bits, by an update in flight or a matrix operation,
keeps it waiting, and one that writes memory or accesses DEV memory waits for every earlier convoy to retire; a member that a lower slot decides, whose elements the convoy's check could not know, is probed now: its watermarks, then its elements, whose first
cause it raises, what is found held for its convoy, and a fault-only-first load trims the convoy's vl. That such a member is probed, and its watermarks read, as it executes is the model's choice (log entry 23). -/
def Sys2Proof.Spec.MembersStart : Prop :=
  ∀ (s s1 s2 : State) (b : Blk) (k : Conv) (f : VMForm) (i : Instr) (op n vl : Nat) (e : Option Nat) (ps : List Probe) (cause : Cause), Runs s b k →
    (op, i) ∈ [(0x300, .vld f), (0x300, .vlds f), (0x300, .vldx f), (0x300, .vldff f), (0x301, .vst f), (0x301, .vsts f), (0x301, .vstx f), (0x302, .vstr f), (0x340, .vlink f), (0x341, .vscond f),
      (0x342, .vamoAdd f), (0x343, .vamoMin f), (0x344, .vamoMax f), (0x345, .vamoMinu f), (0x346, .vamoMaxu f), (0x347, .vamoSwap f), (0x348, .vamoCas f), (0x349, .vamoFadd f), (0x350, .rred f), (0x360, .vwaitv f)] →
    let c := s.me.env b k
    (vmCheck op f c true = some (n, e) → ConvoyRaises s i k n e) ∧
    (vmCheck op f c true = none → hasNat k.late k.slot = false → s.memWaits op f (Sparse.get [] k.probes k.slot) = true → exec i s = .next s) ∧
    (vmCheck op f c true = none → hasNat k.late k.slot = true → (∀ l, (k.slot, l) ∉ k.probes) →
      (s.wmCheck s.cur c op f = (s1, .wait) → exec i s = .next (s1.convWaits s1.cur)) ∧
      (s.wmCheck s.cur c op f = (s1, .trap cause) → exec i s = .next (s1.convoyTrap s1.cur { cause with slot := k.slot })) ∧
      (s.wmCheck s.cur c op f = (s1, .ok) →
        let u := s1.convGoes s1.cur (checksWm op)
        let one := k.words.length == 1
        (u.probeMember u.myAgent c op f one = (s2, .wait) → exec i s = .next s2) ∧
        (u.probeMember u.myAgent c op f one = (s2, .trap cause) → exec i s = .next (s2.convoyTrap s2.cur { cause with slot := k.slot })) ∧
        (u.probeMember u.myAgent c op f one = (s2, .ok ps vl) →
          let q := s2.setMe { s2.me with conv := s2.me.conv.map fun k => { k with probes := Sparse.put k.probes k.slot ps } }
          (vl < b.vl → exec i s = .next (q.trimConvoy vl)) ∧ (b.vl ≤ vl → q.memWaits op f ps = true → exec i s = .next q))))

/-- VECTOR LOADS (R37, R90, R134, R143, R207, R210, R211): a load whose probe pass is over performs its elements in order and its trailers after them, in DEV memory those from estart on; with all performed its convoy goes on, with some waiting for a reply they are
left, and where one cannot be performed the member stops there. On a core that issues one local element, read as v, enters vd as its format says: as it stands, as the nq4 code's value, or sign-extended. -/
def Sys2Proof.Spec.VectorLoads : Prop :=
  ∀ (s s1 s2 : State) (b : Blk) (k : Conv) (f : VMForm) (i : Instr) (ps qs : List Probe) (p : Probe) (v n x : Nat) (z : Bool), Runs s b k →
    i ∈ [.vld f, .vlds f, .vldx f, .vldff f] →
    let c := s.me.env b k
    let w := ewBits f.ew
    Probed s k 0x300 f c ps →
    let todo := if ps.any (·.isDev) then ps.filter (Probe.left c.vl s.me.estart) else ps
    (runElems (State.loadElem f c) false todo s = (s1, .left qs) → exec i s = .next (s1.setMe { s1.me with conv := s1.me.conv.map fun k => { k with pend := .elems (!s1.frozen s1.myCore) qs } })) ∧
    (runElems (State.loadElem f c) false todo s = (s1, .stop n x p) → exec i s = .next (s1.stopMember f false n x p)) ∧
    (runElems (State.loadElem f c) false todo s = (s1, .done) → ∃ t, exec i s = .next t ∧ (∀ j, Sparse.get {} t.me.v j = Sparse.get {} s1.me.v j) ∧
      t.me.sc = s1.me.sc ∧ t.me.m = s.me.m ∧
      t.me.conv.map (·.slot) = some (k.slot + 1) ∧ (f.order ≠ 1 → t.mem = s1.mem)) ∧
    (ps = [p] → p.trailer = false → p.remote = false → s.frozen s.myCore = false → s.ownAgain p.ps = (s, .ok) → (∀ m : Fin 4, s.me.wm[m].need p.va f.width = 0) →
      s.readPieces s.myAgent f.cls.toNat false p.ps = (s2, .ok v z) → ∃ t, exec i s = .next t ∧ t.me.conv.map (·.slot) = some (k.slot + 1) ∧
        t.me.m = s.me.m ∧ t.me.sc = s.me.sc ∧ (f.order ≠ 1 → t.mem = s2.mem) ∧
        ElemsOf s.me t.me f.vd.toNat w [p.id] (fun _ => if f.mfmt = 0 then v else if f.mfmt = 2 then (if w = 16 then codeBf16 v else codeBf16 v * 2 ^ 16)
          else ((BitVec.ofNat f.width v).signExtend w).toNat) (fun _ => z))

/-- VECTOR STORES (R37, R150, R208, R209, R212, R303): a store whose probe pass is over performs its elements from estart on, in order, its trailers after them, marks its convoy as having performed one, and goes on, waits for a reply, or stops at the element that cannot be
performed. It writes no register; on a core that issues one local element e stores the low bits of vd[e], or its narrowed code with the flags of narrowing. That trailers come after all elements in estart
too is the model's choice (log entry 27). A release member (order 10) is not named here. -/
def Sys2Proof.Spec.VectorStores : Prop :=
  ∀ (s s1 : State) (b : Blk) (k : Conv) (f : VMForm) (i : Instr) (op : Nat) (ps qs : List Probe) (p : Probe) (n x : Nat), Runs s b k →
    ((op = 0x301 ∧ i ∈ [.vst f, .vsts f, .vstx f]) ∨ (op = 0x302 ∧ i = .vstr f)) →
    let c := s.me.env b k
    let w := ewBits f.ew
    Probed s k op f c ps → f.order ≠ 2 →
    let s0 := s.setMe { s.me with conv := some { k with probes := Sparse.put k.probes k.slot ps } }
    let todo := ps.filter (Probe.left c.vl s.me.estart)
    (runElems (State.storeElem op f c) false todo s0 = (s1, .left qs) →
      exec i s = .next (s1.setMe { s1.me with conv := s1.me.conv.map fun k => { k with pend := .elems (!s1.frozen s1.myCore) qs } })) ∧
    (runElems (State.storeElem op f c) false todo s0 = (s1, .stop n x p) → exec i s = .next (s1.stopMember f true n x p)) ∧
    (runElems (State.storeElem op f c) false todo s0 = (s1, .done) → ∃ t, exec i s = .next t ∧ t.me.v = s.me.v ∧ t.me.m = s.me.m ∧ t.me.sc = s.me.sc ∧ t.me.x = s.me.x ∧
      t.me.conv.map (·.slot) = some (k.slot + 1) ∧ (f.order ≠ 1 → t.mem = s1.mem ∧ t.poison = (s1.clearCovered s1.myAgent (storeCover op f c todo)).poison)) ∧
    (ps = [p] → p.trailer = false → p.remote = false → s.frozen s.myCore = false → s.me.estart ≤ p.id → s0.ownAgain p.ps = (s0, .ok) →
      let x := (c.vec f.vd w).val p.id
      let r := Sparse.get {} s.me.sc f.scale.toNat
      let scaled := op = 0x301 ∧ f.mfmt.toNat / 2 = 1
      let out : FRes := if scaled then narrow { nq4 := f.mfmt == 2, w := f.width } (fmtOf w) x (r.get 8 (p.id / 64)) (c.super r (p.id / 256)) else (x % 2 ^ f.width, 0)
      let pz := (c.vec f.vd w).poi p.id || (decide scaled && c.scalePoi r p.id)
      s0.writePieces s0.myAgent (some s.cur) f.cls.toNat false out.1 pz p.ps = (s1, none) →
      ∃ t, exec i s = .next t ∧ (f.order ≠ 1 → t.mem = s1.mem) ∧ t.me.conv.map (·.performed) = some true ∧
        (c.actives f.mask f.me = [p.id] → t.me.conv.map (·.flags) = some (k.flags ||| out.2)))

/-- HOW MEMORY MEMBERS START, VECTOR LOADS AND STORES (R88, R207 to R213; log entries 23, 27). -/
def Obligations.MemoryMembers : Prop := Sys2Proof.Spec.MembersStart ∧ Sys2Proof.Spec.VectorLoads ∧ Sys2Proof.Spec.VectorStores

/-- VLINK AND VSCOND (R214, R215): vlink reads each element at its home, writes vd, places the strand's tag on its lines and replaces the link set by the elements it read; vscond writes at the home each element that is linked at its address and
width with its tag in place and no bit of a lower committing element, a line's poison going where they write all of it with unpoisoned data (R95), clears their mask bits and the link set. -/
def Obligations.VectorLinks : Prop :=
  ∀ (s s2 : State) (b : Blk) (k : Conv) (f : VMForm) (ps : List Probe) (p : Probe) (v : Nat) (z : Bool), Runs s b k →
    let c := s.me.env b k
    let w := ewBits f.ew
    (Probed s k 0x340 f c ps → ∃ t, exec (.vlink f) s = .next t ∧ t.me.vlinks = ps.map (fun p => (p.id, BitVec.ofNat 64 p.va, f.width)) ∧
      t.me.conv.map (·.slot) = some (k.slot + 1) ∧ t.me.m = s.me.m ∧
      (ps = [p] → s.readPieces s.myAgent f.cls.toNat true p.ps = (s2, .ok v z) → ElemsOf s.me t.me f.vd.toNat w [p.id] (fun _ => loadValue f v) (fun _ => z) ∧
        (f.order ≠ 1 → ∀ l, p.lines = [l] → t.tagged vlinkTag l s.cur = true))) ∧
    (Probed s k 0x341 f c ps → f.order ≠ 2 →
      let u := s.dropOwn (ps.flatMap (·.lines))
      let done := u.commits f ps
      let data := c.vec f.vd w
      let q := done.foldl (fun q p => (q.writePieces q.myAgent (some q.cur) f.cls.toNat true (data.val p.id % 2 ^ f.width) (data.poi p.id) p.ps).1) u
      ∃ t, exec (.vscond f) s = .next t ∧ t.me.vlinks = [] ∧ t.me.conv.map (·.slot) = some (k.slot + 1) ∧ t.me.v = s.me.v ∧
        (f.order ≠ 1 → t.mem = q.mem ∧ t.poison = (q.clearCovered q.myAgent (done.foldl (fun k p => if data.poi p.id then k else coverPieces k p.ps) [])).poison) ∧
        ∀ e, (Sparse.get 0 t.me.m f.mask.toNat).testBit e = (!(done.any fun p => p.id == e) && (Sparse.get 0 s.me.m f.mask.toNat).testBit e))

/-- VAMO (R217, R218, R219): with no element to do the member is over; else its first round sends link reads of the elements that overlap no lower one, once the core has written back and dropped its own copies of their lines (R273), and the convoy waits for
their replies and commits, its inactive elements valid. -/
def Sys2Proof.Spec.VectorAtomics : Prop :=
  ∀ (s : State) (b : Blk) (k : Conv) (f : VMForm) (i : Instr) (op : Nat) (ps : List Probe), Runs s b k →
    (op, i) ∈ [(0x342, .vamoAdd f), (0x343, .vamoMin f), (0x344, .vamoMax f), (0x345, .vamoMinu f), (0x346, .vamoMaxu f), (0x347, .vamoSwap f), (0x348, .vamoCas f), (0x349, .vamoFadd f)] →
    let c := s.me.env b k
    let off := (List.range b.vl).filter fun e => !c.active f.mask f.me e
    Probed s k op f c ps → f.order = 0 →
    (ps = [] → ∃ t, exec i s = .next t ∧ t.mem = s.mem ∧ t.me.conv.map (·.slot) = some (k.slot + 1) ∧ t.me.m = s.me.m ∧
      ∀ j, Sparse.get {} t.me.v j = Sparse.get {} s.me.v j) ∧
    (ps ≠ [] → ∃ t, exec i s = .next t ∧ t.me = { s.me with conv := some { k with
        probes := Sparse.put k.probes k.slot ps, valid := off, pend := .vamo 1 (ps.map (·.id)) ((roundOf ps).map (·.id)) [] } } ∧
      t.mem = (s.dropOwn ((roundOf ps).flatMap (·.lines))).mem ∧ t.tags = (s.dropOwn ((roundOf ps).flatMap (·.lines))).tags ∧
      (roundOf ps).head? = ps.head?) ∧
    (∀ p l r, ps = l ++ p :: r → (∀ q ∈ l, q.overlaps p = false) → p ∈ roundOf ps) ∧
    (∀ p l r, ps = l ++ p :: r → p ∉ l → p ∉ r → (∃ q ∈ l, q.overlaps p = true) → p ∉ roundOf ps)

/-- WHAT A VAMO DOES TO MEMORY (R217): the new value of an element of w bits from the old one and the operand: the sum modulo 2^w, the smaller or larger as signed or unsigned numbers, the operand, the operand where the old value equals the comparand, and the f32 sum rounded
to nearest. -/
def Sys2Proof.Spec.AtomicValues : Prop :=
  ∀ (w : Nat) (x y z : BitVec w), 0 < w →
    let v := fun (op : Nat) => amoValue op w x.toNat y.toNat z.toNat
    v 0x342 = (x + y).toNat ∧ v 0x343 = (if x.toInt ≤ y.toInt then x else y).toNat ∧ v 0x344 = (if x.toInt ≤ y.toInt then y else x).toNat ∧
    v 0x345 = min x.toNat y.toNat ∧ v 0x346 = max x.toNat y.toNat ∧ v 0x347 = y.toNat ∧ v 0x348 = (if x = z then y else x).toNat ∧
    v 0x349 = (f32.add 0 x.toNat y.toNat).1

/-- RRED AND VWAITV (R203, R213, R220, R264, R269, R280): rred, once a release has nothing of its classes to wait for and has done its work, and the earlier stores of its class have come home, puts one packet for each memory unit on its way, with the exact values of its
elements and the codes and super-scales that were touched, and goes on, an acquire of its classes last where its order is 01; vwaitv counts its wait from here, each active element to come; with none it is over, its acquire done, and the bits of its inactive elements in
md are clear. -/
def Sys2Proof.Spec.ReductionsAndWaits : Prop :=
  ∀ (s : State) (b : Blk) (k : Conv) (f : VMForm) (ps : List Probe), Runs s b k →
    let c := s.me.env b k
    let es := ps.flatMap fun p => p.ps.map fun q => (p.id, q.tr.fa)
    let rel := if f.order = 2 then s.release c.classMask f.scope.toNat else s
    let home := rel.classBack s.myCore (2 ^ f.cls.toNat)
    let acquired := fun (q t : State) => if f.order = 1 then ∃ u : State, u.mem = q.mem ∧ u.poison = q.poison ∧ u.cores = q.cores ∧ u.cur = q.cur ∧ t.mem = (u.acquire c.classMask f.scope.toNat).mem
      else t.mem = q.mem
    (Probed s k 0x350 f c ps → f.order = 2 → s.classPending s.cur c.classMask = true → exec (.rred f) s = .next s) ∧
    (Probed s k 0x350 f c ps → (f.order = 2 → s.classPending s.cur c.classMask = false) → ∃ t pk, exec (.rred f) s = .next t ∧ t.packets = s.packets ++ pk ∧ acquired home t ∧ t.me.v = s.me.v ∧
      t.me.conv.map (·.slot) = some (k.slot + 1) ∧ pk.length = (es.map fun x => unitOf x.2).eraseDups.length ∧
      (∀ p ∈ pk, p.sid = some s.cur ∧ p.sender = s.myCore ∧ p.asid = s.me.asid ∧ p.vas = ps.map (·.va) ∧ p.vl = b.vl ∧ p.cls = f.cls.toNat ∧ p.scales = (if f.mfmt = 0 then [] else touchedScales c (Sparse.get {} s.me.sc f.scale.toNat)) ∧
        (let mine := es.filter fun x => unitOf x.2 == p.unit
         p.elems.map (·.dst) = mine.map (·.2) ∧ p.payload = mine.map (fun x => (c.vec f.vd (ewBits f.ew)).val x.1) ∧ (∀ e, p.mask.testBit e = true ↔ ∃ x ∈ es, x.1 = e) ∧
         p.elems = mine.map fun x => relem x.2 (rredValue f c x.1) ((c.vec f.vd (ewBits f.ew)).poi x.1 || (f.mfmt != 0 && c.scalePoi (Sparse.get {} s.me.sc f.scale.toNat) x.1))))) ∧
    (Probed s k 0x360 f c ps → ps ≠ [] → exec (.vwaitv f) s = .next (s.setMe { s.me with conv := some { k with
      probes := Sparse.put k.probes k.slot ps, pend := .vwait (ps.map (·.id)) (s.coreCycle s.myCore) } })) ∧
    (Probed s k 0x360 f c [] → c.actives f.mask f.me = [] → ∃ t, exec (.vwaitv f) s = .next t ∧ acquired s t ∧ t.me.conv.map (·.slot) = some (k.slot + 1) ∧ t.me.v = s.me.v ∧
      ∀ e, (Sparse.get 0 t.me.m f.scale.toNat).testBit e = ((Sparse.get 0 s.me.m f.scale.toNat).testBit e && decide (b.vl ≤ e)))

/-- HEADS OF MERGES (R181, R183): a stream whose count is 0 has no head; a head that an earlier pass has read is not read again; else it is read at its cursor as an access of class c0, which waits for the strand's
earlier ones of that class and to its bits, those of an earlier convoy under way among them. A write that touches a held head's bits has the next pass read it anew (log entry 24). -/
def Sys2Proof.Spec.MergeHeads : Prop :=
  ∀ (s s1 s2 : State) (held : Option Head) (c : BitVec 3) (w v n : Nat) (out z : Bool) (a : Word) (ps qs : List Piece) (h : Head),
    ((s.me.cursor c).2 = 0 → s.headOf held c w = (s, .none)) ∧
    ((s.me.cursor c).2 ≠ 0 → s.headOf (some h) c w = (s, .key h) ∧ s.headOf none c w = s.readKey false (s.me.cursor c).1 w) ∧
    (let want := { (if out then Want.store else Want.load) with noDev := true }
     (s.check s.myAgent want a.toNat w = (s1, .ok ps) →
       ((∃ p ∈ s1.me.past, p.conv.holdsUp 0 ps = true) ∨ s1.classPending s1.cur 1 = true ∨ s1.bitsPending s1.cur ps = true → s.readKey out a w = (s1, .stop .wait a)) ∧
       ((∀ p ∈ s1.me.past, p.conv.holdsUp 0 ps = false) → s1.classPending s1.cur 1 = false → s1.bitsPending s1.cur ps = false → s1.readPieces s1.myAgent 0 false ps = (s2, .ok v z) →
         s.readKey out a w = (s2, .key { key := v, pois := z, ps := ps }))) ∧
     (s.check s.myAgent want a.toNat w = (s1, .trap n v) → s.readKey out a w = (s1, .stop (.trap n v) a))) ∧
    ((∃ x ∈ h.ps, ∃ y ∈ qs, x.tr.fa < y.tr.fa + y.len ∧ y.tr.fa < x.tr.fa + x.len) → heldPast qs (some h) = none) ∧
    ((∀ x ∈ h.ps, ∀ y ∈ qs, ¬ (x.tr.fa < y.tr.fa + y.len ∧ y.tr.fa < x.tr.fa + x.len)) → heldPast qs (some h) = some h)

/-- WHAT A PASS CHOOSES (R181): visect advances the stream of the smaller key, and both where they are equal, emitting the key; vmerge emits the smaller key and advances its stream, at equal keys A's alone in mode 0 and both
in modes 1 and 2, and goes on with the other stream where one has ended. The poison of a key is that of the elements it stands for. -/
def Sys2Proof.Spec.MergeChoices : Prop :=
  ∀ (x y mode : Nat) (p q : Bool),
    (x < y → isectStep x y p q = { advA := true } ∧ mergeStep mode (some (x, p)) (some (y, q)) = { advA := true, emit := some (x, p) }) ∧
    (y < x → isectStep x y p q = { advB := true } ∧ mergeStep mode (some (x, p)) (some (y, q)) = { advB := true, emit := some (y, q) }) ∧
    (x = y → isectStep x y p q = { advA := true, advB := true, emit := some (x, p || q) } ∧
      mergeStep mode (some (x, p)) (some (y, q)) = if mode = 0 then { advA := true, emit := some (x, p) } else { advA := true, advB := true, emit := some (x, p || q) }) ∧
    mergeStep mode (some (x, p)) none = { advA := true, emit := some (x, p) } ∧ mergeStep mode none (some (y, q)) = { advB := true, emit := some (y, q) }

/-- MERGES AND INTERSECTIONS (R181, R182, R183, R264, R265, R306): where the loop has ended the member is over; else a pass of visect or vmerge reads the heads of both streams, moves the cursors its keys choose, whose heads
are read anew, and writes the key it emits at the output cursor, counted in estart, once every earlier convoy has retired and no earlier access of its class or to its bits is open; in mode 2 a vmerge that has written keys first reads the last one,
and a key equal to it is not written. A head, of either stream, that cannot be read, a last key that cannot, and an output that cannot be written stop the convoy at the boundary, with nothing of the pass done; where memory must come first the pass
waits. A poisoned cursor raises POISON_CONTROL (8), and the last key is read with permission W: the model's readings (log entry 24). -/
def Sys2Proof.Spec.Merges : Prop :=
  ∀ (s s1 s2 s3 s4 s5 : State) (b : Blk) (k : Conv) (f : G1Form) (i : Instr) (isect : Bool) (rx ry : KeyRes) (n v : Nat) (a : Word) (ps : List Piece) (j : Head), Runs s b k →
    (i, isect) ∈ [(.visect f, true), (.vmerge f, false)] →
    let w := ewBits f.ew
    let na := (s.me.cursor f.ca).2
    let nb := (s.me.cursor f.cb).2
    let clean := s.me.cursorPoi f.co = false ∧ s.me.cursorPoi f.ca = false ∧ s.me.cursorPoi f.cb = false
    let ended := b.vl ≤ s.me.estart ∨ (na = 0 ∧ nb = 0) ∨ (isect = true ∧ (na = 0 ∨ nb = 0))
    let stops := fun (u : State) (n v : Nat) (a : Word) => exec i s = .next (u.convoyTrap u.cur { code := n, addr := if n = 7 then BitVec.ofNat 64 v else a, part := u.me.estart != 0 })
    let u0 := s1.setMe (s1.me.hold2 rx.opt s1.me.heads.2)
    let u := s2.setMe (s2.me.hold2 rx.opt ry.opt)
    let m := match rx, ry with
      | .key h, .key g => if isect then isectStep h.key g.key h.pois g.pois else mergeStep f.mode.toNat (some h.val) (some g.val)
      | _, _ => mergeStep f.mode.toNat (rx.opt.map Head.val) (ry.opt.map Head.val)
    let moves := fun (t : Strand) (m : MergeStep) (ps : List Piece) =>
      let t1 := if m.advA then t.moveCursor f.ca w (-1) else t
      let t2 := if m.advB then t1.moveCursor f.cb w (-1) else t1
      { t2 with conv := t2.conv.map fun k => { k with pend := .heads (if m.advA then none else heldPast ps t.heads.1) (if m.advB then none else heldPast ps t.heads.2) } }
    let takes := fun (u : State) (m : MergeStep) =>
      (m.emit = none → exec i s = .next (u.setMe (moves u.me m []))) ∧
      (∀ x p, m.emit = some (x, p) →
        let o := (u.me.cursor f.co).1
        (u.check u.myAgent { Want.store with noDev := true } o.toNat w = (s3, .ok ps) →
          (s3.me.past ≠ [] ∨ s3.classPending s3.cur 1 = true ∨ s3.bitsPending s3.cur ps = true → exec i s = .next s3) ∧
          (s3.me.past = [] → s3.classPending s3.cur 1 = false → s3.bitsPending s3.cur ps = false → (s3.writePieces s3.myAgent (some s3.cur) 0 false x p ps).1 = s4 →
            exec i s = .next (s4.setMe (let t := (moves s4.me m ps).moveCursor f.co w 1
              { t with estart := t.estart + 1, conv := t.conv.map fun k => { k with performed := true } })))) ∧
        (u.check u.myAgent { Want.store with noDev := true } o.toNat w = (s3, .trap n v) → stops s3 n v o) ∧
        (u.check u.myAgent { Want.store with noDev := true } o.toNat w = (s3, .wait) → exec i s = .next s3))
    (¬ clean → stops s 8 0 0) ∧
    (clean → ended → exec i s = .next (s.setMe { s.me with conv := some { k with slot := k.slot + 1, pend := .none } })) ∧
    (clean → ¬ ended →
      (s.headOf s.me.heads.1 f.ca w = (s1, .stop (.trap n v) a) → stops s1 n v a) ∧
      (s.headOf s.me.heads.1 f.ca w = (s1, .stop .wait a) → exec i s = .next s1) ∧
      (s.headOf s.me.heads.1 f.ca w = (s1, rx) → (∀ c a, rx ≠ .stop c a) →
        (u0.headOf s1.me.heads.2 f.cb w = (s2, .stop (.trap n v) a) → stops s2 n v a) ∧
        (u0.headOf s1.me.heads.2 f.cb w = (s2, .stop .wait a) → exec i s = .next s2) ∧
        (u0.headOf s1.me.heads.2 f.cb w = (s2, ry) → (∀ c a, ry ≠ .stop c a) →
          (isect = true ∨ f.mode ≠ 2 ∨ (u.me.cursor f.co).2 = 0 → takes u m) ∧
          (isect = false → f.mode = 2 → (u.me.cursor f.co).2 ≠ 0 →
            (u.readKey true ((u.me.cursor f.co).1 - BitVec.ofNat 64 w) w = (s5, .key j) →
              takes s5 (if m.emit.map (·.1) = some j.key then { m with emit := none } else m)) ∧
            (u.readKey true ((u.me.cursor f.co).1 - BitVec.ofNat 64 w) w = (s5, .stop (.trap n v) a) → stops s5 n v a) ∧
            (u.readKey true ((u.me.cursor f.co).1 - BitVec.ofNat 64 w) w = (s5, .stop .wait a) → exec i s = .next s5)))))

/-- TRANSFERS TO THE SCALAR SIDE AND COUPLING TO THE MATRIX ENGINE (R118, R184, R256 to R259; log entries 18, 26). -/
def Obligations.TransferMembers : Prop := Sys2Proof.Spec.Transfers ∧ Sys2Proof.Spec.MatrixCoupling

/-- VECTOR ATOMICS (R217 to R219). -/
def Obligations.AtomicMembers : Prop := Sys2Proof.Spec.VectorAtomics ∧ Sys2Proof.Spec.AtomicValues

/-- REMOTE REDUCTIONS, VECTOR WAITS, INTERSECTIONS AND MERGES (R181 to R183, R220, R280; log entry 24). -/
def Obligations.RemoteMembers : Prop :=
  Sys2Proof.Spec.ReductionsAndWaits ∧ Sys2Proof.Spec.MergeHeads ∧ Sys2Proof.Spec.MergeChoices ∧ Sys2Proof.Spec.Merges

/-! ### Events of the vector side -/

/-- BLOCKS START (R31, R115, R123): with no block in progress, the first queued block leaves its queue and starts, its SETVL boundaries passed: vpc at its address, b0 to b7 the arguments of its snapshot, and its vl, ew, rounding mode and shares in force.
Once the final convoy of the block in progress has issued every strip, the next block starts at once; that convoy goes on behind it, with the registers it has, and where a SETVL boundary lies between, the block finds every register dead. Before that, and where
the core or the strand's queue is stopped, none starts. -/
def Sys2Proof.Spec.BlocksStart : Prop :=
  ∀ (s : State) (sid : Nat),
    let u := s.strand sid
    let puts := fun (t : Strand) => exec (.blockStart sid) s = .next (({ s with cur := sid } : State).setStrand sid t)
    (s.vecStarts sid = true →
      (∀ t q rest, u.blk = none → t = u.passDead → t.queue = .block q :: rest → puts
        { t with queue := rest, past := addTaken t.past [.block q], vpc := q.addr, b := Vector.ofFn fun i => q.args.getD i.val {}, blk := some { vl := q.vl, ew := q.ew, rm := q.rm, g := q.g } }) ∧
      (∀ b k d q rest, u.blk = some b → u.conv = some k → k.hdr.kind = 6 → k.strips ≤ k.issued → u.queue = d ++ .block q :: rest → (∀ x ∈ d, ∃ r, x = .dead r) →
        ∃ t, puts t ∧ t.queue = rest ∧ t.conv = none ∧ t.blk = some { vl := q.vl, ew := q.ew, rm := q.rm, g := q.g } ∧ t.vpc = q.addr ∧ (∀ i : Fin 8, t.b[i] = q.args.getD i.val {}) ∧
          t.x = u.x ∧ t.pc = u.pc ∧ t.rq = u.rq ∧ t.fcsr = u.fcsr ∧ t.vl = u.vl ∧ t.held = u.held ∧ t.estart = 0 ∧
          (d = [] → t.v = u.v ∧ t.m = u.m ∧ t.sc = u.sc ∧ t.vdirty = u.vdirty) ∧ (d ≠ [] → t.v = [] ∧ t.m = [] ∧ t.sc = [] ∧ t.vdirty = 0) ∧
          t.past = u.past ++ [{ conv := k, blk := b, v := u.v, m := u.m, sc := u.sc, convWait := u.convWait, b := u.b, lc := u.lc, vdirty := u.vdirty, vstate := u.vstate, estart := u.estart
                                taken := d ++ [.block q] }]) ∧
      (∀ b, u.blk = some b → (∀ k, u.conv = some k → k.hdr.kind = 6 → k.issued < k.strips) ∨ (∀ q, .block q ∉ u.queue) → exec (.blockStart sid) s = .next s)) ∧
    (s.vecStarts sid = false → exec (.blockStart sid) s = .next s)

/-- CONVOY STRIPS ISSUE (R126, R127): the strand at the pointer issues where it is ready and its deficit covers the number of members that have the strip, which it pays; where it is not, the next is visited, and passing from strand 7 to 0 first
adds each ready strand's share to its deficit; the matrix control strand issues where no application strand is ready. A convoy not yet checked is checked as it issues its first strip, the one before it, all of whose strips have issued, gone behind (`forward`);
a cause is taken there, once every earlier convoy has retired, and one that accesses DEV memory waits for them. That a charge then comes back, and when the matrix control strand issues, is the model's choice (log entry 42). -/
def Sys2Proof.Spec.StripsIssue : Prop :=
  ∀ (s s1 s2 : State) (core p : Nat) (elig : BitVec 8) (b : Blk) (k : Conv) (vl : Nat) (c : Cause), p < 8 → s.frozen core = false →
    let sid := fun (p : Nat) => sidOf core p
    let ready := fun (p : Nat) => elig.toNat.testBit p = true ∧ s.wantsStrip (sid p) = true
    let D := fun (p : Nat) => (s.strand (sid p)).deficit
    let cost := fun (p : Nat) => s.stripCost (sid p)
    let n := (p + 1) % 8
    let issued := fun (t : State) (j : Nat) (k : Conv) (d : Nat) => (t.core core).rr = j ∧
      t.strand (sid j) = { s.strand (sid j) with deficit := d - cost j, conv := some { k with issued := k.issued + 1 } }
    (s.core core).rr % 8 = p →
    (ready p → cost p ≤ D p → (s.strand (sid p)).vecIdle = false →
      ((s.strand (sid p)).blk.isSome = true → (s.strand (sid p)).conv = some k → k.issued < k.strips → ∃ t, exec (.convoyStripIssue core elig) s = .next t ∧ issued t p k (D p)) ∧
      (0 < cost p →
        s1 = ({ (s.modCore core fun x => { x with rr := p }).modStrand (sid p) (fun x => { x with deficit := D p - cost p }) with cur := sid p } : State).modStrand (sid p) Strand.forward →
        s1.me.blk = some b → s1.me.conv = none →
        (s1.checkConvoy (sid p) b = (s2, .go k vl) → s1.me.devWaits k = true → exec (.convoyStripIssue core elig) s = .next (s2.modStrand (sid p) fun x => { x with deficit := x.deficit + cost p })) ∧
        (s1.checkConvoy (sid p) b = (s2, .go k vl) → s1.me.devWaits k = false →
          let g := s2.convGoes (sid p) true
          exec (.convoyStripIssue core elig) s = .next (({ g with seq := g.seq + 1 } : State).modStrand (sid p) fun x =>
            { x with blk := some { b with vl := vl, ff := if vl < b.vl then some vl else b.ff }, conv := some { k with num := g.seq, issued := 1 } })) ∧
        (s1.checkConvoy (sid p) b = (s2, .trap c) → exec (.convoyStripIssue core elig) s = .next ((s2.convoyTrap (sid p) c).modStrand (sid p) fun x => { x with deficit := x.deficit + cost p })))) ∧
    (∀ q x, (s.strand (sid p)).conv = some x → x.issued < x.strips → (s.strand (sid p)).blk = some q → cost p = (x.words.filter fun w => hasStrip (memberOf w) q.vl x.issued).length) ∧
    (¬ ready p → ready n → (s.strand (sid n)).vecIdle = false → (s.strand (sid n)).blk.isSome = true → (s.strand (sid n)).conv = some k → k.issued < k.strips →
      let d := D n + if n = 0 then (s.strand (sid n)).share else 0
      cost n ≤ d → ∃ t, exec (.convoyStripIssue core elig) s = .next t ∧ issued t n k d) ∧
    ((∀ j, j < 8 → ¬ ready j) → s.wantsStrip (mcsOf core) = true → (s.strand (mcsOf core)).blk.isSome = true → (s.strand (mcsOf core)).conv = some k → k.issued < k.strips →
      exec (.convoyStripIssue core elig) s = .next (({ s with cur := mcsOf core } : State).setMe { s.strand (mcsOf core) with conv := some { k with issued := k.issued + 1 } }))

/-- WHAT CHECKING A CONVOY FINDS (R34, R42, R49, R50, R90, R93, R132, R205): a header that cannot be fetched gives its cause; a poisoned member word FETCH_POISON (9); a bad header ILLEGAL (1); then, of a convoy of one member, a word that does not translate or lacks VX, or an
opcode in the wrong unit, MALFORMED_CONVOY (3), and another word that cannot be fetched its own cause; a member no encoding admits, or a class mask with no order, ILLEGAL; a block with no shares NO_VECTOR (11) and one whose registers are off VEC_ABSENT (12), in this order; a convoy that would raise a count of WAITC above 1,023 waits (R121, R132). That FETCH_POISON comes before a bad header, and how another cause
of a member word's fetch ranks, is log entry 21; which words are a class mask with no order is log entry 23. -/
def Sys2Proof.Spec.ConvoyCauses : Prop :=
  ∀ (s s1 s2 : State) (sid : Nat) (b : Blk) (w c a v : Nat) (x : Fetch),
    let t := s.strand sid
    let ag := s.agentOf sid
    let hdr := headerOf (w % 2 ^ 32)
    let env : Env := { t := { t with g := b.g }, vl := b.vl, rm := b.rm, konst := w / 2 ^ 32 }
    let wrong := fun (v : Nat) => (∃ u, unitsOfOpcode (opOf v) = some u ∧ hdr.unit 0 ≠ u)
    (s.fetchWords ag true t.vpc.toNat 2 = (s1, .trap c a) → s.checkConvoy sid b = (s1, .trap { code := c, addr := BitVec.ofNat 64 a })) ∧
    (s.fetchWords ag true t.vpc.toNat 2 = (s1, .ok w) → hdr.count = 0 → s1.fetchWords ag true ((t.vpc.toNat + 64) % 2 ^ 64) 2 = (s2, x) →
      (x = .trap 9 a → s.checkConvoy sid b = (s2, .trap { code := 9, addr := BitVec.ofNat 64 a })) ∧
      ((∀ a, x ≠ .trap 9 a) → headerOk (w % 2 ^ 32) = false → s.checkConvoy sid b = (s2, .trap { code := 1 })) ∧
      (headerOk (w % 2 ^ 32) = true →
        (x = .trap c a → c ≠ 9 → s.checkConvoy sid b = (s2, .trap (if s2.lacksVx ag a then { code := 3, slot := 0 } else { code := c, addr := BitVec.ofNat 64 a, slot := 0 }))) ∧
        (x = .ok v → wrong v → s.checkConvoy sid b = (s2, .trap { code := 3, slot := 0 })) ∧
        (x = .ok v → ¬ wrong v →
          (memberOf v = .bad → s.checkConvoy sid b = (s2, .trap { code := 1, slot := 0 })) ∧
          (∀ op f, memberOf v = .vm op f → f.order = 0 → w / 2 ^ 48 ≠ 0 → w < 2 ^ 64 → s.checkConvoy sid b = (s2, .trap { code := 1, slot := 0 })) ∧
          (s2.illegalMember sid env true (memberOf v) = false → strayMask env [memberOf v] (memberOf v) = false →
            (b.g = 0 → s.checkConvoy sid b = (s2, .trap { code := 11 })) ∧
            (b.g ≠ 0 → t.vstate = 0 → s.checkConvoy sid b = (s2, .trap { code := 12 })) ∧
            (b.g ≠ 0 → t.vstate ≠ 0 → s2.fate sid (memberOf v).profile ≠ .migrate → s2.countsFull sid [v] = true → s.checkConvoy sid b = (s2, .wait))))))

/-- CONVOYS RETIRE (R33, R118, R126, R318): a convoy whose strips have issued and whose members have completed retires where every earlier one has and its pushes have room: its flags join fcsr, estart is 0, its words enter the reply queue in order, the
registers it wrote are dirty; vpc moves past it, or back by its distance with the counter one less where it is a loop-back convoy whose counter is not 0; a block-end convoy ends its block. Other registers stay.
That pushes and counters take effect at the retirement is log entry 26. -/
def Sys2Proof.Spec.ConvoysRetire : Prop :=
  ∀ (s : State) (sid : Nat) (c : Conv), s.vecGoes sid = true → (s.strand sid).conv = some c → (s.strand sid).mayRetire c = true →
    let u := s.strand sid
    let lc := fun (u : Strand) => u.lc[c.hdr.lc.toNat]'(c.hdr.lc.isLt)
    let next := c.addr + BitVec.ofNat 64 (64 + 64 * c.words.length)
    ∃ t, exec (.convoyRetire sid) s = .next t ∧ t.cur = sid ∧ t.mem = s.mem ∧ t.me.conv = none ∧ t.me.estart = 0 ∧ t.me.fcsr = (u.fcsr ||| BitVec.ofNat 64 c.flags) ∧
      t.me.rq = u.rq ++ c.pushes ∧ t.me.x = u.x ∧ t.me.pc = u.pc ∧ (c.hdr.kind ≠ 6 → t.me.v = u.v ∧ t.me.m = u.m ∧ t.me.sc = u.sc ∧
        (∀ r : Fin 64, t.me.vdirty.getLsbD r.val = (u.vdirty.getLsbD r.val || c.dirty.contains r.val)) ∧ (c.dirty ≠ [] → t.me.vstate = 2)) ∧
      (c.hdr.kind ≠ 7 → t.me.vpc = next) ∧
      (c.hdr.kind = 7 → (∀ e ∈ c.staged, ∃ w, e = .push w) →
        (lc u = 0 → t.me.vpc = next ∧ t.me.lc = u.lc) ∧
        (lc u ≠ 0 → t.me.vpc = c.addr - BitVec.ofNat 64 (64 * c.hdr.back.toNat) ∧ lc t.me = lc u - 1)) ∧
      (c.hdr.kind = 6 → t.me.blk = none ∧ ∀ b vl, u.blk = some b → b.ff = some vl → (∀ e ∈ c.staged, ∃ w, e = .push w) → u.queue = [] → t.me.vl = vl) ∧
      (∀ i scaled planes bits pois, c.staged = [.fill i scaled planes bits pois] → (t.core (coreOf sid)).mx.slot i =
        { full := true, scaled := scaled, planes := planes, bits := bits, pois := pois }) ∧
      (∀ j v, c.staged = [.thr j v] → (t.core (coreOf sid)).mx.thr j = (f32.minmax true ((s.core (coreOf sid)).mx.thr j) v).1)

/-- CONVOYS BEHIND THE ONE IN PROGRESS (R33, R118, R126, R127, R138): a convoy whose strips have all issued gives way to the next of its block, where that one's arguments, vl and vpc do not depend on what it has yet to do: vpc and the counters move on, and its words,
flags and registers stay with it. The oldest behind retires first, once its members have completed, its pushes have room and its strand's vector side goes on: its words enter the reply queue in order, its flags fcsr, the registers it wrote are dirty up to a SETVL boundary,
and a block's end leaves the vl of its fault-only-first load. A convoy in progress that cannot retire stays. -/
def Sys2Proof.Spec.ConvoysWait : Prop :=
  ∀ (s s0 : State) (sid : Nat) (c : Conv) (b : Blk) (p : Past) (ps : List Past), s0 = { s with cur := sid } →
    let u := s.strand sid
    (u.conv = some c → u.blk = some b → c.hdr.kind ≠ 6 → c.strips ≤ c.issued → (c.isMerge = true → c.complete = true) → c.mayTrim = false → (∀ w ∈ c.rest, setsVl w = false) →
      (c.hdr.kind = 7 → (4, c.hdr.lc.toNat) ∉ c.pending ++ pendingOf false u.past.reverse) →
      let t := u.forward
      t.conv = none ∧ t.v = u.v ∧ t.m = u.m ∧ t.sc = u.sc ∧ t.x = u.x ∧ t.pc = u.pc ∧ t.rq = u.rq ∧ t.fcsr = u.fcsr ∧ t.vdirty = u.vdirty ∧ t.queue = u.queue ∧ t.estart = 0 ∧
      t.past = u.past ++ [{ conv := c, blk := b, v := u.v, m := u.m, sc := u.sc, convWait := u.convWait, b := u.b, lc := u.lc, vdirty := u.vdirty, vstate := u.vstate, estart := u.estart }] ∧
      (c.hdr.kind ≠ 7 → t.vpc = c.addr + BitVec.ofNat 64 (64 + 64 * c.words.length))) ∧
    (u.conv = some c → c.issued < c.strips → u.forward = u) ∧
    (u.past = p :: ps → p.conv.complete = true → u.rq.length + p.conv.pushes.length ≤ 16 → (s0.setStrand sid (u.focus 0)).vecGoes sid = true → ∃ t, exec (.convoyRetire sid) s = .next t ∧
      t.mem = s.mem ∧ t.me = { u with
        rq := u.rq ++ p.conv.pushes, fcsr := u.fcsr ||| BitVec.ofNat 64 p.conv.flags, held := u.held - relOf p.taken
        past := t.me.past, vdirty := t.me.vdirty, vstate := t.me.vstate, vl := if p.conv.hdr.kind = 6 then p.blk.ff.getD u.vl else u.vl } ∧
      t.me.past.map (·.conv) = ps.map (·.conv) ∧
      ((∀ q ∈ p :: ps, ∀ x ∈ q.taken, ∃ b, x = .block b) → (∀ r : Fin 64, t.me.vdirty.getLsbD r.val = (u.vdirty.getLsbD r.val || p.conv.dirty.contains r.val)) ∧ (p.conv.dirty ≠ [] → t.me.vstate = 2)) ∧
      ((∃ r, .dead r ∈ p.taken) → t.me.vdirty = u.vdirty ∧ t.me.vstate = u.vstate) ∧
      (∀ i scaled planes bits pois, p.conv.staged = [.fill i scaled planes bits pois] → (t.core (coreOf sid)).mx.slot i =
        { full := true, scaled := scaled, planes := planes, bits := bits, pois := pois })) ∧
    (u.pastReady = false → s.vecGoes sid = true → u.conv = some c → u.mayRetire c = false → exec (.convoyRetire sid) s = .next s0)

/-- MEMORY REPLIES (R90, R211, R212, R262, R290): when the reply of the first element left of a load or store arrives, on a core that runs or that had sent the request before it was halted, the element is performed and, on one that runs, those after it up to the next
that needs a reply; with none left the member is over, and where one cannot be performed the member stops there. A halted core that has not asked gets no reply. -/
def Sys2Proof.Spec.MemoryReplies : Prop :=
  ∀ (s s0 s1 : State) (sid : Nat) (b : Blk) (k : Conv) (op : Nat) (f : VMForm) (p q : Probe) (ps qs : List Probe) (n x : Nat) (asked : Bool), s0 = ({ s with cur := sid } : State).chosen sid →
    let back := ({ s with cur := sid } : State).rejoin sid
    Runs s0 b k → k.pend = .elems asked (p :: ps) → memberOf (nth 0 k.words k.slot) = .vm op f →
    let go := if op = 0x300 then State.loadElem f (s0.me.env b k) else State.storeElem op f (s0.me.env b k)
    (s.frozen (coreOf sid) = true → asked = false → exec (.memoryReply sid) s = .next (back s0)) ∧
    (s.frozen (coreOf sid) = false ∨ asked = true →
      (runElems go true (p :: ps) s0 = (s1, .left qs) →
        exec (.memoryReply sid) s = .next (back <| s1.setMe { s1.me with conv := s1.me.conv.map fun k => { k with pend := .elems (!s1.frozen s1.myCore) qs } })) ∧
      (runElems go true (p :: ps) s0 = (s1, .stop n x q) → exec (.memoryReply sid) s = .next (back <| s1.stopMember f (op != 0x300) n x q)) ∧
      (runElems go true (p :: ps) s0 = (s1, .done) → ∃ t, exec (.memoryReply sid) s = .next (back t) ∧ t.me.conv.map (·.slot) = some (k.slot + 1) ∧
        t.me.conv.map (·.pend) = some .none ∧ (f.order = 0 → t.mem = s1.mem) ∧ ∀ j, Sparse.get {} t.me.v j = Sparse.get {} s1.me.v j)) ∧
    (∀ u, go p s0 = (u, .ok) → u.frozen u.myCore = true → runElems go true (p :: ps) s0 = (u, if ps = [] then .done else .left ps))

/-- AN ELEMENT OF A VAMO (R134, R217, R306): it is read at its home as old; its home takes the new value, and element e of vd takes old as its format has it, both poisoned where old, the operand or a compare-and-swap's comparand is (log entry 25); the element is
valid, and the convoy has performed one. Nothing else of the strand changes. -/
def Sys2Proof.Spec.VamoElement : Prop :=
  ∀ (s s1 : State) (b : Blk) (k : Conv) (op old : Nat) (f : VMForm) (p : Probe) (q : Bool), Runs s b k → s.readPieces s.myAgent f.cls.toNat true p.ps = (s1, .ok old q) →
    let c := s.me.env b k
    let w := ewBits f.ew
    let d := (c.vec f.f35 w).val p.id % 2 ^ f.width
    let cmp := (c.vec f.vd w).val p.id % 2 ^ f.width
    let z := q || (c.vec f.f35 w).poi p.id || (op == 0x348 && (c.vec f.vd w).poi p.id)
    let t := s.amoElem op f p
    t.mem = (s1.writePieces s1.myAgent (some s1.cur) f.cls.toNat true (amoValue op f.width old d cmp) z p.ps).1.mem ∧
    (∀ x, p.ps = [x] → x.off = 0 → x.len = f.width → x.tr.device = false → Mem.wf s.mem = true →
      t.home x.tr.fa f.width = amoValue op f.width old d cmp % 2 ^ f.width) ∧
    ElemsOf s.me t.me f.vd.toNat w [p.id] (fun _ => if f.mfmt = 0 then old else if f.mfmt = 2 then (if w = 16 then codeBf16 old else codeBf16 old * 2 ^ 16)
      else ((BitVec.ofNat f.width old).signExtend w).toNat) (fun _ => z) ∧
    t.me = { s.me with v := t.me.v, conv := some { k with performed := true, valid := insertNat k.valid p.id } }

/-- VAMO ROUNDS (R218, R219, R290): the reply to a round's next link read places the strand's tag on the lines of the elements of that line, on a halted core too. A commit takes the elements of the first line whose reply has come: where the tags on its lines are
still there each is updated in ascending order, and where one is not they are left for the next round; from round 9 on the first element left is updated whatever the tags. With elements left and none of this round, the next round sends its link
reads, the core's own copies of those lines written back and dropped; with none left the member is over. -/
def Sys2Proof.Spec.VamoCommits : Prop :=
  ∀ (s s0 : State) (sid : Nat) (b : Blk) (k : Conv) (op r : Nat) (f : VMForm) (left sent came : List Nat) (p : Probe) (rest : List Probe), s0 = ({ s with cur := sid } : State).chosen sid →
    let back := ({ s with cur := sid } : State).rejoin sid
    Runs s0 b k → memberOf (nth 0 k.words k.slot) = .vm op f → k.pend = .vamo r left sent came →
    let ps := Sparse.get [] k.probes k.slot
    let pend := fun (t : State) (q : Pend) => t.setMe { t.me with conv := t.me.conv.map fun k => { k with pend := q } }
    let mine := (p :: rest).filter fun q => q.lines.head? == p.lines.head?
    (ps.filter (fun q => hasNat sent q.id && !hasNat came q.id) = p :: rest → ∃ t, exec (.memoryReply sid) s = .next (back t) ∧ t.mem = s.mem ∧
      (∀ q ∈ mine, ∀ l ∈ q.lines, t.tagged amoTag l sid = true) ∧ t.me = { s0.me with conv := some { k with pend := .vamo r left sent (came ++ mine.map (·.id)) } }) ∧
    (s0.vecGoes sid = true →
      let ends := fun (q t : State) => t.me.conv.map (·.slot) = some (k.slot + 1) ∧ (f.order ≠ 1 → t.mem = q.mem) ∧ ∀ j, Sparse.get {} t.me.v j = Sparse.get {} q.me.v j
      let out := fun (l : List Nat) => l.filter fun e => !hasNat (mine.map (·.id)) e
      let again := fun (q : State) (left : List Nat) =>
        let todo := ps.filter fun x => hasNat left x.id
        let round := roundOf todo
        if 9 ≤ r + 1 then pend q (.vamo 9 (todo.map (·.id)) [] []) else pend (q.dropOwn (round.flatMap (·.lines))) (.vamo (r + 1) (todo.map (·.id)) (round.map (·.id)) [])
      (r < 9 → ps.filter (fun q => hasNat came q.id) = p :: rest →
        let whole := mine.all fun q => q.lines.all fun l => s0.tagged amoTag l sid
        let q := if whole then mine.foldl (fun q x => q.amoElem op f x) s0 else s0
        let left' := if whole then out left else left
        (left' = [] → ∃ t, exec (.vamoCommit sid) s = .next (back t) ∧ ends q t) ∧
        (left' ≠ [] → out sent = [] → exec (.vamoCommit sid) s = .next (back <| again q left')) ∧
        (left' ≠ [] → out sent ≠ [] → exec (.vamoCommit sid) s = .next (back <| pend q (.vamo r left' (out sent) (out came))))) ∧
      (9 ≤ r → ps.filter (fun q => hasNat left q.id) = p :: rest →
        let q := s0.amoElem op f p
        let left' := left.filter fun e => !hasNat [p.id] e
        (left' = [] → ∃ t, exec (.vamoCommit sid) s = .next (back t) ∧ ends q t) ∧
        (left' ≠ [] → ∃ sent' came', exec (.vamoCommit sid) s = .next (back <| pend q (.vamo r left' sent' came')))))

/-- VWAITV'S ELEMENTS AND EXPIRY (R73, R212, R280, R306): an element's word is read again at its home, found anew where it lies in a scratchpad, whose group may have moved; a word without poison that meets the condition ends the element: vd takes it and its bit of md is clear; one
that does not stays; a poisoned word sets the poison of vd[e] and ends nothing (log entry 25). When the last is done the member completes. What keeps the word from being read, or its region from being owned, raises its cause for the element. At the limit each element left
takes its own address in vd and sets its bit of md, and the member completes. -/
def Sys2Proof.Spec.VwaitvEnds : Prop :=
  ∀ (s s0 s1 s2 s3 : State) (sid e : Nat) (b : Blk) (k : Conv) (f : VMForm) (left : List Nat) (since : Nat) (p : Probe) (v n x : Nat) (z : Bool) (ps : List Piece), s0 = ({ s with cur := sid } : State).chosen sid →
    let back := ({ s with cur := sid } : State).rejoin sid
    s0.vecGoes sid = true → Runs s0 b k → memberOf (nth 0 k.words k.slot) = .vm 0x360 f → k.pend = .vwait left since →
    let c := s0.me.env b k
    let md := f.scale.toNat
    let bit := fun (t : State) (e : Nat) => (Sparse.get 0 t.me.m md).testBit e
    let meets := if f.hi3.toNat / 2 % 2 = 0 then v = (c.vec f.f35 64).val e else (c.vec f.f35 64).val e ≤ v
    let traps := fun (t : State) (n : Nat) => exec (.vwaitvElementSatisfied sid e) s = .next (back <| t.convoyTrap sid { code := n, addr := BitVec.ofNat 64 p.va, slot := k.slot, elem := some e })
    let scratch := ∃ q ∈ p.ps, spaceOfPhys q.tr.fa = 1 ∧ q.tr.fa < 2 ^ 61
    (e ∈ left → p.id = e → Sparse.get [] k.probes k.slot = [p] →
      let found := fun (t : State) (ps : List Piece) => (¬ scratch ∧ t = s0 ∧ ps = p.ps) ∨ (scratch ∧ s0.check s0.myAgent .homeLoad p.va 64 = (t, .ok ps))
      (scratch → s0.check s0.myAgent .homeLoad p.va 64 = (s3, .trap n x) → traps s3 n) ∧
      (scratch → s0.check s0.myAgent .homeLoad p.va 64 = (s3, .wait) → exec (.vwaitvElementSatisfied sid e) s = .next (back s3)) ∧
      (found s3 ps →
        (s3.ownAgain ps = (s1, .stop n x) → traps s1 n) ∧
        (s3.ownAgain ps = (s1, .wait) → exec (.vwaitvElementSatisfied sid e) s = .next (back s1)) ∧
        (s3.ownAgain ps = (s1, .ok) → s1.readPieces s1.myAgent f.cls.toNat true ps = (s2, .ok v z) → v < 2 ^ 64 →
          (z = true → exec (.vwaitvElementSatisfied sid e) s = .next (back <| s2.setMe (s2.me.putElem f.vd 64 e ((c.vec f.vd 64).val e) true))) ∧
          (z = false → meets → (∃ x ∈ left, x ≠ e) → exec (.vwaitvElementSatisfied sid e) s = .next (back <| (s2.vwaitPut f e v false false).setMe
            { (s2.vwaitPut f e v false false).me with conv := s2.me.conv.map fun k => { k with pend := .vwait (left.filter (· != e)) since } })) ∧
          (z = false → meets → left = [e] → ∃ t, exec (.vwaitvElementSatisfied sid e) s = .next (back t) ∧ t.me.conv.map (·.slot) = some (k.slot + 1) ∧
            (e < 4096 → c.active f.mask f.me e = true → bit t e = false ∧ (Sparse.get {} t.me.v f.vd.toNat).get 64 e = v)) ∧
          (z = false → ¬ meets → exec (.vwaitvElementSatisfied sid e) s = .next (back s2))))) ∧
    (let lim := (c.arg f.mfmt.toNat).w.toNat
     0 < lim → lim ≤ s.coreCycle (coreOf sid) - since → ∃ t, exec (.vwaitvExpiry sid) s = .next (back t) ∧ t.me.conv.map (·.slot) = some (k.slot + 1) ∧
       ∀ e ∈ left, c.active f.mask f.me e = true → left.Nodup → bit t e = true ∧
         (Sparse.get {} t.me.v f.vd.toNat).get 64 e = c.elemAddr 0x360 f e % 2 ^ 64)

/-- WATERMARK WAITS END (R65, R66): a convoy that waited on its watermarks may be checked again once its check waits no more, as a progress event; a cause it finds then, or at the limit of the wait, TIMEOUT (16) among them, it takes, once every earlier convoy has retired; while it waits on, it waits. The same of a member that a lower slot decides and whose watermarks are read where it executes (log entry 23). -/
def Sys2Proof.Spec.WatermarkWaits : Prop :=
  ∀ (s s0 s1 : State) (sid : Nat) (b : Blk) (r : ConvRes) (c : Cause), s0 = ({ s with cur := sid } : State).chosen sid →
    let back := ({ s with cur := sid } : State).rejoin sid
    s0.vecGoes sid = true → s0.me.convWait.isSome = true →
    s0.me.blk = some b → s0.me.conv = none →
    (s0.checkConvoy sid b = (s1, r) →
      (∀ k vl, r = .go k vl → exec (.watermarkWaitEnd sid) s = .next (back <| s1.convGoes sid true)) ∧
      (∀ i p, r = .migrate i p → exec (.watermarkWaitEnd sid) s = .next (back <| s1.convGoes sid true)) ∧
      (r = .waits ∨ r = .wait → exec (.watermarkWaitEnd sid) s = .next (back s1) ∧ exec (.watermarkTimeout sid) s = .next (back s1)) ∧
      (r = .trap c → exec (.watermarkWaitEnd sid) s = .next (back <| s1.convoyTrap sid c) ∧ exec (.watermarkTimeout sid) s = .next (back <| s1.convoyTrap sid c)))

/-- A WATERMARK WAIT OF A MEMBER IN PROGRESS (R50, R65, R66): where the member's watermarks are satisfied the convoy goes on, as a progress event; while they are not it waits; a cause, or the limit of the wait, raises it for the convoy with the member's slot. That the
member waits there is the model's choice (log entry 23). -/
def Sys2Proof.Spec.MemberWatermarks : Prop :=
  ∀ (s s0 s1 : State) (sid : Nat) (b : Blk) (k : Conv) (op : Nat) (f : VMForm) (c : Cause), s0 = ({ s with cur := sid } : State).chosen sid →
    let back := ({ s with cur := sid } : State).rejoin sid
    s0.vecGoes sid = true → s0.me.convWait.isSome = true →
    Runs s0 b k → memberOf (nth 0 k.words k.slot) = .vm op f →
    let env := s0.me.env b k
    (s0.wmCheck sid env op f = (s1, .ok) → exec (.watermarkWaitEnd sid) s = .next (back <| s1.convGoes sid true)) ∧
    (s0.wmCheck sid env op f = (s1, .wait) → exec (.watermarkWaitEnd sid) s = .next (back s1) ∧ exec (.watermarkTimeout sid) s = .next (back s1)) ∧
    (s0.wmCheck sid env op f = (s1, .trap c) → exec (.watermarkWaitEnd sid) s = .next (back <| s1.convoyTrap sid { c with slot := k.slot }) ∧
      exec (.watermarkTimeout sid) s = .next (back <| s1.convoyTrap sid { c with slot := k.slot }))

/-- BLOCKS START, STRIPS ISSUE, AND WHAT CHECKING A CONVOY FINDS (R31, R50, R123, R126, R127; log entries 21, 23, 42). -/
def Obligations.ConvoysStart : Prop := Sys2Proof.Spec.BlocksStart ∧ Sys2Proof.Spec.StripsIssue ∧ Sys2Proof.Spec.ConvoyCauses

/-- CONVOYS RETIRE, AND THEIR WATERMARK WAITS END (R33, R65, R66, R126; log entries 23, 26). -/
def Obligations.ConvoysEnd : Prop := Sys2Proof.Spec.ConvoysRetire ∧ Sys2Proof.Spec.ConvoysWait ∧ Sys2Proof.Spec.WatermarkWaits ∧ Sys2Proof.Spec.MemberWatermarks

/-- WHAT ARRIVES FOR A MEMBER: replies, commits, the words a VWAITV waits for (R211, R217, R218, R280; log entry 25). -/
def Obligations.MemberEvents : Prop :=
  Sys2Proof.Spec.MemoryReplies ∧ Sys2Proof.Spec.VamoElement ∧ Sys2Proof.Spec.VamoCommits ∧ Sys2Proof.Spec.VwaitvEnds

/-! ### Ends of waits, and CSRs written from outside -/

/-- WAITS END (R118, R121, R130, R197, R271, R272, R278, R281, R284, R313): where a strand that may issue waits on an instruction, the event of what it waits for runs that instruction again, and where it waits no more
that is the machine. The time waited counts from the start for IDLE, and from now for the others, so that only what is waited for ends them. -/
def Sys2Proof.Spec.WaitsEnd : Prop :=
  ∀ (s t : State) (sid : Nat) (w : Wait) (ev : Instr) (rd rt rs1 rs2 rn ra rlen : Reg) (cond : BitVec 2) (off : BitVec 8) (tl im kind : BitVec 1) (cx : BitVec 7)
    (lo l sc c m : BitVec 6) (idx : BitVec 3) (ew : BitVec 2) (k : StrandSel) (cf : CopyForm) (mf : CopyMcForm),
    let i := w.instr
    (i, ev) ∈ [(.waita rt rs1 rs2 cond off, .waitaSatisfied sid), (.tlwait rn rt tl cx im lo, .tlwaitSatisfied sid), (.barArv rd kind idx, .barrierArrival sid),
      (.barWt rt kind idx, .barWtEnd sid), (.join rd rs1 rt, .joinSatisfied sid), (.rqpop rd, .rqpopEnd sid), (.waitc l sc c m, .waitcEnd sid),
      (.setvl rd rs1 ew, .shareGrant sid), (.vrestoreSt rs1 rs2 k, .shareGrant sid), (.copy cf, .copySlotFree sid), (.copyMc mf, .copySlotFree sid),
      (.persist rd ra rlen cx, .copySlotFree sid), (.idle rd rt, .idleEnd sid)] →
    (s.strand sid).wait = some w → s.canIssue sid = true →
    let since := if i = .idle rd rt then w.since else s.coreCycle (coreOf sid)
    exec i (({ s with cur := sid } : State).setMe { s.strand sid with wait := some { w with since := since } }) = .next t → (t.strand sid).wait = none →
    exec ev s = .next t

/-- The state in which the event of a wait runs its instruction again: the strand's turn, its time waited counted from now. -/
def Sys2Proof.Spec.again (s : State) (sid : Nat) (w : Wait) : State :=
  ({ s with cur := sid } : State).setMe { s.strand sid with wait := some { w with since := s.coreCycle (coreOf sid) } }

/-- WHAT IS WAITED FOR HAS COME: MEMORY, TIMELINES, JOINS, COUNTS (R121, R271, R276, R278, R284): where a strand that may issue waits on waita, join, tlwait or waitc, and the word read satisfies its
condition, the timeline has reached its number, or the counts are low enough, the event completes the instruction: its result is written, progress is recorded, the pc is past it and the wait over. That tlwait then drops every line of its core's cache is the model's choice (log entry 38; R271 allows it). -/
def Sys2Proof.Spec.MemoryWaitsEnd : Prop :=
  ∀ (s u : State) (sid : Nat) (w : Wait) (rd rt rs1 rs2 rn : Reg) (cond : BitVec 2) (off : BitVec 8) (v : PWord) (tl im : BitVec 1) (cx : BitVec 7) (lo l sc c m : BitVec 6),
    (s.strand sid).wait = some w → s.canIssue sid = true →
    let z := again s sid w
    let a := val z rs1 + off.signExtend 64 * 64#64
    let n := if im = 1 then rn.toNat * 64 + lo.toNat else (val z rn).toNat
    let ok := fun (f : BitVec 6) (n : Nat) => f = 63 ∨ n ≤ f.toNat
    (w.instr = .waita rt rs1 rs2 cond off → z.heldBack {} = false → poi z rs1 = false → poi z rs2 = false → poi z rt = false → a.toNat % 64 = 0 →
      z.waitRead a = (u, .ok v) → v.p = false → (if cond = 0 then v.w = val z rs2 else (val z rs2).toNat ≤ v.w.toNat) →
      exec (.waitaSatisfied sid) s = .next (past (u.progress sid) 32)) ∧
    (w.instr = .join rd rs1 rt → z.heldBack {} = false → poi z rs1 = false → poi z rt = false → (val z rs1).toNat % 64 = 0 →
      z.waitRead (val z rs1) = (u, .ok v) → v.p = false → 2 ^ 63 ≤ v.w.toNat →
      exec (.joinSatisfied sid) s = .next (ends ((u.acquire 0xFFFF 4).progress sid) 32 rd v.w false)) ∧
    (∀ tm, w.instr = .tlwait rn rt tl cx im lo → poi z rt = false → im = 1 ∨ poi z rn = false →
      ((tl = 0 ∧ ∃ pc, z.physCtx z.me.asid cx.toNat = some pc ∧ tm = (z.copyCtx pc).timeline) ∨ (tl = 1 ∧ isLoam (coreOf sid) = true ∧ tm = z.tlmOf sid)) → n ≤ tm →
      exec (.tlwaitSatisfied sid) s = .next (past ((z.dropLines (coreOf sid)).progress sid) 32)) ∧
    (w.instr = .waitc l sc c m → z.me.allIssued = true → ok l (z.counts sid).1 → ok sc (z.counts sid).2.1 → ok c (z.counts sid).2.2.1 → ok m (z.counts sid).2.2.2 →
      exec (.waitcEnd sid) s = .next (past z 32))

/-- WHAT IS WAITED FOR HAS COME: BARRIERS, SHARES, COPY SLOTS (R130, R197, R272, R281): where a strand that may issue waits on bar.arv with its earlier blocks retired and accesses performed, on bar.wt with the
phase passed, on setvl with the shares to be had, or on persist or copy with a copy slot free, the event completes the instruction: the pc is past it, the wait over, and x[rd] holds the phase, vl or number. -/
def Sys2Proof.Spec.SharedWaitsEnd : Prop :=
  ∀ (s : State) (sid : Nat) (w : Wait) (rd rt rs1 ra rlen : Reg) (kind : BitVec 1) (cx : BitVec 7) (idx : BitVec 3) (ew : BitVec 2) (b : Bar) (pc : Nat) (cf : CopyForm),
    (s.strand sid).wait = some w → s.canIssue sid = true →
    let z := again s sid w
    let t := s.strand sid
    let vl := min (val z rs1).toNat (maxVl t.lpart t.n2 (8 * 2 ^ ew.toNat))
    let ends := fun (ev : Instr) (len : Nat) (rd : Reg) (v : Nat) => ∃ u, exec ev s = .next u ∧ (u.strand sid).pc = t.pc + BitVec.ofNat 64 len ∧ (u.strand sid).wait = none ∧
      (rd ≠ 0 → (u.strand sid).getX rd = { w := BitVec.ofNat 64 v, p := false })
    let free := z.slotsUsed (coreOf sid) < 256 ∧ z.accessesDone sid = true
    (w.instr = .barArv rd kind idx → z.getBar kind idx.toNat = .ok b → z.vectorDone sid = true → z.accessesDone sid = true → ends (.barrierArrival sid) 32 rd b.P) ∧
    (w.instr = .barWt rt kind idx → z.getBar kind idx.toNat = .ok b → poi z rt = false → Sparse.get b.P b.recs (z.barKey kind) < b.P → ends (.barWtEnd sid) 32 0 0) ∧
    (w.instr = .setvl rd rs1 ew → t.preq = false → poi z rs1 = false → (t.lpart ≤ t.g ∨ t.lpart - t.g ≤ z.freeShares (coreOf sid)) → ends (.shareGrant sid) 32 rd vl) ∧
    (w.instr = .persist rd ra rlen cx → free → z.physCtx t.asid cx.toNat = some pc → (val z rlen).toNat < 2 ^ 48 → poi z ra = false → poi z rlen = false →
      ends (.copySlotFree sid) 64 rd ((z.copyCtx pc).issue + 1)) ∧
    (w.instr = .copy cf → free → z.physCtx t.asid cf.ctx.toNat = some pc → cf.twoD = 0 → cf.rc = 0 → (val z cf.rlen).toNat < 2 ^ 48 →
      (∀ r ∈ [cf.rdst, cf.rsrc, cf.rlen, cf.rv], poi z r = false) → ends (.copySlotFree sid) 64 cf.rd ((z.copyCtx pc).issue + 1))

/-- A WORD FOR RQPOP, A WORD FOR IDLE (R118, R313): a strand that waits on rqpop with a word in its reply queue takes it, and one that waits on idle completes with 0, each at its event. -/
def Sys2Proof.Spec.ReplyEnds : Prop :=
  ∀ (s : State) (sid : Nat) (w : Wait) (rd rt : Reg) (p : PWord) (q : List PWord), (s.strand sid).wait = some w → s.canIssue sid = true → (s.strand sid).rq = p :: q →
    let t := s.strand sid
    (w.instr = .rqpop rd → ∃ u, exec (.rqpopEnd sid) s = .next u ∧ u.strand sid = { (t.setX rd p) with rq := q, pc := t.pc + 32#64, wait := none } ∧
      u.mem = s.mem ∧ ∀ k, k ≠ sid → u.strand k = s.strand k) ∧
    (w.instr = .idle rd rt → (t.getX rt).p = false → ∃ u, exec (.idleEnd sid) s = .next u ∧
      u.strand sid = { (t.setX rd { w := 0, p := false }) with pc := t.pc + 32#64, wait := none } ∧ u.mem = s.mem ∧ ∀ k, k ≠ sid → u.strand k = s.strand k)

/-- A WAIT'S LIMIT (R276): where the limit in its register has passed since the first cycle of the wait of a waita, tlwait, bar.wt or join, the timeout runs the instruction again and what it gives, TIMEOUT or its completion, is the machine. A
tlwait on a copy timeline that has not reached its number raises TIMEOUT (16) at its own pc. -/
def Sys2Proof.Spec.WaitTimeouts : Prop :=
  ∀ (s t : State) (sid : Nat) (w : Wait) (rd rt rs1 rs2 rn : Reg) (cond : BitVec 2) (off : BitVec 8) (tl im kind : BitVec 1) (cx : BitVec 7) (lo : BitVec 6) (idx : BitVec 3) (pc : Nat),
    let i := w.instr
    let s0 := ({ s with cur := sid } : State)
    i ∈ [.waita rt rs1 rs2 cond off, .tlwait rn rt tl cx im lo, .barWt rt kind idx, .join rd rs1 rt] → (s.strand sid).wait = some w → s.canIssue sid = true →
    s0.expired i (val s0 rt) = true →
    (exec i (s0.setMe { s.strand sid with wait := some w }) = .next t → (t.strand sid).wait = none → exec (.waitTimeout sid) s = .next t) ∧
    (i = .tlwait rn rt 0 cx 1 lo → poi s0 rt = false → s.physCtx (s.strand sid).asid cx.toNat = some pc → (s.copyCtx pc).timeline < rn.toNat * 64 + lo.toNat →
      let u := s.strand sid
      u.sup = false → u.conv = none → u.topen = true → u.tvec = 0 → ∃ t, exec (.waitTimeout sid) s = .next t ∧ (t.strand sid).wait = none ∧
        (t.strand sid).tpc = u.pc ∧ (t.strand sid).tcause = 528#64 ∧ (t.strand sid).topen = false)

/-- PREEMPT, WDWIN AND THE OTHER CSRS WRITTEN FROM OUTSIDE (R44, R302, R307, R323): a write of preempt gives its grace window and request flag, whose time starts anew where the write sets it (R323), and a pre-emption held
before it is no more (the model's choice, log entry 46); one of wdwin gives the window of the group, armed unless 0, from now; a legal write
of another CSR, which its level may write and which waits for nothing, gives that CSR its value. -/
def Obligations.OutsideWrites : Prop :=
  ∀ (s : State) (sid n : Nat) (v : Word) (c : BitVec 12) (g : Group), (s.strand sid).phase = .running →
    let t := s.strand sid
    (v.toNat % 2 ^ 63 < 2 ^ 32 → exec (.preemptCsrWrite sid v) s = .next (s.setStrand sid { t with
      grace := v.toNat % 2 ^ 32, preq := decide (2 ^ 63 ≤ v.toNat), heldPre := none,
      reqAt := if 2 ^ 63 ≤ v.toNat then s.coreCycle (coreOf sid) else t.reqAt })) ∧
    (t.group = some n → s.group? n = some g → exec (.wdwinWrite sid v) s = .next (s.setGroup n
      { g with wdwin := v, wd := if v = 0 then .off else .armed, progress := false, wdStart := s.coreCycle (coreOf sid), wdBase := 0 })) ∧
    (csrAccess c.toNat (t.sup || t.hold.isSome) = some 2 → csrLegal c.toNat v = true → c ≠ 0x016 → c ≠ 0x017 → (c = 0x040 → v.toNat % 64 = 0) →
      (csrWaits c.toNat = false ∨ t.vecDone = true ∨ t.hold.isSome = true) → ∃ u, exec (.csrWrite sid c v) s = .next u ∧ u.csrGet sid c.toNat = { w := v, p := false } ∧
        (∀ k, k ≠ sid → u.strand k = s.strand k) ∧ u.mem = s.mem)

/-- ENDS OF WAITS, by what is waited for or by the limit (R118, R271, R276, R313). -/
def Obligations.WaitEnds : Prop :=
  Sys2Proof.Spec.WaitsEnd ∧ Sys2Proof.Spec.MemoryWaitsEnd ∧ Sys2Proof.Spec.SharedWaitsEnd ∧ Sys2Proof.Spec.ReplyEnds ∧ Sys2Proof.Spec.WaitTimeouts

/-! ### Notices, pre-emption, the watchdog, and how groups begin, move and end -/

/-- NOTICES (R300): an unpushed notice enters the supervisor strand's reply queue, three words in a row, where three entries are free and no notice of a strand before it on the core waits (R333; that a later one never overtakes is the model's choice, log entry 13). -/
def Sys2Proof.Spec.NoticesPushed : Prop :=
  ∀ (s : State) (sid p : Nat) (h : Hold), (s.strand sid).hold = some h → h.pushed = false → s.supOf (coreOf sid) = some p → p ≠ sid → (s.strand p).rq.length ≤ 13 →
    (∀ c j, c < ctxOf sid → (s.strand (sidOf (coreOf sid) c)).hold = some j → j.pushed = true) →
    exec (.trapNoticePush sid) s = .next ((s.setStrand p { s.strand p with rq := (s.strand p).rq ++ [{ w := h.n0 }, { w := h.n1 }, { w := h.n2 }] }).setStrand sid
      { s.strand sid with hold := some { h with pushed := true } })

/-- FORCED PRE-EMPTION (R299, R302, R303): G cycles after its request was set, on a strand that may issue and whose convoy has performed no element of R303, PREEMPT (15) is taken asynchronously at the pc, its request cleared; with the window
closed it is held from the cycle in which it fell due, and G cycles after that it is taken all the same. -/
def Sys2Proof.Spec.ForcedPreemptions : Prop :=
  ∀ (s : State) (sid c : Nat),
    let t := s.strand sid
    let now := s.coreCycle (coreOf sid)
    let taken := (s.setStrand sid { t with preq := false, heldPre := none }).takeTrap sid t.pc { code := 15, async := true }
    s.canIssue sid = true → t.performing = false → (∀ u ∈ s.submits, u.fromSid ≠ some sid) →
    (t.preq = true → t.heldPre = none → t.reqAt + t.grace ≤ now →
      (t.topen = true → exec (.forcedPreemption sid) s = .next taken) ∧
      (t.topen = false → exec (.forcedPreemption sid) s = .next (s.setStrand sid { t with heldPre := some (t.reqAt + t.grace) }))) ∧
    (t.heldPre = some c → t.topen = false → c + t.grace ≤ now → exec (.heldPreemptExpiry sid) s = .next taken)

/-- THE WATCHDOG (R307): at the end of a window of a placed group, with progress recorded or no strand to suspect a new window starts; else the lowest-numbered running strand that is not parked is warned, by WATCHDOG (13) at its pc where its window is open (where the frame's memory is not the package's yet, it is warned once it is: the model's choice, log entry 45), and at
the end of the next such window the group is killed by the watchdog. -/
def Sys2Proof.Spec.Watchdog : Prop :=
  ∀ (s : State) (n sid : Nat) (g : Group), s.group? n = some g →
    let now := s.coreCycle g.core
    let suspect := fun (sid : Nat) => (s.strand sid).phase = .running ∧ (s.strand sid).parked = false
    let fresh := fun (w : WdState) => s.setGroup n { g with wdStart := now, wdBase := 0, progress := false, wd := w }
    let warned := (fresh g.wd).setGroup n { g with wdStart := now, wdBase := 0, progress := false, wd := .warned }
    g.phase = .placed → g.wd ≠ .off → g.wdwin ≠ 0 → g.wdwin.toNat ≤ g.wdBase + (now - g.wdStart) → s.frozen g.core = false →
    (g.progress = true → exec (.watchdogWindowEnd n) s = .next (fresh .armed)) ∧
    (g.progress = false → (∀ sid ∈ g.all, ¬ suspect sid) → exec (.watchdogWindowEnd n) s = .next (fresh g.wd)) ∧
    (g.progress = false → g.wd = .armed → First g.all suspect sid →
      ((s.strand sid).topen = true → let r := warned.tryTrap sid (s.strand sid).pc { code := 13, async := true }
        exec (.watchdogWindowEnd n) s = .next (if r.2 then r.1 else { s with transfers := r.1.transfers })) ∧
      ((s.strand sid).topen = false → exec (.watchdogWindowEnd n) s = .next warned)) ∧
    (g.progress = false → g.wd = .warned → First g.all suspect sid → ∃ t, exec (.watchdogWindowEnd n) s = .next t ∧
      t.group? n = some { g with phase := .ending, endKind := some .wdog, trig := true, savedMcs := g.savedMcs.map fun t => { t with phase := .ended, trig := true } })

/-- GROUPS KILLED OR FAULTED (R284, R308, R328, R63): each strand of a group that is placed or in migration stops where it stands, its queues empty and its reply words gone, the group has triggered, and its gang records the end: the earliest fault with the group's
number and cause, of two in one cycle that of the lower group, or a kill. One between cores is over at once and counted. Memory stays. A gang that is killed creates no more groups, and each it has ends. -/
def Sys2Proof.Spec.GroupsStopped : Prop :=
  ∀ (s : State) (n : Nat) (cause : BitVec 8) (g : Group) (q : Gang), s.group? n = some g → s.gang? g.gang = some q →
    let ends := fun (i : Instr) (k : EndKind) (r : Gang) =>
      (g.phase = .placed ∨ g.phase = .migrating → ∃ t, exec i s = .next t ∧
        t.group? n = some { g with phase := .ending, endKind := some k, trig := true, savedMcs := g.savedMcs.map fun u => { u with phase := .ended, trig := true } } ∧
        t.gang? g.gang = some r ∧ t.mem = s.mem ∧ (∀ sid ∈ g.all, let u := t.strand sid; u.phase = .ended ∧ u.trig = true ∧ u.queue = [] ∧ u.blk = none ∧ u.conv = none ∧ u.rq = [] ∧
          u.hold = none ∧ u.wait = none ∧ u.x = (s.strand sid).x ∧ u.pc = (s.strand sid).pc) ∧ ∀ sid, sid ∉ g.all → t.strand sid = s.strand sid) ∧
      (g.phase = .waiting → ∃ t g', exec i s = .next t ∧ t.group? n = some g' ∧ g'.phase = .retired ∧ g'.saved = [] ∧ t.gang? g.gang = some { r with ended := q.ended + 1 } ∧
        t.mem = s.mem)
    let faulted := fun (f : Nat × Nat) => { q with firstFault := some f }
    ends (.groupKill (.group n)) .killed { q with killed := true } ∧
    (q.firstFault = none → ends (.groupFaultEnd n cause) (.fault cause.toNat) { faulted (g.gid, cause.toNat) with faultAt := s.now }) ∧
    (∀ f, q.firstFault = some f → ends (.groupFaultEnd n cause) (.fault cause.toNat) (if q.faultAt = s.now ∧ g.gid < f.1 then faulted (g.gid, cause.toNat) else q)) ∧
    (∀ m r, s.gang? m = some r → ∃ t r', exec (.groupKill (.gang m)) s = .next t ∧ t.gang? m = some r' ∧ r'.groups = r.groups ∧ r.groups ≤ r'.created ∧
      (r.created < r.groups → r'.killed = true) ∧ t.mem = s.mem ∧ ∀ j h, t.group? j = some h → h.gang = m → h.phase = .ending ∨ h.phase = .retired)

/-- GROUPS RETIRE (R326, R327): once every strand of a group has ended, a matrix control strand parked by a move too, and its matrix operations are complete or their die is held in reset (the model's reading, log entry 35), its contexts are free, its scratchpad units are zero and granted to nobody, its matrix state is that of reset, and its gang counts it, as ended normally where nothing ended it. What a free context holds is the model's choice (log entry 4). -/
def Sys2Proof.Spec.GroupsRetire : Prop :=
  ∀ (s : State) (n : Nat) (g : Group) (q : Gang), Mem.wf s.mem = true → s.group? n = some g → s.gang? g.gang = some q → g.phase = .placed ∨ g.phase = .ending →
    (∀ sid ∈ g.all, (s.strand sid).phase = .ended) → (∀ u, g.savedMcs = some u → u.phase = .ended) →
    (g.mcsRuns = true → (s.die (dieOf g.core)).inReset = true ∨ ∀ o ∈ (s.core g.core).mx.ops, o.done = true) →
    ∃ t, exec (.groupRetirement n) s = .next t ∧
      t.group? n = some { g with phase := .retired, trig := true, endKind := some (g.endKind.getD .normal), grant := [], savedMcs := none, savedMx := none } ∧
      (g.mcsRuns = true → (t.core g.core).mx = { vtoaQ := (t.core g.core).mx.vtoaQ }) ∧
      t.gang? g.gang = some { q with ended := q.ended + 1, okEnds := q.okEnds + if g.endKind = none then 1 else 0 } ∧
      (∀ sid ∈ g.all, t.strand sid = { grace := (s.strand sid).grace }) ∧ (∀ sid, sid ∉ g.all → t.strand sid = s.strand sid) ∧
      ∀ u ∈ g.grant, ∀ j, j < 4096 → t.home (2 ^ 58 + g.core * 2 ^ 32 + u * 32768 + 8 * j) 8 = 0

/-- THE JOIN (R284, R328, R329, R330): once each of its groups has retired a gang writes its status word, in one store, where its join word can be written: groups ended normally in bits 23:0, the first fault's cause and group in 31:24 and 55:32
with bit 56, kill and watchdog in 57 and 58, bit 63 set; and its barriers are unconfigured; a join word that can no longer be written is not (the model's choice, log entry 15). -/
def Sys2Proof.Spec.Joins : Prop :=
  ∀ (s s1 : State) (n : Nat) (q : Gang) (ps : List Piece) (f : Nat × Nat), s.gang? n = some q → q.joined = false → q.groups ≤ q.ended →
    let ag := cpAgent q.die q.asid q.sup
    let word := q.okEnds % 2 ^ 24 + (if q.killed then 2 ^ 57 else 0) + (if q.wdog then 2 ^ 58 else 0) + 2 ^ 63
    let done := { q with joined := true, gbs := [none, none, none, none] }
    let writes := fun (w : Nat) => exec (.joinStatusWrite n) s = .next ((s1.writePieces ag none 0 true w false ps).1.setGang n done)
    (q.join = 0 → exec (.joinStatusWrite n) s = .next (s.setGang n done)) ∧
    (q.join ≠ 0 → s.cpCanWrite ag q.join.toNat = (s1, .wait) → exec (.joinStatusWrite n) s = .next s1) ∧
    (∀ c a, q.join ≠ 0 → s.cpCanWrite ag q.join.toNat = (s1, .trap c a) → exec (.joinStatusWrite n) s = .next (s1.setGang n done)) ∧
    (q.join ≠ 0 → q.join.toNat % 64 = 0 → s.check ag Want.store q.join.toNat 64 = (s1, .ok ps) →
      (q.firstFault = none → writes word) ∧ (q.firstFault = some f → writes (word + f.2 * 2 ^ 24 + f.1 * 2 ^ 32 + 2 ^ 56)))

/-- LAUNCHES ARE JUDGED (R20, R53, R54, R57, R60, R61): a command processor judges its next launch, a stream's only while the stream runs (R61). A block that is not aligned is refused BADADDR (4), one the judge refuses with its status; one accepted becomes the next gang, its join word cleared and its launch answered 0, every group placed first where it is resident, and
NORES (3) where they cannot be. A legal block asks what its words say: at most the launcher's priority, entries within the code object. That a block which is not aligned counts as an address that cannot be read is the model's reading of R282 (log entry 15). A stream's LAUNCH completes with its answer,
unless a word that it writes waits for an ownership transfer. -/
def Sys2Proof.Spec.LaunchesJudged : Prop :=
  ∀ (s s0 s1 s2 : State) (die : Nat) (u : Submit) (l : Launcher) (q : Gang) (c : Nat) (join : List Piece), (s.die die).stopped = false → (s.die die).inReset = false →
    ((∀ x ∈ s.submits, x.die = die → x.status = none → x.fromSid = none ∧ ∃ y v, s.stream? die x.stream = some y ∧ (s.cpRead (y.agent die) y.ctl.toNat 512).2 = .ok v ∧ (ctlOf v).state ≠ 0) →
      exec (.gangAcceptance die) s = .next s) ∧
    (s.submits.find? (fun u => u.die == die && u.status.isNone && s.heeds u) = some u →
    (s.heedNow u = (s0, false) → exec (.gangAcceptance die) s = .next s0) ∧
    (u.fromSid.isSome = true → s.heedNow u = (s, true)) ∧
    (s.heedNow u = (s0, true) →
    let answered := fun (t : State) (code : Nat) (g : Option Nat) => ({ t with submits := t.submits.map fun x => if x = u then { x with status := some code, gang := g } else x } : State)
    let ends := fun (t : State) (code : Nat) (g : Option Nat) => exec (.gangAcceptance die) s =
      if u.fromSid.isSome then .next (answered t code g) else exec (.streamCommandComplete die u.stream) (answered t code g)
    (s0.launcher u = none → exec (.gangAcceptance die) s = .next (answered s0 4 none)) ∧
    (s0.launcher u = some l →
    (u.block.toNat % 64 ≠ 0 → ends s0 4 none) ∧
    (s0.judge u l = (s1, .status c) → ends s1 c none) ∧
    (s0.judge u l = (s1, .wait) → exec (.gangAcceptance die) s = .next s1) ∧
    (s0.judge u l = (s1, .accept q join) →
      let made := s1.setGang s1.gangs.length q
      let clear := fun (t : State) => (t.writePieces (cpAgent die l.asid l.sup) none 0 true 0 false join).1
      (q.resident = false → ends (clear made) 0 (some s1.gangs.length)) ∧
      (q.resident = true → made.placeAll s1.gangs.length q.groups = some s2 → ends (clear s2) 0 (some s1.gangs.length)) ∧
      (q.resident = true → made.placeAll s1.gangs.length q.groups = none → ends s1 3 none))))) ∧
    (∀ (b dv : Nat) (d : Desc),
      let w := fun (i : Nat) => b / 2 ^ (64 * i) % 2 ^ 64
      let groups := w 1 % 2 ^ 24
      let strands := w 1 / 2 ^ 24 % 8 + 1
      let shares := w 1 / 2 ^ 27 % 64
      let scratch := w 1 / 2 ^ 33 % 1024
      let resident := decide (w 1 / 2 ^ 45 % 2 = 1)
      let bad := groups = 0 ∨ 32 < shares ∨ 512 < scratch ∨ w 1 / 2 ^ 46 ≠ 0
      let wrong := d.strands < strands ∨ shares < d.shares ∨ 32 < strands * shares ∨ scratch < d.scratch ∨ (d.groups ≠ 0 ∧ d.groups < groups) ∨
        (resident = true ∧ d.migratable = true)
      (bad ∨ descOf dv = none → launchChecks l die b dv join = .status 1) ∧
      (¬ bad → descOf dv = some d →
        (d.loadable = false → launchChecks l die b dv join = .status 2) ∧
        (d.loadable = true → wrong → launchChecks l die b dv join = .status 1) ∧
        (d.loadable = true → ¬ wrong → ∃ q, launchChecks l die b dv join = .accept q join ∧ q.asid = l.asid ∧ q.die = die ∧ q.groups = groups ∧ q.strands = strands ∧
          q.shares = shares ∧ q.scratch = scratch ∧ q.prio = min (w 1 / 2 ^ 43 % 4) l.maxPrio ∧ q.resident = resident ∧ q.join = BitVec.ofNat 64 (w 2) ∧
          q.arg = BitVec.ofNat 64 (w 3) ∧ q.sup = l.sup ∧ q.entry = BitVec.ofNat 64 (w 0 + d.entry) ∧ q.created = 0 ∧ q.ended = 0)))

/-- A NEW GROUP IS PLACED (R55, R56, R64, R69, R70, R71): where one gang alone, no group being in migration, has groups to create at the highest priority, its next group starts on the eligible core nearest its origin: strand i in the i-th free context, at the entry,
with x8 the argument, its shares, and share 16 × 2^priority, every other register at its starting value; where its gang has a matrix entry and its core is a Loam core, its matrix control strand starts there, with no register share, and the engine is as reset leaves it; its core has acquired every class, so that what a triggered gang released is visible to it. That the free contexts and units are taken lowest first is the model's choice (log entry 19), and so is
that the event names the window's base (log entry 2). -/
def Sys2Proof.Spec.NewGroups : Prop :=
  ∀ (s : State) (gn k : Nat) (q : Gang) (l r : List (Nat × Gang)) (a : Word), s.gangs = l ++ (gn, q) :: r → q.resident = false → q.created < q.groups → q.prio ≤ 3 →
    (∀ x ∈ l ++ r, x.2.prio < q.prio ∨ x.2.resident = true ∨ x.2.groups ≤ x.2.created) → (∀ x ∈ s.groups, x.2.phase ≠ .waiting) →
    k < 1024 → s.eligible q.need k = true → (∀ j, j < 1024 → j ≠ k → s.eligible q.need j = true → coreRank q.origin k < coreRank q.origin j) →
    ∃ t g, exec (.placement (some a)) s = .next t ∧ t.group? s.groups.length = some g ∧ g.gang = gn ∧ g.gid = q.created ∧ g.core = k ∧ g.phase = .placed ∧
      g.sids = (s.freeCtxs k).take q.strands ∧ g.grant = (s.freeUnits k).take q.scratch ∧ g.window.toNat = a.toNat % 2 ^ 61 / 2 ^ 15 * 2 ^ 15 ∧
      t.mem = (s.acqCache k allClasses 4).mem ∧ (∀ l ∈ s.classLines k 0xFFFF, ∀ x, (l, x) ∉ (t.core k).lines) ∧ (∀ i, i < q.strands → t.strand (nth 0 g.sids i) = ({
        phase := .running, group := some s.groups.length, idx := i, asid := q.asid, pc := q.entry, g := q.shares, held := q.shares, lpart := q.shares
        share := 16 * 2 ^ q.prio, grace := (s.strand (nth 0 g.sids i)).grace } : Strand).setX 8 { w := q.arg }) ∧
      (∀ e, q.mentry = some e → isLoam k = true → (t.core k).mx = { vtoaQ := (t.core k).mx.vtoaQ } ∧ t.strand (mcsOf k) = ({
        phase := .running, group := some s.groups.length, idx := 8, asid := q.asid, pc := e, share := 16 * 2 ^ q.prio, grace := (s.strand (mcsOf k)).grace } : Strand).setX 8 { w := q.arg })

/-- A GROUP IN MIGRATION RESUMES (R70, R72, R76, R78): the one group that waits for a core, ahead of the gangs of its priority, resumes on the eligible core nearest its source: each strand as it was recorded in a free context there, its cycle continuing from the
record; parked matrix state goes into the engine of a Loam core, the matrix control strand's cycle continuing too, no strand running before its 1,165 cycles are over (R79; that they hold its vector side too is log entry 37), and stays parked on a Marl core. That the free contexts are taken lowest first is the model's choice (log entry 19), and what is carried beside the record's words its reading (log entry 8). -/
def Sys2Proof.Spec.MovedGroups : Prop :=
  ∀ (s : State) (n k : Nat) (g : Group) (q : Gang) (l r : List (Nat × Group)) (w : Option Word), s.groups = l ++ (n, g) :: r → g.phase = .waiting → s.gang? g.gang = some q →
    q.prio ≤ 3 → (∀ x ∈ l ++ r, x.2.phase ≠ .waiting) → (∀ x ∈ s.gangs, x.2.prio ≤ q.prio ∨ x.2.resident = true ∨ x.2.groups ≤ x.2.created) →
    k < 1024 → s.eligible (g.need q) k = true → (∀ j, j < 1024 → j ≠ k → s.eligible (g.need q) j = true → coreRank g.migSrc k < coreRank g.migSrc j) →
    ∃ t g', exec (.placement w) s = .next t ∧ t.group? n = some g' ∧ g'.phase = .placed ∧ g'.core = k ∧ g'.sids = (s.freeCtxs k).take g.saved.length ∧ g'.saved = [] ∧
      (∀ i, i < g.saved.length → let u := nth {} g.saved i; let v := t.strand (nth 0 g'.sids i)
        v = { u with rebase := u.rebase + (BitVec.ofNat 64 (g.migCycle + g.migCost) - BitVec.ofNat 64 (s.coreCycle k)), grace := (s.strand (nth 0 g'.sids i)).grace }) ∧
      (∀ l ∈ s.classLines k 0xFFFF, ∀ x, (l, x) ∉ (t.core k).lines) ∧
      (isLoam k = false → g'.savedMx = g.savedMx ∧ g'.savedMcs = g.savedMcs.map fun u => { u with rebase := u.rebase + (BitVec.ofNat 64 (g.migCycle + g.migCost) - BitVec.ofNat 64 (s.coreCycle k)) }) ∧
      (∀ m u, isLoam k = true → g.matrix = true → g.savedMx = some m → g.savedMcs = some u → (t.core k).mx = { m with vtoaQ := (t.core k).mx.vtoaQ } ∧ g'.savedMcs = none ∧
        g'.readyAt = s.coreCycle k + 1165 ∧ t.strand (mcsOf k) = { u with rebase := u.rebase + (BitVec.ofNat 64 (g.migCycle + g.migCost) - BitVec.ofNat 64 (s.coreCycle k))
                                                                          grace := (s.strand (mcsOf k)).grace })

/-- MIGRATION (R71, R73, R75, R76): once nothing that must finish is left, the group gives up its core: its contexts are free, its scratchpad units zero, and what is carried is each strand's registers, queues and special registers, with the vector registers whose vdirty bit is
set and no others, and the matrix state, that a move has parked too; it waits for a core. A convoy that has not retired has unwound. Members of other strands' convoys under way that reach into its window and have not started lose what their probes found and are probed when they execute, and no other member is (R73; which are so is log entry 37). What is carried beside the
record's words is the model's reading (log entry 8), what a free context holds its choice (log entry 4). -/
def Sys2Proof.Spec.Migrations : Prop :=
  ∀ (s : State) (n : Nat) (g : Group), s.group? n = some g → g.phase = .migrating → s.frozen g.core = false → s.migrationWaits n g = false → Mem.wf s.mem = true →
    let afresh := fun (c c' : Conv) => (c.probes.map (·.1)).Nodup → c' = { c with probes := c'.probes, late := c'.late } ∧ ∀ i,
      let hit := (∃ x ∈ Sparse.get [] c.probes i, ∃ y ∈ x.ps, y.tr.fa / 2 ^ 32 = 2 ^ 26 + g.core ∧ y.tr.fa % 2 ^ 32 / 2 ^ 15 ∈ g.grant) ∧ (c.slot < i ∨ (i = c.slot ∧ c.pend = .none))
      (hit → i ∈ c'.late ∧ Sparse.get [] c'.probes i = []) ∧ (¬ hit → Sparse.get [] c'.probes i = Sparse.get [] c.probes i ∧ (i ∈ c'.late ↔ i ∈ c.late))
    ∃ t g', exec (.migration n) s = .next t ∧ t.group? n = some g' ∧ g'.phase = .waiting ∧ g'.migSrc = g.core ∧ g'.saved.length = g.sids.length ∧
      (∀ sid ∈ g.all, t.strand sid = { grace := (s.strand sid).grace }) ∧ (∀ sid, sid ∉ g.all → t.strand sid = { s.strand sid with conv := (t.strand sid).conv, past := (t.strand sid).past } ∧ ((s.strand sid).conv = none → (t.strand sid).conv = none) ∧
        (∀ c, (s.strand sid).conv = some c → ∃ c', (t.strand sid).conv = some c' ∧ afresh c c') ∧ (t.strand sid).past.length = (s.strand sid).past.length ∧
        ∀ (j : Nat) (q : Past), (s.strand sid).past[j]? = some q → ∃ q' : Past, (t.strand sid).past[j]? = some q' ∧ q' = { q with conv := q'.conv } ∧ afresh q.conv q'.conv) ∧
      (g.mcsRuns = true → ∃ m, g'.savedMx = some m ∧ m = { (s.core g.core).mx with vtoaQ := m.vtoaQ }) ∧ (g.mcsRuns = false → g'.savedMx = (if g.savedMcs.isSome then g.savedMx else none)) ∧
      (∀ u ∈ g.grant, ∀ j, j < 4096 → t.home (2 ^ 58 + g.core * 2 ^ 32 + u * 32768 + 8 * j) 8 = 0) ∧
      ((∀ x ∈ s.submits, ∀ sid ∈ g.all, x.fromSid ≠ some sid) → ∀ i, i < g.sids.length → let u := (s.strand (nth 0 g.sids i)).unwound; let v := nth {} g'.saved i
        v.x = u.x ∧ v.pc = u.pc ∧ v.fcsr = u.fcsr ∧ v.vl = u.vl ∧ v.ew = u.ew ∧ v.n2 = u.n2 ∧ v.g = u.g ∧ v.estart = u.estart ∧ v.vdirty = u.vdirty ∧ v.lpart = u.lpart ∧
        v.share = u.share ∧ v.tpc = u.tpc ∧ v.tcause = u.tcause ∧ v.taddr = u.taddr ∧ v.tinfo = u.tinfo ∧ v.topen = u.topen ∧ v.tvec = u.tvec ∧ v.wm = u.wm ∧ v.b = u.b ∧
        v.lc = u.lc ∧ v.vpc = u.vpc ∧ v.queue = u.queue ∧ v.rq = u.rq ∧ v.conv = none ∧ v.link = none ∧ v.preq = false ∧
        ∀ j, j < 64 → Sparse.get {} v.v j = if u.vdirty.getLsbD j then Sparse.get {} u.v j else {})

/-- THE MIGRATION RECORD (R74, R75, R79): the group that leaves a core of its package leaves at base + core × 2^26 of the migration range the eight words of the header, the source cost among them, and for each of its strands, as it stopped, the 128 words of its area: x1 to x31, the resume pc, the special
registers, vpc, lc, b, the watermarks, the trap state, wdwin, the reply queue and the block in progress; the group keeps the cost. Cores are numbered 64 × die + core. That a count of dirty registers above 127 runs on into the zero bits of word 7 is the model's choice, and that vstate is as it was at the stop its
reading (log entry 37). -/
def Sys2Proof.Spec.MigrationRecord : Prop :=
  ∀ (s : State) (n : Nat) (g : Group), s.group? n = some g → g.phase = .migrating → s.frozen g.core = false → s.migrationWaits n g = false → Mem.wf s.mem = true →
    (∀ x ∈ s.submits, ∀ sid ∈ g.all, x.fromSid ≠ some sid) → g.core < 1024 → g.sids.length ≤ 8 → g.grant.length ≤ 512 → (∀ sid ∈ g.sids, (s.strand sid).n2 ≤ 6) → (g.sids.map fun sid => (s.strand sid).g).sum ≤ 32 →
    ∃ t g', exec (.migration n) s = .next t ∧ t.group? n = some g' ∧
      let us := g.sids.map fun sid => (s.strand sid).unwound
      let at_ := fun (o : Nat) => t.home (migAddrOf (g.core * 2 ^ 26 + o)) 64
      let parked := g.mcsRuns = true ∨ (g.savedMx.isSome = true ∧ g.savedMcs.isSome = true)
      let D := (us.map fun u => ((List.range (2 ^ u.n2)).filter fun r => u.vdirty.getLsbD r).length).sum
      let u0 := us.headD {}
      (∀ p ∈ [(0, 0x10 + (us.length - 1) * 2 ^ 8 + u0.g * 2 ^ 11 + u0.n2 * 2 ^ 17 + (if parked then 2 ^ 20 else 0) + if g.matrix = true ∧ g.mstarted = false then 2 ^ 21 else 0), (1, s.coreId g.core), (2, g.gid),
          (3, g.migAddr.toNat), (4, g.migStrand % 8 + (if g.migConvoy then 8 else 0) + g.migSlot * 16), (5, (u0.rebase + BitVec.ofNat 64 g.migCycle).toNat), (6, g'.migCost), (7, g.grant.length + D * 2 ^ 10)],
        at_ (64 * p.1) = p.2 % 2 ^ 64) ∧
      g'.migCost = 2400 + g.grant.length * 16 + 900 * ((D + 7) / 8) + (if parked then 1165 else 0) ∧
      ∀ i, i < us.length → let u := nth {} us i
        let w := fun (j : Nat) => at_ (512 + 8192 * i + 64 * j)
        (∀ j, j < 31 → w j = (u.getX (BitVec.ofNat 5 (j + 1))).w.toNat) ∧
        (∀ p ∈ [(31, u.pc.toNat), (32, u.fcsr.toNat), (33, u.vl), (34, u.ew + u.n2 * 4 + u.g * 32), (35, u.estart), (36, u.vdirty.toNat), (37, u.vstate), (38, u.lpart), (39, u.share), (40, u.vpc.toNat), (73, u.tpc.toNat),
            (74, u.tcause.toNat), (75, u.taddr.toNat), (76, u.tinfo.toNat), (77, if u.topen then 1 else 0), (78, u.tvec.toNat), (79, g.wdwin.toNat), (81, u.rq.length)], w p.1 = p.2 % 2 ^ 64) ∧
        (∀ j, j < 4 → w (41 + j) = (u.lc.toList.getD j 0).toNat) ∧ (∀ j, j < 8 → w (45 + j) = (u.b.toList.getD j {}).w.toNat) ∧
        (∀ j, j < 4 → let m := u.wm.toList.getD j {}
          w (53 + 5 * j) = m.base.toNat ∧ w (54 + 5 * j) = m.w1.toNat ∧ w (55 + 5 * j) = m.pub.toNat ∧ w (56 + 5 * j) = m.lim.toNat ∧ w (57 + 5 * j) = m.obs.toNat) ∧
        (∀ j, j < 16 → w (82 + j) = (u.rq.getD j {}).w.toNat) ∧ (u.blk = none → w 99 = 0 ∧ w 100 = 0 ∧ w 101 = 0) ∧
        (∀ b, u.blk = some b → w 99 = 1 ∧ w 100 = b.vl % 2 ^ 64 ∧ w 101 = (b.ew + b.rm * 4) % 2 ^ 64) ∧ ∀ j, 102 ≤ j → j < 128 → w j = 0

/-- NOTICES, FORCED PRE-EMPTION AND THE WATCHDOG (R299 to R303, R307). -/
def Obligations.Interventions : Prop := Sys2Proof.Spec.NoticesPushed ∧ Sys2Proof.Spec.ForcedPreemptions ∧ Sys2Proof.Spec.Watchdog

/-- HOW GROUPS END AND GANGS JOIN (R308, R326 to R330). -/
def Obligations.GroupEnds : Prop := Sys2Proof.Spec.GroupsStopped ∧ Sys2Proof.Spec.GroupsRetire ∧ Sys2Proof.Spec.Joins

/-- HOW LAUNCHES ARE JUDGED AND GROUPS PLACED (R20, R53 to R57, R69, R70). -/
def Obligations.GroupStarts : Prop := Sys2Proof.Spec.LaunchesJudged ∧ Sys2Proof.Spec.NewGroups

/-- HOW GROUPS MOVE BETWEEN CORES (R71 to R78). -/
def Obligations.GroupMoves : Prop := Sys2Proof.Spec.MovedGroups ∧ Sys2Proof.Spec.Migrations ∧ Sys2Proof.Spec.MigrationRecord

/-! ### The matrix engine at work -/

/-- Operation n of a matrix state is complete: none of that number is left open, and tlm is the largest number up to which all are complete (R227). -/
def Sys2Proof.Spec.Completes (m m' : Matrix) (n : Nat) : Prop :=
  m'.op n = none ∧ m'.issue = m.issue ∧ m'.tlm = (match m.ops.find? fun x => !x.done && x.num != n with
    | some x => x.num - 1
    | none => m.issue)

/-- THE SUMS OF A STAGE (R235): an output takes in the four segments of a stage in order, each in one rounding to nearest even: a quiet NaN where the segment of A or of B is marked so, +0 where D is 0, else D × 2^(α + f − 137) × S rounded to f32. That D ≠ 0 beside an S of zero gives +0, and beside an infinite S an infinity, is the
model's reading (log entry 28). -/
def Sys2Proof.Spec.StageSums : Prop :=
  ∀ (m : Matrix) (q : Slot) (stage n acc : Nat) (t : Nat → Nat),
    let D := fun (k : Nat) => ((List.range 32).map fun j => (if q.neg (32 * k + j) != (m.b (32 * k + j) n).testBit 15 then (-1 : Int) else 1) * ((q.mag (32 * k + j) * (bMags (m.bSeg k n)).getD j 0 : Nat) : Int)).sum
    let α := fun (k : Nat) => if q.scaled then (q.hdr (k / 2) : Int) - 127 else (q.hdr k : Int) - 126 - q.planes
    let add := fun (a b : Nat) => (f32.add 0 a b).1
    (∀ i, i < 4 → let k := 4 * stage + i
      (q.nan k = true ∨ nanSeg (m.bSeg k n) = true → t i = f32.qnan) ∧
      (q.nan k = false → nanSeg (m.bSeg k n) = false → (D k = 0 → t i = 0) ∧
        (∀ x, D k ≠ 0 → f32.val (q.scale k) = .fin x → t i = if x.n = 0 then 0 else (f32.round 0 (((Ex.ofInt (D k)).scale (α k + maxExp (m.bSeg k n) - 137)).mul x)).1) ∧
        (∀ neg, D k ≠ 0 → f32.val (q.scale k) = .inf neg → t i = f32.signIf (decide (D k < 0) != neg) + f32.inf))) →
    stageSum m q stage n acc = add (add (add (add acc (t 0)) (t 1)) (t 2)) (t 3)

/-- THE BOUNDS OF THE MONITOR (R233, R237): with p planes of a stage to come, no segment of the stage marked NaN and its scales finite, S is the exact sum of acc and of D × 2^(α + f − 137) × S_i with the planes done, and R, rounded up, of (2^p − 1) × 2^α × |S_i| × ψ over the segments of the stage, but a bf16 one of zeros, and
of G × Ψ, where Ψ sums ψ over the later segments and G is the largest γ there. -/
def Sys2Proof.Spec.MonitorBounds : Prop :=
  ∀ (m : Matrix) (q : Slot) (stage n p acc : Nat) (a y g : Ex) (x gam : Nat → Ex),
    let α := fun (k : Nat) => if q.scaled then (q.hdr (k / 2) : Int) - 127 else (q.hdr k : Int) - 126 - q.planes
    let D := fun (k : Nat) => ((List.range 32).map fun j => (if q.neg (32 * k + j) != (m.b (32 * k + j) n).testBit 15 then (-1 : Int) else 1) *
      ((q.mag (32 * k + j) / 2 ^ p * 2 ^ p * (bMags (m.bSeg k n)).getD j 0 : Nat) : Int)).sum
    let ks := (List.range 4).map (4 * stage + ·)
    let later := fun (j : Nat) => 4 * stage + 4 ≤ j ∧ j < m.segs
    f32.val acc = .fin a → (∀ k ∈ ks, q.nan k = false ∧ nanSeg (m.bSeg k n) = false ∧ f32.val (q.scale k) = .fin (x k)) →
      boundS m q stage n p acc = FVal.total (.fin a :: ks.map fun k => .fin (((Ex.ofInt (D k)).scale (α k + maxExp (m.bSeg k n) - 137)).mul (x k))) ∧
      ((∀ j, later j → nanSeg (m.bSeg j n) = false ∧ (q.scaled = false → gam j = if q.hdr j = 0 then { n := 0 } else { n := 1, e := (q.hdr j : Int) - 126 }) ∧
          (q.scaled = true → ∃ s, f32.val (q.scale j) = .fin s ∧
            f32.val (f32.round 2 (({ n := 1, e := (q.planes : Int) - 1 + ((q.hdr (j / 2) : Int) - 127) } : Ex).mul s.abs)).1 = .fin (gam j))) →
        f32.val (f32.round 2 (exSum (((List.range m.segs).filter fun i => 4 * stage + 4 ≤ i).map fun i => ({ n := (bMags (m.bSeg i n)).sum, e := (maxExp (m.bSeg i n) : Int) - 137 } : Ex)))).1 = .fin y →
        ∃ g, bigG m q (4 * stage + 4) = .fin g ∧ (∀ j, later j → g.lt (gam j) = false) ∧ (g = { n := 0 } ∨ ∃ j, later j ∧ g = gam j) ∧
          boundR m q stage n p = (FVal.total (.fin (g.mul y) :: ks.map fun k => .fin (if q.scaled = false ∧ q.hdr k = 0 then { n := 0 } else
            (((Ex.ofInt ((2 ^ p - 1 : Nat) : Int)).scale (α k)).mul (x k).abs).mul { n := (bMags (m.bSeg k n)).sum, e := (maxExp (m.bSeg k n) : Int) - 137 }))).up)

/-- THE TESTS OF THE MONITOR (R237, R238, R239): of an output not settled, whose S, R and E are finite and to whose sum no NaN and no poison goes, SGN settles the sign: positive where S − R − E, rounded down, is above 0, negative where S + R + E, rounded up, is below 0; TOPK settles it below where S + R + E, rounded up, is below the
threshold. A settled output holds the vNaN of its verdict, the planes completed and the stage's first segment, 0 and the next stage's after the last plane. Every other output keeps its value, and so does one of an infinite S. -/
def Sys2Proof.Spec.MonitorTests : Prop :=
  ∀ (m : Matrix) (q : Slot) (o : MxOp) (topk : Option Nat) (n : Nat), n < m.N →
    let r := (monitor m q o topk).1
    let acc := o.vals / 2 ^ (32 * n) % 2 ^ 32
    let p := q.planes - o.plane
    let lane := r.vals / 2 ^ (32 * n) % 2 ^ 32
    let kept := lane = acc ∧ r.settled.testBit n = o.settled.testBit n
    let becomes := fun (b : Bool) => r.settled.testBit n = true ∧ lane = (if p = 0 then vNan b 0 (4 * o.stage + 4) else vNan b o.plane (4 * o.stage))
    let may := o.pois.testBit n = false ∧ f32.isNan acc = false ∧ ∀ i, i < m.segs → q.nan i = false ∧ nanSeg (m.bSeg i n) = false
    (o.settled.testBit n = true ∨ ¬ may → kept) ∧ (∀ neg, boundS m q o.stage n p acc = .inf neg → kept) ∧
    (∀ S R E, o.settled.testBit n = false → may → boundS m q o.stage n p acc = .fin S → f32.val (boundR m q o.stage n p) = .fin R →
      f32.val (f32.round 2 ((Ex.ofInt (2 * (m.segs - 4 * o.stage : Nat) : Int)).mul (((S.abs.add R false).scale (-23)).add { n := 1, e := -150 } false))).1 = .fin E →
      let lo := (f32.round 3 ((S.add R.opp false).add E.opp false)).1
      let hi := (f32.round 2 ((S.add R false).add E false)).1
      (topk = none → (f32.lt 0 lo = true → becomes false) ∧ (f32.lt 0 lo = false → f32.lt hi 0 = true → becomes true) ∧ (f32.lt 0 lo = false → f32.lt hi 0 = false → kept)) ∧
      (∀ T, topk = some T → (f32.lt hi T = true → becomes true) ∧ (f32.lt hi T = false → kept)))

/-- ROWS IN THE GANG (R231, R235, R237 to R239, R250): at a check point a row whose stage the rows before it have left, or that may enter the gang and takes its accumulator row's values, has one more plane of its stage, and an mvrd's monitor tests its outputs but after the last plane of all: with
every output settled it leaves and its slot is empty. A row whose planes are done leaves its stage, the next one free or not: each output not settled takes in the four segments of the stage. The row that has left is written to its accumulator row and is complete. That the monitor samples the threshold as it stands at the check point is the model's choice among those R240 allows (log entry 28). -/
def Sys2Proof.Spec.RowsRun : Prop :=
  ∀ (s : State) (core n acc slot : Nat) (pred : Option Bool) (o : MxOp),
    let m := (s.core core).mx
    let q := m.slot slot
    s.frozen core = false → m.op n = some o → o.kind = .row acc slot pred →
    (o.left = false → o.plane < q.planes → o.entered = true ∧ m.stageFree n o.stage = true ∨ o.entered = false ∧ m.mayEnter n acc = true →
      let e := if o.entered then o else m.enter o acc slot
      let e1 := { e with plane := e.plane + 1 }
      let last := e1.plane = q.planes ∧ e1.stage + 1 = m.stages
      let old := if o.entered then Sparse.get [] m.trace acc else []
      let leads := fun (m' : Matrix) => exec (.checkPoint core n) s = .next (s.modMx core fun _ => m')
      (o.entered = false → e.vals = (m.row acc).bits) ∧
      (pred = none → leads (m.setOp e1)) ∧
      (∀ topk, pred = some topk →
        let r := monitor m q e1 (if topk then some (m.thr acc) else none)
        let kept := { m with trace := Sparse.put m.trace acc (old ++ [r.2]) }
        (last → leads { m.setOp e1 with trace := Sparse.put m.trace acc old }) ∧
        (¬ last → r.1.settled % 2 ^ m.N = 2 ^ m.N - 1 → leads { kept.setOp { r.1 with left := true } with slots := Sparse.put m.slots slot {} }) ∧
        (¬ last → r.1.settled % 2 ^ m.N ≠ 2 ^ m.N - 1 → leads (kept.setOp r.1)))) ∧
    (o.entered = true → o.left = false → q.planes ≤ o.plane →
      ∃ t o', exec (.rowLeavesStage core n) s = .next t ∧ (t.core core).mx.op n = some o' ∧ o'.stage = o.stage + 1 ∧ o'.plane = 0 ∧ o'.kind = o.kind ∧ o'.settled = o.settled ∧
        (∀ c, c < m.N → o'.vals / 2 ^ (32 * c) % 2 ^ 32 = if o.settled.testBit c then o.vals / 2 ^ (32 * c) % 2 ^ 32
          else stageSum m q o.stage c (o.vals / 2 ^ (32 * c) % 2 ^ 32) % 2 ^ 32) ∧
        (o'.left = true ↔ m.stages ≤ o.stage + 1) ∧ (m.stages ≤ o.stage + 1 → (t.core core).mx.slot slot = {}) ∧ (∀ j, j ≠ slot → (t.core core).mx.slot j = m.slot j)) ∧
    (o.left = true → ∃ t, exec (.accumulatorRowWrite core n) s = .next t ∧ (t.core core).mx.row acc = { bits := o.vals, pois := o.pois } ∧
      (∀ j, j ≠ acc → (t.core core).mx.row j = m.row j) ∧ Sys2Proof.Spec.Completes m (t.core core).mx n)

/-- LOADS, CLEARS AND STORES OF THE GANG (R245, R247, R251, R252): once the earlier operations each waits for are out of its way, a load puts its rows in the macros, zero beyond the list; a clear zeroes its accumulator rows and sets its thresholds to −∞, as its flags say;
a store writes its rows, as f32 or rounded to bf16, at their destinations. Each is then complete. -/
def Sys2Proof.Spec.MovesRun : Prop :=
  ∀ (s s1 : State) (core n : Nat) (o : MxOp) (rows : List (Option Nat)) (fmt w cls row count flags : Nat) (pages : List (Nat × Nat)) (l : List (Nat × Nat)) (bf : Bool) (d : Nat),
    let m := (s.core core).mx
    s.frozen core = false → m.op n = some o →
    (o.kind = .mldb rows fmt w cls pages → (∀ x ∈ m.before n, (x.isRow = true → x.left = true) ∧ x.cls? = none) →
      s.readRows (s.agentOf (mcsOf core)) cls fmt w m.N pages rows = (s1, l) → (∀ x ∈ l, x.1 < 2 ^ (16 * m.N)) → ∃ t, exec (.mldbComplete core n) s = .next t ∧ t.mem = s1.mem ∧
        (∀ k c, c < m.N → (t.core core).mx.bmat / 2 ^ (16 * (k * m.N + c)) % 2 ^ 16 = (nth (0, 0) l k).1 / 2 ^ (16 * c) % 2 ^ 16) ∧
        Sys2Proof.Spec.Completes (s1.core core).mx (t.core core).mx n) ∧
    (o.kind = .mclr row count flags → (∀ x ∈ m.before n, ∀ j, row ≤ j → j < row + count → x.writesRow j = false ∧ x.storesRow j = false ∧ x.verdictOn j = false) →
      ∃ t, exec (.mclrComplete core n) s = .next t ∧ Sys2Proof.Spec.Completes m (t.core core).mx n ∧ ∀ j,
        (t.core core).mx.row j = (if flags.testBit 0 ∧ row ≤ j ∧ j < row + count then {} else m.row j) ∧
        (t.core core).mx.thr j = (if flags.testBit 1 ∧ row ≤ j ∧ j < row + count then 0xFF800000 else m.thr j)) ∧
    (o.kind = .mstc row 1 bf [d] cls pages → (∀ x ∈ m.before n, x.cls? = none ∧ x.writesRow row = false) →
      let img := storedRow (m.row row) bf m.N
      exec (.mstcComplete core n) s = .next ((s.writeArea (s.agentOf (mcsOf core)) (some (mcsOf core)) cls img.1 img.2 (pagePieces pages d ((if bf then 16 else 32) * m.N))).modMx core
        fun m => m.complete n) ∧
      ∀ c, c < m.N → (bf = false → img.1 / 2 ^ (32 * c) % 2 ^ 32 = (m.row row).bits / 2 ^ (32 * c) % 2 ^ 32) ∧
        (bf = true → (∀ c, c < m.N → (f32.convert bf16 0 ((m.row row).get c)).1 < 2 ^ 16) →
          img.1 / 2 ^ (16 * c) % 2 ^ 16 = (f32.convert bf16 0 ((m.row row).get c)).1))

/-- CLAIMS AND TRACES (R228, R250, R263): an mma or mvrd of the matrix control strand that waited for its slot is numbered once the slot is full; a monitor's trace is printed, each column's S exact, its R and what it settled, and changes nothing (the form in which it is kept is log entry 41). -/
def Sys2Proof.Spec.ClaimsAndTraces : Prop :=
  ∀ (s : State) (core row : Nat) (w : Wait) (rd : Reg) (r : BitVec 6) (slot : BitVec 4),
    let k := mcsOf core
    let m := (s.core core).mx
    (s.canIssue k = true → (s.strand k).wait = some w → w.instr ∈ [.mma rd r slot, .mvrdSgn rd r slot, .mvrdTopk rd r slot] → s.fate k .m1 = .runs →
      (m.slot slot.toNat).full = true → (m.slot slot.toNat).claimed = false → m.queuedRows < 4 → m.open.length < 16 → ∃ t, exec (.rowClaim core) s = .next t ∧
        (t.core core).mx.issue = m.issue + 1 ∧ ((t.core core).mx.slot slot.toNat).claimed = true ∧ (t.strand k).wait = none ∧ (t.strand k).pc = (s.strand k).pc + 64#64 ∧
        (rd ≠ 0 → ((t.strand k).getX rd).w = BitVec.ofNat 64 (m.issue + 1))) ∧
    ∃ ws, exec (.monitorTrace core row) s = .next { s with views := s.views ++ [{ what := "trace", words := ws }] } ∧
      (Sparse.get [] m.trace row = [] → ws = []) ∧
      ∀ (e : TraceEnt) (m r w : Nat) (neg : Bool) (x : Nat), Sparse.get [] (s.core core).mx.trace row = [e] → e.cols = [(some (.fin (if neg then -(m : Int) else m) x, r), w)] → (neg = true → 0 < m) → x < 2 ^ 63 →
        ws = [e.stage, e.p, e.thr, 1, 0, if neg then 1 else 0, m, x, r, w]

/-- THE MATRIX ENGINE AT WORK (R227, R228, R231 to R252, R263). -/
def Obligations.MatrixEngine : Prop := Sys2Proof.Spec.StageSums ∧ Sys2Proof.Spec.MonitorBounds ∧ Sys2Proof.Spec.MonitorTests ∧ Sys2Proof.Spec.RowsRun ∧ Sys2Proof.Spec.MovesRun ∧ Sys2Proof.Spec.ClaimsAndTraces

/-! ### Copy engines and RRED updates -/

/-- COPIES START AND END (R197, R198, R202, R224): a context that executes nothing takes its next operation; a COPY whose chunks move with no fault stores its completion word, and the timeline takes its number; one that meets a chunk that waits goes on from there later; a completion word that can no longer be
written fails it. A COPY.MC ends when each destination has completed or failed; a PERSIST when its range is checked and, where it holds CXL memory, its flush acknowledged. That the payload moves whole at the end is the model's grain, and that a completion word's failure ends the copy its reading (log entry 29). -/
def Sys2Proof.Spec.CopiesRun : Prop :=
  ∀ (s s1 s2 : State) (die ctx k cause v : Nat) (o : CopyOp) (rest : List CopyOp) (d : Dest) (ds : List Dest) (ps : List Piece) (a : Word),
    let pc := 128 * die + ctx
    let c := s.copyCtx pc
    let ag := o.agent pc
    let ends := fun (i : Instr) (t : State) (bad : Bool) => exec i s = .next (t.setCopyCtx pc { t.copyCtx pc with
      timeline := o.num, prog := 0, ops := (t.copyCtx pc).ops.drop 1, failed := if bad then insertNat (t.copyCtx pc).failed o.num else (t.copyCtx pc).failed })
    let comp := fun (a : Word) => s1.check ag { Want.store with far := true, noHost := true } a.toNat 64
    c.ops = o :: rest → c.stopped = false → ctx < 128 → (s.die die).inReset = false →
    (o.started = false → exec (.copyOperationStart die ctx) s = .next (s.setCopyCtx pc { c with ops := { o with started := true } :: rest })) ∧
    (o.started = true →
      (o.kind = .copy → o.dests = d :: ds →
        (s.movePayload ag o d.addr (o.chunks c.prog) = (s1, .clear) →
          (d.comp = none → ends (.copyOperationEnd die ctx) s1 false) ∧
          (d.comp = some a → comp a = (s2, .ok ps) → ends (.copyOperationEnd die ctx) (s2.writePieces ag none 0 true o.cv.toNat false ps).1 false) ∧
          (d.comp = some a → comp a = (s2, .wait) → exec (.copyOperationEnd die ctx) s = .next (s1.setCopyCtx pc { s1.copyCtx pc with prog := o.total })) ∧
          (d.comp = some a → comp a = (s2, .trap cause v) → exec (.copyOperationEnd die ctx) s = .next (s2.setCopyCtx pc (((s2.copyCtx pc).record o.num 1 cause).finish o.num true)))) ∧
        (s.movePayload ag o d.addr (o.chunks c.prog) = (s1, .wait k) →
          exec (.copyOperationEnd die ctx) s = .next (s1.setCopyCtx pc { s1.copyCtx pc with prog := max (s1.copyCtx pc).prog (k * 32768) }))) ∧
      (o.kind = .mc → (∀ d ∈ o.dests, d.done = true ∨ d.failed = true) → ends (.copyOperationEnd die ctx) s (o.dests.any (·.failed))) ∧
      (o.kind = .persist →
        (s.persistRange ag o = (s1, .ok ps) → o.acked = true ∨ (∀ p ∈ ps, p.tr.il ≠ 5) → ends (.copyOperationEnd die ctx) s1 false) ∧
        exec (.persistenceFlushAck die ctx) s = .next (s.setCopyCtx pc { c with ops := { o with acked := true } :: rest })))

/-- WHAT A COPY MOVES (R198, R201, R222): of a payload in one row and one chunk, whose two ends are memory in which they share no line and of which the issuing core holds no line, bit j of the source reaches bit j of the destination, and no byte outside it changes; the payload of a COPY.MC is read as it stands at its source, and bit j of what
was read reaches bit j of each destination. That a COPY.MC reads its payload once is the model's reading (log entry 29). -/
def Sys2Proof.Spec.PayloadMoves : Prop :=
  ∀ (s s1 s2 : State) (pc : Nat) (o : CopyOp) (d : Word) (p q : Piece),
    let ag := o.agent pc
    let memory := fun (x : Piece) => x.off = 0 ∧ x.len = o.len ∧ x.tr.device = false
    let reaches := fun (t u : State) (src : Nat) => (∀ j, j < o.len → (t.home q.tr.fa o.len).testBit j = src.testBit j) ∧
      ∀ k, 8 * k + 8 ≤ q.tr.fa ∨ q.tr.fa + o.len ≤ 8 * k → t.home (8 * k) 8 = u.home (8 * k) 8
    o.rows = 1 → 0 < o.len → o.len ≤ 32768 → s.peersDown = [] → o.lost = [] → Mem.wf s.mem = true → (∀ k, o.core = some k → (s.core k).lines = []) →
    (s.check ag Want.engineSrc o.src.toNat o.len = (s1, .ok [p]) → memory p →
      (s1.check ag Want.engineDst d.toNat o.len = (s2, .ok [q]) → memory q → (p.tr.fa + o.len - 1) / 512 < q.tr.fa / 512 ∨ (q.tr.fa + o.len - 1) / 512 < p.tr.fa / 512 →
        ∃ t, s.movePayload ag o d (o.chunks 0) = (t, .clear) ∧ reaches t s (s.home p.tr.fa o.len)) ∧
      (o.got = 0 → o.bits = 0 → ∃ z, State.gather ag (o.chunks 0) (s, o) = ((s1, { o with got := o.len, bits := s.home p.tr.fa o.len, pois := z }), .clear))) ∧
    (s.check ag Want.engineDst d.toNat o.len = (s2, .ok [q]) → memory q → ∃ t, s.deliver ag o d (o.chunks 0) = (t, .clear) ∧ reaches t s o.bits)

/-- DESTINATIONS OF A COPY.MC (R201, R225): each that is clear receives the payload left, which the engine has read once, and after it its completion word, and is done; one whose completion word waits for a window waits; the operation's other destinations stay as they are, and each has its own answer from the transfers it joins. One that faults fails: its bit and the cause enter the error
register, the first cause and its operation's number staying. -/
def Sys2Proof.Spec.Destinations : Prop :=
  ∀ (s s0 s2 s3 s4 : State) (die ctx i k cause x : Nat) (o o1 : CopyOp) (rest : List CopyOp) (d : Dest) (a : Word) (ps : List Piece),
    let pc := 128 * die + ctx
    let c := s.copyCtx pc
    let ag := o.destAgent pc i
    let ks := o.chunks c.prog
    let i_ := Instr.copyMcDestinationComplete die ctx i
    let word := fun (s : State) (a : Word) => s.check ag { Want.store with far := true, noHost := true } a.toNat 64
    let done := fun (m : State) => ∃ t, exec i_ s = .next t ∧ t.mem = m.mem ∧ ∃ o' l, (t.copyCtx pc).ops = o' :: l ∧ o'.num = o.num ∧
      o'.dests[i]? = some { d with done := true } ∧ (∀ j, j ≠ i → o'.dests[j]? = o.dests[j]?) ∧ (t.copyCtx pc).err = c.err ∧ (t.copyCtx pc).timeline = c.timeline
    let fails := ∃ t, exec i_ s = .next t ∧
      ((t.copyCtx pc).err.testBit i = true) ∧ (c.err / 2 ^ 16 % 256 = 0 → (t.copyCtx pc).err / 2 ^ 16 % 256 = cause ∧ (t.copyCtx pc).err / 2 ^ 32 = o.num) ∧
      (c.err / 2 ^ 16 % 256 ≠ 0 → (t.copyCtx pc).err / 2 ^ 16 = c.err / 2 ^ 16) ∧ ∃ o' l, (t.copyCtx pc).ops = o' :: l ∧ o'.dests[i]? = some { d with failed := true }
    c.ops = o :: rest → c.stopped = false → ctx < 128 → (s.die die).inReset = false → o.started = true → o.kind = .mc → o.dests[i]? = some d → d.done = false → d.failed = false →
    State.gather (o.agent pc) (o.chunks o.got) (s, o) = ((s0, o1), .clear) →
    let s1 := s0.setCopyCtx pc { s0.copyCtx pc with ops := o1 :: (s0.copyCtx pc).ops.drop 1 }
    (s1.copyCheck ag o1 false (some d.addr) ks = (s2, .clear) →
      (d.comp = none → s2.deliver ag o1 d.addr ks = (s3, .clear) → done s3) ∧
      (d.comp = some a → (word s2 a).2 = .wait → exec i_ s = .next s2) ∧
      (d.comp = some a → (word s2 a).2 ≠ .wait → s2.deliver ag o1 d.addr ks = (s3, .clear) → word s3 a = (s4, .ok ps) → done (s4.writePieces ag none 0 true o1.cv.toNat false ps).1) ∧
      (cause < 256 → o.num < 2 ^ 32 → c.err < 2 ^ 64 → i < 16 → d.comp = some a → (word s2 a).2 ≠ .wait → s2.deliver ag o1 d.addr ks = (s3, .clear) → word s3 a = (s4, .trap cause x) → fails)) ∧
    (s1.copyCheck ag o1 false (some d.addr) ks = (s2, .fault k cause x) → cause < 256 → o.num < 2 ^ 32 → c.err < 2 ^ 64 → i < 16 → fails)

/-- A SOURCE FAULT OF A COPY.MC (R196, R200, R201): where a chunk of the source faults, the chunks read before it reach the destinations that have not completed; then a fault on host or CXL memory stops the context there, resumable, its cause recorded and bit 24 set, and any other ends the operation as failed, each destination that had not
completed with its error bit, and the timeline takes its number. No completion word is written. -/
def Sys2Proof.Spec.SourceFaults : Prop :=
  ∀ (s s0 s2 : State) (die ctx k cause v : Nat) (o o1 : CopyOp) (rest : List CopyOp) (d : Dest),
    let pc := 128 * die + ctx
    let c := s.copyCtx pc
    let ag := o.agent pc
    let host := s.hostHomed ag v
    let ks := o.chunksTo c.prog (k * 32768)
    let s1 := s.setCopyCtx pc { c with ops := o1 :: rest }
    let ends := fun (m : State) => ∃ t, exec (.copyFaultStop die ctx) s = .next t ∧ t.mem = m.mem ∧
      (host = true → (t.copyCtx pc).stopped = true ∧ (t.copyCtx pc).prog = max c.prog (k * 32768) ∧ (t.copyCtx pc).timeline = c.timeline ∧ (t.copyCtx pc).ops = o1 :: rest ∧
        (t.copyCtx pc).err = cause * 2 ^ 16 + 2 ^ 24 + o.num * 2 ^ 32) ∧
      (host = false → (t.copyCtx pc).stopped = false ∧ (t.copyCtx pc).timeline = o.num ∧ (t.copyCtx pc).ops = rest ∧ hasNat (t.copyCtx pc).failed o.num = true ∧
        (t.copyCtx pc).err / 2 ^ 16 = cause + o.num * 2 ^ 16 ∧ ∀ i, i < 16 → ((t.copyCtx pc).err.testBit i = true ↔ ∃ d, o.dests[i]? = some d ∧ d.done = false))
    c.ops = o :: rest → c.stopped = false → ctx < 128 → (s.die die).inReset = false → o.started = true → o.kind = .mc → o.dests.length ≤ 16 → c.err = 0 → 0 < cause → cause < 256 → o.num < 2 ^ 32 →
    State.gather ag (o.chunks o.got) (s, o) = ((s0, o1), .fault k cause v) →
    (ks = [] → ends s) ∧
    (o.dests = [d] → d.done = false → d.failed = false → s1.copyCheck (o1.destAgent pc 0) o1 false (some d.addr) ks = (s2, .clear) → ends (s2.deliver (o1.destAgent pc 0) o1 d.addr ks (!host)).1)

/-- A COPY'S FAULT (R196, R200, R222): the chunks before it are copied, whichever event meets it. One on host or CXL memory stops the context at that chunk, resumable, the cause recorded and bit 24 set; any other ends the operation as failed, with bit 0 and its cause, and the timeline takes its number. -/
def Sys2Proof.Spec.CopyFaults : Prop :=
  ∀ (s moved : State) (die ctx k cause v : Nat) (o : CopyOp) (rest : List CopyOp) (d : Dest) (ds : List Dest),
    let pc := 128 * die + ctx
    let c := s.copyCtx pc
    let ag := o.agent pc
    c.ops = o :: rest → c.stopped = false → ctx < 128 → (s.die die).inReset = false → o.started = true → o.kind = .copy → o.dests = d :: ds → c.err = 0 → cause < 256 → o.num < 2 ^ 32 →
    0 < cause →
    s.movePayload ag o d.addr (o.chunks c.prog) = (moved, .fault k cause v) →
    ∃ t, exec (.copyFaultStop die ctx) s = .next t ∧ exec (.copyOperationEnd die ctx) s = .next t ∧ t.mem = moved.mem ∧
      (moved.hostHomed ag v = true → (t.copyCtx pc).stopped = true ∧ (t.copyCtx pc).prog = max c.prog (k * 32768) ∧ (t.copyCtx pc).timeline = c.timeline ∧
        (t.copyCtx pc).ops = c.ops ∧ (t.copyCtx pc).err = cause * 2 ^ 16 + 2 ^ 24 + o.num * 2 ^ 32) ∧
      (moved.hostHomed ag v = false → (t.copyCtx pc).stopped = false ∧ (t.copyCtx pc).timeline = o.num ∧ (t.copyCtx pc).ops = rest ∧ hasNat (t.copyCtx pc).failed o.num = true ∧
        (t.copyCtx pc).err = 1 + cause * 2 ^ 16 + o.num * 2 ^ 32)

/-- RRED UPDATES (R203, R264, R265, R292, R340): a packet in flight is applied once, wherever it stands among those in flight, but that one of its strand's earlier members of its class or with bits in common comes first: each of its words becomes what stood there plus the element, rounded once to f32, and its memory unit logs it; one to a peer that is cut off is dropped. That the sender's lines go first, and the drop, are the model's readings (log entry 30). -/
def Obligations.RredUpdates : Prop :=
  ∀ (s : State) (j : Nat) (p : RPacket) (x : RElem), s.packets[j]? = some p →
    let rest := s.packets.take j ++ s.packets.drop (j + 1)
    let down := decide (2 ^ 20 ≤ p.unit) && hasNat s.peersDown (p.unit - 2 ^ 20)
    let turn := ∀ q ∈ s.packets.take j, p.follows q = false
    (¬ turn → exec (.rredUpdate j) s = .next s) ∧ (turn →
    (down = true → exec (.rredUpdate j) s = .next { s with packets := rest }) ∧
    (down = false → ∃ t, exec (.rredUpdate j) s = .next t ∧ t.packets = rest ∧ t.strands = s.strands) ∧
    (down = false → p.elems = [x] → x.dst % 32 = 0 → Mem.wf s.mem = true → ∃ t, exec (.rredUpdate j) s = .next t ∧
      let u := (linesOf x.dst 32).foldl (fun s l => s.evict p.sender l) s
      t.home x.dst 32 = x.sum (u.home x.dst 32) % 2 ^ 32 ∧ (∀ k, 8 * k + 8 ≤ x.dst ∨ x.dst + 32 ≤ 8 * k → t.home (8 * k) 8 = u.home (8 * k) 8) ∧
      (p.unit < 2 ^ 20 → p.unit % 2 = 0 → ∃ l r, (t.core (p.unit / 2)).logS = l ++ [r] ∧ r.sender = p.sender ∧ r.vl = p.vl ∧ r.mask = p.mask ∧ r.payload = p.payload ∧ r.scales = p.scales ∧ r.dst = [x.dst] ∧
        r.after = [t.home x.dst 32]) ∧
      (p.unit < 2 ^ 20 → p.unit % 2 = 1 → ∃ l r, (t.core (p.unit / 2)).logK = l ++ [r] ∧ r.sender = p.sender ∧ r.vl = p.vl ∧ r.mask = p.mask ∧ r.payload = p.payload ∧ r.scales = p.scales ∧ r.dst = [x.dst] ∧ r.after = [t.home x.dst 32])))

/-- COPY ENGINES AT WORK (R196 to R202, R222 to R225). -/
def Obligations.CopyEngines : Prop := Sys2Proof.Spec.CopiesRun ∧ Sys2Proof.Spec.PayloadMoves ∧ Sys2Proof.Spec.Destinations ∧ Sys2Proof.Spec.SourceFaults ∧ Sys2Proof.Spec.CopyFaults

/-! ### Streams, the host interface, ownership, and what caches do by themselves -/

/-- STREAM COMMANDS BEGIN (R58, R59, R60): on a running stream with no command in progress, whose control block and next record (its lap in place) are read, a legal LAUNCH is submitted to the die's command processor, a COPY queued on its context, a WAITV or TRIGWAIT begins to wait, and a
SIGV stores its value and is done, read naming the next record. An illegal record puts the stream in its error state, ILLCMD (1), read still naming it: which records are illegal beyond their opcode and alignment is the model's choice (log entry 15). -/
def Sys2Proof.Spec.StreamsBegin : Prop :=
  ∀ (s s1 s2 s3 s4 : State) (die n v w : Nat) (x : Stream) (ps qs : List Piece), s.stream? die n = some x → x.cmd = none → (s.die die).inReset = false → (s.die die).stopped = false →
    let ag := cpAgent die x.asid false
    let read := v / 2 ^ 192 % 2 ^ 64
    let L := v / 2 ^ 64 % 32
    let r := recordOf w
    let wait := fun (t : State) (since num : Nat) => t.setStream die n { x with cmd := some { op := r.op, a := r.a, w1 := r.w1, w2 := r.w2, w3 := r.w3, since := since, num := num } }
    let put := fun (t : State) (ps : List Piece) (v : Nat) => (t.writePieces ag none 0 true v false ps).1
    s.cpRead ag x.ctl.toNat 512 = (s1, .ok v) → v / 2 ^ 256 % 4 = 0 → s1.cpRead ag ((v % 2 ^ 64 + read % 2 ^ L * 256) % 2 ^ 64) 256 = (s2, .ok w) → r.lap = read / 2 ^ L % 255 + 1 →
    (r.ok x.accepted.length = true →
      (r.op = 1 → exec (.streamLaunch die n) s = .next (wait { s2 with submits := s2.submits ++ [{ die := die, fromSid := none, stream := n, maxPrio := v / 2 ^ 69 % 4, block := r.w1, statusAddr := r.w2 }] } 0 0)) ∧
      (r.op = 2 → ∃ t, exec (.streamCopy die n) s = .next t ∧ let pc := 128 * die + r.a; let k := (s2.copyCtx pc).issue + 1
        (t.copyCtx pc).issue = k ∧ (t.copyCtx pc).ops = (s2.copyCtx pc).ops ++ [{ num := k, kind := .copy, src := r.w1, dests := [{ addr := r.w2 }], len := r.w3.toNat, cls := r.b, asid := x.asid
                                                                                  sup := false, core := none }]) ∧
      (r.op = 3 → exec (.streamWaitv die n) s = .next (wait s2 (s2.coreCycle (s2.timingCore die)) 0)) ∧
      (r.op = 5 → exec (.streamTrigwait die n) s = .next (wait s2 0 0)) ∧
      (r.op = 4 → s2.check ag Want.store r.w1.toNat 64 = (s3, .ok ps) → x.ctl.toNat % 64 = 0 → (put s3 ps r.w2.toNat).check ag Want.store ((x.ctl.toNat + 192) % 2 ^ 64) 64 = (s4, .ok qs) →
        exec (.streamSigv die n) s = .next ((put s4 qs ((read + 1) % 2 ^ 64)).setStream die n { x with cmd := none }))) ∧
    (r.ok x.accepted.length = false → x.ctl.toNat % 64 = 0 → s2.check ag Want.store ((x.ctl.toNat + 256) % 2 ^ 64) 64 = (s3, .ok ps) →
      let err := (put s3 ps (1 + 2 ^ 8)).setStream die n { x with cmd := none }
      ∀ p ∈ [(1, Instr.streamLaunch die n), (2, .streamCopy die n), (3, .streamWaitv die n), (4, .streamSigv die n), (5, .streamTrigwait die n)],
        r.op = p.1 ∨ r.op = 0 ∨ 5 < r.op → exec p.2 s = .next err)

/-- STREAM COMMANDS END (R60, R61, R63): a LAUNCH accepted, whose gang the stream remembers and whose status word, where it has one, is written, a copy whose number the timeline has reached without failing, a WAITV whose word meets its condition, and a TRIGWAIT whose gang has triggered complete, read naming the next record; a LAUNCH that was refused ends in LAUNCHFAIL (2) with its status, a copy that failed ends in COPYERR (4) and a WAITV at its limit in
TIMEOUT (3). That a LAUNCH's status word waits for its region is the model's reading (log entry 15). -/
def Sys2Proof.Spec.StreamsEnd : Prop :=
  ∀ (s s1 s2 s3 : State) (die n v w : Nat) (x : Stream) (c : SCmd) (ps qs : List Piece) (u : Submit) (g : Nat), s.stream? die n = some x → x.cmd = some c → (s.die die).inReset = false → (s.die die).stopped = false →
    let ag := cpAgent die x.asid false
    let read := v / 2 ^ 192 % 2 ^ 64
    let put := fun (t : State) (v : Nat) => (t.writePieces ag none 0 true v false qs).1.setStream die n { x with cmd := none }
    x.ctl.toNat % 64 = 0 →
    (s.cpRead ag x.ctl.toNat 512 = (s1, .ok v) → v / 2 ^ 256 % 4 = 0 →
      let k := s1.copyCtx (128 * die + c.a)
      let fin := fun (t : State) => t.check ag Want.store ((x.ctl.toNat + 192) % 2 ^ 64) 64 = (s3, .ok qs) → exec (.streamCommandComplete die n) s = .next (put s3 ((read + 1) % 2 ^ 64))
      (c.op = 2 → c.num ≤ k.timeline → hasNat k.failed c.num = false → fin s1) ∧
      (c.op = 2 → c.num ≤ k.timeline → hasNat k.failed c.num = true → s1.check ag Want.store ((x.ctl.toNat + 256) % 2 ^ 64) 64 = (s3, .ok qs) →
        exec (.streamCommandComplete die n) s = .next (put s3 (1 + 4 * 2 ^ 8))) ∧
      (c.op = 3 → s1.cpRead ag c.w1.toNat 64 = (s2, .ok w) → w < 2 ^ 64 → (if c.a = 1 then w = c.w2.toNat else c.a = 0 ∧ c.w2.toNat ≤ w) → fin s2) ∧
      (c.op = 5 → s1.gangTriggered (nth 0 x.accepted c.a) = true → fin s1) ∧
      (∀ code, c.op = 1 → s1.submits.find? (fun u => u.fromSid == none && u.die == die && u.stream == n) = some u → u.status = some code →
        (s1.mayWrite ag u.statusAddr = (s2, .wait) → exec (.streamCommandComplete die n) s = .next s2) ∧
        (s1.mayWrite ag u.statusAddr = (s2, .ok ps) →
          let s' := (({ s2 with submits := s2.submits.erase u } : State).writePieces ag none 0 true code false ps).1
          (code = 0 → u.gang = some g → s'.check ag Want.store ((x.ctl.toNat + 192) % 2 ^ 64) 64 = (s3, .ok qs) → exec (.streamCommandComplete die n) s =
            .next ((s3.writePieces ag none 0 true ((read + 1) % 2 ^ 64) false qs).1.setStream die n { x with cmd := none, accepted := g :: x.accepted })) ∧
          (code ≠ 0 → s'.check ag Want.store ((x.ctl.toNat + 256) % 2 ^ 64) 64 = (s3, .ok qs) →
            exec (.streamCommandComplete die n) s = .next (put s3 (1 + 2 * 2 ^ 8 + code * 2 ^ 16)))))) ∧
    (s.cpRead ag x.ctl.toNat 512 = (s1, .ok v) → v / 2 ^ 256 % 4 = 0 → c.op = 3 → c.w3 ≠ 0 → c.w3.toNat ≤ s.cmdCycles die c → s1.check ag Want.store ((x.ctl.toNat + 256) % 2 ^ 64) 64 = (s3, .ok qs) →
      exec (.streamWaitvTimeout die n) s = .next (put s3 (1 + 3 * 2 ^ 8)))

/-- HOST COMMANDS (R83, R196, R332, R333, R334, R337): before bring-up a command is answered 2; after it, one whose fields are legal and name nothing another function locks does its work and is answered 0: registrations, the context map, a context's state, domains, a region pinned or unpinned; one with an
illegal field is answered 1, and one whose object is in use 2. A pin of a region that the device owns, or that a transfer runs for, waits for the transfer toward the host, which it joins or starts (R335). The model's choices: that 1 comes before 2, which fields are illegal in a domain or region, that an unpin of a
region not pinned is answered 0 and that a domain is enabled and disabled without more (log entry 33); that a stream registered anew forgets a LAUNCH without an answer (log entry 32); that a copy of a moving group goes on later in a context that is resumed (log entry 37). -/
def Sys2Proof.Spec.HostCommands : Prop :=
  ∀ (s : State) (fn asid num die ctx dom base n : Nat) (desc : Word) (run clear : Bool) (pc : Nat), fn < 64 → s.hostBusy fn = false →
    let answers := fun (i : Instr) (t : State) (code : Nat) => exec i s = .next { t with mailbox := Sparse.put t.mailbox fn (code :: Sparse.get [] t.mailbox fn) }
    let reg := Instr.registerAddressSpace fn asid desc
    let str := Instr.registerStream fn die n desc asid
    let map := Instr.mapCopyContext fn asid num die ctx
    let set := Instr.setContextState fn die ctx run clear
    let pin := Instr.pinOwnershipRegion fn dom base
    let unpin := Instr.unpinOwnershipRegion fn dom base
    let region := base / 2 ^ 24
    let legal := base % 2 ^ 24 = 0 ∧ 2 ^ 64 ≤ base ∧ base < 3 * 2 ^ 64
    (s.booted = false → ∀ i ∈ [reg, str, map, set, pin, unpin, .enableOwnershipDomain fn dom, .disableOwnershipDomain fn dom], answers i s 2) ∧
    (s.booted = true →
      (asid < 4096 → s.spaceLocked fn asid = false →
        (s.spaceInUse asid = true → answers reg s 2) ∧
        (s.spaceInUse asid = false → s.descOk desc = true → answers reg { s with spaces := Sparse.put s.spaces asid { desc := desc, fn := fn } } 0) ∧
        (die < 16 → n < 64 → desc.toNat % 64 = 0 → s.streamLocked fn die n = false →
          (s.streamInUse die n = true → answers str s 2) ∧
          (s.streamInUse die n = false → answers str (({ s with submits := s.submits.filter fun u => !(u.fromSid == none && u.die == die && u.stream == n) } : State).modDie die fun d =>
            { d with streams := Sparse.put d.streams n { ctl := desc, asid := asid, fn := fn } }) 0)) ∧
        (num < 128 → die < 16 → ctx < 128 → s.ctxLocked fn die ctx = false → answers map { s with ctxMap := Sparse.put s.ctxMap (128 * asid + num) (128 * die + ctx) } 0)) ∧
      (4096 ≤ asid ∨ s.spaceLocked fn asid = true → answers reg s 1 ∧ answers str s 1 ∧ answers map s 1) ∧
      (pc = 128 * die + ctx → die < 16 → ctx < 128 → s.ctxLocked fn die ctx = false → ∃ t, exec set s = .next t ∧ (t.copyCtx pc).stopped = !run ∧
        (t.copyCtx pc).ops = ((s.copyCtx pc).ops.map fun o => if run = true ∧ (s.copyCtx pc).stopped = true ∧ s.groupMoves o.group = true then { o with later := true } else o) ∧
        (t.copyCtx pc).timeline = (s.copyCtx pc).timeline ∧ (run = true → (t.copyCtx pc).err.testBit 24 = false) ∧
        (clear = true → (t.copyCtx pc).err % 2 ^ 24 = 0 ∧ (t.copyCtx pc).err / 2 ^ 32 % 2 ^ 32 = 0) ∧ (run = false → clear = false → (t.copyCtx pc).err = (s.copyCtx pc).err)) ∧
      (16 ≤ die ∨ 128 ≤ ctx → answers set s 1) ∧
      (0 < dom → dom < 65536 →
        answers (.enableOwnershipDomain fn dom) { s with domains := insertNat s.domains dom } 0 ∧
        answers (.disableOwnershipDomain fn dom) { s with domains := s.domains.filter (· != dom) } 0 ∧
        (legal →
          (s.owner region ≠ .dev → s.transferring region = false → answers pin { s with owners := Sparse.put s.owners region .pinned } 0) ∧
          (s.owner region = .dev ∨ s.transferring region = true →
            ((∀ t ∈ s.transfers, t.region = region → t.failed = false → t.flipped = false → t.toDev = true) →
              exec pin s = .next { s with transfers := s.transfers ++ [{ region := region, toDev := false, pins := [fn], since := s.now, dom := dom }] }) ∧
            (∀ (x : Transfer) (ts us : List Transfer), s.transfers = ts ++ x :: us → x.region = region → x.failed = false → x.flipped = false → x.toDev = false →
              (∀ t ∈ ts ++ us, ¬ (t.region = region ∧ t.failed = false ∧ t.flipped = false ∧ t.toDev = false)) →
              exec pin s = .next { s with transfers := ts ++ { x with pins := x.pins ++ [fn] } :: us })) ∧
          (s.owner region = .pinned → answers unpin { s with owners := Sparse.put s.owners region .host } 0) ∧
          (s.owner region ≠ .pinned → answers unpin s 0))) ∧
      (¬ legal → answers pin s 1 ∧ answers unpin s 1) ∧
      (dom = 0 ∨ 65536 ≤ dom → answers (.enableOwnershipDomain fn dom) s 1 ∧ answers (.disableOwnershipDomain fn dom) s 1 ∧ answers pin s 1 ∧ answers unpin s 1))

/-- A STREAM'S STATE SET BY SOFTWARE (R61, R332): the state bits of its control block are written, the rest of that word kept (the model's choice, log entry 32); one that leaves the error or stopped state for running forgets its command, a LAUNCH without an answer among them, so that the record at read executes again; a LAUNCH that has its answer
has executed, and completes. A command that must wait for an ownership transfer of the block's words comes again, and the function's later commands wait for it. -/
def Sys2Proof.Spec.StreamStates : Prop :=
  ∀ (s s1 s2 : State) (fn die n v : Nat) (st : BitVec 2) (x : Stream) (ps : List Piece), fn < 64 → s.stream? die n = some x → s.streamLocked fn die n = false →
    let cmd := HostCmd.streamState die n st
    (s.hostBusy fn = false ∧ s.booted = true) ∨ s.hostCmd? fn = some cmd →
    let ag := cpAgent die x.asid false
    st ≠ 3 → x.ctl.toNat % 64 = 0 →
    (s.cpRead ag x.ctl.toNat 512 = (s1, .wait) → ∃ t, exec (.setStreamState fn die n st) s = .next t ∧ t = { s1 with hostCmds := t.hostCmds } ∧ t.hostCmd? fn = some cmd ∧ t.hostBusy fn = true) ∧
    (s.cpRead ag x.ctl.toNat 512 = (s1, .ok v) → s1.check ag Want.store ((x.ctl.toNat + 256) % 2 ^ 64) 64 = (s2, .ok ps) →
    ∃ t w, exec (.setStreamState fn die n st) s = .next t ∧ w % 4 = st.toNat ∧ w / 4 = v / 2 ^ 256 % 2 ^ 64 / 4 ∧ t.mem = (s2.writePieces ag none 0 true w false ps).1.mem ∧
      (Sparse.get [] t.mailbox fn).head? = some 0 ∧ t.hostCmd? fn = none ∧
      (let mine := fun (u : Submit) => u.fromSid = none ∧ u.die = die ∧ u.stream = n
       (st ≠ 0 ∨ v / 2 ^ 256 % 4 = 0 ∨ (∃ u ∈ s2.submits, mine u ∧ u.status ≠ none) → t.stream? die n = some x ∧ t.submits = s2.submits) ∧
       (st = 0 → v / 2 ^ 256 % 4 ≠ 0 → (∀ u ∈ s2.submits, mine u → u.status = none) → t.stream? die n = some { x with cmd := none } ∧
        t.submits = s2.submits.filter fun u => !(u.fromSid == none && u.die == die && u.stream == n))))

/-- SUPERVISOR STRANDS COME AND GO (R333, R354): one is placed in a free context of a built core, not withdrawn, on a die that is not in reset, whose code object its die's kind matches: running at S level at the entry, its argument in x8, its minimum shares, share 128; where its descriptor's words lie in a region on its way to the package, the command waits and comes again; and it is removed at once
where no strand of the core is held, else once none is, its context free and no cause recorded; a command that does not name its context and address space, or may not name that space (R337), is answered 1. With one already on the core the command to place one is answered 2. -/
def Sys2Proof.Spec.Supervisors : Prop :=
  ∀ (s s1 : State) (p : SupPlace) (fn : Nat) (r : SupRemove) (v q : Nat) (d : Desc), fn = p.fn → p.fn < 64 →
    let sid := sidOf p.core p.ctx
    let status := fun (t : State) (fn code : Nat) => (Sparse.get [] t.mailbox fn).head? = some code
    let free := s.hostBusy fn = false ∧ s.booted = true
    (free ∨ s.hostCmd? fn = some (.place p) → coreBuilt p.core = true → p.ctx < 8 → p.asid < 4096 → s.spaceLocked p.fn p.asid = false → (s.core p.core).withdrawn = false → (s.die (dieOf p.core)).inReset = false → p.desc.toNat % 64 = 0 →
      (s.cpRead (cpAgent (dieOf p.core) p.asid true) p.desc.toNat 256 = (s1, .wait) → ∃ t, exec (.placeSupervisorStrand p) s = .next t ∧ t = { s1 with hostCmds := t.hostCmds } ∧
        t.hostCmd? fn = some (.place p) ∧ t.hostBusy fn = true) ∧
      (s.cpRead (cpAgent (dieOf p.core) p.asid true) p.desc.toNat 256 = (s1, .ok v) → descOf v = some d →
      kindMatches (Config.isMarl (dieOf p.core)) d.profiles d.minors = true →
      ((s1.strand sid).phase = .free → s1.supOf p.core = none → d.shares ≤ s1.freeShares p.core → (∀ c ∈ coreSids p.core, (s1.strand c).hold = none) →
        ∃ t, exec (.placeSupervisorStrand p) s = .next t ∧ status t p.fn 0 ∧ (t.core p.core).supFn = p.fn ∧ t.strand sid = ({
          phase := .running, sup := true, asid := p.asid, pc := p.desc + BitVec.ofNat 64 d.entry, g := d.shares, held := d.shares, lpart := d.shares, share := 128
          grace := (s1.strand sid).grace } : Strand).setX 8 { w := p.arg }) ∧
      (s1.supOf p.core = some q → ∃ t, exec (.placeSupervisorStrand p) s = .next t ∧ status t p.fn 2 ∧ t.strands = s1.strands))) ∧
    (let u := s.strand (sidOf r.core r.ctx)
     let mine := s.supOf r.core = some (sidOf r.core r.ctx) ∧ r.ctx < 8 ∧ u.asid = r.asid ∧ s.spaceLocked fn r.asid = false
     free → s.removals = [] →
      (¬ mine → exec (.removeSupervisorStrand fn r) s = .next { s with mailbox := Sparse.put s.mailbox fn (1 :: Sparse.get [] s.mailbox fn) }) ∧
      (mine → (∃ c ∈ coreSids r.core, (s.strand c).hold.isSome = true) → exec (.removeSupervisorStrand fn r) s = .next { s with removals := [(r.core, fn)] }) ∧
      (mine → (∀ c ∈ coreSids r.core, (s.strand c).hold = none) → ∃ t, exec (.removeSupervisorStrand fn r) s = .next t ∧ status t fn 0 ∧
        (t.strand (sidOf r.core r.ctx)).phase = .free ∧ (t.strand (sidOf r.core r.ctx)).sup = false ∧ (t.core r.core).supEnd = (s.core r.core).supEnd ∧ t.supEnds = s.supEnds))

/-- TDISP (R337): a virtual function goes from unlocked to locked, from locked to run, and from any state to unlocked, and nowhere else; an error puts it in the error state and kills the gangs of its address spaces. That ERROR and RUN may become unlocked is the model's choice (log entry 7). -/
def Sys2Proof.Spec.TdispMoves : Prop :=
  ∀ (s : State) (fn : Nat) (goal : Tdisp), 1 ≤ fn → fn < 64 →
    let old := Sparse.get .unlocked s.vfs fn
    let legal := goal = .unlocked ∨ (old = .unlocked ∧ goal = .locked) ∨ (old = .locked ∧ goal = .run)
    (legal → exec (.tdispStateRequest fn goal) s = .next { s with vfs := Sparse.put s.vfs fn goal }) ∧ (¬ legal → exec (.tdispStateRequest fn goal) s = .next s) ∧
    (∃ t, exec (.tdispErrorTransition fn) s = .next t ∧ t.vfs = Sparse.put s.vfs fn .error ∧
      ((∀ x ∈ s.spaces, x.2.fn ≠ fn) → t = { s with vfs := t.vfs }))

/-- OWNERSHIP TRANSFERS (R274, R334, R335, R336): a transfer that completes has the line caches' copies of the region written back and dropped, gives the region its new owner, PINNED where pins waited for it, whose commands are then answered 0, and breaks the region's link tags (R109); one toward the device whose domain is no longer enabled, or that is not complete after 2^20
cycles of the core that asked for it, fails, at its completion as at its limit: the owner stays, and who joined it is told. An access that a transfer toward the device held proceeds before one the other way begins. That those are cycles of the asking core, that a command processor's and a stream's copy's count by the timing core of the die, and that copies and tags are dropped in both directions is the model's
reading (log entry 36). -/
def Sys2Proof.Spec.TransfersEnd : Prop :=
  ∀ (s : State) (x : Transfer) (region fn : Nat), s.transfers.find? (fun t => t.region == region && s.runs t) = some x →
    let cycles := x.base + ((match x.core with
      | some k => s.coreCycle k
      | none => s.now) - x.since)
    let failed := ({ s with transfers := if x.joined = [] then s.transfers.erase x else s.transfers.map fun t => if t = x then { t with failed := true } else t } : State)
    (x.toDev = false ∨ hasNat s.domains x.dom = true ∧ cycles < 2 ^ 20 → ∃ t, exec (.ownershipTransferComplete region) s = .next t ∧
      t.owner region = (if x.toDev then .dev else if x.pins ≠ [] then .pinned else .host) ∧
      t.transfers = (if x.toDev = true ∧ x.joined ≠ [] then s.transfers.map fun t => if t = x then { x with flipped := true } else t else s.transfers.erase x) ∧ (∀ y ∈ t.tags, y.1 / 32768 ≠ region) ∧
      t.strands = s.strands ∧ t.mem = (s.regionBack region).mem ∧ (x.pins = [] → t.mailbox = s.mailbox) ∧
      (fn ∈ x.pins → (Sparse.get [] t.mailbox fn).head? = some 0)) ∧
    (x.toDev = true → hasNat s.domains x.dom = false → exec (.ownershipTransferComplete region) s = .next failed) ∧
    (x.toDev = true → 2 ^ 20 ≤ cycles → exec (.ownershipTransferComplete region) s = .next failed ∧ exec (.ownershipTransferTimeout region) s = .next failed) ∧
    (x.toDev = true → cycles < 2 ^ 20 → exec (.ownershipTransferTimeout region) s = .next s) ∧
    (∀ y ∈ s.transfers, ∀ z ∈ s.transfers, ∀ sid ∈ y.joined, y.region = region → y.flipped = true → sid < 2 ^ 20 → (s.strand sid).phase = .running → (s.strand sid).hold = none →
      z.region = region → z.toDev = false → s.runs z = false)

/-- THE HOST'S ACCESSES (R109, R189, R195, R274, R289, R335): the host reads, and writes, bytes of one line at their home: of Kaolin, or of host or CXL memory that the device does not own; a region that the device owns starts its transfer toward the host instead. A write breaks every link tag on its line. A read within
one word, or of a whole line, is one; another reads its words one turn each, as they then stand, and prints the value once all are read. The debugger's window counts bytes from the base of the range that holds a gang's argument, through that range's translation. The order of the words is a free value (log entries 2 and
36). -/
def Sys2Proof.Spec.HostAccesses : Prop :=
  ∀ (s : State) (byte n gang k : Nat) (v : BitVec 512), 0 < n → byte % 64 + n ≤ 64 →
    let fa := 8 * byte
    let home := fa < 2 ^ 64 ∧ kaolinOk s fa = true ∨ 2 ^ 64 ≤ fa ∧ fa < 3 * 2 ^ 64 ∧ s.transferring (fa / 2 ^ 24) = false ∧ s.owner (fa / 2 ^ 24) ≠ .dev
    let reads := fun (i : Instr) => ∃ p, exec i s = .next { s with views := s.views ++ [{ what := "hostread", words := [s.home fa (8 * n), p] }] } ∧ p ≤ 1
    let writes := fun (i : Instr) => ∃ t, exec i s = .next t ∧ t.strands = s.strands ∧ t.cores = s.cores ∧ (∀ kind sid, t.tagged kind (fa / 512) sid = false) ∧
      (Mem.wf s.mem = true → ∀ j, t.home (8 * j) 8 = if byte ≤ j ∧ j < byte + n then v.toNat / 2 ^ (8 * (j - byte)) % 2 ^ 8 else s.home (8 * j) 8)
    let whole := byte / 8 = (byte + n - 1) / 8 ∨ byte % 64 = 0 ∧ n = 64
    let begun := fun (r : HostRd) => (s.hostReads.find? (fun r => r.byte == byte && r.n == n)).getD
      { byte := byte, n := n, left := (List.range ((byte % 8 + n + 7) / 8)).map (· + byte / 8) } = r ∧ r.left ≠ []
    let some1 := fun (i : Instr) => ∀ r, begun r → ∃ t w, exec i s = .next t ∧ w ∈ r.left ∧ t.mem = s.mem ∧ t.strands = s.strands ∧ t.cores = s.cores ∧
      let lo := max byte (8 * w)
      let val := r.val ||| s.home (8 * lo) (8 * (min (byte + n) (8 * w + 8) - lo)) * 2 ^ (8 * (lo - byte))
      let mine := t.hostReads.filter fun r => r.byte == byte && r.n == n
      (r.left.erase w ≠ [] → t.views = s.views ∧ ∃ q, mine = [q] ∧ q.left = r.left.erase w ∧ q.val = val) ∧
      (r.left.erase w = [] → mine = [] ∧ ∃ p, t.views = s.views ++ [{ what := "hostread", words := [val, p] }] ∧ p ≤ 1)
    (home → writes (.hostWrite byte n v) ∧ (whole → reads (.hostRead byte n)) ∧ (¬ whole → some1 (.hostRead byte n)) ∧
      (s.argByte gang k n = some byte → writes (.hostwr gang k n v) ∧ (whole → reads (.hostrd gang k n)) ∧ (¬ whole → some1 (.hostrd gang k n)))) ∧
    (s.argByte gang k n = none → exec (.hostrd gang k n) s = .next s ∧ exec (.hostwr gang k n v) s = .next s) ∧
    (2 ^ 64 ≤ fa → fa < 3 * 2 ^ 64 → s.owner (fa / 2 ^ 24) = .dev → ∀ i ∈ [.hostRead byte n, .hostWrite byte n v],
      let open' := ∃ t ∈ s.transfers, t.region = fa / 2 ^ 24 ∧ t.failed = false ∧ t.flipped = false
      (open' → exec i s = .next s) ∧ (¬ open' → exec i s = .next { s with transfers := s.transfers ++ [{ region := fa / 2 ^ 24, toDev := false, since := s.now }] }))

/-- LINES BY THEMSELVES (R91, R92, R93, R189, R267): a line of a core's cache that is written back puts exactly its dirty bits at the home, whether it stays, clean, or is evicted, and only dirty bits of the core's other lines come home with it, those that share a class (R264: the model's reading, log entry 11); a fetch cache without a line takes it as it is at its home, with its poison; code that the loader accepts is recorded, and one it
cannot read or whose descriptor is not well formed it refuses. -/
def Sys2Proof.Spec.LinesMove : Prop :=
  ∀ (s s1 : State) (core line asid len v : Nat) (desc : Word) (l : CLine), coreBuilt core = true → Mem.wf s.mem = true →
    let c := s.core core
    let line? := fun (t : State) => Sparse.get none ((t.core core).lines.map fun p => (p.1, some p.2)) line
    let moved := fun (t : State) => (∀ j, j < 512 → (t.home (512 * line) 512).testBit j = if l.dirty.testBit j then l.data.testBit j else (s.home (512 * line) 512).testBit j) ∧
      (∀ k, t.home (8 * k) 8 = s.home (8 * k) 8 ∨ t.home (8 * k) 8 = stored s core k) ∧ (∀ k, stored t core k = stored s core k) ∧ t.strands = s.strands ∧ ∀ k, k ≠ core → t.core k = s.core k
    (line? s = some l → l.dirty < 2 ^ 512 →
      (∃ t, exec (.lineEviction core line) s = .next t ∧ moved t ∧ line? t = none) ∧
      (l.dirty = 0 → exec (.storePerformedAtHome core line) s = .next s) ∧
      (l.dirty ≠ 0 → ∃ t, exec (.storePerformedAtHome core line) s = .next t ∧ moved t ∧ line? t = some { l with dirty := 0, wpois := false })) ∧
    (Sparse.get none (c.fetch.map fun p => (p.1, some p.2)) line = none → 2 ^ 64 ≤ 512 * line ∨ kaolinOk s (512 * line) = true →
      exec (.fetchFill core line) s = .next (s.setCore core { c with fetch := Sparse.put c.fetch line { data := s.home (line * 512) 512, pois := hasNat s.poison line } })) ∧
    (let ag := cpAgent 0 asid true
     (s.cpRead ag desc.toNat 256 = (s1, .ok v) → desc.toNat % 64 = 0 →
       (∀ d, descOf v = some d → d.loadable = true → ∃ t, exec (.codeObjectLoad asid desc len) s = .next t ∧ t.objects = (asid, desc, len) :: s1.objects ∧ t.mem = s1.mem ∧
         t.views = s1.views ++ [{ what := "load", words := [0] }]) ∧
       (descOf v = none → exec (.codeObjectLoad asid desc len) s = .next { s1 with views := s1.views ++ [{ what := "load", words := [1] }] })))

/-- STREAM COMMANDS (R58 to R61, R332). -/
def Obligations.Streams : Prop := Sys2Proof.Spec.StreamsBegin ∧ Sys2Proof.Spec.StreamsEnd ∧ Sys2Proof.Spec.StreamStates

/-- COMMANDS OF THE HOST (R196, R332 to R334, R337). -/
def Obligations.HostMailbox : Prop := Sys2Proof.Spec.HostCommands ∧ Sys2Proof.Spec.Supervisors ∧ Sys2Proof.Spec.TdispMoves

/-- OWNERSHIP TRANSFERS, HOST ACCESSES AND LINES OF CACHES (R189, R274, R331, R335, R336). -/
def Obligations.HostAndLines : Prop := Sys2Proof.Spec.TransfersEnd ∧ Sys2Proof.Spec.HostAccesses ∧ Sys2Proof.Spec.LinesMove

/-! ### The debugger, bring-up and errors of the part -/

/-- THE DEBUGGER (R262, R291, R302, R323, R325): a breakpoint is set at a line, for a group or any, and deleted; the whole core of a strand, the supervisor's among them, halts in the step in which its scalar side comes to such an instruction, or its vector side to such a convoy, the one before it gone behind, and a step in which none does halts none; continue
lets a core go on; break migrate and break resume are switched; the pre-emption of a halted core's strand sets its request, from now, with its grace window. That a jump from a line to itself reaches it no second time, and the event that halts the core of a group with a strand that stands at a breakpoint's line already, are the model's choice (log
entry 45), as is that a pre-emption so set drops one that is held (log entry 46). -/
def Sys2Proof.Spec.DebugControl : Prop :=
  ∀ (s : State) (core sid n : Nat) (gw : BitVec 32) (k : Option Nat) (a : Word) (g : Group) (on : Bool),
    (∀ (t : Turn) (rest : List Turn) (u : State), s.agenda = t :: rest → turn (({ s with agenda := rest, pick := t.nth } : State).tick t.dt) t.who = .next u →
      ((∀ p ∈ u.strands, ∀ b ∈ u.breaks, p.2.pc ≠ b.2 ∧ p.2.forward.vpc ≠ b.2) → step s = .next u) ∧
      (∀ x, (sid, x) ∈ u.strands → (k, a) ∈ u.breaks → k = none ∨ k = x.group → x.phase = .running → x.hold = none →
        (x.pc = a ∧ (s.strand sid).pc ≠ a) ∨ (x.forward.vpc = a ∧ x.forward.blk.isSome = true ∧ x.forward.conv = none ∧ x.stopped = false ∧ (s.strand sid).forward.vpc ≠ a) →
        ∃ v, step s = .next v ∧ (v.core (coreOf sid)).halted = true ∧ v.strands = u.strands ∧ v.mem = u.mem)) ∧
    exec (.breakpoint (.set k a)) s = .next { s with breaks := if (k, a) ∈ s.breaks then s.breaks else s.breaks ++ [(k, a)] } ∧
    exec (.breakpoint (.delete k a)) s = .next { s with breaks := s.breaks.erase (k, a) } ∧
    exec (.breakpoint (.migrate on)) s = .next { s with brkMigrate := on } ∧ exec (.breakpoint (.resume on)) s = .next { s with brkResume := on } ∧
    (s.group? n = some g →
      let at_ := fun (sid : Nat) => let t := s.strand sid; t.phase = .running ∧ ((t.hold = none ∧ t.pc = a) ∨ (t.forward.blk.isSome = true ∧ t.forward.conv = none ∧ t.forward.vpc = a))
      let here := g.phase = .placed ∧ (∃ sid ∈ g.all, at_ sid) ∧ ((some n, a) ∈ s.breaks ∨ (none, a) ∈ s.breaks)
      (here → exec (.breakpoint (.reach n a)) s = .next (s.setCore g.core { s.core g.core with halted := true })) ∧ (¬ here → exec (.breakpoint (.reach n a)) s = .next s)) ∧
    (coreBuilt core = true → exec (.fyvContinue core) s = .next (s.setCore core { s.core core with halted := false })) ∧
    (let t := s.strand sid
     (s.core (coreOf sid)).halted = true → t.phase = .running → exec (.fyvPreempt sid gw) s = .next (s.setStrand sid
       { t with grace := gw.toNat, preq := true, heldPre := none, reqAt := s.coreCycle (coreOf sid) }))

/-- VIEWS (R196, R290, R292, R293, R318, R324, R325): each view of the debugger prints what it shows and changes nothing else: a strand's pc, whether it is parked or held, vpc, that of the next convoy to issue, its vector CSRs as the last convoy to retire left them, and its trap state; a convoy's address, strips, slot and words, and for its destination the physical registers, old contents and the elements written so far, in groups of one width; a save area's words; a CSR of each strand of a group, as saved where the group is off every core; the logged
reductions of an area, unit by unit; a copy context's numbers, and an operation's issuing core and the cores of its destinations delivered, one in a peer's memory by the peer's coreid; a VAMO's round, and the elements valid of the register it has reserved from its issue on; the link tags of a line, the broken ones among them; a register with its poison and valid bits; a migration record; a translation. The form in which a view is kept, a physical
register's number, a free value, and what names host memory where a core is named are the model's choice (log entry 41). -/
def Sys2Proof.Spec.Views : Prop :=
  ∀ (s : State) (sid asid n reg bits fa h pc : Nat) (a : Word) (c12 : BitVec 12) (g : Group) (q : RredRec),
    let shows := fun (i : Instr) (what : String) (l : List Nat) => exec i s = .next { s with views := s.views ++ [{ what := what, words := l }] }
    let t := s.strand sid
    let last := match t.past with
      | p :: _ => (p.estart, p.vdirty, p.vstate)
      | [] => (t.estart, t.vdirty, t.vstate)
    let plain := fun (w : PWord) => w.w.toNat + if w.p then 2 ^ 64 else 0
    shows (.fyvView (.strand sid)) "strand" [sid % 16, t.pc.toNat, if t.hold.isSome then 2 else if t.parked then 1 else 0, t.forward.vpc.toNat, t.vl,
        t.ew + t.n2 * 4 + t.g * 32, last.1, last.2.1.toNat, last.2.2, t.lpart, t.share, t.tpc.toNat, t.tcause.toNat, t.taddr.toNat, t.tinfo.toNat, if t.topen then 1 else 0, t.tvec.toNat] ∧
    (let shape := fun (k : Conv) (file : Sparse VReg) (l : List Nat) => ∀ w v, k.words = [w] → (memberOf w).writes = [(0, v)] → ∃ (old new : Nat) (mine : List Wrote),
       l = [k.addr.toNat, k.issued, k.slot, w, 0, v, old, new, (Sparse.get {} k.hist.v v).bits, mine.length] ++ mine.flatMap (fun x =>
         [x.w, x.es.length] ++ x.es.flatMap (fun e => [e, (Sparse.get {} file v).bits / 2 ^ (e * x.w) % 2 ^ x.w])) ∧
       (k.pend = .none → mine = k.wrote.filter fun x => x.slot == 0 && x.file == 0 && x.reg == v) ∧
       (∀ got left, k.wrote = [] → k.slot = 0 → k.pend = .elems got left → ∀ x ∈ mine, ∀ e ∈ x.es, ∀ p ∈ left, p.id ≠ e) ∧
       (∀ left since, k.wrote = [] → k.slot = 0 → k.pend = .vwait left since → ∀ x ∈ mine, ∀ e ∈ x.es, e ∉ left)
     (t.past = [] → ∃ l, shows (.fyvView (.convoy sid)) "convoy" l ∧ (t.conv = none → l = []) ∧ ∀ k, t.conv = some k → t.blk.isSome = true → shape k t.v l) ∧
     (∀ p, t.past = [p] → t.conv = none → ∃ l, shows (.fyvView (.convoy sid)) "convoy" l ∧ shape p.conv p.v l)) ∧
    (∃ l, shows (.fyvView (.area sid a)) "area" l ∧ (s.peekAt sid a.toNat 11264 = none → l = []) ∧
      (s.peekAt sid a.toNat 11264 = some h → ∃ r, l = (List.range 176).map (fun i => h / 2 ^ (64 * i) % 2 ^ 64) ++ r)) ∧
    (s.group? n = some g → g.savedMcs = none →
      (g.phase ≠ .waiting → shows (.fyvView (.csr n c12)) "csr" (c12.toNat :: g.all.flatMap fun sid => [(s.csrGet sid 0x024).w.toNat, plain (s.csrGet sid c12.toNat)])) ∧
      (g.phase = .waiting → g.saved.length ≤ 8 → shows (.fyvView (.csr n 0x010)) "csr" (0x010 :: g.saved.flatMap fun t => [t.idx % 2 ^ 64, t.tpc.toNat])) ∧
      (∀ m, g.phase = .waiting → g.saved.length ≤ 8 → g.savedMx = some m → isLoam g.migSrc = true → shows (.fyvView (.csr n 0x030)) "csr" (0x030 :: g.saved.flatMap fun t => [t.idx % 2 ^ 64, m.mcfg % 2 ^ 64]))) ∧
    (let log := fun (fa : Nat) => if spaceOfPhys fa = 0 then (s.core (coreOfPhys fa)).logK else if spaceOfPhys fa = 1 then (s.core (coreOfPhys fa)).logS else []
     let sel := fun (fa len : Nat) => (log fa).flatMap fun q => if q.dst.any fun d => d < fa + len && fa < d + 32 then [q.cycle, s.coreId q.sender, q.vl, q.mask] ++ q.payload ++ q.scales ++ q.after else []
     let area := Instr.rredlog { sid := sid, addr := a, bits := bits }
     let o := a.toNat % 2 ^ 15
     (o + bits ≤ 2 ^ 15 → (s.debugAddr sid a.toNat = none → shows area "rredlog" []) ∧ (s.debugAddr sid a.toNat = some fa → shows area "rredlog" (sel fa bits))) ∧
     (∀ fb m, o + bits = 2 ^ 15 + m → 0 < m → m ≤ 2 ^ 15 → s.debugAddr sid a.toNat = some fa → s.debugAddr sid ((a.toNat + (2 ^ 15 - o)) % 2 ^ 64) = some fb → unitOf fa ≠ unitOf fb →
       shows area "rredlog" (sel fa (2 ^ 15 - o) ++ sel fb m))) ∧
    (∃ l, shows (.ctx asid n) "ctx" l ∧ (s.physCtx asid n = none → l = []) ∧
      (s.physCtx asid n = some pc → let c := s.copyCtx pc; ∃ r, l = [pc, if c.stopped then 2 else if c.issue = 0 then 0 else 1, c.issue, c.timeline, c.err] ++ r ∧ (c.ops = [] → r = []) ∧
        (∀ o d x, c.ops = [o] → o.dests.filter (·.done) = [d] →
          (s.xlate { core := o.core.getD 0, onCore := false, asid := o.asid, sup := true } { peer := true, far := true } d.addr.toNat).2 = .ok x → x.fa < 2 ^ 64 →
          let k := coreOfPhys x.fa
          r = [o.num, (o.core.map s.coreId).getD 0, 1, if spaceOfPhys x.fa = 2 then k % 64 + dieOf k * 2 ^ 6 + peerOf x.fa * 2 ^ 10 else s.coreId k]))) ∧
    (∃ l, shows (.vamoView (.vamo sid)) "vamo" l ∧ (t.convs = [] → l = []) ∧ (∀ k round left sent came, t.convs = [k] → k.pend = .vamo round left sent came → ∃ whole : Nat → Nat,
      l = [round, left.length, sent.length] ++ left ++ sent.flatMap (fun e => [e, if e ∈ came then 1 else 0, whole e]) ∧
      ∀ e p, p ∈ Sparse.get [] k.probes k.slot → p.id = e → (∀ q ∈ Sparse.get [] k.probes k.slot, q.id = e → q = p) → (whole e = 1 ↔ ∀ h ∈ p.lines, s.tagged amoTag h sid = true) ∧ whole e ≤ 1)) ∧
    (let on := fun (l : List (Nat × Nat × Nat)) (whole : Nat) => (l.filter fun x => x.1 == fa / 512).flatMap fun x => [s.coreId (coreOf x.2.1), x.2.1 % 16, x.2.2, whole]
     s.debugAddr sid a.toNat = some fa → shows (.vamoView (.tags sid a)) "tags" (fa % 2 ^ 64 / 512 * 512 :: (on s.tags 1 ++ on s.broken 0))) ∧
    (∃ r, shows (.vamoView (.v sid reg)) "v" ([reg, (Sparse.get {} t.v reg).bits, (Sparse.get {} t.v reg).pois] ++ r) ∧ (t.convs = [] → r = 0 :: List.range t.vl) ∧
      ∀ k b w op f, t.past = [] → t.conv = some k → t.blk = some b → k.words = [w] → memberOf w = .vm op f → 0x342 ≤ op → op ≤ 0x349 → f.vd.toNat = reg → k.slot = 0 →
        r = 1 :: if k.pend = .none then (List.range b.vl).filter (fun e => !(t.env b k).active f.mask f.me e) else k.valid) ∧
    (s.group? n = some g → 0 < g.migCost → ∃ l, shows (.mrec n) "mrec" l ∧ ∀ i, i < l.length → nth 0 l i = s.home (migAddrOf (g.migSrc * 2 ^ 26 + 64 * i)) 64) ∧
    (let r := (s.xlate { s.agentOf sid with sup := true } { peer := true, far := true } a.toNat).2
     (∀ x, r = .ok x → shows (.xlate sid a) "xlate" [a.toNat, x.fa % 2 ^ 64]) ∧ (∀ e, r = .error e → shows (.xlate sid a) "xlate" [a.toNat]))

/-- BRING-UP (R24, R25, R26, R338, R352, R353): with choices firmware may make, power-good takes every die out of reset, its cycles at 0, withdraws the cores that failed, records how many cores of each die passed, fixes the migration base and the package index, and measures the die firmware (blocks 1 to 21) and the package list (block 22), by SHA-384 as FIPS 180-4 gives it (log entry 41); on a package
already up it does nothing. Where the lists stand is the model's choice (log entry 34). -/
def Sys2Proof.Spec.BringsUp : Prop :=
  ∀ (s : State) (b : BringUp), (s.booted = true → exec (.powerGood b) s = .next s) ∧
    (s.booted = false → bringUpOk b s = true → b.failing.Nodup → ∃ t, exec (.powerGood b) s = .next t ∧ t.booted = true ∧ t.migBase = b.migBase ∧ t.pkg = b.pkgIndex.toNat ∧ t.strands = s.strands ∧
      (∀ i, i < 21 → Sparse.get 0 t.measures (i + 1) = b.firmware.getD i 0) ∧ Sparse.get 0 t.measures 22 = listHash (pkgList (pkgListVa b.capVa.toNat) b.pkgIndex.toNat) ∧
      (∀ d, d < 16 → (t.die d).inReset = false ∧ (t.die d).stopped = false ∧ (t.die d).lag = s.now ∧ (t.die d).capVa = BitVec.ofNat 64 (b.capVa.toNat + d * 2 ^ 15) ∧
        (t.die d).available = ((List.range (Config.built d)).filter fun c => !hasNat b.failing (64 * d + c)).length) ∧
      (∀ k ∈ b.failing, (t.core k).withdrawn = true) ∧ (∀ k, k ∉ b.failing → t.core k = s.core k))

/-- DIES STOP AND RETURN (R351, R352): a thermal shutdown leaves the die stopped and held in reset, and kills each gang with a group there: with no group on it, no strand but its supervisors, and what they hold, changes. Once its groups are torn down a die in reset is released: it issues again, its cycles at 0, no strand on its cores, those that fail the self-test withdrawn and no other, and the package list is written and measured again; each of those gangs' joins reports bit 57. What it keeps is the model's reading (log entry 35), where the lists stand its choice (log entry 34). -/
def Sys2Proof.Spec.DiesStop : Prop :=
  ∀ (s : State) (d : Nat) (failing : List Nat), s.booted = true → d < 16 →
    ((s.die d).inReset = false → ∃ t, exec (.thermalShutdown d) s = .next t ∧ (t.die d).inReset = true ∧ (t.die d).stopped = true ∧
      ((∀ x ∈ s.groups, dieOf x.2.core ≠ d) → t.groups = s.groups ∧ t.gangs = s.gangs ∧ ∀ sid, (s.strand sid).sup = false → t.strand sid = s.strand sid ∨
        ((s.strand sid).hold.isSome = true ∧ dieOf (coreOf sid) = d)) ∧
      (∀ n g, s.group? n = some g → (s.gang? g.gang).isSome = true → dieOf g.core = d → g.phase = .placed → ∃ g', t.group? n = some g' ∧ g'.phase = .ending) ∧
      (∀ n g q, s.group? n = some g → s.gang? g.gang = some q → q.joined = false → dieOf g.core = d → g.phase = .placed ∨ g.phase = .migrating ∨ g.phase = .ending → ∃ q', t.gang? g.gang = some q' ∧ q'.killed = true)) ∧
    ((s.die d).inReset = true → (∀ x ∈ s.groups, dieOf x.2.core ≠ d) → ∃ t, exec (.dieResetRelease { die := d, failing := failing }) s = .next t ∧ (t.die d).inReset = false ∧ (t.die d).stopped = false ∧ (t.die d).lag = s.now ∧
      (∀ c, c < Config.built d → t.core (64 * d + c) = { withdrawn := hasNat failing (64 * d + c) } ∧ ∀ x, x < 9 → (t.strand (16 * (64 * d + c) + x)).phase = .free) ∧
      (∀ k, dieOf k ≠ d → t.core k = s.core k) ∧ (t.die d).available = ((List.range (Config.built d)).filter fun c => !hasNat failing (64 * d + c)).length ∧
      Sparse.get 0 t.measures 22 = listHash (pkgList s.pkgVa.toNat s.pkg) ∧ (Mem.wf s.mem = true → s.pkgPa % 8 = 0 → ∀ i, i < 3 → t.home (s.pkgPa + 128 * i) 128 = nth 0 (pkgList s.pkgVa.toNat s.pkg) i))

/-- SOFT ERRORS (R306, R354): one that is corrected changes nothing but, in a core's memories, that core's count of the last 2^30 cycles, and with more than 64 there its withdrawal is due; in a line, a register's byte, an accumulator column or a macro cell it sets that poison and nothing else; in state that has none the group ends as faulted, POISON_CONTROL (8), and its core's withdrawal is due. -/
def Sys2Proof.Spec.SoftErrors : Prop :=
  ∀ (s : State) (line core sid reg byte row col k c n : Nat) (g : Group) (q : Gang),
    let m := (s.core core).mx
    exec (.softError (.corrected none)) s = .next s ∧
    (coreBuilt core = true → let l := s.coreCycle core :: (s.core core).ecc.filter fun x => s.coreCycle core < x + 2 ^ 30
      exec (.softError (.corrected (some core))) s = .next (s.setCore core { s.core core with ecc := l, due := (s.core core).due || 64 < l.length })) ∧
    (spaceOfPhys (line * 512) = 1 → physOk s (line * 512) = true → ∃ t, exec (.softError (.scratch line)) s = .next t ∧ hasNat t.poison line = true ∧ t = { s with poison := t.poison }) ∧
    (kaolinOk s (line * 512) = true → ∃ t, exec (.kaolinUncorrectableError line) s = .next t ∧ hasNat t.poison line = true ∧ t = { s with poison := t.poison }) ∧
    (coreBuilt core = true → ∃ t, exec (.softError (.cacheLine core line)) s = .next t ∧ t.mem = s.mem ∧ t.strands = s.strands ∧
      ∀ l, (line, l) ∈ (t.core core).lines → l.pois = true) ∧
    ((s.strand sid).phase = .running → reg < 2 ^ (s.strand sid).n2 → byte < regBits (s.strand sid).g (s.strand sid).n2 / 8 → ∃ t, exec (.softError (.vreg sid reg byte)) s = .next t ∧
      (Sparse.get {} (t.strand sid).v reg).pois.testBit byte = true ∧ (Sparse.get {} (t.strand sid).v reg).bits = (Sparse.get {} (s.strand sid).v reg).bits ∧
      t.strand sid = { s.strand sid with v := (t.strand sid).v } ∧ t = { s with strands := t.strands }) ∧
    (coreBuilt core = true → isLoam core = true →
      (row < 64 → col < 512 → ∃ t, exec (.softError (.acc core row col)) s = .next t ∧ ((t.core core).mx.row row).pois.testBit col = true ∧ ((t.core core).mx.row row).bits = (m.row row).bits ∧
        ∀ j, j ≠ row → (t.core core).mx.row j = m.row j) ∧
      (k < m.K → c < m.N → ∃ t, exec (.softError (.macroCell core k c)) s = .next t ∧ (t.core core).mx.bpois.testBit (k * m.N + c) = true ∧ (t.core core).mx.bmat = m.bmat)) ∧
    (s.group? n = some g → s.gang? g.gang = some q → g.phase = .placed → q.firstFault = none → ∃ t, exec (.softError (.noPoison n)) s = .next t ∧
      t.group? n = some { g with phase := .ending, endKind := some (.fault 8), trig := true, savedMcs := g.savedMcs.map fun t => { t with phase := .ended, trig := true } } ∧
      t.gang? g.gang = some { q with firstFault := some (g.gid, 8), faultAt := s.now } ∧ (t.core g.core).due = true)

/-- CORES WITHDRAWN, PEERS CUT OFF (R25, R187, R340, R354): a core whose withdrawal is due, on which a group's state failed, or that no group holds is withdrawn: it leaves placement, its barriers cease to exist, its die has one core fewer, and its groups end, killed, or faulted with POISON_CONTROL (8) where the error is theirs, their windows no longer addressable; a peer is cut off, its packets lost (the model's choice, log entry 30) and the loss noted by copies under way, and reached again. -/
def Sys2Proof.Spec.CoresWithdrawn : Prop :=
  ∀ (s : State) (core peer n : Nat) (faulted : Option Nat) (g : Group),
    (s.booted = true → coreBuilt core = true → (s.core core).withdrawn = false →
      (s.core core).due = true ∨ faulted.isSome = true ∨ (∀ x ∈ s.groups, x.2.core = core → x.2.phase = .waiting ∨ x.2.phase = .retired) → ∃ t, exec (.coreWithdrawal core faulted) s = .next t ∧ (t.core core).withdrawn = true ∧
      (t.core core).cbs = Vector.replicate 8 {} ∧ (t.die (dieOf core)).available = (s.die (dieOf core)).available - 1 ∧ (∀ need, t.eligible need core = false) ∧
      (s.group? n = some g → g.core = core → g.phase = .placed → t.group? n = some { g with
        phase := .ending, endKind := some (if faulted = some n then .fault 8 else .killed), trig := true, savedMcs := g.savedMcs.map fun t => { t with phase := .ended, trig := true } }) ∧
      (∀ (ag : Agent) (want : Want) (a : Nat) (g' : Group), a < 2 ^ 61 → t.capAddr a = none → a < t.migBase.toNat ∨ t.migBase.toNat + 2 ^ 36 ≤ a → t.windowGroup ag a = some g' → g'.core = core →
        g'.phase = .placed ∨ g'.phase = .ending → want.x = false → want.vx = false → (t.xlate ag want a).2 = .error .translate)) ∧
    (peer < 64 → ∃ t, exec (.peerLinkLoss peer) s = .next t ∧ t = { s with peersDown := insertNat s.peersDown peer, packets := s.packets.filter fun p => p.unit != 2 ^ 20 + peer, dies := t.dies } ∧
      ∀ d c, ((Sparse.get {} ((Sparse.get {} t.dies d).ctxs) c).ops) = (Sparse.get {} ((Sparse.get {} s.dies d).ctxs) c).ops.map fun o => if o.started then { o with lost := insertNat o.lost peer } else o) ∧
    exec (.peerLinkReturn peer) s = .next { s with peersDown := s.peersDown.filter (· != peer) }

/-- MEASUREMENT, LINK RATE, AND WORDS THAT ARE NO INSTRUCTION (R49, R331, R338): a signed image is measured in its block, 1 to 21, and no other is; a request prints its block's measurement, if any, or a slot's certificate chain: the part's in slot 0, none in slots 1 to 7 until one is provisioned there (how it is printed is log entry 41); the host link takes the generation it trains to; a word of no
instruction raises ILLEGAL (1). -/
def Sys2Proof.Spec.Measurement : Prop :=
  ∀ (s : State) (block gen slot chain : Nat) (h : BitVec 384),
    (1 ≤ block → block ≤ 21 → exec (.firmwareImageUpdate block h true) s = .next { s with measures := Sparse.put s.measures block h }) ∧
    exec (.firmwareImageUpdate block h false) s = .next s ∧
    (let m := Sparse.get none (s.measures.map fun p => (p.1, some p.2)) block
     exec (.spdmRequest (.measurement block)) s = .next { s with views := s.views ++ [{ what := "spdm", words := block :: (if m = none then [] else [(m.getD 0).toNat]) }] }) ∧
    (let chain? := if slot = 0 then some Config.identityChain else Sparse.get none (s.certs.map fun p => (p.1, some p.2)) slot
     exec (.spdmRequest (.certificate slot)) s = .next { s with views := s.views ++ [{ what := "cert", words := slot :: (if chain? = none then [] else [chain?.getD 0]) }] }) ∧
    exec (.spdmRequest (.provision slot chain)) s = .next (if 1 ≤ slot ∧ slot ≤ 7 then { s with certs := Sparse.put s.certs slot chain } else s) ∧
    (1 ≤ gen → gen ≤ 6 → exec (.hostLinkTraining gen) s = .next { s with linkRate := gen }) ∧
    Raises s .illegalEncoding 1 0

/-- THE DEBUGGER (R262, R289 to R293, R323 to R325). -/
def Obligations.Debugger : Prop := Sys2Proof.Spec.DebugControl ∧ Sys2Proof.Spec.Views

/-- BRING-UP, AND ERRORS OF THE PART (R306, R331, R338, R340, R351 to R354). -/
def Obligations.PartEvents : Prop := Sys2Proof.Spec.BringsUp ∧ Sys2Proof.Spec.DiesStop ∧ Sys2Proof.Spec.SoftErrors ∧ Sys2Proof.Spec.CoresWithdrawn ∧ Sys2Proof.Spec.Measurement
end

