-- ==== Sys2Proof/Laws/Bits.lean ====
section
/-!
SUPPORT. Laws of sparse maps, of sets of numbers and of bit fields.
-/

namespace Sys2Proof

/-- A key reads as it was put. -/
@[simp] theorem Sparse.get_put_same {α : Type} (d : α) (l : Sparse α) (k : Nat) (v : α) : Sparse.get d (Sparse.put l k v) k = v := by
  induction l with
  | nil => simp [Sparse.put, Sparse.get]
  | cons p t ih =>
    obtain ⟨k', v'⟩ := p
    unfold Sparse.put
    split
    · simp [Sparse.get]
    · split
      · simp [Sparse.get]
      · rename_i h
        simp [Sparse.get, h, ih]

/-- Another key reads as before. -/
theorem Sparse.get_put_ne {α : Type} (d : α) (l : Sparse α) (k j : Nat) (v : α) (h : j ≠ k) :
    Sparse.get d (Sparse.put l k v) j = Sparse.get d l j := by
  induction l with
  | nil => simp [Sparse.put, Sparse.get, h]
  | cons p t ih =>
    obtain ⟨k', v'⟩ := p
    unfold Sparse.put
    split
    · simp [Sparse.get, h]
    · split
      · rename_i e
        subst e
        simp [Sparse.get, h]
      · simp [Sparse.get, ih]

/-- A key taken out reads as absent. -/
@[simp] theorem Sparse.get_del_same {α : Type} (d : α) (l : Sparse α) (k : Nat) : Sparse.get d (Sparse.del l k) k = d := by
  induction l with
  | nil => rfl
  | cons p t ih =>
    obtain ⟨k', v'⟩ := p
    unfold Sparse.del
    split
    · exact ih
    · rename_i h
      simp [Sparse.get, h, ih]

/-- Taking a key out leaves the others. -/
theorem Sparse.get_del_ne {α : Type} (d : α) (l : Sparse α) (k j : Nat) (h : j ≠ k) :
    Sparse.get d (Sparse.del l k) j = Sparse.get d l j := by
  induction l with
  | nil => rfl
  | cons p t ih =>
    obtain ⟨k', v'⟩ := p
    unfold Sparse.del
    split
    · rename_i e
      subst e
      simp [Sparse.get, h, ih]
    · simp [Sparse.get, ih]

/-- The second of two puts at one key counts. -/
@[simp] theorem Sparse.put_put {α : Type} (l : Sparse α) (k : Nat) (v w : α) :
    Sparse.put (Sparse.put l k v) k w = Sparse.put l k w := by
  induction l with
  | nil => simp [Sparse.put]
  | cons p t ih =>
    obtain ⟨k', v'⟩ := p
    by_cases h1 : k < k'
    · simp [Sparse.put, h1]
    · by_cases h2 : k = k'
      · simp [Sparse.put, h2]
      · simp [Sparse.put, h1, h2, ih]

/-- A number just inserted is in the set. -/
@[simp] theorem hasNat_insertNat (l : List Nat) (k : Nat) : hasNat (insertNat l k) k = true := by
  induction l with
  | nil => simp [insertNat, hasNat]
  | cons a t ih =>
    unfold insertNat
    split
    · simp [hasNat]
    · split
      · rename_i h
        simp [hasNat, h]
      · have : hasNat (insertNat t k) k = true := ih
        simp only [hasNat, List.any_cons] at this ⊢
        simp [this]

/-- Another number is in the set as before. -/
theorem hasNat_insertNat_ne (l : List Nat) (k j : Nat) (h : j ≠ k) : hasNat (insertNat l k) j = hasNat l j := by
  induction l with
  | nil => simp [insertNat, hasNat, Ne.symm h]
  | cons a t ih =>
    unfold insertNat
    split
    · simp [hasNat, Ne.symm h]
    · split
      · rename_i e
        subst e
        rfl
      · simp only [hasNat, List.any_cons] at ih ⊢
        rw [ih]

/-- A field of len bits is below 2^len. -/
theorem field_lt (w lo len : Nat) : field w lo len < 2 ^ len := Nat.mod_lt _ (Nat.two_pow_pos len)

/-- Bit i of w. -/
theorem bitAt_eq_testBit (w i : Nat) : bitAt w i = w.testBit i := by
  simp [bitAt, Nat.testBit, Nat.shiftRight_eq_div_pow, Nat.and_comm 1]

/-- Field and testBit: bit i of a field. -/
theorem testBit_field (w lo len i : Nat) : (field w lo len).testBit i = (decide (i < len) && w.testBit (lo + i)) := by
  simp [field, Nat.testBit_mod_two_pow, Nat.testBit_div_two_pow, Nat.add_comm]

/-- What putField keeps above, at and below the field. -/
theorem putField_eq (w lo len v : Nat) :
    putField w lo len v = w % 2 ^ lo + 2 ^ lo * (v % 2 ^ len) + 2 ^ (lo + len) * (w / 2 ^ (lo + len)) := by
  have h1 : w = w % 2 ^ lo + 2 ^ lo * (w / 2 ^ lo) := (Nat.mod_add_div w _).symm
  have h2 : w / 2 ^ lo = w / 2 ^ lo % 2 ^ len + 2 ^ len * (w / 2 ^ (lo + len)) := by
    rw [Nat.pow_add, ← Nat.div_div_eq_div_mul]
    exact (Nat.mod_add_div _ _).symm
  have h3 : 2 ^ lo * (w / 2 ^ lo) = 2 ^ lo * (w / 2 ^ lo % 2 ^ len) + 2 ^ (lo + len) * (w / 2 ^ (lo + len)) := by
    conv => lhs; rw [h2]
    rw [Nat.mul_add, Nat.pow_add, Nat.mul_assoc]
  unfold putField field
  rw [Nat.mul_comm (w / 2 ^ lo % 2 ^ len), Nat.mul_comm (v % 2 ^ len)]
  omega

end Sys2Proof
end

