-- ==== Sys2Proof/Laws/Mem.lean ====
section
/-!
SUPPORT. Laws of memory: the canonical form, what a write leaves in each byte, and what a read after it gives.
-/

namespace Sys2Proof.Machine

/-- The canonical form says that addresses rise and that no cell is listed as an empty byte. -/
theorem Mem.wf_iff (m : List Host.Cell) :
    Mem.wf m = true ↔ m.Pairwise (fun c d => c.1 < d.1) ∧ ∀ c ∈ m, c.2 ≠ emptyByte := by
  match m with
  | [] => simp [Mem.wf]
  | [(a, b)] => simp [Mem.wf]
  | (a, b) :: (a', b') :: t =>
    have ih := Mem.wf_iff ((a', b') :: t)
    simp only [Mem.wf, Bool.and_eq_true, bne_iff_ne, ne_eq, decide_eq_true_eq, ih, List.pairwise_cons, List.mem_cons,
      forall_eq_or_imp]
    constructor
    · rintro ⟨⟨hb, ha⟩, ⟨h1, h2⟩, h3, h4⟩
      exact ⟨⟨⟨ha, fun c hc => lt_trans ha (h1 c hc)⟩, h1, h2⟩, hb, h3, h4⟩
    · rintro ⟨⟨⟨ha, _⟩, h1, h2⟩, hb, h3, h4⟩
      exact ⟨⟨hb, ha⟩, ⟨h1, h2⟩, h3, h4⟩

/-- The byte of memory at an address. -/
def Mem.byte (m : List Host.Cell) (k : Nat) : BitVec 8 :=
  match m.find? fun c => c.1 == k with
  | some c => c.2
  | none => emptyByte

theorem Mem.byte_nil (k : Nat) : Mem.byte [] k = emptyByte := rfl

theorem Mem.byte_cons (a : Nat) (b : BitVec 8) (t : List Host.Cell) (k : Nat) :
    Mem.byte ((a, b) :: t) k = if a = k then b else Mem.byte t k := by
  unfold Mem.byte
  by_cases h : a = k <;> simp [h]

/-- A byte below every listed address is empty. -/
theorem Mem.byte_low (m : List Host.Cell) (k : Nat) (h : ∀ c ∈ m, k < c.1) : Mem.byte m k = emptyByte := by
  induction m with
  | nil => rfl
  | cons c t ih =>
    obtain ⟨a, b⟩ := c
    have ha : k < a := h (a, b) (by simp)
    rw [Mem.byte_cons, if_neg (by omega)]
    exact ih fun c hc => h c (by simp [hc])

/-- The cells written for n bytes of v lie between k and k + n, rise, and are not empty. -/
theorem Mem.mem_cells (k n v : Nat) (c : Host.Cell) :
    c ∈ Mem.cells k n v ↔ k ≤ c.1 ∧ c.1 < k + n ∧ c.2 = BitVec.ofNat 8 (v / 2 ^ (8 * (c.1 - k))) ∧ c.2 ≠ emptyByte := by
  unfold Mem.cells
  simp only [List.mem_filterMap, List.mem_range]
  constructor
  · rintro ⟨i, hi, h⟩
    split at h
    · cases h
    · rename_i hne
      cases h
      refine ⟨by simp, by simp only; omega, by simp, hne⟩
  · rintro ⟨h1, h2, h3, h4⟩
    refine ⟨c.1 - k, by omega, ?_⟩
    rw [← h3]
    simp only [h4, ite_false, Option.some.injEq]
    obtain ⟨a, b⟩ := c
    simp only [Prod.mk.injEq, and_true] at *
    omega

theorem Mem.cells_pairwise (k n v : Nat) : (Mem.cells k n v).Pairwise (fun c d => c.1 < d.1) := by
  unfold Mem.cells
  refine List.Pairwise.filterMap _ ?_ List.pairwise_lt_range
  intro i j hij c hc d hd
  simp only at hc hd
  split at hc
  · cases hc
  · split at hd
    · cases hd
    · cases hc; cases hd; simp only; omega

/-- The cells of rising memory below an address, and those from it on. -/
theorem Mem.mem_split (m : List Host.Cell) (q : Nat) (c : Host.Cell) (hp : m.Pairwise (fun c d => c.1 < d.1)) :
    (c ∈ m.takeWhile (fun c => decide (c.1 < q)) ↔ c ∈ m ∧ c.1 < q) ∧
      (c ∈ m.dropWhile (fun c => decide (c.1 < q)) ↔ c ∈ m ∧ q ≤ c.1) := by
  induction m with
  | nil => simp
  | cons d t ih =>
    have ht := (List.pairwise_cons.1 hp).1
    have ih := ih (List.pairwise_cons.1 hp).2
    by_cases hd : d.1 < q
    · simp only [List.takeWhile_cons, List.dropWhile_cons, hd, decide_true, ite_true, List.mem_cons, ih.1, ih.2]
      constructor
      · constructor
        · rintro (rfl | ⟨h1, h2⟩)
          · exact ⟨.inl rfl, hd⟩
          · exact ⟨.inr h1, h2⟩
        · rintro ⟨rfl | h1, h2⟩
          · exact .inl rfl
          · exact .inr ⟨h1, h2⟩
      · constructor
        · rintro ⟨h1, h2⟩
          exact ⟨.inr h1, h2⟩
        · rintro ⟨rfl | h1, h2⟩
          · omega
          · exact ⟨h1, h2⟩
    · simp only [List.takeWhile_cons, List.dropWhile_cons, hd, decide_false, Bool.false_eq_true, ite_false, List.mem_cons,
        List.not_mem_nil, false_iff, not_and, not_lt]
      constructor
      · rintro (rfl | h1)
        · omega
        · have := ht c h1
          omega
      · constructor
        · rintro (rfl | h1)
          · exact ⟨.inl rfl, by omega⟩
          · have := ht c h1
            exact ⟨.inr h1, by omega⟩
        · exact fun h => h.1

/-- A write keeps the canonical form. -/
theorem Mem.wf_writeBytes (m : List Host.Cell) (k n v : Nat) (h : Mem.wf m = true) : Mem.wf (Mem.writeBytes m k n v) = true := by
  rw [Mem.wf_iff] at h ⊢
  obtain ⟨hp, hn⟩ := h
  have hhi : ∀ c ∈ m.dropWhile (fun c => decide (c.1 < k + n)), k + n ≤ c.1 := fun c hc => ((Mem.mem_split m _ c hp).2.1 hc).2
  have hlo : ∀ c ∈ m.takeWhile (fun c => decide (c.1 < k)), c.1 < k := fun c hc => ((Mem.mem_split m _ c hp).1.1 hc).2
  unfold Mem.writeBytes
  constructor
  · rw [List.pairwise_append, List.pairwise_append]
    refine ⟨⟨hp.sublist (List.takeWhile_sublist _), Mem.cells_pairwise k n v, ?_⟩, hp.sublist (List.dropWhile_sublist _), ?_⟩
    · intro c hc d hd
      have := hlo c hc
      have := ((Mem.mem_cells k n v d).1 hd).1
      omega
    · intro c hc d hd
      have hd := hhi d hd
      rcases List.mem_append.1 hc with hc | hc
      · have := hlo c hc
        omega
      · have := ((Mem.mem_cells k n v c).1 hc).2.1
        omega
  · intro c hc
    rcases List.mem_append.1 hc with hc | hc
    · rcases List.mem_append.1 hc with hc | hc
      · exact hn c (List.takeWhile_subset _ hc)
      · exact ((Mem.mem_cells k n v c).1 hc).2.2.2
    · exact hn c (List.dropWhile_subset _ hc)

theorem Mem.wf_writeBits (m : List Host.Cell) (fa w v : Nat) (h : Mem.wf m = true) : Mem.wf (Mem.writeBits m fa w v) = true :=
  Mem.wf_writeBytes m _ _ _ h

theorem Mem.wf_writeMasked (m : List Host.Cell) (fa w v mask : Nat) (h : Mem.wf m = true) :
    Mem.wf (Mem.writeMasked m fa w v mask) = true := Mem.wf_writeBytes m _ _ _ h

/-- A listed byte of rising cells is its cell's. -/
theorem Mem.byte_of_mem (m : List Host.Cell) (hp : m.Pairwise (fun c d => c.1 < d.1)) (c : Host.Cell) (hc : c ∈ m) :
    Mem.byte m c.1 = c.2 := by
  induction m with
  | nil => cases hc
  | cons d t ih =>
    obtain ⟨a, b⟩ := d
    rw [Mem.byte_cons]
    rcases List.mem_cons.1 hc with rfl | hc
    · simp
    · have := (List.pairwise_cons.1 hp).1 c hc
      simp only at this
      rw [if_neg (by omega)]
      exact ih (List.pairwise_cons.1 hp).2 hc

/-- An address with no cell holds an empty byte. -/
theorem Mem.byte_of_not_mem (m : List Host.Cell) (k : Nat) (h : ∀ c ∈ m, c.1 ≠ k) : Mem.byte m k = emptyByte := by
  unfold Mem.byte
  rw [List.find?_eq_none.2 (by simpa using fun a b hc => h (a, b) hc)]

/-- What a write leaves in each byte: its own bytes are v's, every other is as it was. -/
theorem Mem.byte_writeBytes (m : List Host.Cell) (k n v j : Nat) (h : Mem.wf m = true) :
    Mem.byte (Mem.writeBytes m k n v) j =
      if k ≤ j ∧ j < k + n then BitVec.ofNat 8 (v / 2 ^ (8 * (j - k))) else Mem.byte m j := by
  have hw := Mem.wf_writeBytes m k n v h
  rw [Mem.wf_iff] at h hw
  have hmem : ∀ c, c ∈ Mem.writeBytes m k n v ↔ (c ∈ m ∧ (c.1 < k ∨ k + n ≤ c.1)) ∨ c ∈ Mem.cells k n v := by
    intro c
    unfold Mem.writeBytes
    rw [List.mem_append, List.mem_append]
    have hsplit := fun q => Mem.mem_split m q c h.1
    rw [(hsplit k).1, (hsplit (k + n)).2]
    constructor
    · rintro ((h1 | h1) | h1)
      · exact .inl ⟨h1.1, .inl h1.2⟩
      · exact .inr h1
      · exact .inl ⟨h1.1, .inr h1.2⟩
    · rintro (⟨h1, h2 | h2⟩ | h1)
      · exact .inl (.inl ⟨h1, h2⟩)
      · exact .inr ⟨h1, h2⟩
      · exact .inl (.inr h1)
  split
  · rename_i hj
    by_cases hz : BitVec.ofNat 8 (v / 2 ^ (8 * (j - k))) = emptyByte
    · rw [hz]
      refine Mem.byte_of_not_mem _ _ fun c hc e => ?_
      rcases (hmem c).1 hc with ⟨_, h2⟩ | h1
      · omega
      · have := (Mem.mem_cells k n v c).1 h1
        rw [e] at this
        exact this.2.2.2 (this.2.2.1.trans hz)
    · exact Mem.byte_of_mem _ hw.1 (j, BitVec.ofNat 8 (v / 2 ^ (8 * (j - k))))
        ((hmem _).2 (.inr ((Mem.mem_cells k n v _).2 ⟨hj.1, hj.2, rfl, hz⟩)))
  · rename_i hj
    by_cases hl : ∃ c ∈ m, c.1 = j
    · obtain ⟨c, hc, rfl⟩ := hl
      rw [Mem.byte_of_mem m h.1 c hc]
      exact Mem.byte_of_mem _ hw.1 c ((hmem c).2 (.inl ⟨hc, by omega⟩))
    · have hl : ∀ c ∈ m, c.1 ≠ j := fun c hc e => hl ⟨c, hc, e⟩
      rw [Mem.byte_of_not_mem m j hl]
      refine Mem.byte_of_not_mem _ _ fun c hc e => ?_
      rcases (hmem c).1 hc with ⟨h1, _⟩ | h1
      · exact hl c h1 e
      · have := (Mem.mem_cells k n v c).1 h1
        omega

/-- A read of n bytes is the number whose digits they are. -/
theorem Mem.readBytes_succ (m : List Host.Cell) (k n : Nat) (h : Mem.wf m = true) :
    Mem.readBytes m k (n + 1) = (Mem.byte m k).toNat + 2 ^ 8 * Mem.readBytes m (k + 1) n := by
  rw [Mem.wf_iff] at h
  obtain ⟨hp, hn⟩ := h
  clear hn
  induction m with
  | nil => simp [Mem.readBytes, Mem.byte_nil, emptyByte]
  | cons d t ih =>
    obtain ⟨a, b⟩ := d
    have ht := (List.pairwise_cons.1 hp).1
    have ih := ih (List.pairwise_cons.1 hp).2
    rw [Mem.byte_cons]
    simp only [Mem.readBytes]
    by_cases h1 : a < k
    · rw [if_pos h1, if_neg (show ¬ a = k by omega), if_pos (show a < k + 1 by omega)]
      exact ih
    · by_cases h2 : a = k
      · subst h2
        have hb : Mem.byte t a = emptyByte := Mem.byte_low t a fun c hc => ht c hc
        rw [if_neg h1, if_pos (show a < a + (n + 1) by omega), if_pos (show a = a from rfl), if_pos (show a < a + 1 by omega), ih, hb]
        simp [emptyByte]
      · rw [if_neg h1, if_neg (show ¬ a < k + 1 by omega), if_neg h2]
        have hb : Mem.byte t k = emptyByte := Mem.byte_low t k fun c hc => by
          have := ht c hc
          simp only at this
          omega
        by_cases h3 : a < k + (n + 1)
        · rw [if_pos h3, if_pos (show a < k + 1 + n by omega), ih, hb]
          have e : 8 * (a - k) = 8 + 8 * (a - (k + 1)) := by omega
          rw [e, Nat.pow_add]
          simp only [emptyByte]
          ring_nf
        · rw [if_neg h3, if_neg (show ¬ a < k + 1 + n by omega), hb]
          simp [emptyByte]

/-- No bytes read are zero. -/
theorem Mem.readBytes_zero (m : List Host.Cell) (k : Nat) : Mem.readBytes m k 0 = 0 := by
  induction m with
  | nil => rfl
  | cons d t ih =>
    obtain ⟨a, b⟩ := d
    simp only [Mem.readBytes, Nat.add_zero]
    split
    · exact ih
    · rfl

/-- n bytes are below 2^(8n). -/
theorem Mem.readBytes_lt (m : List Host.Cell) (k n : Nat) (h : Mem.wf m = true) : Mem.readBytes m k n < 2 ^ (8 * n) := by
  induction n generalizing k with
  | zero => simp [Mem.readBytes_zero]
  | succ n ih =>
    rw [Mem.readBytes_succ m k n h]
    have h1 := ih (k + 1)
    have h2 := (Mem.byte m k).isLt
    have e : 8 * (n + 1) = 8 + 8 * n := by omega
    rw [e, Nat.pow_add]
    omega

/-- Two memories with the same bytes in a range read the same there. -/
theorem Mem.readBytes_congr (m m' : List Host.Cell) (k n : Nat) (h : Mem.wf m = true) (h' : Mem.wf m' = true)
    (e : ∀ j, k ≤ j → j < k + n → Mem.byte m j = Mem.byte m' j) : Mem.readBytes m k n = Mem.readBytes m' k n := by
  induction n generalizing k with
  | zero => simp [Mem.readBytes_zero]
  | succ n ih =>
    rw [Mem.readBytes_succ m k n h, Mem.readBytes_succ m' k n h', e k (by omega) (by omega),
      ih (k + 1) fun j h1 h2 => e j (by omega) (by omega)]

/-- Bytes just written read as written. -/
theorem Mem.readBytes_writeBytes (m : List Host.Cell) (k n v : Nat) (h : Mem.wf m = true) :
    Mem.readBytes (Mem.writeBytes m k n v) k n = v % 2 ^ (8 * n) := by
  have hw := Mem.wf_writeBytes m k n v h
  have key : ∀ i, i ≤ n → Mem.readBytes (Mem.writeBytes m k n v) (k + (n - i)) i = v / 2 ^ (8 * (n - i)) % 2 ^ (8 * i) := by
    intro i
    induction i with
    | zero => intro _; simp [Mem.readBytes_zero, Nat.mod_one]
    | succ i ih =>
      intro hi
      rw [Mem.readBytes_succ _ _ _ hw, Mem.byte_writeBytes m k n v _ h, if_pos (by omega)]
      have e1 : k + (n - (i + 1)) + 1 = k + (n - i) := by omega
      have e2 : k + (n - (i + 1)) - k = n - (i + 1) := by omega
      have e3 : 8 * (n - i) = 8 * (n - (i + 1)) + 8 := by omega
      rw [e1, ih (by omega), e2, e3, Nat.pow_add, ← Nat.div_div_eq_div_mul]
      have e4 : 8 * (i + 1) = 8 + 8 * i := by omega
      rw [e4, Nat.pow_add, Nat.mod_mul, BitVec.toNat_ofNat]
  simpa using key n le_rfl

/-- Bits just written read as written (R6). -/
theorem Mem.readBits_writeBits (m : List Host.Cell) (fa w v : Nat) (h : Mem.wf m = true) :
    Mem.readBits (Mem.writeBits m fa w v) fa w = v % 2 ^ w := by
  unfold Mem.readBits Mem.writeBits
  rw [Mem.readBytes_writeBytes _ _ _ _ h, putField_eq]
  have hb : fa % 8 + w ≤ 8 * ceilDiv (fa % 8 + w) 8 := by
    unfold ceilDiv
    omega
  set o := Mem.readBytes m (fa / 8) (ceilDiv (fa % 8 + w) 8)
  set N := 8 * ceilDiv (fa % 8 + w) 8
  apply Nat.eq_of_testBit_eq
  intro i
  rw [Nat.testBit_mod_two_pow, Nat.testBit_div_two_pow, Nat.testBit_mod_two_pow, Nat.testBit_mod_two_pow]
  by_cases hi : i < w
  · have e : o % 2 ^ (fa % 8) + 2 ^ (fa % 8) * (v % 2 ^ w) + 2 ^ (fa % 8 + w) * (o / 2 ^ (fa % 8 + w)) =
        2 ^ (fa % 8) * (v % 2 ^ w + 2 ^ w * (o / 2 ^ (fa % 8 + w))) + o % 2 ^ (fa % 8) := by
      rw [Nat.pow_add]
      ring
    rw [e, Nat.testBit_two_pow_mul_add _ (Nat.mod_lt _ (Nat.two_pow_pos _)), if_neg (by omega)]
    have e2 : i + fa % 8 - fa % 8 = i := by omega
    rw [e2, Nat.add_comm (v % 2 ^ w), Nat.testBit_two_pow_mul_add _ (Nat.mod_lt _ (Nat.two_pow_pos _)), if_pos hi,
      Nat.testBit_mod_two_pow]
    have : i + fa % 8 < N := by omega
    simp [hi, this]
  · simp [hi]

end Sys2Proof.Machine
end

