-- ==== Sys2Proof/Laws/State.lean ====
section
/-!
SUPPORT. What each update of State and Strand leaves in each field: one lemma for each field and update.
-/

namespace Sys2Proof.Machine

variable (s : State)

@[simp] theorem State.setStrand_agenda (k : Nat) (t : Strand) : (s.setStrand k t).agenda = s.agenda := rfl
@[simp] theorem State.setStrand_pick (k : Nat) (t : Strand) : (s.setStrand k t).pick = s.pick := rfl
@[simp] theorem State.setStrand_cur (k : Nat) (t : Strand) : (s.setStrand k t).cur = s.cur := rfl
@[simp] theorem State.setStrand_freeCtr (k : Nat) (t : Strand) : (s.setStrand k t).freeCtr = s.freeCtr := rfl
@[simp] theorem State.setStrand_seq (k : Nat) (t : Strand) : (s.setStrand k t).seq = s.seq := rfl
@[simp] theorem State.setStrand_devIn (k : Nat) (t : Strand) : (s.setStrand k t).devIn = s.devIn := rfl
@[simp] theorem State.setStrand_devOut (k : Nat) (t : Strand) : (s.setStrand k t).devOut = s.devOut := rfl
@[simp] theorem State.setStrand_now (k : Nat) (t : Strand) : (s.setStrand k t).now = s.now := rfl
@[simp] theorem State.setStrand_mem (k : Nat) (t : Strand) : (s.setStrand k t).mem = s.mem := rfl
@[simp] theorem State.setStrand_poison (k : Nat) (t : Strand) : (s.setStrand k t).poison = s.poison := rfl
@[simp] theorem State.setStrand_tags (k : Nat) (t : Strand) : (s.setStrand k t).tags = s.tags := rfl
@[simp] theorem State.setStrand_broken (k : Nat) (t : Strand) : (s.setStrand k t).broken = s.broken := rfl
@[simp] theorem State.setStrand_cores (k : Nat) (t : Strand) : (s.setStrand k t).cores = s.cores := rfl
@[simp] theorem State.setStrand_groups (k : Nat) (t : Strand) : (s.setStrand k t).groups = s.groups := rfl
@[simp] theorem State.setStrand_gangs (k : Nat) (t : Strand) : (s.setStrand k t).gangs = s.gangs := rfl
@[simp] theorem State.setStrand_dies (k : Nat) (t : Strand) : (s.setStrand k t).dies = s.dies := rfl
@[simp] theorem State.setStrand_submits (k : Nat) (t : Strand) : (s.setStrand k t).submits = s.submits := rfl
@[simp] theorem State.setStrand_packets (k : Nat) (t : Strand) : (s.setStrand k t).packets = s.packets := rfl
@[simp] theorem State.setStrand_spaces (k : Nat) (t : Strand) : (s.setStrand k t).spaces = s.spaces := rfl
@[simp] theorem State.setStrand_ctxMap (k : Nat) (t : Strand) : (s.setStrand k t).ctxMap = s.ctxMap := rfl
@[simp] theorem State.setStrand_owners (k : Nat) (t : Strand) : (s.setStrand k t).owners = s.owners := rfl
@[simp] theorem State.setStrand_transfers (k : Nat) (t : Strand) : (s.setStrand k t).transfers = s.transfers := rfl
@[simp] theorem State.setStrand_domains (k : Nat) (t : Strand) : (s.setStrand k t).domains = s.domains := rfl
@[simp] theorem State.setStrand_peersDown (k : Nat) (t : Strand) : (s.setStrand k t).peersDown = s.peersDown := rfl
@[simp] theorem State.setStrand_vfs (k : Nat) (t : Strand) : (s.setStrand k t).vfs = s.vfs := rfl
@[simp] theorem State.setStrand_mailbox (k : Nat) (t : Strand) : (s.setStrand k t).mailbox = s.mailbox := rfl
@[simp] theorem State.setStrand_removals (k : Nat) (t : Strand) : (s.setStrand k t).removals = s.removals := rfl
@[simp] theorem State.setStrand_hostCmds (k : Nat) (t : Strand) : (s.setStrand k t).hostCmds = s.hostCmds := rfl
@[simp] theorem State.setStrand_supEnds (k : Nat) (t : Strand) : (s.setStrand k t).supEnds = s.supEnds := rfl
@[simp] theorem State.setStrand_measures (k : Nat) (t : Strand) : (s.setStrand k t).measures = s.measures := rfl
@[simp] theorem State.setStrand_certs (k : Nat) (t : Strand) : (s.setStrand k t).certs = s.certs := rfl
@[simp] theorem State.setStrand_linkRate (k : Nat) (t : Strand) : (s.setStrand k t).linkRate = s.linkRate := rfl
@[simp] theorem State.setStrand_booted (k : Nat) (t : Strand) : (s.setStrand k t).booted = s.booted := rfl
@[simp] theorem State.setStrand_migBase (k : Nat) (t : Strand) : (s.setStrand k t).migBase = s.migBase := rfl
@[simp] theorem State.setStrand_pkg (k : Nat) (t : Strand) : (s.setStrand k t).pkg = s.pkg := rfl
@[simp] theorem State.setStrand_pkgVa (k : Nat) (t : Strand) : (s.setStrand k t).pkgVa = s.pkgVa := rfl
@[simp] theorem State.setStrand_pkgPa (k : Nat) (t : Strand) : (s.setStrand k t).pkgPa = s.pkgPa := rfl
@[simp] theorem State.setStrand_objects (k : Nat) (t : Strand) : (s.setStrand k t).objects = s.objects := rfl
@[simp] theorem State.setStrand_brkMigrate (k : Nat) (t : Strand) : (s.setStrand k t).brkMigrate = s.brkMigrate := rfl
@[simp] theorem State.setStrand_breaks (k : Nat) (t : Strand) : (s.setStrand k t).breaks = s.breaks := rfl
@[simp] theorem State.setStrand_brkResume (k : Nat) (t : Strand) : (s.setStrand k t).brkResume = s.brkResume := rfl
@[simp] theorem State.setStrand_hostReads (k : Nat) (t : Strand) : (s.setStrand k t).hostReads = s.hostReads := rfl
@[simp] theorem State.setStrand_views (k : Nat) (t : Strand) : (s.setStrand k t).views = s.views := rfl

@[simp] theorem State.setMe_agenda (t : Strand) : (s.setMe t).agenda = s.agenda := rfl
@[simp] theorem State.setMe_pick (t : Strand) : (s.setMe t).pick = s.pick := rfl
@[simp] theorem State.setMe_cur (t : Strand) : (s.setMe t).cur = s.cur := rfl
@[simp] theorem State.setMe_freeCtr (t : Strand) : (s.setMe t).freeCtr = s.freeCtr := rfl
@[simp] theorem State.setMe_seq (t : Strand) : (s.setMe t).seq = s.seq := rfl
@[simp] theorem State.setMe_devIn (t : Strand) : (s.setMe t).devIn = s.devIn := rfl
@[simp] theorem State.setMe_devOut (t : Strand) : (s.setMe t).devOut = s.devOut := rfl
@[simp] theorem State.setMe_now (t : Strand) : (s.setMe t).now = s.now := rfl
@[simp] theorem State.setMe_mem (t : Strand) : (s.setMe t).mem = s.mem := rfl
@[simp] theorem State.setMe_poison (t : Strand) : (s.setMe t).poison = s.poison := rfl
@[simp] theorem State.setMe_tags (t : Strand) : (s.setMe t).tags = s.tags := rfl
@[simp] theorem State.setMe_broken (t : Strand) : (s.setMe t).broken = s.broken := rfl
@[simp] theorem State.setMe_cores (t : Strand) : (s.setMe t).cores = s.cores := rfl
@[simp] theorem State.setMe_groups (t : Strand) : (s.setMe t).groups = s.groups := rfl
@[simp] theorem State.setMe_gangs (t : Strand) : (s.setMe t).gangs = s.gangs := rfl
@[simp] theorem State.setMe_dies (t : Strand) : (s.setMe t).dies = s.dies := rfl
@[simp] theorem State.setMe_submits (t : Strand) : (s.setMe t).submits = s.submits := rfl
@[simp] theorem State.setMe_packets (t : Strand) : (s.setMe t).packets = s.packets := rfl
@[simp] theorem State.setMe_spaces (t : Strand) : (s.setMe t).spaces = s.spaces := rfl
@[simp] theorem State.setMe_ctxMap (t : Strand) : (s.setMe t).ctxMap = s.ctxMap := rfl
@[simp] theorem State.setMe_owners (t : Strand) : (s.setMe t).owners = s.owners := rfl
@[simp] theorem State.setMe_transfers (t : Strand) : (s.setMe t).transfers = s.transfers := rfl
@[simp] theorem State.setMe_domains (t : Strand) : (s.setMe t).domains = s.domains := rfl
@[simp] theorem State.setMe_peersDown (t : Strand) : (s.setMe t).peersDown = s.peersDown := rfl
@[simp] theorem State.setMe_vfs (t : Strand) : (s.setMe t).vfs = s.vfs := rfl
@[simp] theorem State.setMe_mailbox (t : Strand) : (s.setMe t).mailbox = s.mailbox := rfl
@[simp] theorem State.setMe_removals (t : Strand) : (s.setMe t).removals = s.removals := rfl
@[simp] theorem State.setMe_hostCmds (t : Strand) : (s.setMe t).hostCmds = s.hostCmds := rfl
@[simp] theorem State.setMe_supEnds (t : Strand) : (s.setMe t).supEnds = s.supEnds := rfl
@[simp] theorem State.setMe_measures (t : Strand) : (s.setMe t).measures = s.measures := rfl
@[simp] theorem State.setMe_certs (t : Strand) : (s.setMe t).certs = s.certs := rfl
@[simp] theorem State.setMe_linkRate (t : Strand) : (s.setMe t).linkRate = s.linkRate := rfl
@[simp] theorem State.setMe_booted (t : Strand) : (s.setMe t).booted = s.booted := rfl
@[simp] theorem State.setMe_migBase (t : Strand) : (s.setMe t).migBase = s.migBase := rfl
@[simp] theorem State.setMe_pkg (t : Strand) : (s.setMe t).pkg = s.pkg := rfl
@[simp] theorem State.setMe_pkgVa (t : Strand) : (s.setMe t).pkgVa = s.pkgVa := rfl
@[simp] theorem State.setMe_pkgPa (t : Strand) : (s.setMe t).pkgPa = s.pkgPa := rfl
@[simp] theorem State.setMe_objects (t : Strand) : (s.setMe t).objects = s.objects := rfl
@[simp] theorem State.setMe_brkMigrate (t : Strand) : (s.setMe t).brkMigrate = s.brkMigrate := rfl
@[simp] theorem State.setMe_breaks (t : Strand) : (s.setMe t).breaks = s.breaks := rfl
@[simp] theorem State.setMe_brkResume (t : Strand) : (s.setMe t).brkResume = s.brkResume := rfl
@[simp] theorem State.setMe_hostReads (t : Strand) : (s.setMe t).hostReads = s.hostReads := rfl
@[simp] theorem State.setMe_views (t : Strand) : (s.setMe t).views = s.views := rfl

@[simp] theorem State.setCore_agenda (k : Nat) (c : Core) : (s.setCore k c).agenda = s.agenda := rfl
@[simp] theorem State.setCore_pick (k : Nat) (c : Core) : (s.setCore k c).pick = s.pick := rfl
@[simp] theorem State.setCore_cur (k : Nat) (c : Core) : (s.setCore k c).cur = s.cur := rfl
@[simp] theorem State.setCore_freeCtr (k : Nat) (c : Core) : (s.setCore k c).freeCtr = s.freeCtr := rfl
@[simp] theorem State.setCore_seq (k : Nat) (c : Core) : (s.setCore k c).seq = s.seq := rfl
@[simp] theorem State.setCore_devIn (k : Nat) (c : Core) : (s.setCore k c).devIn = s.devIn := rfl
@[simp] theorem State.setCore_devOut (k : Nat) (c : Core) : (s.setCore k c).devOut = s.devOut := rfl
@[simp] theorem State.setCore_now (k : Nat) (c : Core) : (s.setCore k c).now = s.now := rfl
@[simp] theorem State.setCore_mem (k : Nat) (c : Core) : (s.setCore k c).mem = s.mem := rfl
@[simp] theorem State.setCore_poison (k : Nat) (c : Core) : (s.setCore k c).poison = s.poison := rfl
@[simp] theorem State.setCore_tags (k : Nat) (c : Core) : (s.setCore k c).tags = s.tags := rfl
@[simp] theorem State.setCore_broken (k : Nat) (c : Core) : (s.setCore k c).broken = s.broken := rfl
@[simp] theorem State.setCore_strands (k : Nat) (c : Core) : (s.setCore k c).strands = s.strands := rfl
@[simp] theorem State.setCore_groups (k : Nat) (c : Core) : (s.setCore k c).groups = s.groups := rfl
@[simp] theorem State.setCore_gangs (k : Nat) (c : Core) : (s.setCore k c).gangs = s.gangs := rfl
@[simp] theorem State.setCore_dies (k : Nat) (c : Core) : (s.setCore k c).dies = s.dies := rfl
@[simp] theorem State.setCore_submits (k : Nat) (c : Core) : (s.setCore k c).submits = s.submits := rfl
@[simp] theorem State.setCore_packets (k : Nat) (c : Core) : (s.setCore k c).packets = s.packets := rfl
@[simp] theorem State.setCore_spaces (k : Nat) (c : Core) : (s.setCore k c).spaces = s.spaces := rfl
@[simp] theorem State.setCore_ctxMap (k : Nat) (c : Core) : (s.setCore k c).ctxMap = s.ctxMap := rfl
@[simp] theorem State.setCore_owners (k : Nat) (c : Core) : (s.setCore k c).owners = s.owners := rfl
@[simp] theorem State.setCore_transfers (k : Nat) (c : Core) : (s.setCore k c).transfers = s.transfers := rfl
@[simp] theorem State.setCore_domains (k : Nat) (c : Core) : (s.setCore k c).domains = s.domains := rfl
@[simp] theorem State.setCore_peersDown (k : Nat) (c : Core) : (s.setCore k c).peersDown = s.peersDown := rfl
@[simp] theorem State.setCore_vfs (k : Nat) (c : Core) : (s.setCore k c).vfs = s.vfs := rfl
@[simp] theorem State.setCore_mailbox (k : Nat) (c : Core) : (s.setCore k c).mailbox = s.mailbox := rfl
@[simp] theorem State.setCore_removals (k : Nat) (c : Core) : (s.setCore k c).removals = s.removals := rfl
@[simp] theorem State.setCore_hostCmds (k : Nat) (c : Core) : (s.setCore k c).hostCmds = s.hostCmds := rfl
@[simp] theorem State.setCore_supEnds (k : Nat) (c : Core) : (s.setCore k c).supEnds = s.supEnds := rfl
@[simp] theorem State.setCore_measures (k : Nat) (c : Core) : (s.setCore k c).measures = s.measures := rfl
@[simp] theorem State.setCore_certs (k : Nat) (c : Core) : (s.setCore k c).certs = s.certs := rfl
@[simp] theorem State.setCore_linkRate (k : Nat) (c : Core) : (s.setCore k c).linkRate = s.linkRate := rfl
@[simp] theorem State.setCore_booted (k : Nat) (c : Core) : (s.setCore k c).booted = s.booted := rfl
@[simp] theorem State.setCore_migBase (k : Nat) (c : Core) : (s.setCore k c).migBase = s.migBase := rfl
@[simp] theorem State.setCore_pkg (k : Nat) (c : Core) : (s.setCore k c).pkg = s.pkg := rfl
@[simp] theorem State.setCore_pkgVa (k : Nat) (c : Core) : (s.setCore k c).pkgVa = s.pkgVa := rfl
@[simp] theorem State.setCore_pkgPa (k : Nat) (c : Core) : (s.setCore k c).pkgPa = s.pkgPa := rfl
@[simp] theorem State.setCore_objects (k : Nat) (c : Core) : (s.setCore k c).objects = s.objects := rfl
@[simp] theorem State.setCore_brkMigrate (k : Nat) (c : Core) : (s.setCore k c).brkMigrate = s.brkMigrate := rfl
@[simp] theorem State.setCore_breaks (k : Nat) (c : Core) : (s.setCore k c).breaks = s.breaks := rfl
@[simp] theorem State.setCore_brkResume (k : Nat) (c : Core) : (s.setCore k c).brkResume = s.brkResume := rfl
@[simp] theorem State.setCore_hostReads (k : Nat) (c : Core) : (s.setCore k c).hostReads = s.hostReads := rfl
@[simp] theorem State.setCore_views (k : Nat) (c : Core) : (s.setCore k c).views = s.views := rfl

@[simp] theorem State.setDie_agenda (k : Nat) (c : Die) : (s.setDie k c).agenda = s.agenda := rfl
@[simp] theorem State.setDie_pick (k : Nat) (c : Die) : (s.setDie k c).pick = s.pick := rfl
@[simp] theorem State.setDie_cur (k : Nat) (c : Die) : (s.setDie k c).cur = s.cur := rfl
@[simp] theorem State.setDie_freeCtr (k : Nat) (c : Die) : (s.setDie k c).freeCtr = s.freeCtr := rfl
@[simp] theorem State.setDie_seq (k : Nat) (c : Die) : (s.setDie k c).seq = s.seq := rfl
@[simp] theorem State.setDie_devIn (k : Nat) (c : Die) : (s.setDie k c).devIn = s.devIn := rfl
@[simp] theorem State.setDie_devOut (k : Nat) (c : Die) : (s.setDie k c).devOut = s.devOut := rfl
@[simp] theorem State.setDie_now (k : Nat) (c : Die) : (s.setDie k c).now = s.now := rfl
@[simp] theorem State.setDie_mem (k : Nat) (c : Die) : (s.setDie k c).mem = s.mem := rfl
@[simp] theorem State.setDie_poison (k : Nat) (c : Die) : (s.setDie k c).poison = s.poison := rfl
@[simp] theorem State.setDie_tags (k : Nat) (c : Die) : (s.setDie k c).tags = s.tags := rfl
@[simp] theorem State.setDie_broken (k : Nat) (c : Die) : (s.setDie k c).broken = s.broken := rfl
@[simp] theorem State.setDie_cores (k : Nat) (c : Die) : (s.setDie k c).cores = s.cores := rfl
@[simp] theorem State.setDie_strands (k : Nat) (c : Die) : (s.setDie k c).strands = s.strands := rfl
@[simp] theorem State.setDie_groups (k : Nat) (c : Die) : (s.setDie k c).groups = s.groups := rfl
@[simp] theorem State.setDie_gangs (k : Nat) (c : Die) : (s.setDie k c).gangs = s.gangs := rfl
@[simp] theorem State.setDie_submits (k : Nat) (c : Die) : (s.setDie k c).submits = s.submits := rfl
@[simp] theorem State.setDie_packets (k : Nat) (c : Die) : (s.setDie k c).packets = s.packets := rfl
@[simp] theorem State.setDie_spaces (k : Nat) (c : Die) : (s.setDie k c).spaces = s.spaces := rfl
@[simp] theorem State.setDie_ctxMap (k : Nat) (c : Die) : (s.setDie k c).ctxMap = s.ctxMap := rfl
@[simp] theorem State.setDie_owners (k : Nat) (c : Die) : (s.setDie k c).owners = s.owners := rfl
@[simp] theorem State.setDie_transfers (k : Nat) (c : Die) : (s.setDie k c).transfers = s.transfers := rfl
@[simp] theorem State.setDie_domains (k : Nat) (c : Die) : (s.setDie k c).domains = s.domains := rfl
@[simp] theorem State.setDie_peersDown (k : Nat) (c : Die) : (s.setDie k c).peersDown = s.peersDown := rfl
@[simp] theorem State.setDie_vfs (k : Nat) (c : Die) : (s.setDie k c).vfs = s.vfs := rfl
@[simp] theorem State.setDie_mailbox (k : Nat) (c : Die) : (s.setDie k c).mailbox = s.mailbox := rfl
@[simp] theorem State.setDie_removals (k : Nat) (c : Die) : (s.setDie k c).removals = s.removals := rfl
@[simp] theorem State.setDie_hostCmds (k : Nat) (c : Die) : (s.setDie k c).hostCmds = s.hostCmds := rfl
@[simp] theorem State.setDie_supEnds (k : Nat) (c : Die) : (s.setDie k c).supEnds = s.supEnds := rfl
@[simp] theorem State.setDie_measures (k : Nat) (c : Die) : (s.setDie k c).measures = s.measures := rfl
@[simp] theorem State.setDie_certs (k : Nat) (c : Die) : (s.setDie k c).certs = s.certs := rfl
@[simp] theorem State.setDie_linkRate (k : Nat) (c : Die) : (s.setDie k c).linkRate = s.linkRate := rfl
@[simp] theorem State.setDie_booted (k : Nat) (c : Die) : (s.setDie k c).booted = s.booted := rfl
@[simp] theorem State.setDie_migBase (k : Nat) (c : Die) : (s.setDie k c).migBase = s.migBase := rfl
@[simp] theorem State.setDie_pkg (k : Nat) (c : Die) : (s.setDie k c).pkg = s.pkg := rfl
@[simp] theorem State.setDie_pkgVa (k : Nat) (c : Die) : (s.setDie k c).pkgVa = s.pkgVa := rfl
@[simp] theorem State.setDie_pkgPa (k : Nat) (c : Die) : (s.setDie k c).pkgPa = s.pkgPa := rfl
@[simp] theorem State.setDie_objects (k : Nat) (c : Die) : (s.setDie k c).objects = s.objects := rfl
@[simp] theorem State.setDie_brkMigrate (k : Nat) (c : Die) : (s.setDie k c).brkMigrate = s.brkMigrate := rfl
@[simp] theorem State.setDie_breaks (k : Nat) (c : Die) : (s.setDie k c).breaks = s.breaks := rfl
@[simp] theorem State.setDie_brkResume (k : Nat) (c : Die) : (s.setDie k c).brkResume = s.brkResume := rfl
@[simp] theorem State.setDie_hostReads (k : Nat) (c : Die) : (s.setDie k c).hostReads = s.hostReads := rfl
@[simp] theorem State.setDie_views (k : Nat) (c : Die) : (s.setDie k c).views = s.views := rfl

@[simp] theorem State.setGroup_agenda (k : Nat) (c : Group) : (s.setGroup k c).agenda = s.agenda := rfl
@[simp] theorem State.setGroup_pick (k : Nat) (c : Group) : (s.setGroup k c).pick = s.pick := rfl
@[simp] theorem State.setGroup_cur (k : Nat) (c : Group) : (s.setGroup k c).cur = s.cur := rfl
@[simp] theorem State.setGroup_freeCtr (k : Nat) (c : Group) : (s.setGroup k c).freeCtr = s.freeCtr := rfl
@[simp] theorem State.setGroup_seq (k : Nat) (c : Group) : (s.setGroup k c).seq = s.seq := rfl
@[simp] theorem State.setGroup_devIn (k : Nat) (c : Group) : (s.setGroup k c).devIn = s.devIn := rfl
@[simp] theorem State.setGroup_devOut (k : Nat) (c : Group) : (s.setGroup k c).devOut = s.devOut := rfl
@[simp] theorem State.setGroup_now (k : Nat) (c : Group) : (s.setGroup k c).now = s.now := rfl
@[simp] theorem State.setGroup_mem (k : Nat) (c : Group) : (s.setGroup k c).mem = s.mem := rfl
@[simp] theorem State.setGroup_poison (k : Nat) (c : Group) : (s.setGroup k c).poison = s.poison := rfl
@[simp] theorem State.setGroup_tags (k : Nat) (c : Group) : (s.setGroup k c).tags = s.tags := rfl
@[simp] theorem State.setGroup_broken (k : Nat) (c : Group) : (s.setGroup k c).broken = s.broken := rfl
@[simp] theorem State.setGroup_cores (k : Nat) (c : Group) : (s.setGroup k c).cores = s.cores := rfl
@[simp] theorem State.setGroup_strands (k : Nat) (c : Group) : (s.setGroup k c).strands = s.strands := rfl
@[simp] theorem State.setGroup_gangs (k : Nat) (c : Group) : (s.setGroup k c).gangs = s.gangs := rfl
@[simp] theorem State.setGroup_dies (k : Nat) (c : Group) : (s.setGroup k c).dies = s.dies := rfl
@[simp] theorem State.setGroup_submits (k : Nat) (c : Group) : (s.setGroup k c).submits = s.submits := rfl
@[simp] theorem State.setGroup_packets (k : Nat) (c : Group) : (s.setGroup k c).packets = s.packets := rfl
@[simp] theorem State.setGroup_spaces (k : Nat) (c : Group) : (s.setGroup k c).spaces = s.spaces := rfl
@[simp] theorem State.setGroup_ctxMap (k : Nat) (c : Group) : (s.setGroup k c).ctxMap = s.ctxMap := rfl
@[simp] theorem State.setGroup_owners (k : Nat) (c : Group) : (s.setGroup k c).owners = s.owners := rfl
@[simp] theorem State.setGroup_transfers (k : Nat) (c : Group) : (s.setGroup k c).transfers = s.transfers := rfl
@[simp] theorem State.setGroup_domains (k : Nat) (c : Group) : (s.setGroup k c).domains = s.domains := rfl
@[simp] theorem State.setGroup_peersDown (k : Nat) (c : Group) : (s.setGroup k c).peersDown = s.peersDown := rfl
@[simp] theorem State.setGroup_vfs (k : Nat) (c : Group) : (s.setGroup k c).vfs = s.vfs := rfl
@[simp] theorem State.setGroup_mailbox (k : Nat) (c : Group) : (s.setGroup k c).mailbox = s.mailbox := rfl
@[simp] theorem State.setGroup_removals (k : Nat) (c : Group) : (s.setGroup k c).removals = s.removals := rfl
@[simp] theorem State.setGroup_hostCmds (k : Nat) (c : Group) : (s.setGroup k c).hostCmds = s.hostCmds := rfl
@[simp] theorem State.setGroup_supEnds (k : Nat) (c : Group) : (s.setGroup k c).supEnds = s.supEnds := rfl
@[simp] theorem State.setGroup_measures (k : Nat) (c : Group) : (s.setGroup k c).measures = s.measures := rfl
@[simp] theorem State.setGroup_certs (k : Nat) (c : Group) : (s.setGroup k c).certs = s.certs := rfl
@[simp] theorem State.setGroup_linkRate (k : Nat) (c : Group) : (s.setGroup k c).linkRate = s.linkRate := rfl
@[simp] theorem State.setGroup_booted (k : Nat) (c : Group) : (s.setGroup k c).booted = s.booted := rfl
@[simp] theorem State.setGroup_migBase (k : Nat) (c : Group) : (s.setGroup k c).migBase = s.migBase := rfl
@[simp] theorem State.setGroup_pkg (k : Nat) (c : Group) : (s.setGroup k c).pkg = s.pkg := rfl
@[simp] theorem State.setGroup_pkgVa (k : Nat) (c : Group) : (s.setGroup k c).pkgVa = s.pkgVa := rfl
@[simp] theorem State.setGroup_pkgPa (k : Nat) (c : Group) : (s.setGroup k c).pkgPa = s.pkgPa := rfl
@[simp] theorem State.setGroup_objects (k : Nat) (c : Group) : (s.setGroup k c).objects = s.objects := rfl
@[simp] theorem State.setGroup_brkMigrate (k : Nat) (c : Group) : (s.setGroup k c).brkMigrate = s.brkMigrate := rfl
@[simp] theorem State.setGroup_breaks (k : Nat) (c : Group) : (s.setGroup k c).breaks = s.breaks := rfl
@[simp] theorem State.setGroup_brkResume (k : Nat) (c : Group) : (s.setGroup k c).brkResume = s.brkResume := rfl
@[simp] theorem State.setGroup_hostReads (k : Nat) (c : Group) : (s.setGroup k c).hostReads = s.hostReads := rfl
@[simp] theorem State.setGroup_views (k : Nat) (c : Group) : (s.setGroup k c).views = s.views := rfl

@[simp] theorem State.setGang_agenda (k : Nat) (c : Gang) : (s.setGang k c).agenda = s.agenda := rfl
@[simp] theorem State.setGang_pick (k : Nat) (c : Gang) : (s.setGang k c).pick = s.pick := rfl
@[simp] theorem State.setGang_cur (k : Nat) (c : Gang) : (s.setGang k c).cur = s.cur := rfl
@[simp] theorem State.setGang_freeCtr (k : Nat) (c : Gang) : (s.setGang k c).freeCtr = s.freeCtr := rfl
@[simp] theorem State.setGang_seq (k : Nat) (c : Gang) : (s.setGang k c).seq = s.seq := rfl
@[simp] theorem State.setGang_devIn (k : Nat) (c : Gang) : (s.setGang k c).devIn = s.devIn := rfl
@[simp] theorem State.setGang_devOut (k : Nat) (c : Gang) : (s.setGang k c).devOut = s.devOut := rfl
@[simp] theorem State.setGang_now (k : Nat) (c : Gang) : (s.setGang k c).now = s.now := rfl
@[simp] theorem State.setGang_mem (k : Nat) (c : Gang) : (s.setGang k c).mem = s.mem := rfl
@[simp] theorem State.setGang_poison (k : Nat) (c : Gang) : (s.setGang k c).poison = s.poison := rfl
@[simp] theorem State.setGang_tags (k : Nat) (c : Gang) : (s.setGang k c).tags = s.tags := rfl
@[simp] theorem State.setGang_broken (k : Nat) (c : Gang) : (s.setGang k c).broken = s.broken := rfl
@[simp] theorem State.setGang_cores (k : Nat) (c : Gang) : (s.setGang k c).cores = s.cores := rfl
@[simp] theorem State.setGang_strands (k : Nat) (c : Gang) : (s.setGang k c).strands = s.strands := rfl
@[simp] theorem State.setGang_groups (k : Nat) (c : Gang) : (s.setGang k c).groups = s.groups := rfl
@[simp] theorem State.setGang_dies (k : Nat) (c : Gang) : (s.setGang k c).dies = s.dies := rfl
@[simp] theorem State.setGang_submits (k : Nat) (c : Gang) : (s.setGang k c).submits = s.submits := rfl
@[simp] theorem State.setGang_packets (k : Nat) (c : Gang) : (s.setGang k c).packets = s.packets := rfl
@[simp] theorem State.setGang_spaces (k : Nat) (c : Gang) : (s.setGang k c).spaces = s.spaces := rfl
@[simp] theorem State.setGang_ctxMap (k : Nat) (c : Gang) : (s.setGang k c).ctxMap = s.ctxMap := rfl
@[simp] theorem State.setGang_owners (k : Nat) (c : Gang) : (s.setGang k c).owners = s.owners := rfl
@[simp] theorem State.setGang_transfers (k : Nat) (c : Gang) : (s.setGang k c).transfers = s.transfers := rfl
@[simp] theorem State.setGang_domains (k : Nat) (c : Gang) : (s.setGang k c).domains = s.domains := rfl
@[simp] theorem State.setGang_peersDown (k : Nat) (c : Gang) : (s.setGang k c).peersDown = s.peersDown := rfl
@[simp] theorem State.setGang_vfs (k : Nat) (c : Gang) : (s.setGang k c).vfs = s.vfs := rfl
@[simp] theorem State.setGang_mailbox (k : Nat) (c : Gang) : (s.setGang k c).mailbox = s.mailbox := rfl
@[simp] theorem State.setGang_removals (k : Nat) (c : Gang) : (s.setGang k c).removals = s.removals := rfl
@[simp] theorem State.setGang_hostCmds (k : Nat) (c : Gang) : (s.setGang k c).hostCmds = s.hostCmds := rfl
@[simp] theorem State.setGang_supEnds (k : Nat) (c : Gang) : (s.setGang k c).supEnds = s.supEnds := rfl
@[simp] theorem State.setGang_measures (k : Nat) (c : Gang) : (s.setGang k c).measures = s.measures := rfl
@[simp] theorem State.setGang_certs (k : Nat) (c : Gang) : (s.setGang k c).certs = s.certs := rfl
@[simp] theorem State.setGang_linkRate (k : Nat) (c : Gang) : (s.setGang k c).linkRate = s.linkRate := rfl
@[simp] theorem State.setGang_booted (k : Nat) (c : Gang) : (s.setGang k c).booted = s.booted := rfl
@[simp] theorem State.setGang_migBase (k : Nat) (c : Gang) : (s.setGang k c).migBase = s.migBase := rfl
@[simp] theorem State.setGang_pkg (k : Nat) (c : Gang) : (s.setGang k c).pkg = s.pkg := rfl
@[simp] theorem State.setGang_pkgVa (k : Nat) (c : Gang) : (s.setGang k c).pkgVa = s.pkgVa := rfl
@[simp] theorem State.setGang_pkgPa (k : Nat) (c : Gang) : (s.setGang k c).pkgPa = s.pkgPa := rfl
@[simp] theorem State.setGang_objects (k : Nat) (c : Gang) : (s.setGang k c).objects = s.objects := rfl
@[simp] theorem State.setGang_brkMigrate (k : Nat) (c : Gang) : (s.setGang k c).brkMigrate = s.brkMigrate := rfl
@[simp] theorem State.setGang_breaks (k : Nat) (c : Gang) : (s.setGang k c).breaks = s.breaks := rfl
@[simp] theorem State.setGang_brkResume (k : Nat) (c : Gang) : (s.setGang k c).brkResume = s.brkResume := rfl
@[simp] theorem State.setGang_hostReads (k : Nat) (c : Gang) : (s.setGang k c).hostReads = s.hostReads := rfl
@[simp] theorem State.setGang_views (k : Nat) (c : Gang) : (s.setGang k c).views = s.views := rfl

@[simp] theorem State.modStrand_agenda (k : Nat) (f : Strand → Strand) : (s.modStrand k f).agenda = s.agenda := rfl
@[simp] theorem State.modStrand_pick (k : Nat) (f : Strand → Strand) : (s.modStrand k f).pick = s.pick := rfl
@[simp] theorem State.modStrand_cur (k : Nat) (f : Strand → Strand) : (s.modStrand k f).cur = s.cur := rfl
@[simp] theorem State.modStrand_freeCtr (k : Nat) (f : Strand → Strand) : (s.modStrand k f).freeCtr = s.freeCtr := rfl
@[simp] theorem State.modStrand_seq (k : Nat) (f : Strand → Strand) : (s.modStrand k f).seq = s.seq := rfl
@[simp] theorem State.modStrand_devIn (k : Nat) (f : Strand → Strand) : (s.modStrand k f).devIn = s.devIn := rfl
@[simp] theorem State.modStrand_devOut (k : Nat) (f : Strand → Strand) : (s.modStrand k f).devOut = s.devOut := rfl
@[simp] theorem State.modStrand_now (k : Nat) (f : Strand → Strand) : (s.modStrand k f).now = s.now := rfl
@[simp] theorem State.modStrand_mem (k : Nat) (f : Strand → Strand) : (s.modStrand k f).mem = s.mem := rfl
@[simp] theorem State.modStrand_poison (k : Nat) (f : Strand → Strand) : (s.modStrand k f).poison = s.poison := rfl
@[simp] theorem State.modStrand_tags (k : Nat) (f : Strand → Strand) : (s.modStrand k f).tags = s.tags := rfl
@[simp] theorem State.modStrand_broken (k : Nat) (f : Strand → Strand) : (s.modStrand k f).broken = s.broken := rfl
@[simp] theorem State.modStrand_cores (k : Nat) (f : Strand → Strand) : (s.modStrand k f).cores = s.cores := rfl
@[simp] theorem State.modStrand_groups (k : Nat) (f : Strand → Strand) : (s.modStrand k f).groups = s.groups := rfl
@[simp] theorem State.modStrand_gangs (k : Nat) (f : Strand → Strand) : (s.modStrand k f).gangs = s.gangs := rfl
@[simp] theorem State.modStrand_dies (k : Nat) (f : Strand → Strand) : (s.modStrand k f).dies = s.dies := rfl
@[simp] theorem State.modStrand_submits (k : Nat) (f : Strand → Strand) : (s.modStrand k f).submits = s.submits := rfl
@[simp] theorem State.modStrand_packets (k : Nat) (f : Strand → Strand) : (s.modStrand k f).packets = s.packets := rfl
@[simp] theorem State.modStrand_spaces (k : Nat) (f : Strand → Strand) : (s.modStrand k f).spaces = s.spaces := rfl
@[simp] theorem State.modStrand_ctxMap (k : Nat) (f : Strand → Strand) : (s.modStrand k f).ctxMap = s.ctxMap := rfl
@[simp] theorem State.modStrand_owners (k : Nat) (f : Strand → Strand) : (s.modStrand k f).owners = s.owners := rfl
@[simp] theorem State.modStrand_transfers (k : Nat) (f : Strand → Strand) : (s.modStrand k f).transfers = s.transfers := rfl
@[simp] theorem State.modStrand_domains (k : Nat) (f : Strand → Strand) : (s.modStrand k f).domains = s.domains := rfl
@[simp] theorem State.modStrand_peersDown (k : Nat) (f : Strand → Strand) : (s.modStrand k f).peersDown = s.peersDown := rfl
@[simp] theorem State.modStrand_vfs (k : Nat) (f : Strand → Strand) : (s.modStrand k f).vfs = s.vfs := rfl
@[simp] theorem State.modStrand_mailbox (k : Nat) (f : Strand → Strand) : (s.modStrand k f).mailbox = s.mailbox := rfl
@[simp] theorem State.modStrand_removals (k : Nat) (f : Strand → Strand) : (s.modStrand k f).removals = s.removals := rfl
@[simp] theorem State.modStrand_hostCmds (k : Nat) (f : Strand → Strand) : (s.modStrand k f).hostCmds = s.hostCmds := rfl
@[simp] theorem State.modStrand_supEnds (k : Nat) (f : Strand → Strand) : (s.modStrand k f).supEnds = s.supEnds := rfl
@[simp] theorem State.modStrand_measures (k : Nat) (f : Strand → Strand) : (s.modStrand k f).measures = s.measures := rfl
@[simp] theorem State.modStrand_certs (k : Nat) (f : Strand → Strand) : (s.modStrand k f).certs = s.certs := rfl
@[simp] theorem State.modStrand_linkRate (k : Nat) (f : Strand → Strand) : (s.modStrand k f).linkRate = s.linkRate := rfl
@[simp] theorem State.modStrand_booted (k : Nat) (f : Strand → Strand) : (s.modStrand k f).booted = s.booted := rfl
@[simp] theorem State.modStrand_migBase (k : Nat) (f : Strand → Strand) : (s.modStrand k f).migBase = s.migBase := rfl
@[simp] theorem State.modStrand_pkg (k : Nat) (f : Strand → Strand) : (s.modStrand k f).pkg = s.pkg := rfl
@[simp] theorem State.modStrand_pkgVa (k : Nat) (f : Strand → Strand) : (s.modStrand k f).pkgVa = s.pkgVa := rfl
@[simp] theorem State.modStrand_pkgPa (k : Nat) (f : Strand → Strand) : (s.modStrand k f).pkgPa = s.pkgPa := rfl
@[simp] theorem State.modStrand_objects (k : Nat) (f : Strand → Strand) : (s.modStrand k f).objects = s.objects := rfl
@[simp] theorem State.modStrand_brkMigrate (k : Nat) (f : Strand → Strand) : (s.modStrand k f).brkMigrate = s.brkMigrate := rfl
@[simp] theorem State.modStrand_breaks (k : Nat) (f : Strand → Strand) : (s.modStrand k f).breaks = s.breaks := rfl
@[simp] theorem State.modStrand_brkResume (k : Nat) (f : Strand → Strand) : (s.modStrand k f).brkResume = s.brkResume := rfl
@[simp] theorem State.modStrand_hostReads (k : Nat) (f : Strand → Strand) : (s.modStrand k f).hostReads = s.hostReads := rfl
@[simp] theorem State.modStrand_views (k : Nat) (f : Strand → Strand) : (s.modStrand k f).views = s.views := rfl

@[simp] theorem State.modCore_agenda (k : Nat) (f : Core → Core) : (s.modCore k f).agenda = s.agenda := rfl
@[simp] theorem State.modCore_pick (k : Nat) (f : Core → Core) : (s.modCore k f).pick = s.pick := rfl
@[simp] theorem State.modCore_cur (k : Nat) (f : Core → Core) : (s.modCore k f).cur = s.cur := rfl
@[simp] theorem State.modCore_freeCtr (k : Nat) (f : Core → Core) : (s.modCore k f).freeCtr = s.freeCtr := rfl
@[simp] theorem State.modCore_seq (k : Nat) (f : Core → Core) : (s.modCore k f).seq = s.seq := rfl
@[simp] theorem State.modCore_devIn (k : Nat) (f : Core → Core) : (s.modCore k f).devIn = s.devIn := rfl
@[simp] theorem State.modCore_devOut (k : Nat) (f : Core → Core) : (s.modCore k f).devOut = s.devOut := rfl
@[simp] theorem State.modCore_now (k : Nat) (f : Core → Core) : (s.modCore k f).now = s.now := rfl
@[simp] theorem State.modCore_mem (k : Nat) (f : Core → Core) : (s.modCore k f).mem = s.mem := rfl
@[simp] theorem State.modCore_poison (k : Nat) (f : Core → Core) : (s.modCore k f).poison = s.poison := rfl
@[simp] theorem State.modCore_tags (k : Nat) (f : Core → Core) : (s.modCore k f).tags = s.tags := rfl
@[simp] theorem State.modCore_broken (k : Nat) (f : Core → Core) : (s.modCore k f).broken = s.broken := rfl
@[simp] theorem State.modCore_strands (k : Nat) (f : Core → Core) : (s.modCore k f).strands = s.strands := rfl
@[simp] theorem State.modCore_groups (k : Nat) (f : Core → Core) : (s.modCore k f).groups = s.groups := rfl
@[simp] theorem State.modCore_gangs (k : Nat) (f : Core → Core) : (s.modCore k f).gangs = s.gangs := rfl
@[simp] theorem State.modCore_dies (k : Nat) (f : Core → Core) : (s.modCore k f).dies = s.dies := rfl
@[simp] theorem State.modCore_submits (k : Nat) (f : Core → Core) : (s.modCore k f).submits = s.submits := rfl
@[simp] theorem State.modCore_packets (k : Nat) (f : Core → Core) : (s.modCore k f).packets = s.packets := rfl
@[simp] theorem State.modCore_spaces (k : Nat) (f : Core → Core) : (s.modCore k f).spaces = s.spaces := rfl
@[simp] theorem State.modCore_ctxMap (k : Nat) (f : Core → Core) : (s.modCore k f).ctxMap = s.ctxMap := rfl
@[simp] theorem State.modCore_owners (k : Nat) (f : Core → Core) : (s.modCore k f).owners = s.owners := rfl
@[simp] theorem State.modCore_transfers (k : Nat) (f : Core → Core) : (s.modCore k f).transfers = s.transfers := rfl
@[simp] theorem State.modCore_domains (k : Nat) (f : Core → Core) : (s.modCore k f).domains = s.domains := rfl
@[simp] theorem State.modCore_peersDown (k : Nat) (f : Core → Core) : (s.modCore k f).peersDown = s.peersDown := rfl
@[simp] theorem State.modCore_vfs (k : Nat) (f : Core → Core) : (s.modCore k f).vfs = s.vfs := rfl
@[simp] theorem State.modCore_mailbox (k : Nat) (f : Core → Core) : (s.modCore k f).mailbox = s.mailbox := rfl
@[simp] theorem State.modCore_removals (k : Nat) (f : Core → Core) : (s.modCore k f).removals = s.removals := rfl
@[simp] theorem State.modCore_hostCmds (k : Nat) (f : Core → Core) : (s.modCore k f).hostCmds = s.hostCmds := rfl
@[simp] theorem State.modCore_supEnds (k : Nat) (f : Core → Core) : (s.modCore k f).supEnds = s.supEnds := rfl
@[simp] theorem State.modCore_measures (k : Nat) (f : Core → Core) : (s.modCore k f).measures = s.measures := rfl
@[simp] theorem State.modCore_certs (k : Nat) (f : Core → Core) : (s.modCore k f).certs = s.certs := rfl
@[simp] theorem State.modCore_linkRate (k : Nat) (f : Core → Core) : (s.modCore k f).linkRate = s.linkRate := rfl
@[simp] theorem State.modCore_booted (k : Nat) (f : Core → Core) : (s.modCore k f).booted = s.booted := rfl
@[simp] theorem State.modCore_migBase (k : Nat) (f : Core → Core) : (s.modCore k f).migBase = s.migBase := rfl
@[simp] theorem State.modCore_pkg (k : Nat) (f : Core → Core) : (s.modCore k f).pkg = s.pkg := rfl
@[simp] theorem State.modCore_pkgVa (k : Nat) (f : Core → Core) : (s.modCore k f).pkgVa = s.pkgVa := rfl
@[simp] theorem State.modCore_pkgPa (k : Nat) (f : Core → Core) : (s.modCore k f).pkgPa = s.pkgPa := rfl
@[simp] theorem State.modCore_objects (k : Nat) (f : Core → Core) : (s.modCore k f).objects = s.objects := rfl
@[simp] theorem State.modCore_brkMigrate (k : Nat) (f : Core → Core) : (s.modCore k f).brkMigrate = s.brkMigrate := rfl
@[simp] theorem State.modCore_breaks (k : Nat) (f : Core → Core) : (s.modCore k f).breaks = s.breaks := rfl
@[simp] theorem State.modCore_brkResume (k : Nat) (f : Core → Core) : (s.modCore k f).brkResume = s.brkResume := rfl
@[simp] theorem State.modCore_hostReads (k : Nat) (f : Core → Core) : (s.modCore k f).hostReads = s.hostReads := rfl
@[simp] theorem State.modCore_views (k : Nat) (f : Core → Core) : (s.modCore k f).views = s.views := rfl

@[simp] theorem State.modDie_agenda (k : Nat) (f : Die → Die) : (s.modDie k f).agenda = s.agenda := rfl
@[simp] theorem State.modDie_pick (k : Nat) (f : Die → Die) : (s.modDie k f).pick = s.pick := rfl
@[simp] theorem State.modDie_cur (k : Nat) (f : Die → Die) : (s.modDie k f).cur = s.cur := rfl
@[simp] theorem State.modDie_freeCtr (k : Nat) (f : Die → Die) : (s.modDie k f).freeCtr = s.freeCtr := rfl
@[simp] theorem State.modDie_seq (k : Nat) (f : Die → Die) : (s.modDie k f).seq = s.seq := rfl
@[simp] theorem State.modDie_devIn (k : Nat) (f : Die → Die) : (s.modDie k f).devIn = s.devIn := rfl
@[simp] theorem State.modDie_devOut (k : Nat) (f : Die → Die) : (s.modDie k f).devOut = s.devOut := rfl
@[simp] theorem State.modDie_now (k : Nat) (f : Die → Die) : (s.modDie k f).now = s.now := rfl
@[simp] theorem State.modDie_mem (k : Nat) (f : Die → Die) : (s.modDie k f).mem = s.mem := rfl
@[simp] theorem State.modDie_poison (k : Nat) (f : Die → Die) : (s.modDie k f).poison = s.poison := rfl
@[simp] theorem State.modDie_tags (k : Nat) (f : Die → Die) : (s.modDie k f).tags = s.tags := rfl
@[simp] theorem State.modDie_broken (k : Nat) (f : Die → Die) : (s.modDie k f).broken = s.broken := rfl
@[simp] theorem State.modDie_cores (k : Nat) (f : Die → Die) : (s.modDie k f).cores = s.cores := rfl
@[simp] theorem State.modDie_strands (k : Nat) (f : Die → Die) : (s.modDie k f).strands = s.strands := rfl
@[simp] theorem State.modDie_groups (k : Nat) (f : Die → Die) : (s.modDie k f).groups = s.groups := rfl
@[simp] theorem State.modDie_gangs (k : Nat) (f : Die → Die) : (s.modDie k f).gangs = s.gangs := rfl
@[simp] theorem State.modDie_submits (k : Nat) (f : Die → Die) : (s.modDie k f).submits = s.submits := rfl
@[simp] theorem State.modDie_packets (k : Nat) (f : Die → Die) : (s.modDie k f).packets = s.packets := rfl
@[simp] theorem State.modDie_spaces (k : Nat) (f : Die → Die) : (s.modDie k f).spaces = s.spaces := rfl
@[simp] theorem State.modDie_ctxMap (k : Nat) (f : Die → Die) : (s.modDie k f).ctxMap = s.ctxMap := rfl
@[simp] theorem State.modDie_owners (k : Nat) (f : Die → Die) : (s.modDie k f).owners = s.owners := rfl
@[simp] theorem State.modDie_transfers (k : Nat) (f : Die → Die) : (s.modDie k f).transfers = s.transfers := rfl
@[simp] theorem State.modDie_domains (k : Nat) (f : Die → Die) : (s.modDie k f).domains = s.domains := rfl
@[simp] theorem State.modDie_peersDown (k : Nat) (f : Die → Die) : (s.modDie k f).peersDown = s.peersDown := rfl
@[simp] theorem State.modDie_vfs (k : Nat) (f : Die → Die) : (s.modDie k f).vfs = s.vfs := rfl
@[simp] theorem State.modDie_mailbox (k : Nat) (f : Die → Die) : (s.modDie k f).mailbox = s.mailbox := rfl
@[simp] theorem State.modDie_removals (k : Nat) (f : Die → Die) : (s.modDie k f).removals = s.removals := rfl
@[simp] theorem State.modDie_hostCmds (k : Nat) (f : Die → Die) : (s.modDie k f).hostCmds = s.hostCmds := rfl
@[simp] theorem State.modDie_supEnds (k : Nat) (f : Die → Die) : (s.modDie k f).supEnds = s.supEnds := rfl
@[simp] theorem State.modDie_measures (k : Nat) (f : Die → Die) : (s.modDie k f).measures = s.measures := rfl
@[simp] theorem State.modDie_certs (k : Nat) (f : Die → Die) : (s.modDie k f).certs = s.certs := rfl
@[simp] theorem State.modDie_linkRate (k : Nat) (f : Die → Die) : (s.modDie k f).linkRate = s.linkRate := rfl
@[simp] theorem State.modDie_booted (k : Nat) (f : Die → Die) : (s.modDie k f).booted = s.booted := rfl
@[simp] theorem State.modDie_migBase (k : Nat) (f : Die → Die) : (s.modDie k f).migBase = s.migBase := rfl
@[simp] theorem State.modDie_pkg (k : Nat) (f : Die → Die) : (s.modDie k f).pkg = s.pkg := rfl
@[simp] theorem State.modDie_pkgVa (k : Nat) (f : Die → Die) : (s.modDie k f).pkgVa = s.pkgVa := rfl
@[simp] theorem State.modDie_pkgPa (k : Nat) (f : Die → Die) : (s.modDie k f).pkgPa = s.pkgPa := rfl
@[simp] theorem State.modDie_objects (k : Nat) (f : Die → Die) : (s.modDie k f).objects = s.objects := rfl
@[simp] theorem State.modDie_brkMigrate (k : Nat) (f : Die → Die) : (s.modDie k f).brkMigrate = s.brkMigrate := rfl
@[simp] theorem State.modDie_breaks (k : Nat) (f : Die → Die) : (s.modDie k f).breaks = s.breaks := rfl
@[simp] theorem State.modDie_brkResume (k : Nat) (f : Die → Die) : (s.modDie k f).brkResume = s.brkResume := rfl
@[simp] theorem State.modDie_hostReads (k : Nat) (f : Die → Die) : (s.modDie k f).hostReads = s.hostReads := rfl
@[simp] theorem State.modDie_views (k : Nat) (f : Die → Die) : (s.modDie k f).views = s.views := rfl

@[simp] theorem State.modMx_agenda (k : Nat) (f : Matrix → Matrix) : (s.modMx k f).agenda = s.agenda := rfl
@[simp] theorem State.modMx_pick (k : Nat) (f : Matrix → Matrix) : (s.modMx k f).pick = s.pick := rfl
@[simp] theorem State.modMx_cur (k : Nat) (f : Matrix → Matrix) : (s.modMx k f).cur = s.cur := rfl
@[simp] theorem State.modMx_freeCtr (k : Nat) (f : Matrix → Matrix) : (s.modMx k f).freeCtr = s.freeCtr := rfl
@[simp] theorem State.modMx_seq (k : Nat) (f : Matrix → Matrix) : (s.modMx k f).seq = s.seq := rfl
@[simp] theorem State.modMx_devIn (k : Nat) (f : Matrix → Matrix) : (s.modMx k f).devIn = s.devIn := rfl
@[simp] theorem State.modMx_devOut (k : Nat) (f : Matrix → Matrix) : (s.modMx k f).devOut = s.devOut := rfl
@[simp] theorem State.modMx_now (k : Nat) (f : Matrix → Matrix) : (s.modMx k f).now = s.now := rfl
@[simp] theorem State.modMx_mem (k : Nat) (f : Matrix → Matrix) : (s.modMx k f).mem = s.mem := rfl
@[simp] theorem State.modMx_poison (k : Nat) (f : Matrix → Matrix) : (s.modMx k f).poison = s.poison := rfl
@[simp] theorem State.modMx_tags (k : Nat) (f : Matrix → Matrix) : (s.modMx k f).tags = s.tags := rfl
@[simp] theorem State.modMx_broken (k : Nat) (f : Matrix → Matrix) : (s.modMx k f).broken = s.broken := rfl
@[simp] theorem State.modMx_strands (k : Nat) (f : Matrix → Matrix) : (s.modMx k f).strands = s.strands := rfl
@[simp] theorem State.modMx_groups (k : Nat) (f : Matrix → Matrix) : (s.modMx k f).groups = s.groups := rfl
@[simp] theorem State.modMx_gangs (k : Nat) (f : Matrix → Matrix) : (s.modMx k f).gangs = s.gangs := rfl
@[simp] theorem State.modMx_dies (k : Nat) (f : Matrix → Matrix) : (s.modMx k f).dies = s.dies := rfl
@[simp] theorem State.modMx_submits (k : Nat) (f : Matrix → Matrix) : (s.modMx k f).submits = s.submits := rfl
@[simp] theorem State.modMx_packets (k : Nat) (f : Matrix → Matrix) : (s.modMx k f).packets = s.packets := rfl
@[simp] theorem State.modMx_spaces (k : Nat) (f : Matrix → Matrix) : (s.modMx k f).spaces = s.spaces := rfl
@[simp] theorem State.modMx_ctxMap (k : Nat) (f : Matrix → Matrix) : (s.modMx k f).ctxMap = s.ctxMap := rfl
@[simp] theorem State.modMx_owners (k : Nat) (f : Matrix → Matrix) : (s.modMx k f).owners = s.owners := rfl
@[simp] theorem State.modMx_transfers (k : Nat) (f : Matrix → Matrix) : (s.modMx k f).transfers = s.transfers := rfl
@[simp] theorem State.modMx_domains (k : Nat) (f : Matrix → Matrix) : (s.modMx k f).domains = s.domains := rfl
@[simp] theorem State.modMx_peersDown (k : Nat) (f : Matrix → Matrix) : (s.modMx k f).peersDown = s.peersDown := rfl
@[simp] theorem State.modMx_vfs (k : Nat) (f : Matrix → Matrix) : (s.modMx k f).vfs = s.vfs := rfl
@[simp] theorem State.modMx_mailbox (k : Nat) (f : Matrix → Matrix) : (s.modMx k f).mailbox = s.mailbox := rfl
@[simp] theorem State.modMx_removals (k : Nat) (f : Matrix → Matrix) : (s.modMx k f).removals = s.removals := rfl
@[simp] theorem State.modMx_hostCmds (k : Nat) (f : Matrix → Matrix) : (s.modMx k f).hostCmds = s.hostCmds := rfl
@[simp] theorem State.modMx_supEnds (k : Nat) (f : Matrix → Matrix) : (s.modMx k f).supEnds = s.supEnds := rfl
@[simp] theorem State.modMx_measures (k : Nat) (f : Matrix → Matrix) : (s.modMx k f).measures = s.measures := rfl
@[simp] theorem State.modMx_certs (k : Nat) (f : Matrix → Matrix) : (s.modMx k f).certs = s.certs := rfl
@[simp] theorem State.modMx_linkRate (k : Nat) (f : Matrix → Matrix) : (s.modMx k f).linkRate = s.linkRate := rfl
@[simp] theorem State.modMx_booted (k : Nat) (f : Matrix → Matrix) : (s.modMx k f).booted = s.booted := rfl
@[simp] theorem State.modMx_migBase (k : Nat) (f : Matrix → Matrix) : (s.modMx k f).migBase = s.migBase := rfl
@[simp] theorem State.modMx_pkg (k : Nat) (f : Matrix → Matrix) : (s.modMx k f).pkg = s.pkg := rfl
@[simp] theorem State.modMx_pkgVa (k : Nat) (f : Matrix → Matrix) : (s.modMx k f).pkgVa = s.pkgVa := rfl
@[simp] theorem State.modMx_pkgPa (k : Nat) (f : Matrix → Matrix) : (s.modMx k f).pkgPa = s.pkgPa := rfl
@[simp] theorem State.modMx_objects (k : Nat) (f : Matrix → Matrix) : (s.modMx k f).objects = s.objects := rfl
@[simp] theorem State.modMx_brkMigrate (k : Nat) (f : Matrix → Matrix) : (s.modMx k f).brkMigrate = s.brkMigrate := rfl
@[simp] theorem State.modMx_breaks (k : Nat) (f : Matrix → Matrix) : (s.modMx k f).breaks = s.breaks := rfl
@[simp] theorem State.modMx_brkResume (k : Nat) (f : Matrix → Matrix) : (s.modMx k f).brkResume = s.brkResume := rfl
@[simp] theorem State.modMx_hostReads (k : Nat) (f : Matrix → Matrix) : (s.modMx k f).hostReads = s.hostReads := rfl
@[simp] theorem State.modMx_views (k : Nat) (f : Matrix → Matrix) : (s.modMx k f).views = s.views := rfl

@[simp] theorem State.modGroup_agenda (k : Nat) (f : Group → Group) : (s.modGroup k f).agenda = s.agenda := by
  unfold State.modGroup; split <;> rfl
@[simp] theorem State.modGroup_pick (k : Nat) (f : Group → Group) : (s.modGroup k f).pick = s.pick := by
  unfold State.modGroup; split <;> rfl
@[simp] theorem State.modGroup_cur (k : Nat) (f : Group → Group) : (s.modGroup k f).cur = s.cur := by
  unfold State.modGroup; split <;> rfl
@[simp] theorem State.modGroup_freeCtr (k : Nat) (f : Group → Group) : (s.modGroup k f).freeCtr = s.freeCtr := by
  unfold State.modGroup; split <;> rfl
@[simp] theorem State.modGroup_seq (k : Nat) (f : Group → Group) : (s.modGroup k f).seq = s.seq := by
  unfold State.modGroup; split <;> rfl
@[simp] theorem State.modGroup_devIn (k : Nat) (f : Group → Group) : (s.modGroup k f).devIn = s.devIn := by
  unfold State.modGroup; split <;> rfl
@[simp] theorem State.modGroup_devOut (k : Nat) (f : Group → Group) : (s.modGroup k f).devOut = s.devOut := by
  unfold State.modGroup; split <;> rfl
@[simp] theorem State.modGroup_now (k : Nat) (f : Group → Group) : (s.modGroup k f).now = s.now := by
  unfold State.modGroup; split <;> rfl
@[simp] theorem State.modGroup_mem (k : Nat) (f : Group → Group) : (s.modGroup k f).mem = s.mem := by
  unfold State.modGroup; split <;> rfl
@[simp] theorem State.modGroup_poison (k : Nat) (f : Group → Group) : (s.modGroup k f).poison = s.poison := by
  unfold State.modGroup; split <;> rfl
@[simp] theorem State.modGroup_tags (k : Nat) (f : Group → Group) : (s.modGroup k f).tags = s.tags := by
  unfold State.modGroup; split <;> rfl
@[simp] theorem State.modGroup_broken (k : Nat) (f : Group → Group) : (s.modGroup k f).broken = s.broken := by
  unfold State.modGroup; split <;> rfl
@[simp] theorem State.modGroup_cores (k : Nat) (f : Group → Group) : (s.modGroup k f).cores = s.cores := by
  unfold State.modGroup; split <;> rfl
@[simp] theorem State.modGroup_strands (k : Nat) (f : Group → Group) : (s.modGroup k f).strands = s.strands := by
  unfold State.modGroup; split <;> rfl
@[simp] theorem State.modGroup_gangs (k : Nat) (f : Group → Group) : (s.modGroup k f).gangs = s.gangs := by
  unfold State.modGroup; split <;> rfl
@[simp] theorem State.modGroup_dies (k : Nat) (f : Group → Group) : (s.modGroup k f).dies = s.dies := by
  unfold State.modGroup; split <;> rfl
@[simp] theorem State.modGroup_submits (k : Nat) (f : Group → Group) : (s.modGroup k f).submits = s.submits := by
  unfold State.modGroup; split <;> rfl
@[simp] theorem State.modGroup_packets (k : Nat) (f : Group → Group) : (s.modGroup k f).packets = s.packets := by
  unfold State.modGroup; split <;> rfl
@[simp] theorem State.modGroup_spaces (k : Nat) (f : Group → Group) : (s.modGroup k f).spaces = s.spaces := by
  unfold State.modGroup; split <;> rfl
@[simp] theorem State.modGroup_ctxMap (k : Nat) (f : Group → Group) : (s.modGroup k f).ctxMap = s.ctxMap := by
  unfold State.modGroup; split <;> rfl
@[simp] theorem State.modGroup_owners (k : Nat) (f : Group → Group) : (s.modGroup k f).owners = s.owners := by
  unfold State.modGroup; split <;> rfl
@[simp] theorem State.modGroup_transfers (k : Nat) (f : Group → Group) : (s.modGroup k f).transfers = s.transfers := by
  unfold State.modGroup; split <;> rfl
@[simp] theorem State.modGroup_domains (k : Nat) (f : Group → Group) : (s.modGroup k f).domains = s.domains := by
  unfold State.modGroup; split <;> rfl
@[simp] theorem State.modGroup_peersDown (k : Nat) (f : Group → Group) : (s.modGroup k f).peersDown = s.peersDown := by
  unfold State.modGroup; split <;> rfl
@[simp] theorem State.modGroup_vfs (k : Nat) (f : Group → Group) : (s.modGroup k f).vfs = s.vfs := by
  unfold State.modGroup; split <;> rfl
@[simp] theorem State.modGroup_mailbox (k : Nat) (f : Group → Group) : (s.modGroup k f).mailbox = s.mailbox := by
  unfold State.modGroup; split <;> rfl
@[simp] theorem State.modGroup_removals (k : Nat) (f : Group → Group) : (s.modGroup k f).removals = s.removals := by
  unfold State.modGroup; split <;> rfl
@[simp] theorem State.modGroup_hostCmds (k : Nat) (f : Group → Group) : (s.modGroup k f).hostCmds = s.hostCmds := by
  unfold State.modGroup; split <;> rfl
@[simp] theorem State.modGroup_supEnds (k : Nat) (f : Group → Group) : (s.modGroup k f).supEnds = s.supEnds := by
  unfold State.modGroup; split <;> rfl
@[simp] theorem State.modGroup_measures (k : Nat) (f : Group → Group) : (s.modGroup k f).measures = s.measures := by
  unfold State.modGroup; split <;> rfl
@[simp] theorem State.modGroup_certs (k : Nat) (f : Group → Group) : (s.modGroup k f).certs = s.certs := by
  unfold State.modGroup; split <;> rfl
@[simp] theorem State.modGroup_linkRate (k : Nat) (f : Group → Group) : (s.modGroup k f).linkRate = s.linkRate := by
  unfold State.modGroup; split <;> rfl
@[simp] theorem State.modGroup_booted (k : Nat) (f : Group → Group) : (s.modGroup k f).booted = s.booted := by
  unfold State.modGroup; split <;> rfl
@[simp] theorem State.modGroup_migBase (k : Nat) (f : Group → Group) : (s.modGroup k f).migBase = s.migBase := by
  unfold State.modGroup; split <;> rfl
@[simp] theorem State.modGroup_pkg (k : Nat) (f : Group → Group) : (s.modGroup k f).pkg = s.pkg := by
  unfold State.modGroup; split <;> rfl
@[simp] theorem State.modGroup_pkgVa (k : Nat) (f : Group → Group) : (s.modGroup k f).pkgVa = s.pkgVa := by
  unfold State.modGroup; split <;> rfl
@[simp] theorem State.modGroup_pkgPa (k : Nat) (f : Group → Group) : (s.modGroup k f).pkgPa = s.pkgPa := by
  unfold State.modGroup; split <;> rfl
@[simp] theorem State.modGroup_objects (k : Nat) (f : Group → Group) : (s.modGroup k f).objects = s.objects := by
  unfold State.modGroup; split <;> rfl
@[simp] theorem State.modGroup_brkMigrate (k : Nat) (f : Group → Group) : (s.modGroup k f).brkMigrate = s.brkMigrate := by
  unfold State.modGroup; split <;> rfl
@[simp] theorem State.modGroup_breaks (k : Nat) (f : Group → Group) : (s.modGroup k f).breaks = s.breaks := by
  unfold State.modGroup; split <;> rfl
@[simp] theorem State.modGroup_brkResume (k : Nat) (f : Group → Group) : (s.modGroup k f).brkResume = s.brkResume := by
  unfold State.modGroup; split <;> rfl
@[simp] theorem State.modGroup_hostReads (k : Nat) (f : Group → Group) : (s.modGroup k f).hostReads = s.hostReads := by
  unfold State.modGroup; split <;> rfl
@[simp] theorem State.modGroup_views (k : Nat) (f : Group → Group) : (s.modGroup k f).views = s.views := by
  unfold State.modGroup; split <;> rfl

@[simp] theorem State.modGang_agenda (k : Nat) (f : Gang → Gang) : (s.modGang k f).agenda = s.agenda := by
  unfold State.modGang; split <;> rfl
@[simp] theorem State.modGang_pick (k : Nat) (f : Gang → Gang) : (s.modGang k f).pick = s.pick := by
  unfold State.modGang; split <;> rfl
@[simp] theorem State.modGang_cur (k : Nat) (f : Gang → Gang) : (s.modGang k f).cur = s.cur := by
  unfold State.modGang; split <;> rfl
@[simp] theorem State.modGang_freeCtr (k : Nat) (f : Gang → Gang) : (s.modGang k f).freeCtr = s.freeCtr := by
  unfold State.modGang; split <;> rfl
@[simp] theorem State.modGang_seq (k : Nat) (f : Gang → Gang) : (s.modGang k f).seq = s.seq := by
  unfold State.modGang; split <;> rfl
@[simp] theorem State.modGang_devIn (k : Nat) (f : Gang → Gang) : (s.modGang k f).devIn = s.devIn := by
  unfold State.modGang; split <;> rfl
@[simp] theorem State.modGang_devOut (k : Nat) (f : Gang → Gang) : (s.modGang k f).devOut = s.devOut := by
  unfold State.modGang; split <;> rfl
@[simp] theorem State.modGang_now (k : Nat) (f : Gang → Gang) : (s.modGang k f).now = s.now := by
  unfold State.modGang; split <;> rfl
@[simp] theorem State.modGang_mem (k : Nat) (f : Gang → Gang) : (s.modGang k f).mem = s.mem := by
  unfold State.modGang; split <;> rfl
@[simp] theorem State.modGang_poison (k : Nat) (f : Gang → Gang) : (s.modGang k f).poison = s.poison := by
  unfold State.modGang; split <;> rfl
@[simp] theorem State.modGang_tags (k : Nat) (f : Gang → Gang) : (s.modGang k f).tags = s.tags := by
  unfold State.modGang; split <;> rfl
@[simp] theorem State.modGang_broken (k : Nat) (f : Gang → Gang) : (s.modGang k f).broken = s.broken := by
  unfold State.modGang; split <;> rfl
@[simp] theorem State.modGang_cores (k : Nat) (f : Gang → Gang) : (s.modGang k f).cores = s.cores := by
  unfold State.modGang; split <;> rfl
@[simp] theorem State.modGang_strands (k : Nat) (f : Gang → Gang) : (s.modGang k f).strands = s.strands := by
  unfold State.modGang; split <;> rfl
@[simp] theorem State.modGang_groups (k : Nat) (f : Gang → Gang) : (s.modGang k f).groups = s.groups := by
  unfold State.modGang; split <;> rfl
@[simp] theorem State.modGang_dies (k : Nat) (f : Gang → Gang) : (s.modGang k f).dies = s.dies := by
  unfold State.modGang; split <;> rfl
@[simp] theorem State.modGang_submits (k : Nat) (f : Gang → Gang) : (s.modGang k f).submits = s.submits := by
  unfold State.modGang; split <;> rfl
@[simp] theorem State.modGang_packets (k : Nat) (f : Gang → Gang) : (s.modGang k f).packets = s.packets := by
  unfold State.modGang; split <;> rfl
@[simp] theorem State.modGang_spaces (k : Nat) (f : Gang → Gang) : (s.modGang k f).spaces = s.spaces := by
  unfold State.modGang; split <;> rfl
@[simp] theorem State.modGang_ctxMap (k : Nat) (f : Gang → Gang) : (s.modGang k f).ctxMap = s.ctxMap := by
  unfold State.modGang; split <;> rfl
@[simp] theorem State.modGang_owners (k : Nat) (f : Gang → Gang) : (s.modGang k f).owners = s.owners := by
  unfold State.modGang; split <;> rfl
@[simp] theorem State.modGang_transfers (k : Nat) (f : Gang → Gang) : (s.modGang k f).transfers = s.transfers := by
  unfold State.modGang; split <;> rfl
@[simp] theorem State.modGang_domains (k : Nat) (f : Gang → Gang) : (s.modGang k f).domains = s.domains := by
  unfold State.modGang; split <;> rfl
@[simp] theorem State.modGang_peersDown (k : Nat) (f : Gang → Gang) : (s.modGang k f).peersDown = s.peersDown := by
  unfold State.modGang; split <;> rfl
@[simp] theorem State.modGang_vfs (k : Nat) (f : Gang → Gang) : (s.modGang k f).vfs = s.vfs := by
  unfold State.modGang; split <;> rfl
@[simp] theorem State.modGang_mailbox (k : Nat) (f : Gang → Gang) : (s.modGang k f).mailbox = s.mailbox := by
  unfold State.modGang; split <;> rfl
@[simp] theorem State.modGang_removals (k : Nat) (f : Gang → Gang) : (s.modGang k f).removals = s.removals := by
  unfold State.modGang; split <;> rfl
@[simp] theorem State.modGang_hostCmds (k : Nat) (f : Gang → Gang) : (s.modGang k f).hostCmds = s.hostCmds := by
  unfold State.modGang; split <;> rfl
@[simp] theorem State.modGang_supEnds (k : Nat) (f : Gang → Gang) : (s.modGang k f).supEnds = s.supEnds := by
  unfold State.modGang; split <;> rfl
@[simp] theorem State.modGang_measures (k : Nat) (f : Gang → Gang) : (s.modGang k f).measures = s.measures := by
  unfold State.modGang; split <;> rfl
@[simp] theorem State.modGang_certs (k : Nat) (f : Gang → Gang) : (s.modGang k f).certs = s.certs := by
  unfold State.modGang; split <;> rfl
@[simp] theorem State.modGang_linkRate (k : Nat) (f : Gang → Gang) : (s.modGang k f).linkRate = s.linkRate := by
  unfold State.modGang; split <;> rfl
@[simp] theorem State.modGang_booted (k : Nat) (f : Gang → Gang) : (s.modGang k f).booted = s.booted := by
  unfold State.modGang; split <;> rfl
@[simp] theorem State.modGang_migBase (k : Nat) (f : Gang → Gang) : (s.modGang k f).migBase = s.migBase := by
  unfold State.modGang; split <;> rfl
@[simp] theorem State.modGang_pkg (k : Nat) (f : Gang → Gang) : (s.modGang k f).pkg = s.pkg := by
  unfold State.modGang; split <;> rfl
@[simp] theorem State.modGang_pkgVa (k : Nat) (f : Gang → Gang) : (s.modGang k f).pkgVa = s.pkgVa := by
  unfold State.modGang; split <;> rfl
@[simp] theorem State.modGang_pkgPa (k : Nat) (f : Gang → Gang) : (s.modGang k f).pkgPa = s.pkgPa := by
  unfold State.modGang; split <;> rfl
@[simp] theorem State.modGang_objects (k : Nat) (f : Gang → Gang) : (s.modGang k f).objects = s.objects := by
  unfold State.modGang; split <;> rfl
@[simp] theorem State.modGang_brkMigrate (k : Nat) (f : Gang → Gang) : (s.modGang k f).brkMigrate = s.brkMigrate := by
  unfold State.modGang; split <;> rfl
@[simp] theorem State.modGang_breaks (k : Nat) (f : Gang → Gang) : (s.modGang k f).breaks = s.breaks := by
  unfold State.modGang; split <;> rfl
@[simp] theorem State.modGang_brkResume (k : Nat) (f : Gang → Gang) : (s.modGang k f).brkResume = s.brkResume := by
  unfold State.modGang; split <;> rfl
@[simp] theorem State.modGang_hostReads (k : Nat) (f : Gang → Gang) : (s.modGang k f).hostReads = s.hostReads := by
  unfold State.modGang; split <;> rfl
@[simp] theorem State.modGang_views (k : Nat) (f : Gang → Gang) : (s.modGang k f).views = s.views := by
  unfold State.modGang; split <;> rfl

@[simp] theorem State.wx_agenda (r : Reg) (v : Word) (p : Bool) : (s.wx r v p).agenda = s.agenda := rfl
@[simp] theorem State.wx_pick (r : Reg) (v : Word) (p : Bool) : (s.wx r v p).pick = s.pick := rfl
@[simp] theorem State.wx_cur (r : Reg) (v : Word) (p : Bool) : (s.wx r v p).cur = s.cur := rfl
@[simp] theorem State.wx_freeCtr (r : Reg) (v : Word) (p : Bool) : (s.wx r v p).freeCtr = s.freeCtr := rfl
@[simp] theorem State.wx_seq (r : Reg) (v : Word) (p : Bool) : (s.wx r v p).seq = s.seq := rfl
@[simp] theorem State.wx_devIn (r : Reg) (v : Word) (p : Bool) : (s.wx r v p).devIn = s.devIn := rfl
@[simp] theorem State.wx_devOut (r : Reg) (v : Word) (p : Bool) : (s.wx r v p).devOut = s.devOut := rfl
@[simp] theorem State.wx_now (r : Reg) (v : Word) (p : Bool) : (s.wx r v p).now = s.now := rfl
@[simp] theorem State.wx_mem (r : Reg) (v : Word) (p : Bool) : (s.wx r v p).mem = s.mem := rfl
@[simp] theorem State.wx_poison (r : Reg) (v : Word) (p : Bool) : (s.wx r v p).poison = s.poison := rfl
@[simp] theorem State.wx_tags (r : Reg) (v : Word) (p : Bool) : (s.wx r v p).tags = s.tags := rfl
@[simp] theorem State.wx_broken (r : Reg) (v : Word) (p : Bool) : (s.wx r v p).broken = s.broken := rfl
@[simp] theorem State.wx_cores (r : Reg) (v : Word) (p : Bool) : (s.wx r v p).cores = s.cores := rfl
@[simp] theorem State.wx_groups (r : Reg) (v : Word) (p : Bool) : (s.wx r v p).groups = s.groups := rfl
@[simp] theorem State.wx_gangs (r : Reg) (v : Word) (p : Bool) : (s.wx r v p).gangs = s.gangs := rfl
@[simp] theorem State.wx_dies (r : Reg) (v : Word) (p : Bool) : (s.wx r v p).dies = s.dies := rfl
@[simp] theorem State.wx_submits (r : Reg) (v : Word) (p : Bool) : (s.wx r v p).submits = s.submits := rfl
@[simp] theorem State.wx_packets (r : Reg) (v : Word) (p : Bool) : (s.wx r v p).packets = s.packets := rfl
@[simp] theorem State.wx_spaces (r : Reg) (v : Word) (p : Bool) : (s.wx r v p).spaces = s.spaces := rfl
@[simp] theorem State.wx_ctxMap (r : Reg) (v : Word) (p : Bool) : (s.wx r v p).ctxMap = s.ctxMap := rfl
@[simp] theorem State.wx_owners (r : Reg) (v : Word) (p : Bool) : (s.wx r v p).owners = s.owners := rfl
@[simp] theorem State.wx_transfers (r : Reg) (v : Word) (p : Bool) : (s.wx r v p).transfers = s.transfers := rfl
@[simp] theorem State.wx_domains (r : Reg) (v : Word) (p : Bool) : (s.wx r v p).domains = s.domains := rfl
@[simp] theorem State.wx_peersDown (r : Reg) (v : Word) (p : Bool) : (s.wx r v p).peersDown = s.peersDown := rfl
@[simp] theorem State.wx_vfs (r : Reg) (v : Word) (p : Bool) : (s.wx r v p).vfs = s.vfs := rfl
@[simp] theorem State.wx_mailbox (r : Reg) (v : Word) (p : Bool) : (s.wx r v p).mailbox = s.mailbox := rfl
@[simp] theorem State.wx_removals (r : Reg) (v : Word) (p : Bool) : (s.wx r v p).removals = s.removals := rfl
@[simp] theorem State.wx_hostCmds (r : Reg) (v : Word) (p : Bool) : (s.wx r v p).hostCmds = s.hostCmds := rfl
@[simp] theorem State.wx_supEnds (r : Reg) (v : Word) (p : Bool) : (s.wx r v p).supEnds = s.supEnds := rfl
@[simp] theorem State.wx_measures (r : Reg) (v : Word) (p : Bool) : (s.wx r v p).measures = s.measures := rfl
@[simp] theorem State.wx_certs (r : Reg) (v : Word) (p : Bool) : (s.wx r v p).certs = s.certs := rfl
@[simp] theorem State.wx_linkRate (r : Reg) (v : Word) (p : Bool) : (s.wx r v p).linkRate = s.linkRate := rfl
@[simp] theorem State.wx_booted (r : Reg) (v : Word) (p : Bool) : (s.wx r v p).booted = s.booted := rfl
@[simp] theorem State.wx_migBase (r : Reg) (v : Word) (p : Bool) : (s.wx r v p).migBase = s.migBase := rfl
@[simp] theorem State.wx_pkg (r : Reg) (v : Word) (p : Bool) : (s.wx r v p).pkg = s.pkg := rfl
@[simp] theorem State.wx_pkgVa (r : Reg) (v : Word) (p : Bool) : (s.wx r v p).pkgVa = s.pkgVa := rfl
@[simp] theorem State.wx_pkgPa (r : Reg) (v : Word) (p : Bool) : (s.wx r v p).pkgPa = s.pkgPa := rfl
@[simp] theorem State.wx_objects (r : Reg) (v : Word) (p : Bool) : (s.wx r v p).objects = s.objects := rfl
@[simp] theorem State.wx_brkMigrate (r : Reg) (v : Word) (p : Bool) : (s.wx r v p).brkMigrate = s.brkMigrate := rfl
@[simp] theorem State.wx_breaks (r : Reg) (v : Word) (p : Bool) : (s.wx r v p).breaks = s.breaks := rfl
@[simp] theorem State.wx_brkResume (r : Reg) (v : Word) (p : Bool) : (s.wx r v p).brkResume = s.brkResume := rfl
@[simp] theorem State.wx_hostReads (r : Reg) (v : Word) (p : Bool) : (s.wx r v p).hostReads = s.hostReads := rfl
@[simp] theorem State.wx_views (r : Reg) (v : Word) (p : Bool) : (s.wx r v p).views = s.views := rfl

@[simp] theorem State.adv_agenda (n : Nat) : (s.adv n).agenda = s.agenda := rfl
@[simp] theorem State.adv_pick (n : Nat) : (s.adv n).pick = s.pick := rfl
@[simp] theorem State.adv_cur (n : Nat) : (s.adv n).cur = s.cur := rfl
@[simp] theorem State.adv_freeCtr (n : Nat) : (s.adv n).freeCtr = s.freeCtr := rfl
@[simp] theorem State.adv_seq (n : Nat) : (s.adv n).seq = s.seq := rfl
@[simp] theorem State.adv_devIn (n : Nat) : (s.adv n).devIn = s.devIn := rfl
@[simp] theorem State.adv_devOut (n : Nat) : (s.adv n).devOut = s.devOut := rfl
@[simp] theorem State.adv_now (n : Nat) : (s.adv n).now = s.now := rfl
@[simp] theorem State.adv_mem (n : Nat) : (s.adv n).mem = s.mem := rfl
@[simp] theorem State.adv_poison (n : Nat) : (s.adv n).poison = s.poison := rfl
@[simp] theorem State.adv_tags (n : Nat) : (s.adv n).tags = s.tags := rfl
@[simp] theorem State.adv_broken (n : Nat) : (s.adv n).broken = s.broken := rfl
@[simp] theorem State.adv_cores (n : Nat) : (s.adv n).cores = s.cores := rfl
@[simp] theorem State.adv_groups (n : Nat) : (s.adv n).groups = s.groups := rfl
@[simp] theorem State.adv_gangs (n : Nat) : (s.adv n).gangs = s.gangs := rfl
@[simp] theorem State.adv_dies (n : Nat) : (s.adv n).dies = s.dies := rfl
@[simp] theorem State.adv_submits (n : Nat) : (s.adv n).submits = s.submits := rfl
@[simp] theorem State.adv_packets (n : Nat) : (s.adv n).packets = s.packets := rfl
@[simp] theorem State.adv_spaces (n : Nat) : (s.adv n).spaces = s.spaces := rfl
@[simp] theorem State.adv_ctxMap (n : Nat) : (s.adv n).ctxMap = s.ctxMap := rfl
@[simp] theorem State.adv_owners (n : Nat) : (s.adv n).owners = s.owners := rfl
@[simp] theorem State.adv_transfers (n : Nat) : (s.adv n).transfers = s.transfers := rfl
@[simp] theorem State.adv_domains (n : Nat) : (s.adv n).domains = s.domains := rfl
@[simp] theorem State.adv_peersDown (n : Nat) : (s.adv n).peersDown = s.peersDown := rfl
@[simp] theorem State.adv_vfs (n : Nat) : (s.adv n).vfs = s.vfs := rfl
@[simp] theorem State.adv_mailbox (n : Nat) : (s.adv n).mailbox = s.mailbox := rfl
@[simp] theorem State.adv_removals (n : Nat) : (s.adv n).removals = s.removals := rfl
@[simp] theorem State.adv_hostCmds (n : Nat) : (s.adv n).hostCmds = s.hostCmds := rfl
@[simp] theorem State.adv_supEnds (n : Nat) : (s.adv n).supEnds = s.supEnds := rfl
@[simp] theorem State.adv_measures (n : Nat) : (s.adv n).measures = s.measures := rfl
@[simp] theorem State.adv_certs (n : Nat) : (s.adv n).certs = s.certs := rfl
@[simp] theorem State.adv_linkRate (n : Nat) : (s.adv n).linkRate = s.linkRate := rfl
@[simp] theorem State.adv_booted (n : Nat) : (s.adv n).booted = s.booted := rfl
@[simp] theorem State.adv_migBase (n : Nat) : (s.adv n).migBase = s.migBase := rfl
@[simp] theorem State.adv_pkg (n : Nat) : (s.adv n).pkg = s.pkg := rfl
@[simp] theorem State.adv_pkgVa (n : Nat) : (s.adv n).pkgVa = s.pkgVa := rfl
@[simp] theorem State.adv_pkgPa (n : Nat) : (s.adv n).pkgPa = s.pkgPa := rfl
@[simp] theorem State.adv_objects (n : Nat) : (s.adv n).objects = s.objects := rfl
@[simp] theorem State.adv_brkMigrate (n : Nat) : (s.adv n).brkMigrate = s.brkMigrate := rfl
@[simp] theorem State.adv_breaks (n : Nat) : (s.adv n).breaks = s.breaks := rfl
@[simp] theorem State.adv_brkResume (n : Nat) : (s.adv n).brkResume = s.brkResume := rfl
@[simp] theorem State.adv_hostReads (n : Nat) : (s.adv n).hostReads = s.hostReads := rfl
@[simp] theorem State.adv_views (n : Nat) : (s.adv n).views = s.views := rfl

@[simp] theorem State.goto_agenda (a : Word) : (s.goto a).agenda = s.agenda := rfl
@[simp] theorem State.goto_pick (a : Word) : (s.goto a).pick = s.pick := rfl
@[simp] theorem State.goto_cur (a : Word) : (s.goto a).cur = s.cur := rfl
@[simp] theorem State.goto_freeCtr (a : Word) : (s.goto a).freeCtr = s.freeCtr := rfl
@[simp] theorem State.goto_seq (a : Word) : (s.goto a).seq = s.seq := rfl
@[simp] theorem State.goto_devIn (a : Word) : (s.goto a).devIn = s.devIn := rfl
@[simp] theorem State.goto_devOut (a : Word) : (s.goto a).devOut = s.devOut := rfl
@[simp] theorem State.goto_now (a : Word) : (s.goto a).now = s.now := rfl
@[simp] theorem State.goto_mem (a : Word) : (s.goto a).mem = s.mem := rfl
@[simp] theorem State.goto_poison (a : Word) : (s.goto a).poison = s.poison := rfl
@[simp] theorem State.goto_tags (a : Word) : (s.goto a).tags = s.tags := rfl
@[simp] theorem State.goto_broken (a : Word) : (s.goto a).broken = s.broken := rfl
@[simp] theorem State.goto_cores (a : Word) : (s.goto a).cores = s.cores := rfl
@[simp] theorem State.goto_groups (a : Word) : (s.goto a).groups = s.groups := rfl
@[simp] theorem State.goto_gangs (a : Word) : (s.goto a).gangs = s.gangs := rfl
@[simp] theorem State.goto_dies (a : Word) : (s.goto a).dies = s.dies := rfl
@[simp] theorem State.goto_submits (a : Word) : (s.goto a).submits = s.submits := rfl
@[simp] theorem State.goto_packets (a : Word) : (s.goto a).packets = s.packets := rfl
@[simp] theorem State.goto_spaces (a : Word) : (s.goto a).spaces = s.spaces := rfl
@[simp] theorem State.goto_ctxMap (a : Word) : (s.goto a).ctxMap = s.ctxMap := rfl
@[simp] theorem State.goto_owners (a : Word) : (s.goto a).owners = s.owners := rfl
@[simp] theorem State.goto_transfers (a : Word) : (s.goto a).transfers = s.transfers := rfl
@[simp] theorem State.goto_domains (a : Word) : (s.goto a).domains = s.domains := rfl
@[simp] theorem State.goto_peersDown (a : Word) : (s.goto a).peersDown = s.peersDown := rfl
@[simp] theorem State.goto_vfs (a : Word) : (s.goto a).vfs = s.vfs := rfl
@[simp] theorem State.goto_mailbox (a : Word) : (s.goto a).mailbox = s.mailbox := rfl
@[simp] theorem State.goto_removals (a : Word) : (s.goto a).removals = s.removals := rfl
@[simp] theorem State.goto_hostCmds (a : Word) : (s.goto a).hostCmds = s.hostCmds := rfl
@[simp] theorem State.goto_supEnds (a : Word) : (s.goto a).supEnds = s.supEnds := rfl
@[simp] theorem State.goto_measures (a : Word) : (s.goto a).measures = s.measures := rfl
@[simp] theorem State.goto_certs (a : Word) : (s.goto a).certs = s.certs := rfl
@[simp] theorem State.goto_linkRate (a : Word) : (s.goto a).linkRate = s.linkRate := rfl
@[simp] theorem State.goto_booted (a : Word) : (s.goto a).booted = s.booted := rfl
@[simp] theorem State.goto_migBase (a : Word) : (s.goto a).migBase = s.migBase := rfl
@[simp] theorem State.goto_pkg (a : Word) : (s.goto a).pkg = s.pkg := rfl
@[simp] theorem State.goto_pkgVa (a : Word) : (s.goto a).pkgVa = s.pkgVa := rfl
@[simp] theorem State.goto_pkgPa (a : Word) : (s.goto a).pkgPa = s.pkgPa := rfl
@[simp] theorem State.goto_objects (a : Word) : (s.goto a).objects = s.objects := rfl
@[simp] theorem State.goto_brkMigrate (a : Word) : (s.goto a).brkMigrate = s.brkMigrate := rfl
@[simp] theorem State.goto_breaks (a : Word) : (s.goto a).breaks = s.breaks := rfl
@[simp] theorem State.goto_brkResume (a : Word) : (s.goto a).brkResume = s.brkResume := rfl
@[simp] theorem State.goto_hostReads (a : Word) : (s.goto a).hostReads = s.hostReads := rfl
@[simp] theorem State.goto_views (a : Word) : (s.goto a).views = s.views := rfl

@[simp] theorem Strand.setX_phase (t : Strand) (r : Reg) (v : PWord) : (t.setX r v).phase = t.phase := by
  unfold Strand.setX; split <;> rfl
@[simp] theorem Strand.setX_sup (t : Strand) (r : Reg) (v : PWord) : (t.setX r v).sup = t.sup := by
  unfold Strand.setX; split <;> rfl
@[simp] theorem Strand.setX_group (t : Strand) (r : Reg) (v : PWord) : (t.setX r v).group = t.group := by
  unfold Strand.setX; split <;> rfl
@[simp] theorem Strand.setX_idx (t : Strand) (r : Reg) (v : PWord) : (t.setX r v).idx = t.idx := by
  unfold Strand.setX; split <;> rfl
@[simp] theorem Strand.setX_asid (t : Strand) (r : Reg) (v : PWord) : (t.setX r v).asid = t.asid := by
  unfold Strand.setX; split <;> rfl
@[simp] theorem Strand.setX_pc (t : Strand) (r : Reg) (v : PWord) : (t.setX r v).pc = t.pc := by
  unfold Strand.setX; split <;> rfl
@[simp] theorem Strand.setX_wait (t : Strand) (r : Reg) (v : PWord) : (t.setX r v).wait = t.wait := by
  unfold Strand.setX; split <;> rfl
@[simp] theorem Strand.setX_hold (t : Strand) (r : Reg) (v : PWord) : (t.setX r v).hold = t.hold := by
  unfold Strand.setX; split <;> rfl
@[simp] theorem Strand.setX_link (t : Strand) (r : Reg) (v : PWord) : (t.setX r v).link = t.link := by
  unfold Strand.setX; split <;> rfl
@[simp] theorem Strand.setX_vlinks (t : Strand) (r : Reg) (v : PWord) : (t.setX r v).vlinks = t.vlinks := by
  unfold Strand.setX; split <;> rfl
@[simp] theorem Strand.setX_trig (t : Strand) (r : Reg) (v : PWord) : (t.setX r v).trig = t.trig := by
  unfold Strand.setX; split <;> rfl
@[simp] theorem Strand.setX_rq (t : Strand) (r : Reg) (v : PWord) : (t.setX r v).rq = t.rq := by
  unfold Strand.setX; split <;> rfl
@[simp] theorem Strand.setX_wm (t : Strand) (r : Reg) (v : PWord) : (t.setX r v).wm = t.wm := by
  unfold Strand.setX; split <;> rfl
@[simp] theorem Strand.setX_vl (t : Strand) (r : Reg) (v : PWord) : (t.setX r v).vl = t.vl := by
  unfold Strand.setX; split <;> rfl
@[simp] theorem Strand.setX_smbVl (t : Strand) (r : Reg) (v : PWord) : (t.setX r v).smbVl = t.smbVl := by
  unfold Strand.setX; split <;> rfl
@[simp] theorem Strand.setX_ew (t : Strand) (r : Reg) (v : PWord) : (t.setX r v).ew = t.ew := by
  unfold Strand.setX; split <;> rfl
@[simp] theorem Strand.setX_n2 (t : Strand) (r : Reg) (v : PWord) : (t.setX r v).n2 = t.n2 := by
  unfold Strand.setX; split <;> rfl
@[simp] theorem Strand.setX_g (t : Strand) (r : Reg) (v : PWord) : (t.setX r v).g = t.g := by
  unfold Strand.setX; split <;> rfl
@[simp] theorem Strand.setX_held (t : Strand) (r : Reg) (v : PWord) : (t.setX r v).held = t.held := by
  unfold Strand.setX; split <;> rfl
@[simp] theorem Strand.setX_estart (t : Strand) (r : Reg) (v : PWord) : (t.setX r v).estart = t.estart := by
  unfold Strand.setX; split <;> rfl
@[simp] theorem Strand.setX_vdirty (t : Strand) (r : Reg) (v : PWord) : (t.setX r v).vdirty = t.vdirty := by
  unfold Strand.setX; split <;> rfl
@[simp] theorem Strand.setX_vstate (t : Strand) (r : Reg) (v : PWord) : (t.setX r v).vstate = t.vstate := by
  unfold Strand.setX; split <;> rfl
@[simp] theorem Strand.setX_lpart (t : Strand) (r : Reg) (v : PWord) : (t.setX r v).lpart = t.lpart := by
  unfold Strand.setX; split <;> rfl
@[simp] theorem Strand.setX_share (t : Strand) (r : Reg) (v : PWord) : (t.setX r v).share = t.share := by
  unfold Strand.setX; split <;> rfl
@[simp] theorem Strand.setX_fcsr (t : Strand) (r : Reg) (v : PWord) : (t.setX r v).fcsr = t.fcsr := by
  unfold Strand.setX; split <;> rfl
@[simp] theorem Strand.setX_tpc (t : Strand) (r : Reg) (v : PWord) : (t.setX r v).tpc = t.tpc := by
  unfold Strand.setX; split <;> rfl
@[simp] theorem Strand.setX_tcause (t : Strand) (r : Reg) (v : PWord) : (t.setX r v).tcause = t.tcause := by
  unfold Strand.setX; split <;> rfl
@[simp] theorem Strand.setX_taddr (t : Strand) (r : Reg) (v : PWord) : (t.setX r v).taddr = t.taddr := by
  unfold Strand.setX; split <;> rfl
@[simp] theorem Strand.setX_tinfo (t : Strand) (r : Reg) (v : PWord) : (t.setX r v).tinfo = t.tinfo := by
  unfold Strand.setX; split <;> rfl
@[simp] theorem Strand.setX_topen (t : Strand) (r : Reg) (v : PWord) : (t.setX r v).topen = t.topen := by
  unfold Strand.setX; split <;> rfl
@[simp] theorem Strand.setX_tvec (t : Strand) (r : Reg) (v : PWord) : (t.setX r v).tvec = t.tvec := by
  unfold Strand.setX; split <;> rfl
@[simp] theorem Strand.setX_preq (t : Strand) (r : Reg) (v : PWord) : (t.setX r v).preq = t.preq := by
  unfold Strand.setX; split <;> rfl
@[simp] theorem Strand.setX_grace (t : Strand) (r : Reg) (v : PWord) : (t.setX r v).grace = t.grace := by
  unfold Strand.setX; split <;> rfl
@[simp] theorem Strand.setX_reqAt (t : Strand) (r : Reg) (v : PWord) : (t.setX r v).reqAt = t.reqAt := by
  unfold Strand.setX; split <;> rfl
@[simp] theorem Strand.setX_heldPre (t : Strand) (r : Reg) (v : PWord) : (t.setX r v).heldPre = t.heldPre := by
  unfold Strand.setX; split <;> rfl
@[simp] theorem Strand.setX_rebase (t : Strand) (r : Reg) (v : PWord) : (t.setX r v).rebase = t.rebase := by
  unfold Strand.setX; split <;> rfl
@[simp] theorem Strand.setX_notBefore (t : Strand) (r : Reg) (v : PWord) : (t.setX r v).notBefore = t.notBefore := by
  unfold Strand.setX; split <;> rfl
@[simp] theorem Strand.setX_v (t : Strand) (r : Reg) (v : PWord) : (t.setX r v).v = t.v := by
  unfold Strand.setX; split <;> rfl
@[simp] theorem Strand.setX_m (t : Strand) (r : Reg) (v : PWord) : (t.setX r v).m = t.m := by
  unfold Strand.setX; split <;> rfl
@[simp] theorem Strand.setX_sc (t : Strand) (r : Reg) (v : PWord) : (t.setX r v).sc = t.sc := by
  unfold Strand.setX; split <;> rfl
@[simp] theorem Strand.setX_b (t : Strand) (r : Reg) (v : PWord) : (t.setX r v).b = t.b := by
  unfold Strand.setX; split <;> rfl
@[simp] theorem Strand.setX_lc (t : Strand) (r : Reg) (v : PWord) : (t.setX r v).lc = t.lc := by
  unfold Strand.setX; split <;> rfl
@[simp] theorem Strand.setX_vpc (t : Strand) (r : Reg) (v : PWord) : (t.setX r v).vpc = t.vpc := by
  unfold Strand.setX; split <;> rfl
@[simp] theorem Strand.setX_queue (t : Strand) (r : Reg) (v : PWord) : (t.setX r v).queue = t.queue := by
  unfold Strand.setX; split <;> rfl
@[simp] theorem Strand.setX_stopped (t : Strand) (r : Reg) (v : PWord) : (t.setX r v).stopped = t.stopped := by
  unfold Strand.setX; split <;> rfl
@[simp] theorem Strand.setX_blk (t : Strand) (r : Reg) (v : PWord) : (t.setX r v).blk = t.blk := by
  unfold Strand.setX; split <;> rfl
@[simp] theorem Strand.setX_past (t : Strand) (r : Reg) (v : PWord) : (t.setX r v).past = t.past := by
  unfold Strand.setX; split <;> rfl
@[simp] theorem Strand.setX_conv (t : Strand) (r : Reg) (v : PWord) : (t.setX r v).conv = t.conv := by
  unfold Strand.setX; split <;> rfl
@[simp] theorem Strand.setX_convWait (t : Strand) (r : Reg) (v : PWord) : (t.setX r v).convWait = t.convWait := by
  unfold Strand.setX; split <;> rfl
@[simp] theorem Strand.setX_deficit (t : Strand) (r : Reg) (v : PWord) : (t.setX r v).deficit = t.deficit := by
  unfold Strand.setX; split <;> rfl

/-- A strand just replaced is the strand read. -/
@[simp] theorem State.strand_setStrand (k : Nat) (t : Strand) : (s.setStrand k t).strand k = t := Sparse.get_put_same _ s.strands k t

/-- Another strand is as it was. -/
theorem State.strand_setStrand_ne (k j : Nat) (t : Strand) (h : j ≠ k) : (s.setStrand k t).strand j = s.strand j :=
  Sparse.get_put_ne _ s.strands k j t h

/-- The second of two replacements of a strand is the one that counts. -/
@[simp] theorem State.setStrand_setStrand (k : Nat) (t u : Strand) : (s.setStrand k t).setStrand k u = s.setStrand k u := by
  simp [State.setStrand, Sparse.put_put]

@[simp] theorem State.strand_setCore (k j : Nat) (c : Core) : (s.setCore k c).strand j = s.strand j := rfl
@[simp] theorem State.strand_setDie (k j : Nat) (c : Die) : (s.setDie k c).strand j = s.strand j := rfl
@[simp] theorem State.strand_setGroup (k j : Nat) (c : Group) : (s.setGroup k c).strand j = s.strand j := rfl
@[simp] theorem State.strand_setGang (k j : Nat) (c : Gang) : (s.setGang k c).strand j = s.strand j := rfl
@[simp] theorem State.core_setStrand (k j : Nat) (t : Strand) : (s.setStrand k t).core j = s.core j := rfl
@[simp] theorem State.die_setStrand (k j : Nat) (t : Strand) : (s.setStrand k t).die j = s.die j := rfl
@[simp] theorem State.core_setMe (j : Nat) (t : Strand) : (s.setMe t).core j = s.core j := rfl
@[simp] theorem State.die_setMe (j : Nat) (t : Strand) : (s.setMe t).die j = s.die j := rfl

/-- A core just replaced is the core read. -/
@[simp] theorem State.core_setCore (k : Nat) (c : Core) : (s.setCore k c).core k = c := Sparse.get_put_same _ s.cores k c

/-- Another core is as it was. -/
theorem State.core_setCore_ne (k j : Nat) (c : Core) (h : j ≠ k) : (s.setCore k c).core j = s.core j :=
  Sparse.get_put_ne _ s.cores k j c h

/-- A die just replaced is the die read. -/
@[simp] theorem State.die_setDie (k : Nat) (c : Die) : (s.setDie k c).die k = c := Sparse.get_put_same _ s.dies k c

/-- Another die is as it was. -/
theorem State.die_setDie_ne (k j : Nat) (c : Die) (h : j ≠ k) : (s.setDie k c).die j = s.die j :=
  Sparse.get_put_ne _ s.dies k j c h

/-- The strand whose turn it is, just replaced. -/
@[simp] theorem State.me_setMe (t : Strand) : (s.setMe t).me = t := Sparse.get_put_same _ s.strands s.cur t

/-- The second of two replacements of the strand whose turn it is counts. -/
@[simp] theorem State.setMe_setMe (t u : Strand) : (s.setMe t).setMe u = s.setMe u := s.setStrand_setStrand s.cur t u

/-- Writing a register and moving the pc, as one replacement of the strand. -/
@[simp] theorem State.wx_adv (r : Reg) (v : Word) (p : Bool) (n : Nat) :
    (s.wx r v p).adv n =
      s.setMe { s.me.setX r { w := v, p := p } with pc := s.me.pc + BitVec.ofNat 64 n, wait := none } := by
  simp [State.wx, State.adv]

@[simp] theorem State.me_wx (r : Reg) (v : Word) (p : Bool) : (s.wx r v p).me = s.me.setX r { w := v, p := p } := s.me_setMe _
@[simp] theorem State.me_adv (n : Nat) : (s.adv n).me = { s.me with pc := s.me.pc + BitVec.ofNat 64 n, wait := none } := s.me_setMe _
@[simp] theorem State.me_goto (a : Word) : (s.goto a).me = { s.me with pc := a, wait := none } := s.me_setMe _

/-- x0 reads zero, without poison (R29). -/
@[simp] theorem Strand.getX_zero (t : Strand) : t.getX 0 = {} := rfl

/-- A write of x0 is discarded (R29). -/
@[simp] theorem Strand.setX_zero (t : Strand) (v : PWord) : t.setX 0 v = t := rfl

/-- A register other than x0 reads as written. -/
theorem Strand.getX_setX (t : Strand) (r : Reg) (v : PWord) (h : r ≠ 0) : (t.setX r v).getX r = v := by
  rw [Strand.getX, if_neg h, Strand.setX, if_neg h]
  exact Vector.getElem_set_self r.isLt

/-- A register other than the one written reads as before. -/
theorem Strand.getX_setX_ne (t : Strand) (r q : Reg) (v : PWord) (h : q ≠ r) : (t.setX r v).getX q = t.getX q := by
  have h' : r.toNat ≠ q.toNat := fun e => h (BitVec.eq_of_toNat_eq e.symm)
  by_cases hr : r = 0
  · rw [Strand.setX, if_pos hr]
  · by_cases hq : q = 0
    · rw [hq, Strand.getX_zero, Strand.getX_zero]
    · rw [Strand.getX, if_neg hq, Strand.getX, if_neg hq, Strand.setX, if_neg hr]
      exact Vector.getElem_set_ne r.isLt q.isLt h'

end Sys2Proof.Machine
end

