-- ==== Sys2Proof/Laws/Access.lean ====
section
/-!
SUPPORT. What the shared operations over translation and memory can do: translation changes only lookaside buffers, page stores and transfers; reads
change only line caches and write back; every operation keeps the canonical form of memory.
-/

namespace Sys2Proof.Machine

/-- t is s but for the cores: their lookaside buffers, page stores, line caches and fetch caches. -/
def SameButCores (s t : State) : Prop := t = { s with cores := t.cores }

theorem SameButCores.refl (s : State) : SameButCores s s := rfl

theorem SameButCores.trans {s t u : State} (h : SameButCores s t) (k : SameButCores t u) : SameButCores s u := by
  unfold SameButCores at *
  rw [k, h]

theorem SameButCores.mem {s t : State} (h : SameButCores s t) : t.mem = s.mem := by rw [h]

theorem SameButCores.strands {s t : State} (h : SameButCores s t) : t.strands = s.strands := by rw [h]

theorem sameButCores_modCore (s : State) (k : Nat) (f : Core → Core) : SameButCores s (s.modCore k f) := rfl

/-- Finding a range fills the lookaside buffer at most (R87). -/
theorem State.findRange_frame (s : State) (ag : Agent) (a : Nat) : SameButCores s (s.findRange ag a).1 := by
  unfold State.findRange
  repeat' split
  all_goals first | exact SameButCores.refl s | (unfold SameButCores; rfl)

/-- Finding a page fills the page store at most (R86). -/
theorem State.findPage_frame (s : State) (ag : Agent) (e : Range) (a : Nat) : SameButCores s (s.findPage ag e a).1 := by
  unfold State.findPage
  simp only
  repeat' split
  all_goals first | exact SameButCores.refl s | (unfold SameButCores; rfl)

/-- The page part of a translation fills the page store at most. -/
theorem State.pagePart_frame (s : State) (ag : Agent) (e : Range) (a : Nat) : SameButCores s (s.pagePart ag e a).1 := by
  unfold State.pagePart
  split
  · have hp := s.findPage_frame ag e a
    revert hp
    rcases s.findPage ag e a with ⟨s2, p⟩
    cases p <;> exact fun h => h
  · exact SameButCores.refl s

/-- Translating a bit changes only the core's lookaside buffer and page store (R85, R87). -/
theorem State.xlate_frame (s : State) (ag : Agent) (want : Want) (a : Nat) : SameButCores s (s.xlate ag want a).1 := by
  have hr := s.findRange_frame ag a
  unfold State.xlate
  split
  · exact SameButCores.refl s
  split
  · exact SameButCores.refl s
  split
  · exact SameButCores.refl s
  split
  · exact SameButCores.refl s
  revert hr
  rcases s.findRange ag a with ⟨s1, e⟩
  intro hr
  cases e with
  | none => exact hr
  | some e =>
    have hp := s1.pagePart_frame ag e a
    simp only at hr ⊢
    split
    · exact hr
    · split
      · rename_i heq
        rw [heq] at hp
        exact hr.trans hp
      · rename_i heq
        rw [heq] at hp
        split <;> exact hr.trans hp

/-- Translating parts one by one changes only the core's lookaside buffer and page store. -/
theorem State.xlateEach_frame (s : State) (ag : Agent) (want : Want) (l : List (Nat × Nat × Nat)) :
    SameButCores s (s.xlateEach ag want l).1 := by
  induction l generalizing s with
  | nil => exact SameButCores.refl s
  | cons p t ih =>
    obtain ⟨va, off, len⟩ := p
    exact (s.xlate_frame ag want va).trans (ih _)

/-- Translating an access's parts changes only the core's lookaside buffer and page store. -/
theorem State.xlateParts_frame (s : State) (ag : Agent) (want : Want) (l : List (Nat × Nat × Nat)) :
    SameButCores s (s.xlateParts ag want l).1 := s.xlateEach_frame _ want l

/-- t is s but for the cores and the ownership transfers. -/
def SameButCheck (s t : State) : Prop := t = { s with cores := t.cores, transfers := t.transfers }

theorem SameButCores.toCheck {s t : State} (h : SameButCores s t) : SameButCheck s t := by
  unfold SameButCores at h
  unfold SameButCheck
  rw [h]

theorem SameButCheck.trans {s t u : State} (h : SameButCheck s t) (k : SameButCheck t u) : SameButCheck s u := by
  unfold SameButCheck at *
  rw [k, h]

theorem State.leaveFailed_frame (s : State) (x : Option Nat) : SameButCheck s (s.leaveFailed x) := by
  unfold State.leaveFailed
  split <;> rfl

theorem State.startTransfer_frame (s : State) (n : Nat) (b : Bool) (x k : Option Nat) (d : Nat) :
    SameButCheck s (s.startTransfer n b x k d) := by
  unfold State.startTransfer
  simp only
  split <;> split <;> rfl

theorem State.proceed_frame (s : State) (k : Option Nat) (ps : List Piece) : SameButCheck s (s.proceed k ps) := by
  unfold State.proceed
  split <;> rfl

/-- CheckAccess changes only lookaside buffers, page stores and ownership transfers (R87, R105, R335). -/
theorem State.check_frame (s : State) (ag : Agent) (want : Want) (a w : Nat) : SameButCheck s (s.check ag want a w).1 := by
  have h := (s.xlateParts_frame ag want (parts a w)).toCheck
  have h0 : SameButCheck s s := (SameButCores.refl s).toCheck
  unfold State.check
  simp only
  repeat' split
  all_goals first
    | exact h0
    | exact h
    | exact h.trans (State.leaveFailed_frame _ _)
    | exact h.trans (State.startTransfer_frame _ _ _ _ _ _)
    | exact h.trans (State.proceed_frame _ _ _)

@[simp] theorem State.check_mem (s : State) (ag : Agent) (want : Want) (a w : Nat) : (s.check ag want a w).1.mem = s.mem := by
  rw [(s.check_frame ag want a w : _ = _)]

@[simp] theorem State.check_strands (s : State) (ag : Agent) (want : Want) (a w : Nat) : (s.check ag want a w).1.strands = s.strands := by
  rw [(s.check_frame ag want a w : _ = _)]

@[simp] theorem State.check_cur (s : State) (ag : Agent) (want : Want) (a w : Nat) : (s.check ag want a w).1.cur = s.cur := by
  rw [(s.check_frame ag want a w : _ = _)]

/-- The strand whose turn it is survives a check as it is. -/
@[simp] theorem State.check_me (s : State) (ag : Agent) (want : Want) (a w : Nat) : (s.check ag want a w).1.me = s.me := by
  simp [State.me, State.strand]

/-- A state whose memory has the canonical form. -/
abbrev MemOk (s : State) : Prop := Mem.wf s.mem = true

/-- A fold of steps that keep the canonical form keeps it. -/
theorem memOk_foldl {α : Type} (f : State → α → State) (l : List α) (h : ∀ s x, MemOk s → MemOk (f s x)) (s : State) (hs : MemOk s) :
    MemOk (l.foldl f s) := by
  induction l generalizing s with
  | nil => exact hs
  | cons x t ih => exact ih _ (h s x hs)

/-- A write of bits at their home keeps the canonical form. -/
theorem State.homeWrite_memOk (s : State) (fa w v : Nat) (p : Bool) (h : MemOk s) : MemOk (s.homeWrite fa w v p) := by
  unfold State.homeWrite
  refine memOk_foldl _ _ (fun s l hs => ?_) _ (Mem.wf_writeBits _ _ _ _ h)
  simp only
  repeat' split
  all_goals exact hs

/-- A write-back at its home keeps the canonical form. -/
theorem State.homeWriteLine_memOk (s : State) (line data mask : Nat) (p c : Bool) (h : MemOk s) :
    MemOk (s.homeWriteLine line data mask p c) := by
  unfold State.homeWriteLine
  split
  · exact h
  · simp only
    repeat' split
    all_goals exact Mem.wf_writeMasked _ _ _ _ _ h

/-- A write-back of one line keeps the canonical form. -/
theorem State.writeBackOne_memOk (s : State) (k line : Nat) (h : MemOk s) : MemOk (s.writeBackOne k line) := by
  unfold State.writeBackOne
  split
  · exact h
  · exact s.homeWriteLine_memOk _ _ _ _ _ h

/-- A write-back of the lines of some classes keeps the canonical form. -/
theorem State.classBack_memOk (s : State) (k mask : Nat) (h : MemOk s) : MemOk (s.classBack k mask) :=
  memOk_foldl _ _ (fun s l hs => s.writeBackOne_memOk k l hs) s h

/-- A write-back of a line keeps the canonical form. -/
theorem State.writeBack_memOk (s : State) (k line : Nat) (h : MemOk s) : MemOk (s.writeBack k line) := by
  unfold State.writeBack
  split
  · exact h
  · split
    · exact h
    · exact State.writeBackOne_memOk _ k line (s.classBack_memOk k _ h)

/-- An eviction keeps the canonical form. -/
theorem State.evict_memOk (s : State) (k line : Nat) (h : MemOk s) : MemOk (s.evict k line) := s.writeBack_memOk k line h

/-- Making room in a line cache keeps the canonical form. -/
theorem State.makeRoom_memOk (s : State) (k : Nat) (h : MemOk s) : MemOk (s.makeRoom k) := by
  unfold State.makeRoom
  split
  · split
    · exact s.evict_memOk k _ h
    · exact h
  · exact h

/-- Filling a line keeps the canonical form. -/
theorem State.fill_memOk (s : State) (k cls line : Nat) (h : MemOk s) : MemOk (s.fill k cls line) := by
  unfold State.fill
  split
  · exact h
  · exact State.makeRoom_memOk _ k (s.evict_memOk k line h)

/-- A release keeps the canonical form. -/
theorem State.relCache_memOk (s : State) (k mask scope : Nat) (h : MemOk s) : MemOk (s.relCache k mask scope) := by
  unfold State.relCache
  split
  · exact h
  · exact memOk_foldl _ _ (fun s l hs => s.writeBack_memOk k l hs) s h

/-- An acquire keeps the canonical form. -/
theorem State.acqCache_memOk (s : State) (k mask scope : Nat) (h : MemOk s) : MemOk (s.acqCache k mask scope) := by
  unfold State.acqCache
  split
  · exact h
  · exact memOk_foldl _ _ (fun s l hs => s.evict_memOk k l hs) s h

/-- A read through a line cache keeps the canonical form (R189). -/
theorem State.cacheRead_memOk (s : State) (k cls fa w : Nat) (h : MemOk s) : MemOk (s.cacheRead k cls fa w).1 := by
  unfold State.cacheRead
  have : ∀ (l : List Nat) (f : State × Nat × Bool → Nat → State × Nat × Bool),
      (∀ r x, MemOk r.1 → MemOk (f r x).1) → ∀ r, MemOk r.1 → MemOk (l.foldl f r).1 := by
    intro l f hf
    induction l with
    | nil => exact fun r hr => hr
    | cons x t ih => exact fun r hr => ih _ (hf r x hr)
  exact this _ _ (fun r x hr => State.fill_memOk _ k cls x hr) _ h

/-- A write into a line cache keeps the canonical form (R189). -/
theorem State.cacheWrite_memOk (s : State) (k cls fa w v : Nat) (p : Bool) (h : MemOk s) : MemOk (s.cacheWrite k cls fa w v p) := by
  unfold State.cacheWrite
  refine memOk_foldl _ _ (fun s l hs => ?_) s h
  exact s.fill_memOk k cls l hs

/-- Reads of a device keep the canonical form. -/
theorem State.devReads_memOk (s : State) (w n : Nat) (h : MemOk s) : MemOk (s.devReads w n).1 := by
  induction n generalizing s w with
  | zero => exact h
  | succ n ih =>
    unfold State.devReads
    have hd : MemOk s.devRead.1 := by
      unfold State.devRead
      split <;> exact h
    revert hd
    rcases s.devRead with ⟨t, _ | v⟩
    · exact fun h => h
    · intro h1
      have h2 := ih t (w - 64) h1
      revert h2
      simp only
      rcases t.devReads (w - 64) n with ⟨u, _ | r⟩ <;> exact fun h => h

/-- Writes of a device keep the canonical form. -/
theorem State.devWrites_memOk (s : State) (fa w v n : Nat) (h : MemOk s) : MemOk (s.devWrites fa w v n).1 := by
  induction n generalizing s fa w v with
  | zero => exact h
  | succ n ih =>
    unfold State.devWrites
    have hd : MemOk (s.devWrite fa (min w 64) (v % 2 ^ min w 64)).1 := by
      unfold State.devWrite
      split <;> exact h
    revert hd
    rcases s.devWrite fa (min w 64) (v % 2 ^ min w 64) with ⟨t, _ | _⟩
    · exact fun h => h
    · exact fun h1 => ih t _ _ _ h1

/-- A read of a translated part keeps the canonical form. -/
theorem State.readPiece_memOk (s : State) (ag : Agent) (cls : Nat) (atHome : Bool) (p : Piece) (h : MemOk s) :
    MemOk (s.readPiece ag cls atHome p).1 := by
  unfold State.readPiece
  split
  · have hd := s.devReads_memOk p.len (ceilDiv p.len 64) h
    revert hd
    rcases s.devReads p.len (ceilDiv p.len 64) with ⟨t, r⟩
    cases r <;> exact fun h => h
  · split
    · exact s.cacheRead_memOk _ _ _ _ h
    · simp only
      split
      · exact memOk_foldl _ _ (fun s l hs => s.evict_memOk ag.core l hs) s h
      · exact h

/-- A read of translated parts keeps the canonical form. -/
theorem State.readPieces_memOk (s : State) (ag : Agent) (cls : Nat) (atHome : Bool) (l : List Piece) (h : MemOk s) :
    MemOk (s.readPieces ag cls atHome l).1 := by
  induction l generalizing s with
  | nil => exact h
  | cons p t ih =>
    unfold State.readPieces
    have h1 := s.readPiece_memOk ag cls atHome p h
    revert h1
    rcases s.readPiece ag cls atHome p with ⟨s1, r⟩
    intro h1
    cases r with
    | err a => exact h1
    | ok v q =>
      have h2 := ih s1 h1
      revert h2
      simp only
      rcases s1.readPieces ag cls atHome t with ⟨s2, r⟩
      cases r <;> exact fun h => h

/-- A write of a translated part keeps the canonical form. -/
theorem State.writePiece_memOk (s : State) (ag : Agent) (sid : Option Nat) (cls : Nat) (atHome : Bool) (v : Nat)
    (pz : Bool) (p : Piece) (h : MemOk s) : MemOk (s.writePiece ag sid cls atHome v pz p).1 := by
  have ho : MemOk (s.ownStore sid p.tr.fa p.len) := by
    unfold State.ownStore
    split <;> exact h
  unfold State.writePiece
  simp only
  generalize s.ownStore sid p.tr.fa p.len = s1 at ho
  split
  · exact s1.cacheWrite_memOk _ _ _ _ _ _ ho
  · have hb : MemOk (if ag.onCore then s1.classBack ag.core (2 ^ cls) else s1) := by
      split
      · exact s1.classBack_memOk _ _ ho
      · exact ho
    generalize (if ag.onCore then s1.classBack ag.core (2 ^ cls) else s1) = s2 at hb
    split
    · exact s2.devWrites_memOk _ _ _ _ hb
    · refine State.homeWrite_memOk _ _ _ _ _ ?_
      split
      · exact memOk_foldl _ _ (fun s l hs => s.evict_memOk ag.core l hs) s2 hb
      · exact hb

/-- A write of translated parts keeps the canonical form. -/
theorem State.writePieces_memOk (s : State) (ag : Agent) (sid : Option Nat) (cls : Nat) (atHome : Bool) (v : Nat)
    (pz : Bool) (l : List Piece) (h : MemOk s) : MemOk (s.writePieces ag sid cls atHome v pz l).1 := by
  induction l generalizing s with
  | nil => exact h
  | cons p t ih =>
    unfold State.writePieces
    have h1 := s.writePiece_memOk ag sid cls atHome v pz p h
    revert h1
    rcases s.writePiece ag sid cls atHome v pz p with ⟨s1, r⟩
    intro h1
    cases r with
    | true => exact ih s1 h1
    | false => exact h1

/-- Fetching a line changes only the fetch cache (R91). -/
theorem State.fetchLine_frame (s : State) (k line : Nat) : SameButCores s (s.fetchLine k line).1 := by
  unfold State.fetchLine
  split
  · exact SameButCores.refl s
  · unfold SameButCores; rfl

/-- Fetching the parts of a word changes only the fetch cache (R91). -/
theorem State.fetchParts_frame (k : Nat) (ps : List Piece) : ∀ s : State, SameButCores s (s.fetchParts k ps).1 := by
  induction ps with
  | nil => exact fun s => SameButCores.refl s
  | cons p t ih =>
    intro s
    have h1 := s.fetchLine_frame k (p.tr.fa / 512)
    rw [State.fetchParts]
    split
    · exact h1
    · have h2 := ih (s.fetchLine k (p.tr.fa / 512)).1
      revert h2
      generalize (s.fetchLine k (p.tr.fa / 512)).1.fetchParts k t = r
      intro h2
      rcases r with ⟨s2, _ | v⟩ <;> exact h1.trans h2

/-- Fetching 32 bits changes what a check and a fetch change. -/
theorem State.fetch32_frame (s : State) (ag : Agent) (vx : Bool) (a : Nat) : SameButCheck s (s.fetch32 ag vx a).1 := by
  have hc := s.check_frame ag (if vx then Want.fetchVx else Want.fetchX) a 32
  rw [State.fetch32]
  revert hc
  generalize s.check ag (if vx then Want.fetchVx else Want.fetchX) a 32 = r
  intro hc
  rcases r with ⟨s1, ps | ⟨c, v⟩ | _⟩
  · have := hc.trans (s1.fetchParts_frame ag.core (linePieces ps)).toCheck
    revert this
    simp only
    generalize s1.fetchParts ag.core (linePieces ps) = q
    intro this
    rcases q with ⟨s2, _ | v⟩ <;> exact this
  · exact hc
  · exact hc

end Sys2Proof.Machine
end

