-- ==== Sys2Proof/Laws/Ops.lean ====
section
/-!
SUPPORT. What taking a trap, returning from one and the operations they use leave: memory keeps its canonical form, and only a frame or a supervisor
strand's write-back changes it.
-/

namespace Sys2Proof.Machine

variable (s : State) (sid : Nat)

@[simp] theorem State.dropTags_mem : (s.dropTags sid).mem = s.mem := rfl
@[simp] theorem State.dropTags_strands : (s.dropTags sid).strands = s.strands := rfl

@[simp] theorem State.leaveSlots_mem (keep : List Nat) : (s.leaveSlots sid keep).mem = s.mem := by
  unfold State.leaveSlots
  split <;> rfl

@[simp] theorem State.asksNo_mem : (s.asksNo sid).mem = s.mem := rfl

@[simp] theorem State.unwind_mem : (s.unwind sid).mem = s.mem := by
  unfold State.unwind
  exact s.leaveSlots_mem sid _

@[simp] theorem State.quiesce_mem : (s.quiesce sid).mem = s.mem := by
  unfold State.quiesce
  split
  · rfl
  · exact s.unwind_mem sid

@[simp] theorem State.pushNotice_mem : (s.pushNotice sid).mem = s.mem := by
  unfold State.pushNotice
  split
  · simp only
    split <;> rfl
  · rfl

@[simp] theorem State.holdStrand_mem (h : Hold) : (s.holdStrand sid h).mem = s.mem := by
  unfold State.holdStrand
  rw [State.pushNotice_mem]
  exact s.quiesce_mem sid

@[simp] theorem State.writeTrap_mem (a : Word) (c : Cause) (b : Bool) : (s.writeTrap sid a c b).mem = s.mem := rfl

@[simp] theorem State.supTrap_mem (a : Word) (c : Cause) (n : Nat) : (s.supTrap sid a c n).mem = s.mem := by
  unfold State.supTrap
  simp only [State.holdStrand_mem]
  split <;> rfl

@[simp] theorem State.freeContext_mem : (s.freeContext sid).mem = s.mem := by
  have h := State.leaveSlots_mem ((s.detach sid).dropTags sid) sid []
  unfold State.freeContext
  simp only
  generalize ((s.detach sid).dropTags sid).leaveSlots sid [] = u at h ⊢
  exact h

/-- Cleaning a core's line cache keeps the canonical form. -/
theorem State.cleanCore_memOk (k : Nat) (h : MemOk s) : MemOk (s.cleanCore k) :=
  memOk_foldl _ _ (fun s l hs => s.writeBack_memOk k l hs) s h

/-- The end of a supervisor strand keeps the canonical form. -/
theorem State.endSupervisor_memOk (k cause : Nat) (h : MemOk s) : MemOk (s.endSupervisor k cause) := by
  unfold State.endSupervisor
  split
  · exact h
  · rename_i p hp
    simp only
    generalize coreSids k = l
    refine memOk_foldl _ l (fun s x hs => ?_) _ ?_
    · exact hs
    have h1 : MemOk ((s.cleanCore k).freeContext p) := by
      rw [MemOk, State.freeContext_mem]
      exact s.cleanCore_memOk k h
    rw [MemOk, State.modCore_mem]
    exact h1

/-- Pushing a frame keeps the canonical form (R112). -/
theorem State.pushFrame_memOk (ra : Word) (k : Nat) (h : MemOk s) : MemOk (s.pushFrame sid ra k).1 := by
  unfold State.pushFrame
  simp only
  split
  · exact h
  split
  · exact h
  have hc := s.check_mem (s.agentOf sid) .store (((s.strand sid).getX 2).w - 128#64).toNat 128
  revert hc
  generalize s.check (s.agentOf sid) .store (((s.strand sid).getX 2).w - 128#64).toNat 128 = r
  intro hc
  rcases r with ⟨s1, ps | ⟨c, v⟩ | _⟩
  · have h1 : MemOk s1 := (congrArg Mem.wf hc).trans h
    by_cases hf : s1.frameHeld sid ps = true
    · simp only [hf, if_true]
      exact h1
    have hw := s1.writePieces_memOk (s.agentOf sid) (some sid) 0 false
      ((s.strand sid).vl + (s.strand sid).ew * 2 ^ 20 + k * 2 ^ 22 + ra.toNat * 2 ^ 64) false ps h1
    revert hw
    simp only
    generalize s1.writePieces (s.agentOf sid) (some sid) 0 false
      ((s.strand sid).vl + (s.strand sid).ew * 2 ^ 20 + k * 2 ^ 22 + ra.toNat * 2 ^ 64) false ps = q
    intro hw
    rw [if_neg hf]
    rcases q with ⟨s2, _ | v⟩ <;> exact hw
  · exact (congrArg Mem.wf hc).trans h
  · exact (congrArg Mem.wf hc).trans h

/-- Popping a frame keeps the canonical form (R113). -/
theorem State.popFrame_memOk (h : MemOk s) : MemOk (s.popFrame sid).1 := by
  unfold State.popFrame
  simp only
  split
  · exact h
  have hc := s.check_mem (s.agentOf sid) .load ((s.strand sid).getX 2).w.toNat 128
  revert hc
  generalize s.check (s.agentOf sid) .load ((s.strand sid).getX 2).w.toNat 128 = r
  intro hc
  rcases r with ⟨s1, ps | ⟨c, v⟩ | _⟩
  · have h1 : MemOk s1 := (congrArg Mem.wf hc).trans h
    by_cases hf : s1.frameHeld sid ps = true
    · simp only [hf, if_true]
      exact h1
    have hw := s1.readPieces_memOk (s.agentOf sid) 0 false ps h1
    revert hw
    simp only
    generalize s1.readPieces (s.agentOf sid) 0 false ps = q
    intro hw
    rw [if_neg hf]
    rcases q with ⟨s2, ⟨v, p⟩ | a⟩
    · simp only
      split
      · exact hw
      · split <;> exact hw
    · exact hw
  · exact (congrArg Mem.wf hc).trans h
  · exact (congrArg Mem.wf hc).trans h

/-- Taking a trap keeps the canonical form (R298 to R300). -/
theorem State.takeTrap_memOk (a : Word) (c : Cause) (h : MemOk s) : MemOk (s.takeTrap sid a c) := by
  unfold State.takeTrap State.tryTrap
  simp only
  have hq : MemOk (((((s.dropTags sid).forgetBroken linkTag sid).quiesce sid).modStrand sid fun t => { t with wait := none, convWait := none, link := none }).asksNo sid) :=
    (congrArg Mem.wf (((s.dropTags sid).forgetBroken linkTag sid).quiesce_mem sid)).trans h
  generalize ((((s.dropTags sid).forgetBroken linkTag sid).quiesce sid).modStrand sid fun t => { t with wait := none, convWait := none, link := none }).asksNo sid = q at hq ⊢
  have hs : ∀ (t : State) (b : Word) (d : Cause) (n : Nat), MemOk t → MemOk (t.supTrap sid b d n) :=
    fun t b d n ht => (congrArg Mem.wf (t.supTrap_mem sid b d n)).trans ht
  split
  · exact q.endSupervisor_memOk _ _ hq
  split
  · exact hs _ _ _ _ hq
  split
  · exact hs _ _ _ _ hq
  have hw : MemOk ((q.writeTrap sid a c false).modStrand sid fun t => { t with stopped := true }) := hq
  generalize ((q.writeTrap sid a c false).modStrand sid fun t => { t with stopped := true }) = w at hw ⊢
  have hp := w.pushFrame_memOk sid (s.strand sid).pc 0 hw
  revert hp
  generalize w.pushFrame sid (s.strand sid).pc 0 = r
  intro hp
  rcases r with ⟨s2, _ | ⟨c2, a2⟩ | _⟩
  · exact hp
  · simp only
    split
    · exact s2.endSupervisor_memOk _ _ hp
    · exact hs _ _ _ _ hp
  · exact h

/-- A cause raised by the instruction at the pc keeps the canonical form. -/
theorem State.trap_memOk (code : Nat) (addr : Word) (h : MemOk s) : ∃ t, s.trap code addr = .next t ∧ MemOk t :=
  ⟨_, rfl, s.takeTrap_memOk _ _ _ h⟩

/-- A LAUNCH that is stopped leaves memory as it is. -/
@[simp] theorem State.settleLaunch_mem : (s.settleLaunch sid).mem = s.mem := by
  unfold State.settleLaunch
  split
  · rfl
  · simp only
    split <;> rfl

/-- A convoy's trap keeps the canonical form (R296). -/
theorem State.convoyTrap_memOk (c : Cause) (h : MemOk s) : MemOk (s.convoyTrap sid c) := by
  unfold State.convoyTrap
  split
  · exact h
  exact State.takeTrap_memOk _ _ _ _ ((congrArg Mem.wf ((State.settleLaunch_mem (s.unwind sid) sid).trans (s.unwind_mem sid))).trans h)

/-- A pre-emption keeps the canonical form (R303). -/
theorem State.takePreempt_memOk (h : MemOk s) : MemOk (s.takePreempt sid) := by
  unfold State.takePreempt
  exact State.takeTrap_memOk _ _ _ _ ((congrArg Mem.wf (s.settleLaunch_mem sid)).trans h)

/-- A return from a trap keeps the canonical form (R310). -/
theorem State.trapReturn_memOk (h : MemOk s) : MemOk (s.trapReturn sid).1 := by
  unfold State.trapReturn
  have hp := s.popFrame_memOk sid h
  revert hp
  generalize s.popFrame sid = r
  intro hp
  rcases r with ⟨s2, _ | ⟨c2, a2⟩ | _⟩
  · simp only
    unfold State.takeHeld
    split
    · exact State.takePreempt_memOk _ _ hp
    · exact hp
  · exact hp
  · exact hp

end Sys2Proof.Machine
end

