-- ==== Sys2Proof/Laws/Convoy.lean ====
section
/-!
SUPPORT. What running an event for one of a strand's convoys can do (R126): nothing but what it does for the convoy itself, which then takes its place again.
-/

namespace Sys2Proof.Machine

variable {s u : State} {sid : Nat} {f : State → Res}

/-- With no older convoy chosen, the event runs on the machine as it is. -/
theorem State.chosen_none (h : s.choice sid = none) : s.chosen sid = s := by simp [State.chosen, h]

/-- With no older convoy chosen, the convoy in progress is where it was. -/
theorem State.rejoin_none (h : s.choice sid = none) : s.rejoin sid u = u := by simp [State.rejoin, h]

/-- Where the event gives a next state for the convoy chosen, that convoy takes its place in it again. -/
theorem State.among_next (h : f (s.chosen sid) = .next u) : s.among sid f = .next (s.rejoin sid u) := by simp [State.among, h]

@[simp] theorem State.chosen_mem : (s.chosen sid).mem = s.mem := by
  unfold State.chosen
  split <;> rfl

@[simp] theorem State.rejoin_mem : (s.rejoin sid u).mem = u.mem := by
  unfold State.rejoin
  split <;> rfl

/-- An event that keeps memory canonical for the convoy chosen keeps it so for the strand. -/
theorem State.among_memOk (h : MemOk s) (hf : ∀ q t, MemOk q → f q = .next t → MemOk t) {t : State} (ht : s.among sid f = .next t) : MemOk t := by
  cases hq : f (s.chosen sid) with
  | next u =>
    rw [State.among_next hq] at ht
    cases ht
    simpa [MemOk] using hf _ u (by simpa [MemOk] using h) hq
  | fault x => simp [State.among, hq] at ht
  | refused x => simp [State.among, hq] at ht

end Sys2Proof.Machine
end

