-- ==== Sys2Proof/Tests/Slice0.lean ====
section
/-!
SUPPORT. The model's own tests: words written field by field from the spec's encodings and its worked encodings, terms that are not well formed, small steps with results
worked out by hand or taken from the spec's examples, and for each statement a state that meets its hypotheses.
-/

namespace Sys2Proof.Tests

set_option Elab.async false

open Sys2Proof.Machine

/-! ### Decoding -/

/-- A word from its fields: each value with the bit where it starts. -/
def bitsAt (l : List (Nat × Nat)) : Nat := (l.map fun p => p.1 * 2 ^ p.2).sum

/-- Every word of the list decodes to the instruction beside it. -/
def decodesTo (d : Nat → Except DecodeError Instr) (l : List (Nat × Instr)) : Bool :=
  l.all fun p => match d p.1 with
    | .ok i => decide (i = p.2)
    | .error _ => false

theorem test_decode_arithmetic : decodesTo decodeScalar [
    (bitsAt [(0x1, 25), (0x7, 20), (0x9, 15), (0xB, 10)], .add 7 9 11),
    (bitsAt [(0x1, 25), (0x10, 0), (0x7, 20), (0x9, 15), (0xB, 10)], .sub 7 9 11),
    (bitsAt [(0x1, 25), (0x20, 0), (0x7, 20), (0x9, 15), (0xB, 10)], .and 7 9 11),
    (bitsAt [(0x1, 25), (0x30, 0), (0x7, 20), (0x9, 15), (0xB, 10)], .or 7 9 11),
    (bitsAt [(0x1, 25), (0x40, 0), (0x7, 20), (0x9, 15), (0xB, 10)], .xor 7 9 11),
    (bitsAt [(0x1, 25), (0x50, 0), (0x7, 20), (0x9, 15), (0xB, 10)], .sll 7 9 11),
    (bitsAt [(0x1, 25), (0x60, 0), (0x7, 20), (0x9, 15), (0xB, 10)], .srl 7 9 11),
    (bitsAt [(0x1, 25), (0x70, 0), (0x7, 20), (0x9, 15), (0xB, 10)], .sra 7 9 11),
    (bitsAt [(0x1, 25), (0x80, 0), (0x7, 20), (0x9, 15), (0xB, 10)], .slt 7 9 11),
    (bitsAt [(0x1, 25), (0x90, 0), (0x7, 20), (0x9, 15), (0xB, 10)], .sltu 7 9 11),
    (bitsAt [(0x2, 25), (0x7, 20), (0x9, 15), (0x7FFE, 0)], .addi 7 9 32766),
    (bitsAt [(0x3, 25), (0x7, 20), (0x9, 15), (0x4001, 0)], .andi 7 9 16385),
    (bitsAt [(0x4, 25), (0x7, 20), (0x9, 15), (0x2AAA, 0)], .ori 7 9 10922),
    (bitsAt [(0x5, 25), (0x7, 20), (0x9, 15), (0x7FFF, 0)], .xori 7 9 32767),
    (bitsAt [(0x6, 25), (0x7, 20), (0x9, 15), (0x5555, 0)], .slti 7 9 21845),
    (bitsAt [(0x7, 25), (0x7, 20), (0x9, 15), (0x1, 0)], .sltiu 7 9 1),
    (bitsAt [(0x8, 25), (0x7, 20), (0x9, 15), (0x3F, 0)], .slli 7 9 63),
    (bitsAt [(0x8, 25), (0x80, 6), (0x7, 20), (0x9, 15), (0x1, 0)], .srli 7 9 1),
    (bitsAt [(0x8, 25), (0x100, 6), (0x7, 20), (0x9, 15), (0x20, 0)], .srai 7 9 32),
    (bitsAt [(0x9, 25), (0x7, 20), (0xABCDE, 0)], .lui 7 703710),
    (bitsAt [(0xA, 25), (0x7, 20), (0x80001, 0)], .apc 7 524289),
    (bitsAt [(0xB, 25), (0x7, 20), (0x9, 15), (0xB, 10)], .mul 7 9 11),
    (bitsAt [(0xB, 25), (0x10, 0), (0x7, 20), (0x9, 15), (0xB, 10)], .mulh 7 9 11),
    (bitsAt [(0xB, 25), (0x20, 0), (0x7, 20), (0x9, 15), (0xB, 10)], .mulhu 7 9 11),
    (bitsAt [(0xB, 25), (0x30, 0), (0x7, 20), (0x9, 15), (0xB, 10)], .div 7 9 11),
    (bitsAt [(0xB, 25), (0x40, 0), (0x7, 20), (0x9, 15), (0xB, 10)], .divu 7 9 11),
    (bitsAt [(0xB, 25), (0x50, 0), (0x7, 20), (0x9, 15), (0xB, 10)], .rem 7 9 11),
    (bitsAt [(0xB, 25), (0x60, 0), (0x7, 20), (0x9, 15), (0xB, 10)], .remu 7 9 11),
    (bitsAt [(0xD, 25), (0x7, 20), (0x9, 15), (0xB, 10)], .seq 7 9 11),
    (bitsAt [(0xD, 25), (0x10, 0), (0x7, 20), (0x9, 15), (0xB, 10)], .sne 7 9 11),
    (bitsAt [(0xD, 25), (0x20, 0), (0x7, 20), (0x9, 15), (0xB, 10)], .sge 7 9 11),
    (bitsAt [(0xD, 25), (0x30, 0), (0x7, 20), (0x9, 15), (0xB, 10)], .sgeu 7 9 11),
    (bitsAt [(0xD, 25), (0x40, 0), (0x7, 20), (0x9, 15), (0xB, 10)], .min 7 9 11),
    (bitsAt [(0xD, 25), (0x50, 0), (0x7, 20), (0x9, 15), (0xB, 10)], .max 7 9 11),
    (bitsAt [(0xD, 25), (0x60, 0), (0x7, 20), (0x9, 15), (0xB, 10)], .minu 7 9 11),
    (bitsAt [(0xD, 25), (0x70, 0), (0x7, 20), (0x9, 15), (0xB, 10)], .maxu 7 9 11),
    (bitsAt [(0xE, 25), (0x7, 20), (0x9, 15)], .clz 7 9),
    (bitsAt [(0xE, 25), (0x10, 0), (0x7, 20), (0x9, 15)], .ctz 7 9),
    (bitsAt [(0xE, 25), (0x20, 0), (0x7, 20), (0x9, 15)], .cpop 7 9),
    (bitsAt [(0xC, 25), (0x7, 20), (0x9, 15), (0x3C, 9), (0x3, 3)], .bfx 7 9 60 3),
    (bitsAt [(0xC, 25), (0x2, 0), (0x7, 20), (0x9, 15), (0x0, 9), (0x3F, 3)], .bfxs 7 9 0 63),
    (bitsAt [(0xC, 25), (0x4, 0), (0x7, 20), (0x9, 15), (0x3, 9), (0xC, 3)], .bfd 7 9 3 12)] = true := by decide +kernel

theorem test_decode_scalar_accesses : decodesTo decodeScalar [
    (bitsAt [(0x20, 25), (0x7, 20), (0x9, 15), (0x3F, 9), (0x1FF, 0)], .ldZ 7 9 63 511),
    (bitsAt [(0x21, 25), (0x7, 20), (0x9, 15), (0xC, 9), (0x5, 0)], .ldS 7 9 12 5),
    (bitsAt [(0x22, 25), (0xD, 20), (0x9, 15), (0x0, 9), (0x100, 0)], .st 13 9 0 256),
    (bitsAt [(0x23, 25), (0x7, 20), (0x9, 15), (0x3E, 9), (0x155, 0)], .ll 7 9 62 341),
    (bitsAt [(0x24, 25), (0x7, 20), (0x9, 15), (0xB, 10), (0x1F, 4)], .sc 7 9 11 31)] = true := by decide +kernel

theorem test_decode_control : decodesTo decodeScalar [
    (bitsAt [(0x30, 25), (0x9, 20), (0xB, 15), (0x4001, 0)], .beq 9 11 16385),
    (bitsAt [(0x31, 25), (0x9, 20), (0xB, 15), (0x8, 0)], .bne 9 11 8),
    (bitsAt [(0x32, 25), (0x9, 20), (0xB, 15), (0x7FFF, 0)], .blt 9 11 32767),
    (bitsAt [(0x33, 25), (0x9, 20), (0xB, 15), (0x1C, 0)], .bge 9 11 28),
    (bitsAt [(0x34, 25), (0x9, 20), (0xB, 15), (0x3FFF, 0)], .bltu 9 11 16383),
    (bitsAt [(0x35, 25), (0x9, 20), (0xB, 15), (0x2, 0)], .bgeu 9 11 2),
    (bitsAt [(0x36, 25), (0x1FFFFFE, 0)], .j 33554430),
    (bitsAt [(0x37, 25), (0x1000001, 0)], .call 16777217),
    (bitsAt [(0x700, 20), (0x9, 15), (0x7FE0, 0)], .jr 9 32736),
    (bitsAt [(0xE4, 23), (0x5, 20), (0x9, 15), (0x20, 0)], .callr 5 9 32),
    (bitsAt [(0x74000000, 0)], .ret)] = true := by decide +kernel

theorem test_decode_csrs_and_vector_side : decodesTo decodeScalar [
    (bitsAt [(0x63, 25), (0x7, 20), (0xC21, 0)], .csrrd 7 3105),
    (bitsAt [(0x63, 25), (0x2, 12), (0x7, 20), (0x9, 15), (0x7, 0)], .csrwr 7 9 7),
    (bitsAt [(0x63, 25), (0x4, 12), (0x7, 20), (0x9, 15), (0x48, 0)], .csrmw 7 9 72),
    (bitsAt [(0x40, 25), (0x7, 20), (0x9, 15), (0x2, 13)], .setvl 7 9 2),
    (bitsAt [(0x40, 25), (0x1000, 0), (0x7, 20), (0x9, 15), (0x2, 13)], .setvlK 7 9 2),
    (bitsAt [(0x10400, 15), (0x40, 8)], .vcfg 64),
    (bitsAt [(0x42, 25), (0x1FFFFF0, 0)], .vblk 33554416),
    (bitsAt [(0x860, 20), (0x9, 15)], .vblkr 9),
    (bitsAt [(0x44, 25), (0x7, 20)], .rqpop 7),
    (bitsAt [(0x45, 25), (0xD, 20), (0x8, 15), (0x3E, 9), (0x1FE, 0)], .smb 13 8 62 510),
    (bitsAt [(0x8C, 24), (0x1, 18), (0x2, 12), (0x4, 6), (0x3F, 0)], .waitc 1 2 4 63)] = true := by decide +kernel

theorem test_decode_synchronisation : decodesTo decodeScalar [
    (bitsAt [(0x50, 25), (0x5, 22), (0x8001, 0)], .fence 5 32769),
    (bitsAt [(0x51, 25), (0xC, 20), (0x9, 15), (0xB, 10), (0x1, 8), (0xFC, 0)], .waita 12 9 11 1 252),
    (bitsAt [(0x52, 25), (0x1F, 20), (0x3, 15), (0x0, 14), (0x5, 7), (0x1, 6), (0x2A, 0)], .tlwait 31 3 0 5 1 42),
    (bitsAt [(0x53, 25), (0x7, 20), (0x1, 12), (0x3, 9)], .barArv 7 1 3),
    (bitsAt [(0x53, 25), (0x1, 13), (0xC, 20), (0x0, 12), (0x7, 9)], .barWt 12 0 7),
    (bitsAt [(0xA60, 20), (0x2, 13), (0x9, 15), (0x1, 12), (0x2, 9), (0x5, 6)], .barInit 9 1 2 5),
    (bitsAt [(0xA8000000, 0)], .trig),
    (bitsAt [(0xAA000000, 0)], .exit),
    (bitsAt [(0x56, 25), (0x7, 20), (0x9, 15), (0xC, 10)], .join 7 9 12),
    (bitsAt [(0xAE0, 20), (0x9, 15), (0x3, 13)], .wmcfg 9 3),
    (bitsAt [(0xB00, 20), (0x9, 15), (0xB, 10)], .wmpub 9 11),
    (bitsAt [(0x59, 25), (0x7, 20), (0x9, 15), (0xB, 10)], .strmPush 7 9 11),
    (bitsAt [(0xB4000000, 0)], .progress)] = true := by decide +kernel

theorem test_decode_system : decodesTo decodeScalar [
    (bitsAt [(0xC00, 20), (0x9, 15), (0x7ABC, 0)], .ecall 9 31420),
    (bitsAt [(0xC2000000, 0)], .tret),
    (bitsAt [(0x61, 25), (0x10, 0), (0x7, 20), (0x5, 7), (0x0, 6)], .tretS 7 { strand := 5, m := 0 }),
    (bitsAt [(0x61, 25), (0x20, 0), (0x7, 20), (0x9, 15), (0x0, 7), (0x1, 6)], .hget 7 9 { strand := 0, m := 1 }),
    (bitsAt [(0xC20, 20), (0x30, 0), (0x9, 15), (0xB, 10), (0x7, 7), (0x0, 6)], .hput 9 11 { strand := 7, m := 0 }),
    (bitsAt [(0xC4000000, 0)], .tren),
    (bitsAt [(0x64, 25), (0x7, 20), (0xC, 15)], .idle 7 12),
    (bitsAt [(0xCA000000, 0)], .yield),
    (bitsAt [(0xCC0, 20), (0x9, 15), (0xB, 10), (0x4, 5)], .tinvAll 9 11 4),
    (bitsAt [(0xCC0, 20), (0x1, 8), (0x9, 15), (0xB, 10), (0x1, 5)], .tinvAs 9 11 1),
    (bitsAt [(0xCC0, 20), (0x2, 8), (0x9, 15), (0xB, 10), (0x3, 5)], .tinvPg 9 11 3),
    (bitsAt [(0xCE0, 20), (0x9, 15), (0xB, 10)], .lcclean 9 11),
    (bitsAt [(0xCE0, 20), (0x200, 0), (0x9, 15), (0xB, 10)], .lcinval 9 11),
    (bitsAt [(0xD00, 20), (0x9, 15)], .ownhintDev 9),
    (bitsAt [(0xD00, 20), (0x4000, 0), (0x9, 15)], .ownhintHost 9),
    (bitsAt [(0xD20, 20), (0x9, 15), (0xB, 10), (0x1, 7), (0x0, 6)], .vsave 9 11 { strand := 1, m := 0 }),
    (bitsAt [(0xD40, 20), (0x9, 15), (0xB, 10), (0x6, 7), (0x0, 6)], .vrestore 9 11 { strand := 6, m := 0 }),
    (bitsAt [(0xD40, 20), (0x20, 0), (0x9, 15), (0xB, 10), (0x0, 7), (0x1, 6)], .vrestoreSt 9 11 { strand := 0, m := 1 })] = true := by decide +kernel

theorem test_decode_long_forms : decodesTo decodeLong [
    (bitsAt [(0x7F, 25), (0x1, 16), (0x7, 11), (0x15, 6), (0x2A, 0), (0x89ABCDEF, 32)], .li 7 0x56A89ABCDEF),
    (bitsAt [(0x7F, 25), (0x2, 16), (0xA, 11), (0x8, 6), (0x20, 0), (0x100000, 32)], .addiL 10 8 0x2000100000),
    (bitsAt [(0x7F, 25), (0x10, 16), (5, 11), (9, 6), (63, 0), (0x0004, 48), (2, 44), (1, 42), (4, 39), (0x7F, 32)], .ldZOrdered { r := 5, base := 9, w1 := 63, mask := 4, cls := 2, order := 1, scope := 4, tail := 0x7F }),
    (bitsAt [(0x7F, 25), (0x11, 16), (5, 11), (9, 6), (63, 0), (0x0004, 48), (2, 44), (1, 42), (4, 39), (0x40, 32)], .ldSOrdered { r := 5, base := 9, w1 := 63, mask := 4, cls := 2, order := 1, scope := 4, tail := 0x40 }),
    (bitsAt [(0x7F, 25), (0x12, 16), (5, 11), (9, 6), (63, 0), (0x0004, 48), (2, 44), (2, 42), (4, 39), (0x1, 32)], .stOrdered { r := 5, base := 9, w1 := 63, mask := 4, cls := 2, order := 2, scope := 4, tail := 0x1 }),
    (bitsAt [(0x7F, 25), (0x13, 16), (5, 11), (9, 6), (63, 0), (0x0004, 48), (2, 44), (1, 42), (4, 39), (0x3F, 32)], .llOrdered { r := 5, base := 9, w1 := 63, mask := 4, cls := 2, order := 1, scope := 4, tail := 0x3F }),
    (bitsAt [(0x7F, 25), (0x14, 16), (5, 11), (9, 6), (63, 0), (0x0004, 48), (2, 44), (2, 42), (4, 39), (0x1C, 32)], .scOrdered { r := 5, base := 9, w1 := 63, mask := 4, cls := 2, order := 2, scope := 4, tail := 0x1C }),
    (bitsAt [(0x7F, 25), (0x40, 16), (0xD, 11), (0x8, 6), (0x1, 4), (0xF, 0), (0xFE, 56), (0x1C2, 32)], .smbLong 13 8 1 0xFFE 0x1C2),
    (bitsAt [(0x7F, 25), (0x53, 16), (0x5, 11), (0x9, 6)], .launch 5 9),
    (bitsAt [(0x7F, 25), (0x50, 16), (0x14, 11), (0x9, 6), (0x8, 1), (0xA, 59), (0xB, 54), (0xC, 49), (0x2, 47), (0x3, 40)], .copy { rd := 20, rdst := 9, rsrc := 8, twoD := 0, rlen := 10, rc := 11, rv := 12, cls := 2, ctx := 3 }),
    (bitsAt [(0x7F, 25), (0x51, 16), (0x1F, 11), (0x1B, 6), (0x1C, 1), (0x1D, 59), (0x1E, 49), (0x2, 47), (0x5, 40), (0x3, 36)], .copyMc { rd := 31, rtab := 27, rsrc := 28, rlen := 29, rv := 30, cls := 2, ctx := 5, n1 := 3 }),
    (bitsAt [(0x7F, 25), (0x52, 16), (0x4, 11), (0x6, 6), (0x7, 1), (0x7F, 40)], .persist 4 6 7 127),
    (bitsAt [(0x7F, 25), (0x80, 16), (0x1, 0)], .mcfg 1),
    (bitsAt [(0x7F, 25), (0x81, 16), (0x5, 11), (0x8, 6), (0x9, 1), (0x2, 61)], .mldb 5 8 9 2 0 0),
    (bitsAt [(0x7F, 25), (0x82, 16), (0x5, 11), (0x8, 6), (0x9, 1), (0x3, 61), (0x7, 58), (0x4, 54), (0xA, 49), (0xB, 44)], .mldbX 5 8 9 10 11 3 7 4),
    (bitsAt [(0x7F, 25), (0x83, 16), (0x6, 11), (0x3F, 5), (0xF, 1)], .mma 6 63 15),
    (bitsAt [(0x7F, 25), (0x84, 16), (0x5, 11), (0x3, 5), (0x2, 1)], .mvrdSgn 5 3 2),
    (bitsAt [(0x7F, 25), (0x84, 16), (0x6, 11), (0x0, 5), (0x4, 1), (0x1, 32)], .mvrdTopk 6 0 4),
    (bitsAt [(0x7F, 25), (0x85, 16), (0x6, 11), (0x8, 5), (0x3, 32), (0x3, 34)], .mclr 6 8 3 3),
    (bitsAt [(0x7F, 25), (0x86, 16), (0x6, 11), (0x7, 6), (0x8, 1), (0x2, 58), (0x1, 52), (0x1, 50), (0x5, 46)], .mstc 6 7 8 2 1 1 5),
    (bitsAt [(0x7F, 25), (0x87, 16), (0xA, 11), (0x4, 5)], .mthr 10 4),
    (bitsAt [(0x7F, 25), (0x88, 16), (0x9, 11), (0x4, 5)], .mthw 9 4),
    (bitsAt [(0x7F, 25), (0x89, 16), (0x3, 11), (0x4, 0)], .mstat 3 4)] = true := by decide +kernel

theorem test_decode_members_integer : decodesTo decodeMember [
    (bitsAt [(0x1, 54), (0x3F, 48), (0x5, 36), (0x1, 26)], .vadd { vd := 63, vs1 := 0, vs2 := 5, f35 := 0, mask := 0, me := 1, ew := 0, os := 0, rm := 0, variant := 0 }),
    (bitsAt [(0x2, 54), (0x3E, 48), (0x1, 42), (0x29, 30), (0x1, 27), (0x1, 26), (0x1, 24), (0x3, 22)], .vsub { vd := 62, vs1 := 1, vs2 := 0, f35 := 41, mask := 1, me := 1, ew := 1, os := 3, rm := 0, variant := 0 }),
    (bitsAt [(0x3, 54), (0x3D, 48), (0x2, 42), (0x5, 36), (0x2, 27), (0x1, 26), (0x2, 24)], .vrsub { vd := 61, vs1 := 2, vs2 := 5, f35 := 0, mask := 2, me := 1, ew := 2, os := 0, rm := 0, variant := 0 }),
    (bitsAt [(0x4, 54), (0x3C, 48), (0x3, 42), (0x2B, 30), (0x3, 27), (0x1, 26), (0x3, 24), (0x3, 22)], .vand { vd := 60, vs1 := 3, vs2 := 0, f35 := 43, mask := 3, me := 1, ew := 3, os := 3, rm := 0, variant := 0 }),
    (bitsAt [(0x5, 54), (0x3B, 48), (0x4, 42), (0x5, 36), (0x4, 27), (0x1, 26)], .vor { vd := 59, vs1 := 4, vs2 := 5, f35 := 0, mask := 4, me := 1, ew := 0, os := 0, rm := 0, variant := 0 }),
    (bitsAt [(0x6, 54), (0x3A, 48), (0x5, 42), (0x2D, 30), (0x5, 27), (0x1, 26), (0x1, 24), (0x3, 22)], .vxor { vd := 58, vs1 := 5, vs2 := 0, f35 := 45, mask := 5, me := 1, ew := 1, os := 3, rm := 0, variant := 0 }),
    (bitsAt [(0x7, 54), (0x39, 48), (0x6, 42), (0x5, 36), (0x6, 27), (0x1, 26), (0x2, 24)], .vsll { vd := 57, vs1 := 6, vs2 := 5, f35 := 0, mask := 6, me := 1, ew := 2, os := 0, rm := 0, variant := 0 }),
    (bitsAt [(0x8, 54), (0x38, 48), (0x7, 42), (0x2F, 30), (0x7, 27), (0x1, 26), (0x3, 24), (0x3, 22)], .vsrl { vd := 56, vs1 := 7, vs2 := 0, f35 := 47, mask := 7, me := 1, ew := 3, os := 3, rm := 0, variant := 0 }),
    (bitsAt [(0x9, 54), (0x37, 48), (0x8, 42), (0x5, 36), (0x1, 26)], .vsra { vd := 55, vs1 := 8, vs2 := 5, f35 := 0, mask := 0, me := 1, ew := 0, os := 0, rm := 0, variant := 0 }),
    (bitsAt [(0xA, 54), (0x36, 48), (0x9, 42), (0x31, 30), (0x1, 27), (0x1, 26), (0x1, 24), (0x3, 22)], .vmin { vd := 54, vs1 := 9, vs2 := 0, f35 := 49, mask := 1, me := 1, ew := 1, os := 3, rm := 0, variant := 0 }),
    (bitsAt [(0xB, 54), (0x35, 48), (0xA, 42), (0x5, 36), (0x2, 27), (0x1, 26), (0x2, 24)], .vmax { vd := 53, vs1 := 10, vs2 := 5, f35 := 0, mask := 2, me := 1, ew := 2, os := 0, rm := 0, variant := 0 }),
    (bitsAt [(0xC, 54), (0x34, 48), (0xB, 42), (0x33, 30), (0x3, 27), (0x1, 26), (0x3, 24), (0x3, 22)], .vminu { vd := 52, vs1 := 11, vs2 := 0, f35 := 51, mask := 3, me := 1, ew := 3, os := 3, rm := 0, variant := 0 }),
    (bitsAt [(0xD, 54), (0x33, 48), (0xC, 42), (0x5, 36), (0x4, 27), (0x1, 26)], .vmaxu { vd := 51, vs1 := 12, vs2 := 5, f35 := 0, mask := 4, me := 1, ew := 0, os := 0, rm := 0, variant := 0 }),
    (bitsAt [(0xE, 54), (0x32, 48), (0xD, 42), (0x35, 30), (0x5, 27), (0x1, 26), (0x1, 24), (0x3, 22)], .vmul { vd := 50, vs1 := 13, vs2 := 0, f35 := 53, mask := 5, me := 1, ew := 1, os := 3, rm := 0, variant := 0 }),
    (bitsAt [(0xF, 54), (0x31, 48), (0xE, 42), (0x5, 36), (0x6, 27), (0x1, 26), (0x2, 24)], .vmulh { vd := 49, vs1 := 14, vs2 := 5, f35 := 0, mask := 6, me := 1, ew := 2, os := 0, rm := 0, variant := 0 }),
    (bitsAt [(0x10, 54), (0x30, 48), (0xF, 42), (0x37, 30), (0x7, 27), (0x1, 26), (0x3, 24), (0x3, 22)], .vmulhu { vd := 48, vs1 := 15, vs2 := 0, f35 := 55, mask := 7, me := 1, ew := 3, os := 3, rm := 0, variant := 0 }),
    (bitsAt [(0x11, 54), (0x2F, 48), (0x10, 42), (0x5, 36), (0x1, 26)], .vdiv { vd := 47, vs1 := 16, vs2 := 5, f35 := 0, mask := 0, me := 1, ew := 0, os := 0, rm := 0, variant := 0 }),
    (bitsAt [(0x12, 54), (0x2E, 48), (0x11, 42), (0x39, 30), (0x1, 27), (0x1, 26), (0x1, 24), (0x3, 22)], .vdivu { vd := 46, vs1 := 17, vs2 := 0, f35 := 57, mask := 1, me := 1, ew := 1, os := 3, rm := 0, variant := 0 }),
    (bitsAt [(0x13, 54), (0x2D, 48), (0x12, 42), (0x5, 36), (0x2, 27), (0x1, 26), (0x2, 24)], .vrem { vd := 45, vs1 := 18, vs2 := 5, f35 := 0, mask := 2, me := 1, ew := 2, os := 0, rm := 0, variant := 0 }),
    (bitsAt [(0x14, 54), (0x2C, 48), (0x13, 42), (0x3B, 30), (0x3, 27), (0x1, 26), (0x3, 24), (0x3, 22)], .vremu { vd := 44, vs1 := 19, vs2 := 0, f35 := 59, mask := 3, me := 1, ew := 3, os := 3, rm := 0, variant := 0 }),
    (bitsAt [(0x15, 54), (0x3, 48), (0x1, 42), (0x2, 36), (0x4, 30), (0x3, 24)], .vmadd { vd := 3, vs1 := 1, vs2 := 2, f35 := 4, mask := 0, me := 0, ew := 3, os := 0, rm := 0, variant := 0 }),
    (bitsAt [(0x16, 54), (0x3, 48), (0x1, 42), (0x7, 36), (0x1, 22)], .vsadd { vd := 3, vs1 := 1, vs2 := 7, f35 := 0, mask := 0, me := 0, ew := 0, os := 1, rm := 0, variant := 0 }),
    (bitsAt [(0x17, 54), (0x3, 48), (0x1, 42), (0x7, 36), (0x1, 24), (0x1, 22)], .vsaddu { vd := 3, vs1 := 1, vs2 := 7, f35 := 0, mask := 0, me := 0, ew := 1, os := 1, rm := 0, variant := 0 }),
    (bitsAt [(0x18, 54), (0x3, 48), (0x1, 42), (0x7, 36), (0x2, 24), (0x1, 22)], .vssub { vd := 3, vs1 := 1, vs2 := 7, f35 := 0, mask := 0, me := 0, ew := 2, os := 1, rm := 0, variant := 0 }),
    (bitsAt [(0x19, 54), (0x3, 48), (0x1, 42), (0x7, 36), (0x3, 24), (0x1, 22)], .vssubu { vd := 3, vs1 := 1, vs2 := 7, f35 := 0, mask := 0, me := 0, ew := 3, os := 1, rm := 0, variant := 0 }),
    (bitsAt [(0x1A, 54), (0x1, 42), (0x2C, 30), (0x2, 22), (0x5, 16)], .vgadd { vd := 0, vs1 := 1, vs2 := 0, f35 := 44, mask := 0, me := 0, ew := 0, os := 2, rm := 0, variant := 5 }),
    (bitsAt [(0x1B, 54), (0x8, 48), (0x1, 42), (0x2C, 30), (0x1, 24), (0x2, 22), (0x4, 16)], .vgsub { vd := 8, vs1 := 1, vs2 := 0, f35 := 44, mask := 0, me := 0, ew := 1, os := 2, rm := 0, variant := 4 }),
    (bitsAt [(0x1C, 54), (0x10, 48), (0x1, 42), (0x2C, 30), (0x2, 24), (0x2, 22), (0x3, 16)], .vgcy { vd := 16, vs1 := 1, vs2 := 0, f35 := 44, mask := 0, me := 0, ew := 2, os := 2, rm := 0, variant := 3 }),
    (bitsAt [(0x1D, 54), (0x18, 48), (0x1, 42), (0x2C, 30), (0x3, 24), (0x2, 22), (0x2, 16)], .vgbw { vd := 24, vs1 := 1, vs2 := 0, f35 := 44, mask := 0, me := 0, ew := 3, os := 2, rm := 0, variant := 2 }),
    (bitsAt [(0x80, 54), (0x1, 42), (0x2, 36), (0x1, 27), (0x1, 26)], .vmseq { vd := 0, vs1 := 1, vs2 := 2, f35 := 0, mask := 1, me := 1, ew := 0, os := 0, rm := 0, variant := 0 }),
    (bitsAt [(0x81, 54), (0x8, 48), (0x1, 42), (0x2, 36), (0x1, 27), (0x1, 26), (0x1, 24)], .vmsne { vd := 8, vs1 := 1, vs2 := 2, f35 := 0, mask := 1, me := 1, ew := 1, os := 0, rm := 0, variant := 0 }),
    (bitsAt [(0x82, 54), (0x10, 48), (0x1, 42), (0x2, 36), (0x1, 27), (0x1, 26), (0x2, 24)], .vmslt { vd := 16, vs1 := 1, vs2 := 2, f35 := 0, mask := 1, me := 1, ew := 2, os := 0, rm := 0, variant := 0 }),
    (bitsAt [(0x83, 54), (0x18, 48), (0x1, 42), (0x2, 36), (0x1, 27), (0x1, 26), (0x3, 24)], .vmsltu { vd := 24, vs1 := 1, vs2 := 2, f35 := 0, mask := 1, me := 1, ew := 3, os := 0, rm := 0, variant := 0 }),
    (bitsAt [(0x84, 54), (0x20, 48), (0x1, 42), (0x2, 36), (0x1, 27), (0x1, 26)], .vmsle { vd := 32, vs1 := 1, vs2 := 2, f35 := 0, mask := 1, me := 1, ew := 0, os := 0, rm := 0, variant := 0 }),
    (bitsAt [(0x85, 54), (0x28, 48), (0x1, 42), (0x2, 36), (0x1, 27), (0x1, 26), (0x1, 24)], .vmsleu { vd := 40, vs1 := 1, vs2 := 2, f35 := 0, mask := 1, me := 1, ew := 1, os := 0, rm := 0, variant := 0 }),
    (bitsAt [(0x86, 54), (0x30, 48), (0x1, 42), (0x2, 36), (0x1, 27), (0x1, 26), (0x2, 24)], .vmsgt { vd := 48, vs1 := 1, vs2 := 2, f35 := 0, mask := 1, me := 1, ew := 2, os := 0, rm := 0, variant := 0 }),
    (bitsAt [(0x87, 54), (0x38, 48), (0x1, 42), (0x2, 36), (0x1, 27), (0x1, 26), (0x3, 24)], .vmsgtu { vd := 56, vs1 := 1, vs2 := 2, f35 := 0, mask := 1, me := 1, ew := 3, os := 0, rm := 0, variant := 0 }),
    (bitsAt [(0xC0, 54), (0x3, 48), (0x1, 42), (0x3F, 30), (0x3, 22)], .vredsum { vd := 3, vs1 := 1, vs2 := 0, f35 := 63, mask := 0, me := 0, ew := 0, os := 3, rm := 0, variant := 0 }),
    (bitsAt [(0xC1, 54), (0x3, 48), (0x1, 42), (0x3E, 30), (0x1, 24), (0x3, 22)], .vredmax { vd := 3, vs1 := 1, vs2 := 0, f35 := 62, mask := 0, me := 0, ew := 1, os := 3, rm := 0, variant := 0 }),
    (bitsAt [(0xC2, 54), (0x3, 48), (0x1, 42), (0x3D, 30), (0x2, 24), (0x3, 22)], .vredmin { vd := 3, vs1 := 1, vs2 := 0, f35 := 61, mask := 0, me := 0, ew := 2, os := 3, rm := 0, variant := 0 }),
    (bitsAt [(0xC3, 54), (0x3, 48), (0x1, 42), (0x3C, 30), (0x3, 24), (0x3, 22)], .vredmaxu { vd := 3, vs1 := 1, vs2 := 0, f35 := 60, mask := 0, me := 0, ew := 3, os := 3, rm := 0, variant := 0 }),
    (bitsAt [(0xC4, 54), (0x3, 48), (0x1, 42), (0x3B, 30), (0x3, 22)], .vredminu { vd := 3, vs1 := 1, vs2 := 0, f35 := 59, mask := 0, me := 0, ew := 0, os := 3, rm := 0, variant := 0 }),
    (bitsAt [(0xC5, 54), (0x3, 48), (0x1, 42), (0x3A, 30), (0x1, 24), (0x3, 22)], .vredand { vd := 3, vs1 := 1, vs2 := 0, f35 := 58, mask := 0, me := 0, ew := 1, os := 3, rm := 0, variant := 0 }),
    (bitsAt [(0xC6, 54), (0x3, 48), (0x1, 42), (0x39, 30), (0x2, 24), (0x3, 22)], .vredor { vd := 3, vs1 := 1, vs2 := 0, f35 := 57, mask := 0, me := 0, ew := 2, os := 3, rm := 0, variant := 0 }),
    (bitsAt [(0xC7, 54), (0x3, 48), (0x1, 42), (0x38, 30), (0x3, 24), (0x3, 22)], .vredxor { vd := 3, vs1 := 1, vs2 := 0, f35 := 56, mask := 0, me := 0, ew := 3, os := 3, rm := 0, variant := 0 })] = true := by decide +kernel

theorem test_decode_members_floating : decodesTo decodeMember [
    (bitsAt [(0x100, 54), (0x3, 48), (0x1, 42), (0x2, 36), (0x1, 24)], .vfadd { vd := 3, vs1 := 1, vs2 := 2, f35 := 0, mask := 0, me := 0, ew := 1, os := 0, rm := 0, variant := 0 }),
    (bitsAt [(0x101, 54), (0x3, 48), (0x1, 42), (0x2, 36), (0x1, 24), (0x1, 19)], .vfsub { vd := 3, vs1 := 1, vs2 := 2, f35 := 0, mask := 0, me := 0, ew := 1, os := 0, rm := 1, variant := 0 }),
    (bitsAt [(0x102, 54), (0x3, 48), (0x1, 42), (0x2, 36), (0x1, 24), (0x2, 19)], .vfmul { vd := 3, vs1 := 1, vs2 := 2, f35 := 0, mask := 0, me := 0, ew := 1, os := 0, rm := 2, variant := 0 }),
    (bitsAt [(0x103, 54), (0x3, 48), (0x1, 42), (0x2, 36), (0x1, 24), (0x3, 19)], .vfdiv { vd := 3, vs1 := 1, vs2 := 2, f35 := 0, mask := 0, me := 0, ew := 1, os := 0, rm := 3, variant := 0 }),
    (bitsAt [(0x104, 54), (0x3, 48), (0x1, 42), (0x1, 24), (0x4, 19)], .vfsqrt { vd := 3, vs1 := 1, vs2 := 0, f35 := 0, mask := 0, me := 0, ew := 1, os := 0, rm := 4, variant := 0 }),
    (bitsAt [(0x105, 54), (0x3, 48), (0x1, 42), (0x2, 36), (0x1, 24)], .vfmin { vd := 3, vs1 := 1, vs2 := 2, f35 := 0, mask := 0, me := 0, ew := 1, os := 0, rm := 0, variant := 0 }),
    (bitsAt [(0x106, 54), (0x3, 48), (0x1, 42), (0x2, 36), (0x1, 24)], .vfmax { vd := 3, vs1 := 1, vs2 := 2, f35 := 0, mask := 0, me := 0, ew := 1, os := 0, rm := 0, variant := 0 }),
    (bitsAt [(0x107, 54), (0x3, 48), (0x1, 42), (0x2, 36), (0x3, 30), (0x1, 24), (0x1, 19)], .vfma { vd := 3, vs1 := 1, vs2 := 2, f35 := 3, mask := 0, me := 0, ew := 1, os := 0, rm := 1, variant := 0 }),
    (bitsAt [(0x108, 54), (0x3, 48), (0x1, 42), (0x2, 36), (0x3, 30), (0x1, 24), (0x2, 19)], .vfms { vd := 3, vs1 := 1, vs2 := 2, f35 := 3, mask := 0, me := 0, ew := 1, os := 0, rm := 2, variant := 0 }),
    (bitsAt [(0x109, 54), (0x3, 48), (0x1, 42), (0x2, 36), (0x3, 30), (0x1, 24), (0x3, 19)], .vfnma { vd := 3, vs1 := 1, vs2 := 2, f35 := 3, mask := 0, me := 0, ew := 1, os := 0, rm := 3, variant := 0 }),
    (bitsAt [(0x10A, 54), (0x3, 48), (0x1, 42), (0x2, 36), (0x1, 24)], .vfsgnj { vd := 3, vs1 := 1, vs2 := 2, f35 := 0, mask := 0, me := 0, ew := 1, os := 0, rm := 0, variant := 0 }),
    (bitsAt [(0x10B, 54), (0x3, 48), (0x1, 42), (0x2, 36), (0x1, 24)], .vfsgnjn { vd := 3, vs1 := 1, vs2 := 2, f35 := 0, mask := 0, me := 0, ew := 1, os := 0, rm := 0, variant := 0 }),
    (bitsAt [(0x140, 54), (0x3, 48), (0x1, 42), (0x2, 24)], .vfcvtF32Bf16 { vd := 3, vs1 := 1, vs2 := 0, f35 := 0, mask := 0, me := 0, ew := 2, os := 0, rm := 0, variant := 0 }),
    (bitsAt [(0x141, 54), (0x3, 48), (0x1, 42), (0x1, 24), (0x4, 19)], .vfcvtBf16F32 { vd := 3, vs1 := 1, vs2 := 0, f35 := 0, mask := 0, me := 0, ew := 1, os := 0, rm := 4, variant := 0 }),
    (bitsAt [(0x142, 54), (0x3, 48), (0x1, 42), (0x1, 24), (0x4, 19)], .vfcvtFI { vd := 3, vs1 := 1, vs2 := 0, f35 := 0, mask := 0, me := 0, ew := 1, os := 0, rm := 4, variant := 0 }),
    (bitsAt [(0x143, 54), (0x3, 48), (0x1, 42), (0x1, 24), (0x4, 19)], .vfcvtFU { vd := 3, vs1 := 1, vs2 := 0, f35 := 0, mask := 0, me := 0, ew := 1, os := 0, rm := 4, variant := 0 }),
    (bitsAt [(0x144, 54), (0x3, 48), (0x1, 42), (0x1, 24), (0x4, 19)], .vfcvtIF { vd := 3, vs1 := 1, vs2 := 0, f35 := 0, mask := 0, me := 0, ew := 1, os := 0, rm := 4, variant := 0 }),
    (bitsAt [(0x145, 54), (0x3, 48), (0x1, 42), (0x1, 24), (0x4, 19)], .vfcvtUF { vd := 3, vs1 := 1, vs2 := 0, f35 := 0, mask := 0, me := 0, ew := 1, os := 0, rm := 4, variant := 0 }),
    (bitsAt [(0x160, 54), (0x1, 42), (0x2, 36), (0x1, 24)], .vmfeq { vd := 0, vs1 := 1, vs2 := 2, f35 := 0, mask := 0, me := 0, ew := 1, os := 0, rm := 0, variant := 0 }),
    (bitsAt [(0x161, 54), (0x8, 48), (0x1, 42), (0x2, 36), (0x2, 24)], .vmfne { vd := 8, vs1 := 1, vs2 := 2, f35 := 0, mask := 0, me := 0, ew := 2, os := 0, rm := 0, variant := 0 }),
    (bitsAt [(0x162, 54), (0x10, 48), (0x1, 42), (0x2, 36), (0x1, 24)], .vmflt { vd := 16, vs1 := 1, vs2 := 2, f35 := 0, mask := 0, me := 0, ew := 1, os := 0, rm := 0, variant := 0 }),
    (bitsAt [(0x163, 54), (0x18, 48), (0x1, 42), (0x2, 36), (0x2, 24)], .vmfle { vd := 24, vs1 := 1, vs2 := 2, f35 := 0, mask := 0, me := 0, ew := 2, os := 0, rm := 0, variant := 0 }),
    (bitsAt [(0x164, 54), (0x20, 48), (0x1, 42), (0x2, 36), (0x1, 24)], .vmfgt { vd := 32, vs1 := 1, vs2 := 2, f35 := 0, mask := 0, me := 0, ew := 1, os := 0, rm := 0, variant := 0 }),
    (bitsAt [(0x165, 54), (0x28, 48), (0x1, 42), (0x2, 36), (0x2, 24)], .vmfge { vd := 40, vs1 := 1, vs2 := 2, f35 := 0, mask := 0, me := 0, ew := 2, os := 0, rm := 0, variant := 0 }),
    (bitsAt [(0x166, 54), (0x30, 48), (0x1, 42), (0x2, 36), (0x1, 24)], .vmford { vd := 48, vs1 := 1, vs2 := 2, f35 := 0, mask := 0, me := 0, ew := 1, os := 0, rm := 0, variant := 0 }),
    (bitsAt [(0x167, 54), (0x38, 48), (0x1, 42), (0x2, 24), (0x6, 16)], .vmfclass { vd := 56, vs1 := 1, vs2 := 0, f35 := 0, mask := 0, me := 0, ew := 2, os := 0, rm := 0, variant := 6 }),
    (bitsAt [(0x170, 54), (0x3, 48), (0x1, 42), (0x2, 36), (0x2, 24), (0x2, 19)], .vfredsum { vd := 3, vs1 := 1, vs2 := 2, f35 := 0, mask := 0, me := 0, ew := 2, os := 0, rm := 2, variant := 0 }),
    (bitsAt [(0x171, 54), (0x3, 48), (0x1, 42), (0x2, 36), (0x2, 24)], .vfredmax { vd := 3, vs1 := 1, vs2 := 2, f35 := 0, mask := 0, me := 0, ew := 2, os := 0, rm := 0, variant := 0 }),
    (bitsAt [(0x172, 54), (0x3, 48), (0x1, 42), (0x2, 36), (0x1, 24)], .vfredmin { vd := 3, vs1 := 1, vs2 := 2, f35 := 0, mask := 0, me := 0, ew := 1, os := 0, rm := 0, variant := 0 }),
    (bitsAt [(0x180, 54), (0x3, 48), (0x1, 42), (0x2, 36), (0x3, 24)], .vfaddF64 { vd := 3, vs1 := 1, vs2 := 2, f35 := 0, mask := 0, me := 0, ew := 3, os := 0, rm := 0, variant := 0 }),
    (bitsAt [(0x181, 54), (0x3, 48), (0x1, 42), (0x2, 36), (0x3, 24), (0x1, 19)], .vfsubF64 { vd := 3, vs1 := 1, vs2 := 2, f35 := 0, mask := 0, me := 0, ew := 3, os := 0, rm := 1, variant := 0 }),
    (bitsAt [(0x182, 54), (0x3, 48), (0x1, 42), (0x2, 36), (0x3, 24), (0x2, 19)], .vfmulF64 { vd := 3, vs1 := 1, vs2 := 2, f35 := 0, mask := 0, me := 0, ew := 3, os := 0, rm := 2, variant := 0 }),
    (bitsAt [(0x183, 54), (0x3, 48), (0x1, 42), (0x2, 36), (0x3, 24), (0x3, 19)], .vfdivF64 { vd := 3, vs1 := 1, vs2 := 2, f35 := 0, mask := 0, me := 0, ew := 3, os := 0, rm := 3, variant := 0 }),
    (bitsAt [(0x184, 54), (0x3, 48), (0x1, 42), (0x3, 24), (0x4, 19)], .vfsqrtF64 { vd := 3, vs1 := 1, vs2 := 0, f35 := 0, mask := 0, me := 0, ew := 3, os := 0, rm := 4, variant := 0 }),
    (bitsAt [(0x185, 54), (0x3, 48), (0x1, 42), (0x2, 36), (0x3, 24)], .vfminF64 { vd := 3, vs1 := 1, vs2 := 2, f35 := 0, mask := 0, me := 0, ew := 3, os := 0, rm := 0, variant := 0 }),
    (bitsAt [(0x186, 54), (0x3, 48), (0x1, 42), (0x2, 36), (0x3, 24)], .vfmaxF64 { vd := 3, vs1 := 1, vs2 := 2, f35 := 0, mask := 0, me := 0, ew := 3, os := 0, rm := 0, variant := 0 }),
    (bitsAt [(0x187, 54), (0x3, 48), (0x1, 42), (0x2, 36), (0x3, 30), (0x3, 24), (0x1, 19)], .vfmaF64 { vd := 3, vs1 := 1, vs2 := 2, f35 := 3, mask := 0, me := 0, ew := 3, os := 0, rm := 1, variant := 0 }),
    (bitsAt [(0x188, 54), (0x3, 48), (0x1, 42), (0x2, 36), (0x3, 30), (0x3, 24), (0x2, 19)], .vfmsF64 { vd := 3, vs1 := 1, vs2 := 2, f35 := 3, mask := 0, me := 0, ew := 3, os := 0, rm := 2, variant := 0 }),
    (bitsAt [(0x189, 54), (0x3, 48), (0x1, 42), (0x2, 36), (0x3, 30), (0x3, 24), (0x3, 19)], .vfnmaF64 { vd := 3, vs1 := 1, vs2 := 2, f35 := 3, mask := 0, me := 0, ew := 3, os := 0, rm := 3, variant := 0 }),
    (bitsAt [(0x18A, 54), (0x3, 48), (0x1, 42), (0x2, 36), (0x3, 24)], .vfsgnjF64 { vd := 3, vs1 := 1, vs2 := 2, f35 := 0, mask := 0, me := 0, ew := 3, os := 0, rm := 0, variant := 0 }),
    (bitsAt [(0x18B, 54), (0x3, 48), (0x1, 42), (0x2, 36), (0x3, 24)], .vfsgnjnF64 { vd := 3, vs1 := 1, vs2 := 2, f35 := 0, mask := 0, me := 0, ew := 3, os := 0, rm := 0, variant := 0 }),
    (bitsAt [(0x1A0, 54), (0x3, 48), (0x1, 42), (0x3, 24)], .vfcvtF64F32 { vd := 3, vs1 := 1, vs2 := 0, f35 := 0, mask := 0, me := 0, ew := 3, os := 0, rm := 0, variant := 0 }),
    (bitsAt [(0x1A1, 54), (0x3, 48), (0x1, 42), (0x2, 24), (0x6, 19)], .vfcvtF32F64 { vd := 3, vs1 := 1, vs2 := 0, f35 := 0, mask := 0, me := 0, ew := 2, os := 0, rm := 6, variant := 0 }),
    (bitsAt [(0x1A2, 54), (0x3, 48), (0x1, 42), (0x3, 24), (0x1, 19)], .vfcvtFIF64 { vd := 3, vs1 := 1, vs2 := 0, f35 := 0, mask := 0, me := 0, ew := 3, os := 0, rm := 1, variant := 0 }),
    (bitsAt [(0x1A3, 54), (0x3, 48), (0x1, 42), (0x3, 24), (0x1, 19)], .vfcvtFUF64 { vd := 3, vs1 := 1, vs2 := 0, f35 := 0, mask := 0, me := 0, ew := 3, os := 0, rm := 1, variant := 0 }),
    (bitsAt [(0x1A4, 54), (0x3, 48), (0x1, 42), (0x3, 24), (0x1, 19)], .vfcvtIFF64 { vd := 3, vs1 := 1, vs2 := 0, f35 := 0, mask := 0, me := 0, ew := 3, os := 0, rm := 1, variant := 0 }),
    (bitsAt [(0x1A5, 54), (0x3, 48), (0x1, 42), (0x3, 24), (0x1, 19)], .vfcvtUFF64 { vd := 3, vs1 := 1, vs2 := 0, f35 := 0, mask := 0, me := 0, ew := 3, os := 0, rm := 1, variant := 0 }),
    (bitsAt [(0x1B0, 54), (0x1, 42), (0x2, 36), (0x3, 24)], .vmfeqF64 { vd := 0, vs1 := 1, vs2 := 2, f35 := 0, mask := 0, me := 0, ew := 3, os := 0, rm := 0, variant := 0 }),
    (bitsAt [(0x1B1, 54), (0x8, 48), (0x1, 42), (0x2, 36), (0x3, 24)], .vmfneF64 { vd := 8, vs1 := 1, vs2 := 2, f35 := 0, mask := 0, me := 0, ew := 3, os := 0, rm := 0, variant := 0 }),
    (bitsAt [(0x1B2, 54), (0x10, 48), (0x1, 42), (0x2, 36), (0x3, 24)], .vmfltF64 { vd := 16, vs1 := 1, vs2 := 2, f35 := 0, mask := 0, me := 0, ew := 3, os := 0, rm := 0, variant := 0 }),
    (bitsAt [(0x1B3, 54), (0x18, 48), (0x1, 42), (0x2, 36), (0x3, 24)], .vmfleF64 { vd := 24, vs1 := 1, vs2 := 2, f35 := 0, mask := 0, me := 0, ew := 3, os := 0, rm := 0, variant := 0 }),
    (bitsAt [(0x1B4, 54), (0x20, 48), (0x1, 42), (0x2, 36), (0x3, 24)], .vmfgtF64 { vd := 32, vs1 := 1, vs2 := 2, f35 := 0, mask := 0, me := 0, ew := 3, os := 0, rm := 0, variant := 0 }),
    (bitsAt [(0x1B5, 54), (0x28, 48), (0x1, 42), (0x2, 36), (0x3, 24)], .vmfgeF64 { vd := 40, vs1 := 1, vs2 := 2, f35 := 0, mask := 0, me := 0, ew := 3, os := 0, rm := 0, variant := 0 }),
    (bitsAt [(0x1B6, 54), (0x30, 48), (0x1, 42), (0x2, 36), (0x3, 24)], .vmfordF64 { vd := 48, vs1 := 1, vs2 := 2, f35 := 0, mask := 0, me := 0, ew := 3, os := 0, rm := 0, variant := 0 }),
    (bitsAt [(0x1B7, 54), (0x1, 42), (0x3, 24), (0x7, 16)], .vmfclassF64 { vd := 0, vs1 := 1, vs2 := 0, f35 := 0, mask := 0, me := 0, ew := 3, os := 0, rm := 0, variant := 7 }),
    (bitsAt [(0x1B8, 54), (0x3, 48), (0x1, 42), (0x2, 36), (0x3, 24), (0x6, 19)], .vfredsumF64 { vd := 3, vs1 := 1, vs2 := 2, f35 := 0, mask := 0, me := 0, ew := 3, os := 0, rm := 6, variant := 0 }),
    (bitsAt [(0x1B9, 54), (0x3, 48), (0x1, 42), (0x2, 36), (0x3, 24)], .vfredmaxF64 { vd := 3, vs1 := 1, vs2 := 2, f35 := 0, mask := 0, me := 0, ew := 3, os := 0, rm := 0, variant := 0 }),
    (bitsAt [(0x1BA, 54), (0x3, 48), (0x1, 42), (0x2, 36), (0x3, 24)], .vfredminF64 { vd := 3, vs1 := 1, vs2 := 2, f35 := 0, mask := 0, me := 0, ew := 3, os := 0, rm := 0, variant := 0 })] = true := by decide +kernel

theorem test_decode_members_permutes_and_transfers : decodesTo decodeMember [
    (bitsAt [(0x1C0, 54), (0x10, 48), (0x1, 42), (0x1, 24), (0x7, 16)], .vqscale { vd := 16, vs1 := 1, vs2 := 0, f35 := 0, mask := 0, me := 0, ew := 1, os := 0, rm := 0, variant := 7 }),
    (bitsAt [(0x1C1, 54), (0x3, 48), (0x1, 42), (0x2, 36), (0x18, 30), (0x1, 24), (0x1, 16)], .vreds { vd := 3, vs1 := 1, vs2 := 2, f35 := 24, mask := 0, me := 0, ew := 1, os := 0, rm := 0, variant := 1 }),
    (bitsAt [(0x1C2, 54), (0x3, 48), (0x1, 42), (0x8, 30), (0x2, 24), (0x3, 19), (0x2, 16)], .vqapply { vd := 3, vs1 := 1, vs2 := 0, f35 := 8, mask := 0, me := 0, ew := 2, os := 0, rm := 3, variant := 2 }),
    (bitsAt [(0x1C3, 54), (0x3, 48), (0x1, 42), (0x38, 30), (0x3, 16)], .vqquant { vd := 3, vs1 := 1, vs2 := 0, f35 := 56, mask := 0, me := 0, ew := 0, os := 0, rm := 0, variant := 3 }),
    (bitsAt [(0x1E0, 54), (0x3, 48), (0x1, 42), (0x8, 30), (0x2, 24), (0x3, 22), (0x1, 16)], .vtopk { vd := 3, vs1 := 1, vs2 := 0, f35 := 8, mask := 0, me := 0, ew := 2, os := 3, rm := 0, variant := 1 }),
    (bitsAt [(0x200, 54), (0x8, 48), (0x10, 42)], .vmand { vd := 8, vs1 := 16, vs2 := 0, f35 := 0, mask := 0, me := 0, ew := 0, os := 0, rm := 0, variant := 0 }),
    (bitsAt [(0x201, 54), (0x8, 48), (0x10, 42), (0x8, 36)], .vmor { vd := 8, vs1 := 16, vs2 := 8, f35 := 0, mask := 0, me := 0, ew := 0, os := 0, rm := 0, variant := 0 }),
    (bitsAt [(0x202, 54), (0x8, 48), (0x10, 42), (0x10, 36)], .vmxor { vd := 8, vs1 := 16, vs2 := 16, f35 := 0, mask := 0, me := 0, ew := 0, os := 0, rm := 0, variant := 0 }),
    (bitsAt [(0x203, 54), (0x8, 48), (0x10, 42), (0x18, 36)], .vmandn { vd := 8, vs1 := 16, vs2 := 24, f35 := 0, mask := 0, me := 0, ew := 0, os := 0, rm := 0, variant := 0 }),
    (bitsAt [(0x204, 54), (0x8, 48), (0x10, 42), (0x20, 36)], .vmorn { vd := 8, vs1 := 16, vs2 := 32, f35 := 0, mask := 0, me := 0, ew := 0, os := 0, rm := 0, variant := 0 }),
    (bitsAt [(0x205, 54), (0x8, 48), (0x10, 42), (0x28, 36)], .vmnand { vd := 8, vs1 := 16, vs2 := 40, f35 := 0, mask := 0, me := 0, ew := 0, os := 0, rm := 0, variant := 0 }),
    (bitsAt [(0x206, 54), (0x8, 48), (0x10, 42), (0x30, 36)], .vmnor { vd := 8, vs1 := 16, vs2 := 48, f35 := 0, mask := 0, me := 0, ew := 0, os := 0, rm := 0, variant := 0 }),
    (bitsAt [(0x207, 54), (0x8, 48), (0x10, 42), (0x38, 36)], .vmxnor { vd := 8, vs1 := 16, vs2 := 56, f35 := 0, mask := 0, me := 0, ew := 0, os := 0, rm := 0, variant := 0 }),
    (bitsAt [(0x208, 54), (0x8, 48), (0x38, 42), (0x4, 16)], .vmrel { vd := 8, vs1 := 56, vs2 := 0, f35 := 0, mask := 0, me := 0, ew := 0, os := 0, rm := 0, variant := 4 }),
    (bitsAt [(0x20C, 54), (0x3, 48), (0x28, 42), (0x1, 24)], .vmpopc { vd := 3, vs1 := 40, vs2 := 0, f35 := 0, mask := 0, me := 0, ew := 1, os := 0, rm := 0, variant := 0 }),
    (bitsAt [(0x20D, 54), (0x3, 48), (0x30, 42), (0x3, 24)], .vmfirst { vd := 3, vs1 := 48, vs2 := 0, f35 := 0, mask := 0, me := 0, ew := 3, os := 0, rm := 0, variant := 0 }),
    (bitsAt [(0x20E, 54), (0x8, 48), (0x8, 42), (0x3, 16)], .vmslide1 { vd := 8, vs1 := 8, vs2 := 0, f35 := 0, mask := 0, me := 0, ew := 0, os := 0, rm := 0, variant := 3 }),
    (bitsAt [(0x240, 54), (0x3, 48), (0x1, 42), (0x21, 30), (0x3, 22)], .vshiftUp { vd := 3, vs1 := 1, vs2 := 0, f35 := 33, mask := 0, me := 0, ew := 0, os := 3, rm := 0, variant := 0 }),
    (bitsAt [(0x240, 54), (0x3, 48), (0x1, 42), (0x21, 30), (0x1, 24), (0x3, 22), (0x1, 16)], .vshiftDn { vd := 3, vs1 := 1, vs2 := 0, f35 := 33, mask := 0, me := 0, ew := 1, os := 3, rm := 0, variant := 1 }),
    (bitsAt [(0x240, 54), (0x3, 48), (0x1, 42), (0x21, 30), (0x2, 24), (0x3, 22), (0x2, 16)], .vshiftInsUp { vd := 3, vs1 := 1, vs2 := 0, f35 := 33, mask := 0, me := 0, ew := 2, os := 3, rm := 0, variant := 2 }),
    (bitsAt [(0x240, 54), (0x3, 48), (0x1, 42), (0x21, 30), (0x3, 24), (0x3, 22), (0x3, 16)], .vshiftInsDn { vd := 3, vs1 := 1, vs2 := 0, f35 := 33, mask := 0, me := 0, ew := 3, os := 3, rm := 0, variant := 3 }),
    (bitsAt [(0x241, 54), (0x3, 48), (0x1, 42), (0x6, 36), (0x2, 24), (0x1, 22)], .vrotDn { vd := 3, vs1 := 1, vs2 := 6, f35 := 0, mask := 0, me := 0, ew := 2, os := 1, rm := 0, variant := 0 }),
    (bitsAt [(0x241, 54), (0x3, 48), (0x1, 42), (0x2, 24), (0x2, 22), (0x1, 16)], .vrotUp { vd := 3, vs1 := 1, vs2 := 0, f35 := 0, mask := 0, me := 0, ew := 2, os := 2, rm := 0, variant := 1 }),
    (bitsAt [(0x244, 54), (0x3, 48), (0x1, 42), (0x2, 36), (0x2, 24)], .vrgather { vd := 3, vs1 := 1, vs2 := 2, f35 := 0, mask := 0, me := 0, ew := 2, os := 0, rm := 0, variant := 0 }),
    (bitsAt [(0x245, 54), (0x3, 48), (0x1, 42), (0x2, 36), (0x2, 27), (0x1, 26), (0x2, 24)], .vsel { vd := 3, vs1 := 1, vs2 := 2, f35 := 0, mask := 2, me := 1, ew := 2, os := 0, rm := 0, variant := 0 }),
    (bitsAt [(0x246, 54), (0x3, 48), (0x1, 42), (0x3, 27), (0x1, 26), (0x2, 24), (0x1, 16)], .vcompress { vd := 3, vs1 := 1, vs2 := 0, f35 := 0, mask := 3, me := 1, ew := 2, os := 0, rm := 0, variant := 1 }),
    (bitsAt [(0x247, 54), (0x3, 48), (0x1, 42), (0x7, 27), (0x1, 26), (0x2, 24)], .vexpand { vd := 3, vs1 := 1, vs2 := 0, f35 := 0, mask := 7, me := 1, ew := 2, os := 0, rm := 0, variant := 0 }),
    (bitsAt [(0x248, 54), (0x3, 48), (0x2, 36), (0x2, 24)], .vmv { vd := 3, vs1 := 0, vs2 := 2, f35 := 0, mask := 0, me := 0, ew := 2, os := 0, rm := 0, variant := 0 }),
    (bitsAt [(0x280, 54), (0x3, 48), (0x18, 42), (0x2, 24)], .viota { vd := 3, vs1 := 24, vs2 := 0, f35 := 0, mask := 0, me := 0, ew := 2, os := 0, rm := 0, variant := 0 }),
    (bitsAt [(0x281, 54), (0x3, 48), (0x1, 24)], .vid { vd := 3, vs1 := 0, vs2 := 0, f35 := 0, mask := 0, me := 0, ew := 1, os := 0, rm := 0, variant := 0 }),
    (bitsAt [(0x282, 54), (0x3, 48), (0x1, 42), (0x2, 24)], .vconfl { vd := 3, vs1 := 1, vs2 := 0, f35 := 0, mask := 0, me := 0, ew := 2, os := 0, rm := 0, variant := 0 }),
    (bitsAt [(0x283, 54), (0x3, 48), (0x1, 42), (0x20, 30), (0x2, 24), (0x4, 19), (0x5, 16)], .vsegscan { vd := 3, vs1 := 1, vs2 := 0, f35 := 32, mask := 0, me := 0, ew := 2, os := 0, rm := 4, variant := 5 }),
    (bitsAt [(0x2C0, 54), (6, 51), (0, 45), (2, 39), (3, 24), (0, 21)], .visect { co := 6, ca := 0, cb := 2, ew := 3, mode := 0 }),
    (bitsAt [(0x2C1, 54), (2, 51), (4, 45), (0, 39), (1, 24), (2, 21)], .vmerge { co := 2, ca := 4, cb := 0, ew := 1, mode := 2 }),
    (bitsAt [(0x380, 54), (0x28, 42), (0x3, 27), (0x1, 26)], .vmpopcRq { vd := 0, vs1 := 40, mask := 3, me := 1, ew := 0, idx := 0, sreg := 0, param := 0 }),
    (bitsAt [(0x381, 54), (0x8, 42)], .vmfirstRq { vd := 0, vs1 := 8, mask := 0, me := 0, ew := 0, idx := 0, sreg := 0, param := 0 }),
    (bitsAt [(0x382, 54), (0x7, 18)], .vrqb { vd := 0, vs1 := 0, mask := 0, me := 0, ew := 0, idx := 7, sreg := 0, param := 0 }),
    (bitsAt [(0x383, 54), (0x21, 42), (0x3, 24), (0x5, 18)], .vrqe { vd := 0, vs1 := 33, mask := 0, me := 0, ew := 3, idx := 5, sreg := 0, param := 0 }),
    (bitsAt [(0x384, 54), (0x3, 18), (0x7, 10)], .vsetlc { vd := 0, vs1 := 0, mask := 0, me := 0, ew := 0, idx := 3, sreg := 0, param := 7 }),
    (bitsAt [(0x385, 54), (0x2, 24), (0x10, 10)], .vsetvl { vd := 0, vs1 := 0, mask := 0, me := 0, ew := 2, idx := 0, sreg := 0, param := 16 }),
    (bitsAt [(0x3A0, 54), (0x4, 42), (0x1, 24), (0x2, 18), (0x8, 10)], .vtoa { vd := 0, vs1 := 4, mask := 0, me := 0, ew := 1, idx := 2, sreg := 0, param := 8 }),
    (bitsAt [(0x3A1, 54), (0x4, 18), (0x6, 10)], .vtoaS { vd := 0, vs1 := 0, mask := 0, me := 0, ew := 0, idx := 4, sreg := 0, param := 6 }),
    (bitsAt [(0x3A2, 54), (0x5, 48), (0x2, 24), (0x3F, 18)], .vfromc { vd := 5, vs1 := 0, mask := 0, me := 0, ew := 2, idx := 63, sreg := 0, param := 0 }),
    (bitsAt [(0x3A3, 54), (0x8, 42), (0x1, 27), (0x1, 26), (0x2, 24)], .vthrmax { vd := 0, vs1 := 8, mask := 1, me := 1, ew := 2, idx := 0, sreg := 0, param := 0 })] = true := by decide +kernel

theorem test_decode_members_memory : decodesTo decodeMember [
    (bitsAt [(0x300, 54), (0x1, 45), (0x1, 42), (0x5, 18), (0x3, 15)], .vld { vd := 0, hi3 := 1, base := 1, vs2 := 0, f35 := 0, mask := 0, me := 0, ew := 0, w1 := 5, mfmt := 3, am := 0, cls := 0, order := 0, scope := 0, scale := 0 }),
    (bitsAt [(0x300, 54), (0x1, 48), (0x6, 36), (0x2, 24), (0x1F, 18), (0x1, 12), (0xF, 8), (0x1, 6), (0x5, 3)], .vlds { vd := 1, hi3 := 0, base := 0, vs2 := 6, f35 := 0, mask := 0, me := 0, ew := 2, w1 := 31, mfmt := 0, am := 1, cls := 15, order := 1, scope := 5, scale := 0 }),
    (bitsAt [(0x300, 54), (0x2, 48), (0x1, 36), (0x2, 24), (0x1F, 18), (0x2, 12)], .vldx { vd := 2, hi3 := 0, base := 0, vs2 := 1, f35 := 0, mask := 0, me := 0, ew := 2, w1 := 31, mfmt := 0, am := 2, cls := 0, order := 0, scope := 0, scale := 0 }),
    (bitsAt [(0x300, 54), (0x1, 48), (0x20, 30), (0x2, 24), (0x2, 18), (0x1, 15), (0x3, 12)], .vldff { vd := 1, hi3 := 0, base := 0, vs2 := 0, f35 := 32, mask := 0, me := 0, ew := 2, w1 := 2, mfmt := 1, am := 3, cls := 0, order := 0, scope := 0, scale := 0 }),
    (bitsAt [(0x301, 54), (0x6, 48), (0x1, 45), (0x1, 24), (0xF, 18)], .vst { vd := 6, hi3 := 1, base := 0, vs2 := 0, f35 := 0, mask := 0, me := 0, ew := 1, w1 := 15, mfmt := 0, am := 0, cls := 0, order := 0, scope := 0, scale := 0 }),
    (bitsAt [(0x301, 54), (0x1, 48), (0x7, 36), (0x2, 24), (0x1F, 18), (0x1, 12), (0x2, 6), (0x1, 3)], .vsts { vd := 1, hi3 := 0, base := 0, vs2 := 7, f35 := 0, mask := 0, me := 0, ew := 2, w1 := 31, mfmt := 0, am := 1, cls := 0, order := 2, scope := 1, scale := 0 }),
    (bitsAt [(0x301, 54), (0x5, 48), (0x4, 36), (0x2, 24), (0x1F, 18), (0x2, 12)], .vstx { vd := 5, hi3 := 0, base := 0, vs2 := 4, f35 := 0, mask := 0, me := 0, ew := 2, w1 := 31, mfmt := 0, am := 2, cls := 0, order := 0, scope := 0, scale := 0 }),
    (bitsAt [(0x302, 54), (0x1, 48), (0x3, 18), (0x2, 15), (0x7, 0)], .vstr { vd := 1, hi3 := 0, base := 0, vs2 := 0, f35 := 0, mask := 0, me := 0, ew := 0, w1 := 3, mfmt := 2, am := 0, cls := 0, order := 0, scope := 0, scale := 7 }),
    (bitsAt [(0x340, 54), (0x1, 48), (0x3, 36), (0x2, 24), (0x1F, 18), (0x2, 12), (0x1, 6), (0x2, 3)], .vlink { vd := 1, hi3 := 0, base := 0, vs2 := 3, f35 := 0, mask := 0, me := 0, ew := 2, w1 := 31, mfmt := 0, am := 2, cls := 0, order := 1, scope := 2, scale := 0 }),
    (bitsAt [(0x341, 54), (0x1, 48), (0x2, 27), (0x1, 26), (0x2, 24), (0x1F, 18), (0x2, 6), (0x3, 3)], .vscond { vd := 1, hi3 := 0, base := 0, vs2 := 0, f35 := 0, mask := 2, me := 1, ew := 2, w1 := 31, mfmt := 0, am := 0, cls := 0, order := 2, scope := 3, scale := 0 }),
    (bitsAt [(0x342, 54), (0x5, 48), (0x6, 36), (0x7, 30), (0x3, 18), (0x2, 12)], .vamoAdd { vd := 5, hi3 := 0, base := 0, vs2 := 6, f35 := 7, mask := 0, me := 0, ew := 0, w1 := 3, mfmt := 0, am := 2, cls := 0, order := 0, scope := 0, scale := 0 }),
    (bitsAt [(0x343, 54), (0x5, 48), (0x6, 36), (0x7, 30), (0x3, 24), (0x3E, 18), (0x1, 15), (0x2, 12)], .vamoMin { vd := 5, hi3 := 0, base := 0, vs2 := 6, f35 := 7, mask := 0, me := 0, ew := 3, w1 := 62, mfmt := 1, am := 2, cls := 0, order := 0, scope := 0, scale := 0 }),
    (bitsAt [(0x344, 54), (0x5, 48), (0x6, 36), (0x7, 30), (0x3, 24), (0x3E, 18), (0x1, 15), (0x2, 12)], .vamoMax { vd := 5, hi3 := 0, base := 0, vs2 := 6, f35 := 7, mask := 0, me := 0, ew := 3, w1 := 62, mfmt := 1, am := 2, cls := 0, order := 0, scope := 0, scale := 0 }),
    (bitsAt [(0x345, 54), (0x5, 48), (0x6, 36), (0x7, 30), (0x3, 24), (0x3E, 18), (0x2, 12)], .vamoMinu { vd := 5, hi3 := 0, base := 0, vs2 := 6, f35 := 7, mask := 0, me := 0, ew := 3, w1 := 62, mfmt := 0, am := 2, cls := 0, order := 0, scope := 0, scale := 0 }),
    (bitsAt [(0x346, 54), (0x5, 48), (0x6, 36), (0x7, 30), (0x3, 24), (0x3E, 18), (0x2, 12)], .vamoMaxu { vd := 5, hi3 := 0, base := 0, vs2 := 6, f35 := 7, mask := 0, me := 0, ew := 3, w1 := 62, mfmt := 0, am := 2, cls := 0, order := 0, scope := 0, scale := 0 }),
    (bitsAt [(0x347, 54), (0x5, 48), (0x6, 36), (0x7, 30), (0x3, 24), (0x3E, 18), (0x2, 12)], .vamoSwap { vd := 5, hi3 := 0, base := 0, vs2 := 6, f35 := 7, mask := 0, me := 0, ew := 3, w1 := 62, mfmt := 0, am := 2, cls := 0, order := 0, scope := 0, scale := 0 }),
    (bitsAt [(0x348, 54), (0x5, 48), (0x6, 36), (0x7, 30), (0x3, 24), (0x3E, 18), (0x2, 12)], .vamoCas { vd := 5, hi3 := 0, base := 0, vs2 := 6, f35 := 7, mask := 0, me := 0, ew := 3, w1 := 62, mfmt := 0, am := 2, cls := 0, order := 0, scope := 0, scale := 0 }),
    (bitsAt [(0x349, 54), (0x5, 48), (0x6, 36), (0x7, 30), (0x2, 24), (0x1F, 18), (0x2, 12)], .vamoFadd { vd := 5, hi3 := 0, base := 0, vs2 := 6, f35 := 7, mask := 0, me := 0, ew := 2, w1 := 31, mfmt := 0, am := 2, cls := 0, order := 0, scope := 0, scale := 0 }),
    (bitsAt [(0x350, 54), (0x1, 48), (0x1, 42), (0x1, 24), (0x1F, 18)], .rred { vd := 1, hi3 := 0, base := 1, vs2 := 0, f35 := 0, mask := 0, me := 0, ew := 1, w1 := 31, mfmt := 0, am := 0, cls := 0, order := 0, scope := 0, scale := 0 }),
    (bitsAt [(0x360, 54), (0x4, 48), (0x3, 45), (0x2, 42), (0x7, 36), (0x9, 30), (0x1, 27), (0x1, 26), (0x3, 24), (0x3F, 18), (0x5, 15), (0x1, 12), (0x1, 6), (0x4, 3), (0x6, 0)], .vwaitv { vd := 4, hi3 := 3, base := 2, vs2 := 7, f35 := 9, mask := 1, me := 1, ew := 3, w1 := 63, mfmt := 5, am := 1, cls := 0, order := 1, scope := 4, scale := 6 })] = true := by decide +kernel

/-- Worked scalar encodings of 18_program_six_bit_counters.md, 22_program_context_switch.md, 23_program_migration.md and R29. -/
theorem test_decode_worked_words : decodesTo decodeScalar [
    (0x42651805, .ldS 6 10 12 5), (0x04940200, .addi 9 8 0x200), (0x40D5FE80, .ldZ 13 11 63 0x80), (0x8056E000, .setvl 5 13 3), (0x84000007, .vblk 7),
    (0x41441636, .ldZ 20 8 11 0x36), (0xAA000000, .exit), (0x88100000, .rqpop 1), (0x6610001C, .bge 1 0 28), (0xC25300A0, .hget 5 6 { strand := 1, m := 0 }),
    (0xD2061C80, .vsave 12 7 { strand := 1, m := 0 }), (0xC20314B0, .hput 6 5 { strand := 1, m := 0 }), (0xD40600A0, .vrestoreSt 12 0 { strand := 1, m := 0 }),
    (0xC2500090, .tretS 5 { strand := 1, m := 0 }), (0xC0000001, .ecall 0 1), (0x62500008, .bne 5 0 8), (0x8CFC0FC0, .waitc 63 0 63 0), (0xA2061C00, .waita 0 12 7 0 0),
    (0xA4004042, .tlwait 0 0 1 0 1 2), (0xA20B78FC, .waita 0 22 30 0 0xFC), (0xA5F00280, .tlwait 31 0 0 5 0 0)] = true := by decide +kernel

/-- Worked long forms: R106, R120, R221, R250, R282 and the programs' listings; W1 is above W0. -/
theorem test_decode_worked_long_forms : decodesTo decodeLong [
    (0xFE102A7F + 0x00042600 * 2 ^ 32, .ldZOrdered { r := 5, base := 9, w1 := 63, mask := 4, cls := 2, order := 1, scope := 4, tail := 0 }),
    (0xFE12733F + 0x00010A00 * 2 ^ 32, .stOrdered { r := 14, base := 12, w1 := 63, mask := 1, cls := 0, order := 2, scope := 4, tail := 0 }),
    (0xFE406A1F + 0xFE0001C2 * 2 ^ 32, .smbLong 13 8 1 0xFFE 0x1C2), (0xFE50A250 + 0x52D90300 * 2 ^ 32,
      .copy { rd := 20, rdst := 9, rsrc := 8, twoD := 0, rlen := 10, rc := 11, rv := 12, cls := 2, ctx := 3 }),
    (0xFE51FEF8 + 0xE83D0530 * 2 ^ 32, .copyMc { rd := 31, rtab := 27, rsrc := 28, rlen := 29, rv := 30, cls := 2, ctx := 5, n1 := 3 }),
    (0xFE532A40, .launch 5 9), (0xFE842864 + 2 ^ 32, .mvrdTopk 5 3 2), (0xFE812A12 + 0x40000000 * 2 ^ 32, .mldb 5 8 9 2 0 0), (0xFE800001, .mcfg 1),
    (0xFE025200 + 0x00100000 * 2 ^ 32, .addiL 10 8 0x100000)] = true := by decide +kernel

/-- Worked member words: R36, R37, R152, R217, R255 and the programs' listings. -/
theorem test_decode_worked_members : decodesTo decodeMember [
    (0x0041000100C00000, .vadd { vd := 1, vs1 := 0, vs2 := 0, f35 := 4, mask := 0, me := 0, ew := 0, os := 3, rm := 0, variant := 0 }),
    (0x41C40420C2000000, .vfma { vd := 4, vs1 := 1, vs2 := 2, f35 := 3, mask := 0, me := 0, ew := 2, os := 0, rm := 0, variant := 0 }),
    (0x5046140001000000, .vfcvtBf16F32 { vd := 6, vs1 := 5, vs2 := 0, f35 := 0, mask := 0, me := 0, ew := 1, os := 0, rm := 0, variant := 0 }),
    (0x7802040202C10000, .vtopk { vd := 2, vs1 := 1, vs2 := 0, f35 := 8, mask := 0, me := 0, ew := 2, os := 3, rm := 0, variant := 1 }),
    (0x6243080003800000, .vfnmaF64 { vd := 3, vs1 := 2, vs2 := 0, f35 := 0, mask := 0, me := 0, ew := 3, os := 2, rm := 0, variant := 0 }),
    (0xC000000000080000, .vld { vd := 0, hi3 := 0, base := 0, vs2 := 0, f35 := 0, mask := 0, me := 0, ew := 0, w1 := 2, mfmt := 0, am := 0, cls := 0, order := 0, scope := 0, scale := 0 }),
    (0xC000240000158000, .vld { vd := 0, hi3 := 1, base := 1, vs2 := 0, f35 := 0, mask := 0, me := 0, ew := 0, w1 := 5, mfmt := 3, am := 0, cls := 0, order := 0, scope := 0, scale := 0 }),
    (0xC0450040027C2000, .vstx { vd := 5, hi3 := 0, base := 0, vs2 := 4, f35 := 0, mask := 0, me := 0, ew := 2, w1 := 31, mfmt := 0, am := 2, cls := 0, order := 0, scope := 0, scale := 0 }),
    (0xD0850061C00C2000, .vamoAdd { vd := 5, hi3 := 0, base := 0, vs2 := 6, f35 := 7, mask := 0, me := 0, ew := 0, w1 := 3, mfmt := 0, am := 2, cls := 0, order := 0, scope := 0, scale := 0 }),
    (0xD4010400017C0000, .rred { vd := 1, hi3 := 0, base := 1, vs2 := 0, f35 := 0, mask := 0, me := 0, ew := 1, w1 := 31, mfmt := 0, am := 0, cls := 0, order := 0, scope := 0, scale := 0 }),
    (0xE800100001082000, .vtoa { vd := 0, vs1 := 4, mask := 0, me := 0, ew := 1, idx := 2, sreg := 0, param := 8 }),
    (0xE840000000101800, .vtoaS { vd := 0, vs1 := 0, mask := 0, me := 0, ew := 0, idx := 4, sreg := 0, param := 6 }),
    (0xE8C020000E000000, .vthrmax { vd := 0, vs1 := 8, mask := 1, me := 1, ew := 2, idx := 0, sreg := 0, param := 0 })] = true := by decide +kernel


/-! ### Terms that are not well formed -/

/-- No instruction of the list is well formed, and the words its fields would make decode to nothing. -/
noncomputable def refused (l : List Instr) : Bool :=
  l.all fun i => !i.wf && match encode i with
    | .word w => decodes (decodeScalar w) == false
    | .long w => decodes (decodeLong w) == false
    | .member w => decodes (decodeMember w) == false
    | .none => false
where
  decodes (r : Except DecodeError Instr) : Bool := match r with
    | .ok _ => true
    | .error _ => false

theorem test_ill_formed_scalar : refused [
    .bfx 1 2 61 3,
    .bfxs 1 2 1 63,
    .bfd 1 2 63 1,
    .smb 0 8 1 0,
    .smb 8 8 1 0,
    .smb 8 0 1 0,
    .fence 6 1,
    .fence 2 0,
    .waita 0 1 2 2 0,
    .tlwait 1 0 1 5 0 0,
    .barArv 1 1 4,
    .barWt 1 1 7,
    .barInit 1 0 0 2,
    .barInit 1 1 4 2,
    .barInit 1 1 0 1,
    .barInit 1 1 0 6,
    .tretS 1 { strand := 1, m := 1 },
    .hget 1 2 { strand := 7, m := 1 },
    .hput 1 2 { strand := 2, m := 1 },
    .vsave 1 2 { strand := 3, m := 1 },
    .vrestore 1 2 { strand := 4, m := 1 },
    .vrestoreSt 1 2 { strand := 5, m := 1 },
    .tinvAll 1 2 0,
    .tinvAs 1 2 5,
    .tinvPg 1 2 6] = true := by decide +kernel

theorem test_ill_formed_long_forms : refused [
    .ldZOrdered { r := 5, base := 9, w1 := 63, mask := 4, cls := 2, order := 2, scope := 4, tail := 0 },
    .ldSOrdered { r := 5, base := 9, w1 := 63, mask := 4, cls := 2, order := 3, scope := 4, tail := 0 },
    .stOrdered { r := 5, base := 9, w1 := 63, mask := 4, cls := 2, order := 1, scope := 4, tail := 0 },
    .llOrdered { r := 5, base := 9, w1 := 63, mask := 4, cls := 2, order := 1, scope := 0, tail := 0 },
    .scOrdered { r := 5, base := 9, w1 := 63, mask := 4, cls := 2, order := 2, scope := 4, tail := 2 },
    .ldZOrdered { r := 5, base := 9, w1 := 63, mask := 8, cls := 2, order := 1, scope := 4, tail := 0 },
    .ldZOrdered { r := 5, base := 9, w1 := 63, mask := 4, cls := 2, order := 1, scope := 6, tail := 0 },
    .ldZOrdered { r := 5, base := 9, w1 := 63, mask := 4, cls := 2, order := 0, scope := 0, tail := 0 },
    .ldSOrdered { r := 5, base := 9, w1 := 63, mask := 0, cls := 2, order := 0, scope := 4, tail := 0 },
    .smbLong 0 8 0 0 0,
    .smbLong 8 0 0 0 0,
    .smbLong 7 30 2 0 0,
    .smbLong 9 8 1 0 0,
    .smbLong 7 8 0 0 64,
    .copy { rd := 20, rdst := 9, rsrc := 8, twoD := 0, rlen := 10, rc := 11, rv := 12, cls := 0, ctx := 3 },
    .copy { rd := 20, rdst := 9, rsrc := 8, twoD := 1, rlen := 29, rc := 11, rv := 12, cls := 2, ctx := 3 },
    .copyMc { rd := 31, rtab := 27, rsrc := 28, rlen := 29, rv := 30, cls := 0, ctx := 5, n1 := 3 },
    .mcfg 0,
    .mcfg 5,
    .mldb 1 2 3 1 0 0,
    .mldb 1 2 3 0 1 0,
    .mldb 1 2 3 3 0 0,
    .mldbX 1 2 3 4 5 4 0 0,
    .mclr 1 63 1 1,
    .mclr 1 0 0 0,
    .mstc 1 2 3 32 32 0 0,
    .mstc 1 2 3 0 0 2 0,
    .mstat 1 5] = true := by decide +kernel

theorem test_ill_formed_members : refused [
    .vmseq { vd := 9, vs1 := 1, vs2 := 2, f35 := 0, mask := 0, me := 0, ew := 2, os := 0, rm := 0, variant := 0 },
    .vmand { vd := 8, vs1 := 1, vs2 := 0, f35 := 0, mask := 0, me := 0, ew := 0, os := 0, rm := 0, variant := 0 },
    .vadd { vd := 3, vs1 := 1, vs2 := 8, f35 := 0, mask := 0, me := 0, ew := 2, os := 1, rm := 0, variant := 0 },
    .vadd { vd := 3, vs1 := 1, vs2 := 1, f35 := 0, mask := 0, me := 0, ew := 2, os := 2, rm := 0, variant := 0 },
    .vadd { vd := 3, vs1 := 1, vs2 := 2, f35 := 1, mask := 0, me := 0, ew := 2, os := 0, rm := 0, variant := 0 },
    .vmadd { vd := 3, vs1 := 1, vs2 := 2, f35 := 0, mask := 0, me := 0, ew := 2, os := 3, rm := 0, variant := 0 },
    .vgadd { vd := 3, vs1 := 1, vs2 := 2, f35 := 1, mask := 0, me := 0, ew := 2, os := 0, rm := 0, variant := 0 },
    .vgadd { vd := 3, vs1 := 1, vs2 := 2, f35 := 0, mask := 0, me := 0, ew := 2, os := 0, rm := 0, variant := 6 },
    .vgadd { vd := 3, vs1 := 1, vs2 := 2, f35 := 0, mask := 0, me := 1, ew := 2, os := 0, rm := 0, variant := 0 },
    .vadd { vd := 3, vs1 := 1, vs2 := 2, f35 := 0, mask := 0, me := 0, ew := 2, os := 0, rm := 0, variant := 1 },
    .vadd { vd := 3, vs1 := 1, vs2 := 2, f35 := 0, mask := 0, me := 0, ew := 2, os := 0, rm := 1, variant := 0 },
    .vfadd { vd := 3, vs1 := 1, vs2 := 2, f35 := 0, mask := 0, me := 0, ew := 2, os := 0, rm := 5, variant := 0 },
    .vfadd { vd := 3, vs1 := 1, vs2 := 2, f35 := 0, mask := 0, me := 0, ew := 2, os := 0, rm := 7, variant := 0 },
    .vfadd { vd := 3, vs1 := 1, vs2 := 2, f35 := 0, mask := 0, me := 0, ew := 0, os := 0, rm := 0, variant := 0 },
    .vfadd { vd := 3, vs1 := 1, vs2 := 2, f35 := 0, mask := 0, me := 0, ew := 3, os := 0, rm := 0, variant := 0 },
    .vfaddF64 { vd := 3, vs1 := 1, vs2 := 2, f35 := 0, mask := 0, me := 0, ew := 2, os := 0, rm := 0, variant := 0 },
    .vadd { vd := 3, vs1 := 1, vs2 := 2, f35 := 0, mask := 1, me := 0, ew := 2, os := 0, rm := 0, variant := 0 },
    .vfsqrt { vd := 3, vs1 := 1, vs2 := 1, f35 := 0, mask := 0, me := 0, ew := 2, os := 0, rm := 0, variant := 0 },
    .vqscale { vd := 1, vs1 := 1, vs2 := 0, f35 := 0, mask := 0, me := 0, ew := 2, os := 0, rm := 0, variant := 0 },
    .vreds { vd := 3, vs1 := 1, vs2 := 2, f35 := 8, mask := 0, me := 0, ew := 2, os := 0, rm := 0, variant := 0 },
    .vreds { vd := 3, vs1 := 1, vs2 := 2, f35 := 8, mask := 0, me := 0, ew := 0, os := 0, rm := 0, variant := 1 },
    .vqapply { vd := 3, vs1 := 1, vs2 := 0, f35 := 9, mask := 0, me := 0, ew := 2, os := 0, rm := 0, variant := 0 },
    .vtopk { vd := 3, vs1 := 1, vs2 := 2, f35 := 0, mask := 0, me := 0, ew := 2, os := 0, rm := 0, variant := 0 },
    .vmrel { vd := 8, vs1 := 8, vs2 := 0, f35 := 0, mask := 0, me := 0, ew := 0, os := 0, rm := 0, variant := 5 },
    .vsel { vd := 3, vs1 := 1, vs2 := 2, f35 := 0, mask := 0, me := 0, ew := 2, os := 0, rm := 0, variant := 0 },
    .vcompress { vd := 3, vs1 := 1, vs2 := 0, f35 := 0, mask := 0, me := 0, ew := 2, os := 0, rm := 0, variant := 0 },
    .vmv { vd := 3, vs1 := 1, vs2 := 2, f35 := 0, mask := 0, me := 0, ew := 2, os := 0, rm := 0, variant := 0 },
    .vid { vd := 3, vs1 := 1, vs2 := 0, f35 := 0, mask := 0, me := 0, ew := 2, os := 0, rm := 0, variant := 0 },
    .vsegscan { vd := 3, vs1 := 1, vs2 := 0, f35 := 8, mask := 0, me := 0, ew := 2, os := 0, rm := 1, variant := 1 },
    .vsegscan { vd := 3, vs1 := 1, vs2 := 0, f35 := 8, mask := 0, me := 0, ew := 3, os := 0, rm := 0, variant := 5 },
    .vsegscan { vd := 3, vs1 := 1, vs2 := 0, f35 := 1, mask := 0, me := 0, ew := 2, os := 0, rm := 0, variant := 0 },
    .vld { vd := 1, hi3 := 0, base := 0, vs2 := 0, f35 := 0, mask := 1, me := 0, ew := 2, w1 := 31, mfmt := 0, am := 0, cls := 0, order := 0, scope := 0, scale := 0 },
    .vld { vd := 1, hi3 := 0, base := 0, vs2 := 1, f35 := 0, mask := 0, me := 0, ew := 2, w1 := 31, mfmt := 0, am := 0, cls := 0, order := 0, scope := 0, scale := 0 },
    .vlds { vd := 1, hi3 := 0, base := 0, vs2 := 8, f35 := 0, mask := 0, me := 0, ew := 2, w1 := 31, mfmt := 0, am := 1, cls := 0, order := 0, scope := 0, scale := 0 },
    .vld { vd := 1, hi3 := 2, base := 0, vs2 := 0, f35 := 0, mask := 0, me := 0, ew := 2, w1 := 31, mfmt := 0, am := 0, cls := 0, order := 0, scope := 0, scale := 0 },
    .vld { vd := 1, hi3 := 0, base := 0, vs2 := 0, f35 := 0, mask := 0, me := 0, ew := 2, w1 := 31, mfmt := 0, am := 0, cls := 0, order := 2, scope := 1, scale := 0 },
    .vld { vd := 1, hi3 := 0, base := 0, vs2 := 0, f35 := 0, mask := 0, me := 0, ew := 2, w1 := 31, mfmt := 0, am := 0, cls := 0, order := 1, scope := 0, scale := 0 },
    .vld { vd := 1, hi3 := 0, base := 0, vs2 := 0, f35 := 0, mask := 0, me := 0, ew := 2, w1 := 31, mfmt := 0, am := 0, cls := 0, order := 0, scope := 1, scale := 0 },
    .vld { vd := 1, hi3 := 0, base := 0, vs2 := 0, f35 := 0, mask := 0, me := 0, ew := 2, w1 := 31, mfmt := 0, am := 0, cls := 0, order := 3, scope := 1, scale := 0 },
    .vld { vd := 1, hi3 := 0, base := 0, vs2 := 0, f35 := 0, mask := 0, me := 0, ew := 2, w1 := 31, mfmt := 0, am := 0, cls := 0, order := 1, scope := 6, scale := 0 },
    .vld { vd := 1, hi3 := 0, base := 0, vs2 := 0, f35 := 0, mask := 0, me := 0, ew := 2, w1 := 32, mfmt := 0, am := 0, cls := 0, order := 0, scope := 0, scale := 0 },
    .vld { vd := 1, hi3 := 0, base := 0, vs2 := 0, f35 := 0, mask := 0, me := 0, ew := 2, w1 := 31, mfmt := 0, am := 0, cls := 0, order := 0, scope := 0, scale := 1 },
    .vld { vd := 1, hi3 := 0, base := 0, vs2 := 0, f35 := 0, mask := 0, me := 0, ew := 2, w1 := 31, mfmt := 4, am := 0, cls := 0, order := 0, scope := 0, scale := 0 },
    .vld { vd := 1, hi3 := 0, base := 0, vs2 := 0, f35 := 0, mask := 0, me := 0, ew := 2, w1 := 4, mfmt := 2, am := 0, cls := 0, order := 0, scope := 0, scale := 0 },
    .vld { vd := 1, hi3 := 0, base := 0, vs2 := 0, f35 := 0, mask := 0, me := 0, ew := 3, w1 := 3, mfmt := 2, am := 0, cls := 0, order := 0, scope := 0, scale := 0 },
    .vld { vd := 1, hi3 := 0, base := 0, vs2 := 0, f35 := 0, mask := 0, me := 0, ew := 0, w1 := 0, mfmt := 3, am := 0, cls := 0, order := 0, scope := 0, scale := 0 },
    .vld { vd := 1, hi3 := 0, base := 0, vs2 := 0, f35 := 0, mask := 0, me := 0, ew := 1, w1 := 3, mfmt := 3, am := 0, cls := 0, order := 0, scope := 0, scale := 0 },
    .vlds { vd := 1, hi3 := 0, base := 0, vs2 := 0, f35 := 0, mask := 0, me := 0, ew := 2, w1 := 3, mfmt := 2, am := 1, cls := 0, order := 0, scope := 0, scale := 0 },
    .vst { vd := 1, hi3 := 0, base := 0, vs2 := 0, f35 := 0, mask := 0, me := 0, ew := 2, w1 := 31, mfmt := 0, am := 0, cls := 0, order := 1, scope := 1, scale := 0 },
    .vst { vd := 1, hi3 := 0, base := 0, vs2 := 0, f35 := 0, mask := 0, me := 0, ew := 2, w1 := 31, mfmt := 0, am := 3, cls := 0, order := 0, scope := 0, scale := 0 },
    .vstr { vd := 1, hi3 := 0, base := 0, vs2 := 0, f35 := 0, mask := 0, me := 0, ew := 0, w1 := 7, mfmt := 0, am := 0, cls := 0, order := 0, scope := 0, scale := 0 },
    .vstr { vd := 1, hi3 := 0, base := 0, vs2 := 0, f35 := 0, mask := 0, me := 0, ew := 1, w1 := 7, mfmt := 3, am := 0, cls := 0, order := 0, scope := 0, scale := 0 },
    .vlink { vd := 1, hi3 := 0, base := 0, vs2 := 0, f35 := 0, mask := 0, me := 0, ew := 2, w1 := 3, mfmt := 2, am := 0, cls := 0, order := 0, scope := 0, scale := 0 },
    .vscond { vd := 1, hi3 := 0, base := 0, vs2 := 0, f35 := 0, mask := 0, me := 0, ew := 2, w1 := 31, mfmt := 0, am := 0, cls := 0, order := 0, scope := 0, scale := 0 },
    .rred { vd := 1, hi3 := 0, base := 0, vs2 := 0, f35 := 0, mask := 0, me := 0, ew := 2, w1 := 15, mfmt := 0, am := 0, cls := 0, order := 0, scope := 0, scale := 0 },
    .rred { vd := 1, hi3 := 0, base := 0, vs2 := 0, f35 := 0, mask := 0, me := 0, ew := 3, w1 := 31, mfmt := 0, am := 0, cls := 0, order := 0, scope := 0, scale := 0 },
    .rred { vd := 1, hi3 := 0, base := 0, vs2 := 0, f35 := 0, mask := 0, me := 0, ew := 2, w1 := 31, mfmt := 1, am := 0, cls := 0, order := 0, scope := 0, scale := 0 },
    .rred { vd := 1, hi3 := 0, base := 0, vs2 := 0, f35 := 0, mask := 0, me := 0, ew := 2, w1 := 31, mfmt := 0, am := 1, cls := 0, order := 0, scope := 0, scale := 0 },
    .vwaitv { vd := 1, hi3 := 4, base := 0, vs2 := 0, f35 := 0, mask := 0, me := 0, ew := 3, w1 := 63, mfmt := 0, am := 0, cls := 0, order := 0, scope := 0, scale := 0 },
    .vwaitv { vd := 1, hi3 := 0, base := 0, vs2 := 0, f35 := 0, mask := 0, me := 0, ew := 2, w1 := 63, mfmt := 0, am := 0, cls := 0, order := 0, scope := 0, scale := 0 },
    .vwaitv { vd := 1, hi3 := 0, base := 0, vs2 := 0, f35 := 0, mask := 0, me := 0, ew := 3, w1 := 62, mfmt := 0, am := 0, cls := 0, order := 0, scope := 0, scale := 0 },
    .vwaitv { vd := 1, hi3 := 0, base := 0, vs2 := 0, f35 := 0, mask := 0, me := 0, ew := 3, w1 := 63, mfmt := 0, am := 0, cls := 0, order := 2, scope := 1, scale := 0 },
    .vamoFadd { vd := 1, hi3 := 0, base := 0, vs2 := 0, f35 := 0, mask := 0, me := 0, ew := 2, w1 := 15, mfmt := 0, am := 0, cls := 0, order := 0, scope := 0, scale := 0 },
    .vamoMin { vd := 1, hi3 := 0, base := 0, vs2 := 0, f35 := 0, mask := 0, me := 0, ew := 2, w1 := 31, mfmt := 0, am := 0, cls := 0, order := 0, scope := 0, scale := 0 },
    .vamoMaxu { vd := 1, hi3 := 0, base := 0, vs2 := 0, f35 := 0, mask := 0, me := 0, ew := 2, w1 := 31, mfmt := 1, am := 0, cls := 0, order := 0, scope := 0, scale := 0 },
    .vamoAdd { vd := 1, hi3 := 0, base := 0, vs2 := 0, f35 := 0, mask := 0, me := 0, ew := 2, w1 := 31, mfmt := 0, am := 3, cls := 0, order := 0, scope := 0, scale := 0 },
    .vmpopcRq { vd := 0, vs1 := 1, mask := 0, me := 0, ew := 0, idx := 0, sreg := 0, param := 0 },
    .vmpopcRq { vd := 0, vs1 := 0, mask := 0, me := 0, ew := 1, idx := 0, sreg := 0, param := 0 },
    .vmfirstRq { vd := 1, vs1 := 0, mask := 0, me := 0, ew := 0, idx := 0, sreg := 0, param := 0 },
    .vrqb { vd := 0, vs1 := 0, mask := 0, me := 0, ew := 0, idx := 8, sreg := 0, param := 0 },
    .vrqe { vd := 0, vs1 := 0, mask := 0, me := 0, ew := 0, idx := 8, sreg := 0, param := 0 },
    .vsetlc { vd := 0, vs1 := 0, mask := 0, me := 0, ew := 0, idx := 4, sreg := 0, param := 0 },
    .vsetlc { vd := 0, vs1 := 0, mask := 0, me := 0, ew := 0, idx := 0, sreg := 0, param := 8 },
    .vsetvl { vd := 0, vs1 := 0, mask := 0, me := 0, ew := 0, idx := 0, sreg := 0, param := 17 },
    .vsetvl { vd := 0, vs1 := 0, mask := 1, me := 1, ew := 0, idx := 0, sreg := 0, param := 0 },
    .vtoa { vd := 0, vs1 := 0, mask := 0, me := 0, ew := 1, idx := 0, sreg := 0, param := 1 },
    .vtoa { vd := 0, vs1 := 0, mask := 0, me := 0, ew := 1, idx := 0, sreg := 0, param := 17 },
    .vtoa { vd := 0, vs1 := 0, mask := 0, me := 0, ew := 1, idx := 16, sreg := 0, param := 8 },
    .vtoaS { vd := 0, vs1 := 0, mask := 0, me := 0, ew := 0, idx := 0, sreg := 0, param := 9 },
    .vfromc { vd := 0, vs1 := 0, mask := 0, me := 0, ew := 1, idx := 0, sreg := 0, param := 0 },
    .vfromc { vd := 0, vs1 := 1, mask := 0, me := 0, ew := 2, idx := 0, sreg := 0, param := 0 },
    .vthrmax { vd := 0, vs1 := 0, mask := 0, me := 0, ew := 2, idx := 0, sreg := 1, param := 0 },
    .visect { co := 0, ca := 2, cb := 2, ew := 0, mode := 0 },
    .visect { co := 1, ca := 2, cb := 4, ew := 0, mode := 0 },
    .visect { co := 0, ca := 2, cb := 4, ew := 0, mode := 1 },
    .vmerge { co := 0, ca := 2, cb := 4, ew := 0, mode := 3 }] = true := by decide +kernel

/-- Words R45 to R49 refuse, each by its name. -/
def refusedAs (r : Except DecodeError Instr) (e : DecodeError) : Bool := match r with
  | .ok _ => false
  | .error x => x == e

theorem test_refusals_by_name :
    refusedAs (decodeScalar 0) .illegalForever = true ∧ refusedAs (decodeScalar (bitsAt [(0x7E, 25)])) .illegalForever = true ∧
    refusedAs (decodeScalar (bitsAt [(0x10, 25)])) .reserved = true ∧ refusedAs (decodeScalar (bitsAt [(0x01, 25), (10, 4)])) .unassigned = true ∧
    refusedAs (decodeScalar (bitsAt [(0x01, 25), (1, 0)])) .zeroField = true ∧ refusedAs (decodeScalar (bitsAt [(0x0C, 25), (61, 9), (3, 3)])) .illegalField = true ∧
    refusedAs (decodeLong (bitsAt [(0x7F, 25)])) .illegalForever = true ∧ refusedAs (decodeMember 0) .illegalForever = true ∧
    refusedAs (decodeMember (bitsAt [(0x1E, 54)])) .unassigned = true ∧ refusedAs (decodeMember (bitsAt [(0x3C0, 54)])) .reserved = true ∧
    refusedAs (decodeMember (bitsAt [(0x001, 54), (1, 0)])) .zeroField = true := by decide +kernel

/-! ### States the tests run on -/

/-- The state of log entry 9 with its strand changed: the supervisor strand of core 0 in context 0, whose space maps the first 2^26 bits of Kaolin onto themselves. -/
def one (f : Strand → Strand) : State :=
  let s := State.reset.withSpace.withStrand
  s.setStrand 0 (f (s.strand 0))

/-- The strand with those registers set. -/
def xs (l : List (Nat × Nat)) (t : Strand) : Strand := l.foldl (fun t p => t.setX (BitVec.ofNat 5 p.1) { w := BitVec.ofNat 64 p.2 }) t

/-- The strand with register r poisoned. -/
def xp (r : Nat) (t : Strand) : Strand := t.setX (BitVec.ofNat 5 r) { w := 0, p := true }

/-- The same with registers given. -/
def bx (l : List (Nat × Nat)) : State := one (xs l)

/-- The state an instruction gives, where it gives one. -/
def out (r : Host.Outcome State Fault Refusal) : State := match r with
  | .next t => t
  | _ => { now := 2 ^ 70 }

/-- It gives a next state. -/
def goes (r : Host.Outcome State Fault Refusal) : Bool := match r with
  | .next _ => true
  | _ => false

/-- Register r after instruction i on s. -/
def after (s : State) (i : Instr) (r : Nat) : Nat := ((out (exec i s)).me.getX (BitVec.ofNat 5 r)).w.toNat

/-- The pc after instruction i on s, counted from where the strand stood. -/
def moved (s : State) (i : Instr) : Int := ((out (exec i s)).me.pc - s.me.pc).toInt

/-- The cause the strand of s recorded when i was run, 0 where its window is still open. -/
def cause (s : State) (i : Instr) : Nat :=
  let t := (out (exec i s)).strand s.cur
  if t.phase == .free then (((out (exec i s)).core (coreOf s.cur)).supEnd.getD (0, 999)).2 else if t.topen then 0 else t.tcause.toNat % 256

/-- A gang of one group with every profile, its group on core 0, and strand 0 of it in context 0. -/
def gang0 : Gang :=
  { asid := 0, die := 0, origin := 0, desc := 0, entry := 0x2000000#64, mentry := none, profiles := 0x3F, minors := 0, migratable := false, groups := 1, strands := 1, shares := 2
    scratch := 0, prio := 0, resident := false, join := 0, arg := 0, created := 1 }

/-- Its group. -/
def grp0 : Group := { gang := 0, gid := 0, core := 0, sids := [0] }

/-- An application strand in context 0 of core 0. -/
def app (f : Strand → Strand) : State :=
  { one (fun t => f { t with sup := false, group := some 0, share := 16 }) with groups := [(0, grp0)], gangs := [(0, gang0)], booted := true }

/-- The supervisor strand in context 0, whose turn it is, and an application strand in context 1 of the same core. -/
def two (f g : Strand → Strand) : State :=
  let s := app g
  let t := s.strand 0
  let s := s.setStrand 1 t
  ({ s with groups := [(0, { grp0 with sids := [1] })] } : State).setStrand 0 (f { t with sup := true, group := none })

/-! ### Scalar instructions -/

/-- Each instruction of the list, with x1 and x2 given, leaves that in x3. -/
def gives (l : List (Instr × Nat × Nat × Nat)) : Bool := l.all fun p => after (bx [(1, p.2.1), (2, p.2.2.1)]) p.1 3 == p.2.2.2 % 2 ^ 64

theorem test_two_registers : gives [
    (.add 3 1 2, 2 ^ 64 - 1, 3, 2), (.sub 3 1 2, 2, 3, 2 ^ 64 - 1), (.and 3 1 2, 12, 10, 8), (.or 3 1 2, 12, 10, 14), (.xor 3 1 2, 12, 10, 6), (.sll 3 1 2, 3, 65, 6),
    (.srl 3 1 2, 2 ^ 63, 63, 1), (.sra 3 1 2, 2 ^ 63, 62, 2 ^ 64 - 2), (.slt 3 1 2, 2 ^ 63, 0, 1), (.sltu 3 1 2, 2 ^ 63, 0, 0), (.mul 3 1 2, 2 ^ 32 + 1, 2 ^ 32 + 1, 2 ^ 33 + 1),
    (.mulh 3 1 2, 2 ^ 64 - 1, 2 ^ 63, 0), (.mulh 3 1 2, 2 ^ 64 - 1, 5, 2 ^ 64 - 1), (.mulhu 3 1 2, 2 ^ 64 - 1, 2 ^ 64 - 1, 2 ^ 64 - 2)] = true := by decide +kernel

theorem test_divisions : gives [
    (.div 3 1 2, 2 ^ 64 - 7, 2, 2 ^ 64 - 3), (.div 3 1 2, 9, 0, 2 ^ 64 - 1), (.div 3 1 2, 2 ^ 63, 2 ^ 64 - 1, 2 ^ 63), (.divu 3 1 2, 2 ^ 63, 2 ^ 64 - 1, 0),
    (.divu 3 1 2, 9, 0, 2 ^ 64 - 1), (.rem 3 1 2, 2 ^ 64 - 7, 2, 2 ^ 64 - 1), (.rem 3 1 2, 2 ^ 63, 2 ^ 64 - 1, 0), (.rem 3 1 2, 9, 0, 9), (.remu 3 1 2, 2 ^ 64 - 7, 4, 1),
    (.remu 3 1 2, 9, 0, 9)] = true := by decide +kernel

theorem test_compares : gives [
    (.seq 3 1 2, 5, 5, 1), (.sne 3 1 2, 5, 5, 0), (.sge 3 1 2, 2 ^ 63, 0, 0), (.sgeu 3 1 2, 2 ^ 63, 0, 1), (.min 3 1 2, 2 ^ 63, 0, 2 ^ 63), (.max 3 1 2, 2 ^ 63, 0, 0),
    (.minu 3 1 2, 2 ^ 63, 0, 0), (.maxu 3 1 2, 2 ^ 63, 0, 2 ^ 63)] = true := by decide +kernel

theorem test_immediates : gives [
    (.addi 3 1 0x7FFF, 0, 0, 2 ^ 64 - 1), (.andi 3 1 0x7FFE, 7, 0, 6), (.ori 3 1 0x4000, 0, 0, 2 ^ 64 - 2 ^ 14), (.xori 3 1 0x7FFF, 5, 0, 2 ^ 64 - 6), (.slti 3 1 0x7FFF, 0, 0, 0),
    (.sltiu 3 1 0x7FFF, 0, 0, 1), (.slli 3 1 63, 3, 0, 2 ^ 63), (.srli 3 1 63, 2 ^ 63, 0, 1), (.srai 3 1 1, 2 ^ 63, 0, 3 * 2 ^ 62), (.lui 3 0x80000, 0, 0, 2 ^ 64 - 2 ^ 34),
    (.apc 3 1, 0, 0, 2 ^ 25 + 2 ^ 15), (.li 3 0x40000000000, 0, 0, 2 ^ 64 - 2 ^ 42), (.addiL 3 1 0x2000000000, 1, 0, 2 ^ 64 + 1 - 2 ^ 37)] = true := by decide +kernel

theorem test_counts_and_fields : gives [
    (.clz 3 1, 1, 0, 63), (.clz 3 1, 0, 0, 64), (.ctz 3 1, 2 ^ 63, 0, 63), (.ctz 3 1, 0, 0, 64), (.cpop 3 1, 2 ^ 64 - 1, 0, 64), (.bfx 3 1 60 3, 0xA000000000000000, 0, 10),
    (.bfxs 3 1 60 3, 0xA000000000000000, 0, 2 ^ 64 - 6), (.bfd 3 1 4 7, 0xFFF, 0, 0xFF0)] = true := by decide +kernel

/-- x0 is never written (R29), and poison goes from sources to the destination (R95). -/
theorem test_x0_and_poison : after (bx [(1, 5)]) (.addi 0 1 3) 0 = 0 ∧ ((out (exec (.add 3 1 2) (one fun t => xp 2 (xs [(1, 5)] t)))).me.getX 3).p = true := by decide +kernel

theorem test_lengths : moved (bx []) (.add 3 1 2) = 32 ∧ moved (bx []) (.li 3 1) = 64 ∧ moved (bx []) (.addiL 3 1 1) = 64 := by decide +kernel

theorem test_branches :
    moved (bx [(1, 2 ^ 63), (2, 0)]) (.blt 1 2 0x7FFF) = -32 ∧ moved (bx [(1, 2 ^ 63), (2, 0)]) (.bltu 1 2 0x7FFF) = 32 ∧ moved (bx [(1, 2 ^ 63), (2, 0)]) (.bge 1 2 4) = 32 ∧
    moved (bx [(1, 2 ^ 63), (2, 0)]) (.bgeu 1 2 4) = 128 ∧ moved (bx [(1, 7), (2, 7)]) (.beq 1 2 3) = 96 ∧ moved (bx [(1, 7), (2, 7)]) (.bne 1 2 3) = 32 := by decide +kernel

theorem test_jumps : moved (bx []) (.j 0x1FFFFFF) = -32 ∧ (out (exec (.jr 1 0x7FE0) (bx [(1, 64)]))).me.pc = 32#64 ∧ cause (bx [(1, 65)]) (.jr 1 0) = 4 ∧
    cause (one (xp 1)) (.beq 1 2 3) = 8 := by decide +kernel

theorem witness_CountsAndFields : (60#6).toNat + ((3#6).toNat + 1) ≤ 64 ∧ (0#6).toNat + ((63#6).toNat + 1) ≤ 64 := by decide +kernel

theorem witness_ScalarArithmeticFrame : goes (exec (.add 3 1 2) (bx [(1, 7)])) = true ∧ goes (exec (.li 3 5) (bx [])) = true := by decide +kernel

theorem witness_Branches : ((bx []).me.getX 1).p = false ∧ ((one (xp 1)).me.getX 1).p = true ∧ ((one (xp 2)).me.getX 2).p = true := by decide +kernel

theorem witness_Jumps : (((bx [(1, 64)]).me.getX 1).w + BitVec.signExtend 64 (0x7FE0#15)).toNat % 32 = 0 ∧ (((bx [(1, 65)]).me.getX 1).w + BitVec.signExtend 64 (0#15)).toNat % 32 ≠ 0 ∧
    ((one (xp 1)).me.getX 1).p = true := by decide +kernel

/-! ### The step -/

theorem witness_EncodeDecode : (Instr.add 3 1 2).wf = true ∧ encode (.add 3 1 2) = .word (bitsAt [(1, 25), (3, 20), (1, 15), (2, 10)]) ∧ (Instr.li 7 1).wf = true ∧
    encode (.li 7 1) = .long (bitsAt [(0x7F, 25), (1, 16), (7, 11), (1, 32)]) ∧ (Instr.vrqb ⟨0, 0, 0, 0, 0, 7, 0, 0⟩).wf = true ∧
    encode (.vrqb ⟨0, 0, 0, 0, 0, 7, 0, 0⟩) = .member (bitsAt [(0x382, 54), (7, 18)]) ∧
    decodesTo decodeScalar [(bitsAt [(1, 25), (3, 20), (1, 15), (2, 10)], .add 3 1 2)] = true := by decide +kernel

/-- The state a turn of strand 0 leaves before it fetches. -/
def turned (s : State) : State := { (({ s with agenda := [] } : State).tick 1) with cur := 0 }

/-- Where the words of a strand's turn come from: the first fetch, and the second. -/
def fetched (s : State) : State × Fetch := (turned s).fetch32 ((turned s).agentOf 0) false (turned s).me.pc.toNat

theorem witness_StepRunsDecoded :
    let s := State.reset.withFetchWord 32 (bitsAt [(2, 25), (3, 20), (7, 0)])
    let z := State.reset.withFetchWord 32 0
    let l := State.reset.withFetchWord 64 (bitsAt [(0x7F, 25), (1, 16), (7, 11), (1, 32)])
    let e := ({ l with mem := Mem.writeBits l.mem (2 ^ 26 - 32) 32 (0x7F * 2 ^ 25) } : State).setStrand 0 { l.strand 0 with pc := BitVec.ofNat 64 (2 ^ 26 - 32) }
    let n := State.reset.withFetchWord 64 (bitsAt [(0x7F, 25), (31, 16), (1, 32)])
    (fetched n).2 = .ok (bitsAt [(0x7F, 25), (31, 16)]) ∧ isLongWord (bitsAt [(0x7F, 25), (31, 16)]) = true ∧ ((fetched n).1.fetch32 ((turned n).agentOf 0) false (2 ^ 25 + 32)).2 = .ok 1 ∧
    (decodeLong (bitsAt [(0x7F, 25), (31, 16), (1, 32)])).isOk = false ∧
    s.agenda = [{ who := .strand 0, dt := 1 }] ∧ sidExists 0 = true ∧ (turned s).canIssue 0 = true ∧ (turned s).me.notBefore ≤ (turned s).coreCycle 0 ∧
    (fetched s).2 = .ok (bitsAt [(2, 25), (3, 20), (7, 0)]) ∧ decodesTo decodeScalar [(bitsAt [(2, 25), (3, 20), (7, 0)], .addi 3 0 7)] = true ∧
    (fetched z).2 = .ok 0 ∧ decodesTo decodeScalar [(0, .illegalEncoding)] = false ∧ isLongWord 0 = false ∧
    (fetched l).2 = .ok (bitsAt [(0x7F, 25), (1, 16), (7, 11)]) ∧ isLongWord (bitsAt [(0x7F, 25), (1, 16), (7, 11)]) = true ∧
    ((fetched l).1.fetch32 ((turned l).agentOf 0) false (2 ^ 25 + 32)).2 = .ok 1 ∧
    (turned e).canIssue 0 = true ∧ (fetched e).2 = .ok (0x7F * 2 ^ 25) ∧ ((fetched e).1.fetch32 ((turned e).agentOf 0) false (2 ^ 26)).2 = .trap 5 (2 ^ 26) := by decide +kernel

theorem test_first_instruction : (let t := out (step (State.reset.withFetchWord 32 (bitsAt [(2, 25), (3, 20), (7, 0)]))); (t.me.getX 3).w = 7#64 ∧ t.me.pc.toNat = 2 ^ 25 + 32) ∧
    (let t := out (step (State.reset.withFetchWord 64 (bitsAt [(0x7F, 25), (1, 16), (7, 11), (1, 32)]))); (t.me.getX 7).w = 1#64 ∧ t.me.pc.toNat = 2 ^ 25 + 64) := by decide +kernel

theorem witness_MemoryStaysCanonical : Mem.wf State.reset.mem = true ∧ goes (step State.reset) = true ∧
    Mem.wf (State.reset.withFetchWord 32 0).mem = true ∧ goes (step (State.reset.withFetchWord 32 0)) = true := by decide +kernel

theorem test_absent_strand : (match step { State.reset with agenda := [{ who := .strand 15, dt := 0 }] } with
    | .fault .noSuchAgent => true
    | _ => false) = true := by decide +kernel

/-! ### Scalar memory -/

/-- The translated part of w bits at virtual address a, which the space maps onto itself in Kaolin. -/
def part (a w : Nat) : List Piece := [{ off := 0, len := w, va := a, tr := { fa := a } }]

/-- An access's check on s, and what it finds. -/
def checks (s : State) (w : Want) (a n : Nat) : State × Chk := s.check s.myAgent w a n

/-- A value read: its bits and its poison. -/
def readBack (s : State) (a w : Nat) : Nat × Bool := match (s.readPieces s.myAgent 0 false (part a w)).2 with
  | .ok v p => (v, p)
  | _ => (2 ^ 70, true)

/-- An ordered form at x1 with x5, 64 bits, class c0 with mask 1, package scope. -/
def ordered (order : BitVec 2) (tail : BitVec 7) : OrdForm := { r := 5, base := 1, w1 := 63, mask := 1, cls := 0, order := order, scope := 4, tail := tail }

/-- 13 bits stored at an odd bit address come back, sign-extended, and their neighbours stay. -/
theorem test_store_and_load :
    (let s := out (exec (.st 5 1 12 3) (bx [(1, 2 ^ 22), (5, 2 ^ 13 - 1)]))
     after s (.ldS 6 1 12 3) 6 = 2 ^ 64 - 1 ∧ after s (.ldZ 6 1 12 3) 6 = 2 ^ 13 - 1 ∧ after s (.ldZ 6 1 15 0) 6 = 0xFFF8 ∧ s.me.pc = BitVec.ofNat 64 (2 ^ 25 + 32)) := by decide +kernel

theorem test_ordered_store_and_load :
    (let s := out (exec (.stOrdered (ordered 2 0x40)) (bx [(1, 2 ^ 22 + 512), (5, 77)]))
     s.home (2 ^ 22 + 448) 64 = 77 ∧ after s (.ldZOrdered (ordered 1 0x40)) 5 = 77 ∧ after s (.ldSOrdered (ordered 1 0x40)) 5 = 77 ∧
     moved s (.ldSOrdered (ordered 1 0x40)) = 64) := by decide +kernel

/-- A linked store succeeds once, at the home, and a second one without a link does not (R107, R108). -/
theorem test_link_and_conditional :
    (let s := out (exec (.ll 6 1 63 0) (bx [(1, 2 ^ 22), (5, 9)]))
     let t := out (exec (.sc 7 1 5 63) s)
     (s.me.getX 6).w = 0#64 ∧ (t.me.getX 7).w = 0#64 ∧ t.home (2 ^ 22) 64 = 9 ∧ after t (.sc 7 1 5 63) 7 = 1) := by decide +kernel

theorem test_ordered_link :
    (let s := out (exec (.llOrdered (ordered 1 0)) (bx [(1, 2 ^ 22), (6, 9)]))
     let t := out (exec (.scOrdered (ordered 2 24)) s)
     (t.me.getX 5).w = 0#64 ∧ t.home (2 ^ 22) 64 = 9 ∧ moved s (.scOrdered (ordered 2 24)) = 64) := by decide +kernel

/-- A misaligned ll is ALIGN, an access beyond the range TRANSLATE, with its address (R105, R107). -/
theorem test_access_traps : cause (bx [(1, 2 ^ 22 + 500)]) (.ll 6 1 63 0) = 4 ∧ cause (bx [(1, 2 ^ 26)]) (.ldZ 6 1 63 0) = 5 ∧ cause (one (xp 1)) (.st 5 1 0 0) = 8 := by decide +kernel

theorem witness_ScalarLoads : let s := bx [(1, 2 ^ 22)]; (s.me.getX 1).p = false ∧ s.heldBack {} = false ∧
    (checks s .load (2 ^ 22 - 64) 64).2 = .ok (part (2 ^ 22 - 64) 64) ∧ ((checks s .load (2 ^ 22 - 64) 64).1.readPieces s.myAgent 0 false (part (2 ^ 22 - 64) 64)).2 = .ok 0 false ∧
    s.heldBack (orderOf (ordered 1 0x40)) = false ∧ s.bitsPending s.cur (part (2 ^ 22 - 64) 64) = false ∧ (checks s .load (2 ^ 22 + 63) 1).2 = .ok (part (2 ^ 22 + 63) 1) := by decide +kernel

theorem witness_ScalarStores : let s := bx [(1, 2 ^ 22), (5, 3)]; (s.me.getX 1).p = false ∧ s.heldBack {} = false ∧
    (checks s .store (2 ^ 22 - 64) 64).2 = .ok (part (2 ^ 22 - 64) 64) ∧ (let t := (checks s .store (2 ^ 22 - 64) 64).1
      (t.writePieces t.myAgent (some t.cur) 0 false 3 false (part (2 ^ 22 - 64) 64)).2 = none ∧ t.bitsPending t.cur (part (2 ^ 22 - 64) 64) = false ∧ s.heldBack (orderOf (ordered 2 0x40)) = false ∧
      (let q := t.release 1 4; (q.writePieces q.myAgent (some q.cur) 0 false 3 false (part (2 ^ 22 - 64) 64)).2 = none)) := by decide +kernel

theorem witness_ScalarStoreFrame : let s := bx [(1, 2 ^ 22), (5, 3)]; Mem.wf s.mem = true ∧ (s.me.getX 1).p = false ∧ s.heldBack {} = false ∧
    (checks s .store (2 ^ 22) 64).2 = .ok (part (2 ^ 22) 64) ∧ (∀ p ∈ part (2 ^ 22) 64, p.tr.device = false) ∧ s.bitsPending s.cur (part (2 ^ 22) 64) = false ∧ goes (exec (.st 5 1 63 0) s) = true := by decide +kernel

theorem witness_ScalarLoadFrame : let s := bx [(1, 2 ^ 22)]; Instr.ldS 3 1 63 0 ∈ [.ldZ 3 1 63 0, Instr.ldS 3 1 63 0] ∧ Mem.wf s.mem = true ∧ (s.me.getX 1).p = false ∧ s.heldBack {} = false ∧
    (checks s .load (2 ^ 22) 64).2 = .ok (part (2 ^ 22) 64) ∧ (checks s .load (2 ^ 22) 64).1.bitsPending s.cur (part (2 ^ 22) 64) = false ∧
    (∀ p ∈ part (2 ^ 22) 64, p.tr.device = false) ∧ goes (exec (.ldS 3 1 63 0) s) = true := by decide +kernel

theorem witness_StoreThenLoad : let s := bx []; Mem.wf s.mem = true ∧ ∀ p ∈ part (2 ^ 22 + 5) 20, p.off = 0 ∧ 0 < p.len ∧ p.tr.device = false ∧
    (s.writePiece s.myAgent (some 0) 0 false 77 true p).2 = true ∧ (s.writePiece s.myAgent (some 0) 0 true 77 false p).2 = true := by decide +kernel

/-- Hypotheses of every clause: an ll and an sc, a link that stands with its tag, one that does not, at the end of a line. -/
theorem witness_LinkAndConditional : let s := bx [(1, 2 ^ 22 + 448)]; (s.me.getX 1).p = false ∧ (2 ^ 22 + 448) % 512 + 64 ≤ 512 ∧ s.heldBack {} = false ∧
    (checks s .rmw (2 ^ 22 + 448) 64).2 = .ok (part (2 ^ 22 + 448) 64) ∧
    ((checks s .rmw (2 ^ 22 + 448) 64).1.readPieces s.myAgent 0 true (part (2 ^ 22 + 448) 64)).2 = .ok 0 false ∧ s.me.link ≠ some (2 ^ 22 + 448, 64) ∧ s.bitsPending s.cur (part (2 ^ 22 + 448) 64) = false ∧
    (let t := out (exec (.ll 6 1 63 0) s)
     (checks t .rmw (2 ^ 22 + 448) 64).2 = .ok (part (2 ^ 22 + 448) 64) ∧ t.me.link = some (2 ^ 22 + 448, 64) ∧
     ((linesOf (2 ^ 22 + 448) 64).foldl (fun q l => q.evict t.myCore l) (checks t .rmw (2 ^ 22 + 448) 64).1).tagged linkTag ((2 ^ 22 + 448) / 512) 0 = true) := by decide +kernel

theorem witness_ScalarAccessTraps : let s := bx [(1, 2 ^ 22 + 449), (2, 2 ^ 26)]; ((one (xp 1)).me.getX 1).p = true ∧ (s.me.getX 1).p = false ∧ 512 < (2 ^ 22 + 449) % 512 + 64 ∧
    s.heldBack {} = false ∧ (checks s .load (2 ^ 26) 64).2 = .trap 5 (2 ^ 26) ∧ (checks s .store (2 ^ 26) 64).2 = .trap 5 (2 ^ 26) ∧
    (checks s .rmw (2 ^ 26) 64).2 = .trap 5 (2 ^ 26) ∧ (2 ^ 26) % 512 + 64 ≤ 512 := by decide +kernel

/-! ### Calls, CSRs, the vector side of a strand -/

/-- A call stores the vector-state word and the return address, and the return takes them back (R112, R113). -/
theorem test_call_and_return :
    (let s := out (exec (.call 2) (one fun t => xs [(2, 2 ^ 22)] { t with vl := 7, ew := 2 }))
     let t := out (exec .ret s)
     s.me.pc = BitVec.ofNat 64 (2 ^ 25 + 64) ∧ (s.me.getX 2).w = BitVec.ofNat 64 (2 ^ 22 - 128) ∧ readBack s (2 ^ 22 - 128) 128 = (7 + 2 * 2 ^ 20 + (2 ^ 25 + 32) * 2 ^ 64, false) ∧
     t.me.pc = BitVec.ofNat 64 (2 ^ 25 + 32) ∧ t.me.vl = 7 ∧ (t.me.getX 2).w = BitVec.ofNat 64 (2 ^ 22)) := by decide +kernel

theorem test_callr : (let s := out (exec (.callr 5 1 0x7FE0) (bx [(1, 2 ^ 25 + 128), (2, 2 ^ 22)]))
    s.me.pc = BitVec.ofNat 64 (2 ^ 25 + 96) ∧ readBack s (2 ^ 22 - 128) 64 = (5 * 2 ^ 22, false)) ∧ cause (bx [(1, 2 ^ 25 + 1), (2, 2 ^ 22)]) (.callr 0 1 0) = 4 := by decide +kernel

theorem witness_CallsReturn : let s := bx [(1, 2 ^ 25), (2, 2 ^ 22)]; s.me.vecDone = true ∧ (s.me.getX 2).p = false ∧ (2 ^ 22) % 64 = 0 ∧
    (checks s .store (2 ^ 22 - 128) 128).2 = .ok (part (2 ^ 22 - 128) 128) ∧
    (((checks s .store (2 ^ 22 - 128) 128).1).writePieces s.myAgent (some 0) 0 false ((2 ^ 25 + 32) * 2 ^ 64) false (part (2 ^ 22 - 128) 128)).2 = none ∧
    (checks s .load (2 ^ 22) 128).2 = .ok (part (2 ^ 22) 128) ∧ ((checks s .load (2 ^ 22) 128).1.readPieces s.myAgent 0 false (part (2 ^ 22) 128)).2 = .ok 0 false ∧
    0 / 2 ^ 64 % 32 = 0 ∧ (s.me.getX 1).p = false ∧ (2 ^ 25) % 32 = 0 := by decide +kernel

theorem witness_CallTraps : ((one (xp 1)).me.getX 1).p = true ∧ (one (xp 2)).me.vecDone = true ∧ ((one (xp 2)).me.getX 2).p = true ∧ ((bx [(2, 96)]).me.getX 2).w.toNat % 64 ≠ 0 ∧
    (one fun t => { t with queue := [.dead 0] }).me.vecDone = false := by decide +kernel

/-- vl, vtype, a block argument and a number that is no CSR (R43, R44). -/
theorem test_csr_reads : after (one fun t => { t with vl := 9, ew := 3 }) (.csrrd 3 0x000) 3 = 9 ∧ after (one fun t => { t with ew := 3 }) (.csrrd 3 0x001) 3 = 3 + 5 * 4 + 2 * 32 ∧
    after (one fun t => { t with b := t.b.set 7 { w := 5 } }) (.csrrd 3 0x04F) 3 = 5 ∧ cause (app id) (.csrrd 3 0x5FF) = 1 := by decide +kernel

theorem test_csr_writes : (let s := out (exec (.csrwr 3 1 0x015) (one fun t => xs [(1, 64)] { t with tvec := 32 })); s.me.tvec = 64#64 ∧ (s.me.getX 3).w = 32#64) ∧
    (let s := out (exec (.csrmw 3 1 0x015) (one fun t => xs [(1, 0xF00), (3, 0xA20)] { t with tvec := 0x1E0 })); s.me.tvec = 0xAE0#64 ∧ (s.me.getX 3).w = 0x1E0#64) ∧
    cause (one (xs [(1, 5)])) (.csrwr 3 1 0x007) = 1 := by decide +kernel

theorem witness_CsrReads : csrAccess 0x000 true = some 1 ∧ csrAccess 0x015 false = some 2 ∧ csrAccess 0x5FF true = none ∧ csrWaits 0x015 = false ∧ (bx []).me.vecDone = true ∧
    (csrAccess 0x016 false = some 0 ∨ csrAccess 0x016 false = some 1) := by decide +kernel

theorem witness_CsrWrites : csrAccess 0x007 true = some 2 ∧ csrLegal 0x007 0x1F04#64 = true ∧ csrLegal 0x007 5#64 = false ∧ csrAccess 0x040 true = some 2 ∧ csrLegal 0x040 64#64 = true ∧
    csrAccess 0x000 true ≠ some 2 ∧ ((one (xp 1)).me.getX 1).p = true ∧ (bx []).me.vecDone = true := by decide +kernel

theorem witness_CsrReadBack : csrAccess 0x007 true = some 2 ∧ csrLegal 0x007 0x1F04#64 = true ∧ csrAccess 0x04F true = some 2 ∧ csrLegal 0x04F (BitVec.allOnes 64) = true := by decide +kernel

/-- 300 i32 elements asked of 2 shares and 32 registers: 2 × 262,144 / (32 × 32) = 512 may be had (R115). -/
theorem test_setvl : after (bx [(1, 300)]) (.setvl 3 1 2) 3 = 300 ∧ after (bx [(1, 600)]) (.setvl 3 1 2) 3 = 512 ∧
    (let s := out (exec (.setvlK 3 1 3) (bx [(1, 600)])); s.me.vl = 256 ∧ s.me.ew = 3) ∧ cause (one fun t => { t with vstate := 0 }) (.setvlK 3 1 3) = 12 := by decide +kernel

theorem test_vcfg_and_blocks : (out (exec (.vcfg 64) (one fun t => { t with vl := 5 }))).me.n2 = 6 ∧ cause (bx []) (.vcfg 5) = 1 ∧
    (out (exec (.vblk 4) (bx [(8, 77)]))).me.queue.length = 1 ∧ cause (bx []) (.vblk 1) = 4 ∧ cause (bx [(1, 65)]) (.vblkr 1) = 4 ∧
    (out (exec (.vblkr 1) (bx [(1, 128)]))).me.queue.length = 1 := by decide +kernel

/-- A queued block of one element at address 0. -/
def block0 : QItem := .block { addr := 0, args := [], vl := 1, ew := 2, rm := 0, g := 2 }

theorem test_replies_and_counts : after (one fun t => { t with rq := [{ w := 5 }, { w := 6 }] }) (.rqpop 3) 3 = 5 ∧ moved (bx []) (.rqpop 3) = 0 ∧ (out (exec (.rqpop 3) (bx []))).me.wait.isSome = true ∧
    moved (bx []) (.waitc 0 0 0 0) = 32 ∧ moved (one fun t => { t with queue := [block0] }) (.waitc 0 0 0 0) = 0 := by decide +kernel

/-- 10 elements, 4 granted: 6 remain, the address moves 4 × 8 bits and the loop goes on; the last strip falls through (R119). -/
theorem test_strip_mine : (let s := out (exec (.smb 1 2 7 0x1FE) (one fun t => xs [(1, 10), (2, 100)] { t with smbVl := 4 }))
     (s.me.getX 1).w = 6#64 ∧ (s.me.getX 2).w = 132#64 ∧ s.me.pc = BitVec.ofNat 64 (2 ^ 25 - 64)) ∧
    (let s := out (exec (.smbLong 1 2 1 0xFFE (7 + 63 * 2 ^ 6)) (one fun t => xs [(1, 4), (2, 100), (3, 100)] { t with smbVl := 4 }))
     (s.me.getX 1).w = 0#64 ∧ (s.me.getX 2).w = 132#64 ∧ (s.me.getX 3).w = 356#64 ∧ s.me.pc = BitVec.ofNat 64 (2 ^ 25 + 64)) := by decide +kernel

theorem witness_VectorLength : let s := bx [(1, 600)]; (s.me.getX 1).p = false ∧ s.me.preq = false ∧ s.me.lpart ≤ s.me.g ∧ s.me.queue = [] ∧ s.me.blk = none ∧ s.me.vstate ≠ 0 ∧
    (one fun t => { t with lpart := 4 }).me.lpart - 2 ≤ (one fun t => { t with lpart := 4 }).freeShares 0 ∧ (one fun t => { t with blk := some { vl := 1, ew := 2, rm := 0, g := 2 } }).me.blk.isSome = true ∧
    (one fun t => { t with preq := true }).me.preq = true ∧ (one fun t => { t with vstate := 0 }).me.vstate = 0 := by decide +kernel

theorem witness_BlocksAndCounts : (64#7).toNat = 2 ^ 6 ∧ (4#7).toNat = 2 ^ 2 ∧ (bx []).me.stopped = false ∧ (bx []).me.vecIdle = true ∧ (one fun t => { t with stopped := true }).me.stopped = true ∧
    (bx []).me.queued < 8 ∧ ((bx []).me.pc + BitVec.signExtend 64 (4#25) * 32#64).toNat % 64 = 0 ∧ ((bx []).me.pc + BitVec.signExtend 64 (1#25) * 32#64).toNat % 64 ≠ 0 ∧
    ((bx [(1, 128)]).me.getX 1).w.toNat % 64 = 0 ∧ ((bx [(1, 65)]).me.getX 1).w.toNat % 64 ≠ 0 ∧ ((one (xp 1)).me.getX 1).p = true := by decide +kernel

theorem witness_RepliesAndCounts : (one fun t => { t with rq := [{ w := 5 }] }).me.rq = [{ w := 5 }] ∧ (bx []).me.rq = [] ∧ (bx []).me.allIssued = true ∧
    (one fun t => { t with queue := [block0] }).me.allIssued = false ∧ (bx []).counts 0 = (0, 0, 0, 0) := by decide +kernel

theorem witness_StripMine : ((bx []).me.getX 1).p = false ∧ ((bx []).me.getX 2).p = false ∧ ((one (xp 1)).me.getX 1).p = true ∧ smbStrides 3 0 = [1, 1, 1, 1] ∧
    (∀ i ∈ List.range 4, ((bx []).me.getX (28#5 + BitVec.ofNat 5 i)).p = false) := by decide +kernel

/-! ### Synchronisation, launch, copy -/

/-- The space's table with more ranges after the first: base, length, target, attributes. -/
def ranged (l : List (Nat × Nat × Nat × Nat)) (s : State) : State :=
  let m := Mem.writeBits s.mem (2 ^ 20 + 64) 64 (l.length + 1)
  let entry := fun (r : Nat × Nat × Nat × Nat) => r.1 + r.2.1 * 2 ^ 64 + r.2.2.1 * 2 ^ 128 + r.2.2.2 * 2 ^ 192
  { s with mem := l.zipIdx.foldl (fun m x => Mem.writeBits m (2 ^ 21 + 256 * (x.2 + 1)) 256 (entry x.1)) m }

/-- A word in memory at a. -/
def word (a v : Nat) (s : State) : State := { s with mem := Mem.writeBits s.mem a 64 v }

/-- The strand waits on i since cycle n. -/
def waiting (i : Instr) (n : Nat) (t : Strand) : Strand := { t with wait := some { instr := i, since := n } }

theorem test_fence : moved (bx []) (.fence 4 1) = 32 ∧ moved (one fun t => { t with queue := [block0] }) (.fence 4 1) = 0 := by decide +kernel

/-- A packet of strand 0 to unit u, of class cls, with its elements. -/
def sent (cls : Nat) (es : List RElem) : RPacket := { mid := 1, sid := some 0, sender := 0, unit := 0, vl := 1, mask := 1, payload := [], cls := cls, elems := es }

/-- A fence asks for its own classes only (R133, R277). -/
theorem test_fence_classes : moved { bx [] with packets := [sent 3 []] } (.fence 1 7) = 32 ∧ moved { bx [] with packets := [sent 3 []] } (.fence 1 8) = 0 := by decide +kernel

theorem witness_Fences : (bx []).packets = [] ∧ (∀ p ∈ ({ bx [] with packets := [sent 3 []] } : State).packets, (7 : Nat).testBit p.cls = false) ∧ ctxOf (bx []).cur ≠ 8 ∧
    (bx []).me.queue = [] ∧ (bx []).me.blk = none ∧ (one fun t => { t with queue := [block0] }).me.queue = [block0] ∧
    (State.reset.withFetchWord 64 (bitsAt [(0x382, 54), (7, 18)])).me.conv.map (fun c => (c.hdr.kind, c.classes)) = some (6, 0) := by decide +kernel

/-- waita at 64 bits past x1, by equality and by at least; it waits where the word is smaller, and raises TIMEOUT at its limit (R276, R278). -/
theorem test_waita : (let s := word (2 ^ 22 + 64) 7 (bx [(1, 2 ^ 22), (2, 7), (3, 8)])
    moved s (.waita 0 1 2 0 1) = 32 ∧ moved s (.waita 0 1 3 1 1) = 0 ∧ moved s (.waita 0 1 2 1 1) = 32 ∧ (out (exec (.waita 0 1 3 1 1) s)).me.wait.isSome = true) ∧
    cause (one fun t => waiting (.waita 3 1 2 0 0) 0 (xs [(1, 2 ^ 22), (2, 7), (3, 0)] t)) (.waita 3 1 2 0 0) = 0 ∧
    (let s := ({ one (fun t => waiting (.waita 3 1 2 0 0) 0 (xs [(1, 2 ^ 22), (2, 7), (3, 5)] t)) with now := 5 } : State); cause s (.waita 3 1 2 0 0) = 16) := by decide +kernel

theorem test_tlwait : (let s := ({ (bx [(4, 9)]).setCopyCtx 3 { timeline := 9 } with ctxMap := [(5, 3)] } : State)
    moved s (.tlwait 4 0 0 5 0 0) = 32 ∧ moved s (.tlwait 0 0 0 5 1 10) = 0 ∧ moved s (.tlwait 0 0 0 5 1 9) = 32 ∧ cause s (.tlwait 0 0 0 6 1 9) = 6) := by decide +kernel

theorem test_join : (let s := word (2 ^ 22) (2 ^ 63 + 5) (bx [(1, 2 ^ 22), (2, 2 ^ 22 + 64)]); after s (.join 3 1 0) 3 = 2 ^ 63 + 5 ∧ moved s (.join 3 2 0) = 0 ∧
    cause { s.setStrand 0 (waiting (.join 3 2 4) 0 (xs [(4, 5)] (s.strand 0))) with now := 5 } (.join 3 2 4) = 16) := by decide +kernel

theorem witness_Waits : let s := word (2 ^ 22) (2 ^ 63) (bx [(1, 2 ^ 22), (2, 7), (3, 5)])
    s.heldBack {} = false ∧ (s.me.getX 1).p = false ∧ (s.me.getX 2).p = false ∧ (s.me.getX 3).p = false ∧ (2 ^ 22) % 64 = 0 ∧
    (s.waitRead (BitVec.ofNat 64 (2 ^ 22))).2.toOption = some { w := BitVec.ofNat 64 (2 ^ 63), p := false } ∧ (bx [(1, 2 ^ 22)]).expired (.waita 3 1 2 0 0) 5#64 = false ∧
    ({ one (fun t => waiting (.waita 3 1 2 0 0) 0 t) with now := 5 } : State).expired (.waita 3 1 2 0 0) 5#64 = true ∧
    ((bx [(1, 2 ^ 22)]).waitRead (BitVec.ofNat 64 (2 ^ 22))).2.toOption = some { w := 0, p := false } ∧ ({ s with ctxMap := [(5, 3)] } : State).physCtx s.me.asid 5 = some 3 ∧
    isLoam s.myCore = true ∧ 0 ≤ s.tlmOf 0 ∧
    (let h := fun (i : Instr) (n : Nat) => ({ one (fun t => waiting i 0 (xs [(1, 2 ^ 22), (2, 7), (3, 5)] t)) with now := n, packets := [sent 0 []] } : State);
      (h .trig 0).heldBack {} = true ∧ (h (.waita 3 1 2 0 0) 4).expired (.waita 3 1 2 0 0) 5#64 = false ∧ (h (.waita 3 1 2 0 0) 5).expired (.waita 3 1 2 0 0) 5#64 = true ∧
      (h (.join 4 1 3) 4).expired (.join 4 1 3) 5#64 = false ∧ (h (.join 4 1 3) 5).expired (.join 4 1 3) 5#64 = true) ∧
    ({ one (fun t => waiting (.join 3 1 4) 0 t) with now := 5 } : State).expired (.join 3 1 4) 5#64 = true ∧ ({ one (fun t => waiting (.tlwait 4 5 0 5 0 0) 0 t) with now := 5 } : State).expired (.tlwait 4 5 0 5 0 0) 5#64 = true := by decide +kernel

/-- Two arrivals meet the count of 2: the first records phase 0 and waits, the second completes (R281). -/
theorem test_core_barrier : (let s := out (exec (.barInit 1 0 2 0) (bx [(1, 2)]))
    let t := out (exec (.barArv 3 0 2) s)
    let u := out (exec (.barArv 3 0 2) t)
    (t.core 0).cbs[2].a = 1 ∧ moved t (.barWt 0 0 2) = 0 ∧ (u.core 0).cbs[2].a = 0 ∧ (u.core 0).cbs[2].P = 1 ∧ moved u (.barWt 0 0 2) = 32) ∧
    cause (bx [(1, 256)]) (.barInit 1 0 2 0) = 1 := by decide +kernel

theorem test_gang_barrier : (let s := out (exec (.barInit 1 1 3 2) (app (xs [(1, 1)])))
    let t := out (exec (.barArv 3 1 3) s)
    moved t (.barWt 0 1 3) = 32 ∧ moved s (.barWt 0 1 3) = 0 ∧ moved s (.barInit 1 1 3 2) = 32 ∧ cause s (.barInit 1 1 3 3) = 1 ∧ (out (exec (.barInit 1 1 3 3) s)).me.hold.isSome = true) := by decide +kernel

theorem witness_Barriers : let s := app (xs [(1, 255)])
    let t := out (exec (.barInit 1 1 3 2) s)
    s.gangOf s.cur = some gang0 ∧ (3#3).toNat < gang0.gbs.length ∧ nth none gang0.gbs 3 = none ∧ (s.me.getX 1).w.toNat = 255 ∧
    (t.getBar 1 3).toOption = some { c := 255, a := 0, P := 0, recs := [], level := 2 } ∧ (s.getBar 0 7).toOption = some { c := 1, a := 0, P := 0, recs := [], level := 1 } ∧
    s.vectorDone s.cur = true ∧ s.accessesDone s.cur = true ∧ (app fun t => { t with queue := [block0] }).accessesDone 0 = false ∧ (app fun t => { t with queue := [block0] }).vectorDone 0 = false ∧
    (let u := out (exec (.barArv 3 0 7) s); (u.getBar 0 7).toOption = some { c := 1, a := 0, P := 1, recs := [(0, 0)], level := 1 } ∧ Sparse.get 1 [(0, 0)] (u.barKey 0) < 1) ∧
    Sparse.get 0 [] (s.barKey 0) = 0 ∧ s.me.wait = none ∧ ((app (xs [(1, 256)])).me.getX 1).w.toNat = 256 ∧ ((app (xs [(1, 0)])).me.getX 1).w.toNat = 0 := by decide +kernel

theorem test_trig_and_exit : (let s := out (exec .trig (app id)); s.me.trig = true ∧ (s.group? 0).map (·.trig) = some true) ∧
    (let s := out (exec .exit (app id)); s.me.phase = .ended ∧ (s.group? 0).map (·.trig) = some true) ∧ moved (bx []) .trig = 32 ∧
    (let s := out (exec .exit (bx [])); (s.strand 0).phase = .free ∧ (s.core 0).supEnd = some (0, 0)) := by decide +kernel

theorem witness_TriggerAndExit : (app id).me.sup = false ∧ (app id).vectorDone 0 = true ∧ (app id).me.group = some 0 ∧ (app id).group? 0 = some grp0 ∧ grp0.sids = [(app id).cur] ∧
    (app fun t => { t with queue := [block0] }).vectorDone 0 = false ∧ (bx []).me.sup = true ∧ (bx []).supOf 0 = some 0 := by decide +kernel

/-- The check passes. -/
def fine (c : Chk) : Bool := match c with
  | .ok _ => true
  | _ => false

/-- A poisoned control block raises POISON_CONTROL (R306). -/
theorem test_strm_push_poison : cause ((bx [(1, 2 ^ 22), (2, 2 ^ 24)]).setPoison (2 ^ 22 / 512) true) (.strmPush 3 1 2) = 8 := by decide +kernel

/-- A watermark of base 2^22, published to 2^21 with limit 9; a word raised to the larger number; a record pushed with its lap (R58, R65, R285 to R287). -/
theorem test_watermarks : (let s := out (exec (.wmcfg 1 3) (word (2 ^ 22 + 192) 9 (word (2 ^ 22 + 128) (2 ^ 21) (word (2 ^ 22) (2 ^ 22) (bx [(1, 2 ^ 22)])))))
    s.me.wm[3] = { base := BitVec.ofNat 64 (2 ^ 22), w1 := 0, pub := BitVec.ofNat 64 (2 ^ 21), lim := 9, obs := 0 }) ∧
    (let s := out (exec (.wmpub 1 2) (word (2 ^ 22) 5 (bx [(1, 2 ^ 22), (2, 2 ^ 63)]))); s.home (2 ^ 22) 64 = 2 ^ 63) ∧
    (let s := out (exec (.wmpub 1 2) (word (2 ^ 22) 5 (bx [(1, 2 ^ 22), (2, 3)]))); s.home (2 ^ 22) 64 = 5) := by decide +kernel

/-- A ring of 2 records at 2^23: record 2 goes to slot 0 with lap 2, and a ring with 2 records waiting is full. -/
def ring (tail read : Nat) : State := word (2 ^ 22 + 192) read (word (2 ^ 22 + 128) tail (word (2 ^ 22 + 64) 1 (word (2 ^ 22) (2 ^ 23) (bx [(1, 2 ^ 22), (2, 2 ^ 24)]))))

theorem test_strm_push : (let s := out (exec (.strmPush 3 1 2) (word (2 ^ 24) 4 (ring 2 1)))
    (s.me.getX 3).w = 2#64 ∧ s.home (2 ^ 22 + 128) 64 = 3 ∧ s.home (2 ^ 23) 64 = 4 + 2 * 2 ^ 8) ∧ after (ring 2 0) (.strmPush 3 1 2) 3 = 2 ^ 64 - 1 := by decide +kernel

theorem witness_WatermarksAndPushes : let s := word (2 ^ 22 + 128) (2 ^ 21) (bx [(1, 2 ^ 22), (2, 2 ^ 24)])
    let t := ring 2 1
    (s.me.getX 1).p = false ∧ (2 ^ 22) % 64 = 0 ∧ s.me.vecIdle = true ∧ s.heldBack {} = false ∧ s.bitsPending s.cur (part (2 ^ 22) 256) = false ∧ (checks s { Want.load with many := true } (2 ^ 22) 256).2 = .ok (part (2 ^ 22) 256) ∧
    ((checks s { Want.load with many := true } (2 ^ 22) 256).1.readPieces s.myAgent 0 false (part (2 ^ 22) 256)).2 = .ok (2 ^ 149) false ∧ 2 ^ 149 / 2 ^ 126 % 2 = 0 ∧
    2 ^ 149 / 2 ^ 224 % 2 ^ 32 = 0 ∧ s.accessesDone s.cur = true ∧ (s.me.getX 2).p = false ∧ (checks s .rmw (2 ^ 22) 64).2 = .ok (part (2 ^ 22) 64) ∧
    (let q := (checks s .rmw (2 ^ 22) 64).1.release 0xFFFF 4; (q.readPieces q.myAgent 0 true (part (2 ^ 22) 64)).2 = .ok 0 false) ∧
    fine (t.checkAll t.myAgent (ctlWants (BitVec.ofNat 64 (2 ^ 22)))).2 = true ∧
    (let t1 := (t.checkAll t.myAgent (ctlWants (BitVec.ofNat 64 (2 ^ 22)))).1
     let t2 := (checks t1 { Want.homeLoad with many := true } (2 ^ 24) 256).1
     let d := t2.release 0xFFFF 4
     let t3 := (d.readPieces d.myAgent 0 true (part (2 ^ 22) 256)).1
     let t4 := (checks t3 { Want.store with noDev := true, many := true } (2 ^ 23) 256).1
     (checks t1 { Want.homeLoad with many := true } (2 ^ 24) 256).2 = .ok (part (2 ^ 24) 256) ∧
     (checks t2 { Want.homeLoad with many := true } (2 ^ 22) 256).2 = .ok (part (2 ^ 22) 256) ∧ (d.readPieces d.myAgent 0 true (part (2 ^ 22) 256)).2 = .ok (2 ^ 23 + 2 ^ 64 + 2 * 2 ^ 128 + 2 ^ 192) false ∧ (d.readPieces d.myAgent 0 false (part (2 ^ 24) 256)).2 = .ok 0 false ∧
     2 < 1 + 2 ^ 1 ∧ 0 + 2 ^ 1 ≤ 2 ∧ (checks t3 { Want.store with noDev := true, many := true } (2 ^ 23) 256).2 = .ok (part (2 ^ 23) 256) ∧
     (checks t4 .rmw (2 ^ 22 + 128) 64).2 = .ok (part (2 ^ 22 + 128) 64)) := by decide +kernel

theorem test_launch : (let s := out (exec (.launch 3 1) (bx [(1, 2 ^ 22)]))
    s.submits.map (fun u => (u.die, u.fromSid, u.block)) = [(0, some 0, BitVec.ofNat 64 (2 ^ 22))] ∧ s.me.pc = (bx []).me.pc ∧
    (let t := ({ s with submits := s.submits.map fun u => { u with status := some 3 } } : State); after t (.launch 3 1) 3 = 3 ∧ moved t (.launch 3 1) = 64)) := by decide +kernel

theorem witness_Launches : let s := bx [(1, 2 ^ 22)]
    let u : Submit := { die := 0, fromSid := some 0, stream := 0, block := 0 }
    (s.me.getX 1).p = false ∧ (∀ u ∈ s.submits, u.fromSid ≠ some s.cur) ∧ s.accessesDone s.cur = true ∧ [u].find? (fun u => u.fromSid == some s.cur) = some u ∧ u.status = none ∧
    [{ u with status := some 0 }].find? (fun u => u.fromSid == some s.cur) = some { u with status := some 0 } := by decide +kernel

/-- The same space with a range of core 0's scratchpad at 2^40. -/
def withScratch (s : State) : State := ranged [(2 ^ 40, 2 ^ 20, 2 ^ 58, 0x3E1)] s

/-- A copy, a multicast of 16 destinations and a persist join context 5 of the space, each with the next number. -/
def copyState : State := { withScratch (bx [(8, 2 ^ 22), (9, 2 ^ 23), (10, 64), (11, 2 ^ 40), (12, 77), (13, 2 ^ 24)]) with ctxMap := [(5, 3)] }

/-- The words of a copy, and of a multicast. -/
def copyForm : CopyForm := { rd := 20, rdst := 9, rsrc := 8, twoD := 0, rlen := 10, rc := 11, rv := 12, cls := 2, ctx := 5 }
def copyMcForm : CopyMcForm := { rd := 20, rtab := 13, rsrc := 8, rlen := 10, rv := 12, cls := 2, ctx := 5, n1 := 15 }

theorem test_copies : (let s := out (exec (.copy copyForm) copyState)
    let t := out (exec (.persist 21 8 10 5) s)
    let u := out (exec (.copyMc copyMcForm) t)
    (s.me.getX 20).w = 1#64 ∧ (t.me.getX 21).w = 2#64 ∧ (u.me.getX 20).w = 3#64 ∧ (u.copyCtx 3).ops.map (fun o => (o.kind, o.num, o.dests.length)) = [(.copy, 1, 1), (.persist, 2, 0), (.mc, 3, 16)] ∧
    (s.copyCtx 3).ops.map (fun o => o.dests.map (·.comp)) = [[some (BitVec.ofNat 64 (2 ^ 40))]] ∧ cause s (.persist 21 8 10 6) = 6) := by decide +kernel

theorem witness_Copies : let s := copyState
    s.slotsUsed s.myCore < 256 ∧ s.accessesDone s.cur = true ∧ s.physCtx s.me.asid 5 = some 3 ∧ (s.me.getX 10).w.toNat < 2 ^ 48 ∧ (∀ r ∈ [8#5, 9, 10, 11, 12, 13], (s.me.getX r).p = false) ∧
    (s.checkComp (s.me.getX 11).w).2 = .ok [{ off := 0, len := 64, va := 2 ^ 40, tr := { fa := 2 ^ 58 } }] ∧ (s.checkComp (s.me.getX 11).w).1.slotsUsed 0 < 256 ∧
    (s.checkComp (s.me.getX 11).w).1.accessesDone 0 = true ∧ s.heldBack {} = false ∧ s.bitsPending s.cur (part (2 ^ 24) 2048) = false ∧ (2 ^ 24) % 64 = 0 ∧
    (checks s { Want.load with many := true } (2 ^ 24) 2048).2 = .ok (part (2 ^ 24) 2048) ∧
    (let q := (checks s { Want.load with many := true } (2 ^ 24) 2048).1.readPieces s.myAgent 0 false (part (2 ^ 24) 2048)
     q.2 = .ok 0 false ∧ fine (q.1.checkComps (mcDests 0 16)).2 = true ∧ (q.1.checkComps (mcDests 0 16)).1.slotsUsed 0 < 256 ∧
     (q.1.checkComps (mcDests 0 16)).1.accessesDone 0 = true) := by decide +kernel

theorem test_progress_and_yield : (let s := out (exec .progress (app id)); (s.group? 0).map (·.progress) = some true ∧ s.me.pc = (app id).me.pc + 32#64) ∧
    (let s := out (exec .yield (one fun t => { t with deficit := 9 })); s.me.deficit = 0 ∧ s.me.pc = (bx []).me.pc + 32#64) := by decide +kernel

theorem witness_ProgressAlone : (app id).group? 0 = some grp0 ∧ (app id).me.group = some 0 := by decide +kernel

theorem witness_YieldAlone : let s := bx []; let t := out (exec .yield s); sidExists s.cur = true ∧ t.strand s.cur = t.me ∧ t.coreCycle t.myCore ≤ s.coreCycle s.myCore := by decide +kernel

/-! ### Traps, held strands, system instructions -/

/-- An application strand whose handler stands at 2^25 + 4096 and whose frame can be pushed below 2^22. -/
def handled : State := app fun t => xs [(2, 2 ^ 22)] { t with tvec := BitVec.ofNat 64 (2 ^ 25 + 4096), vl := 3, ew := 1 }

theorem test_trap_to_handler : (let s := out (exec (.jr 1 0) (app fun t => xs [(1, 33), (2, 2 ^ 22)] { t with tvec := BitVec.ofNat 64 (2 ^ 25 + 4096), vl := 3, ew := 1 }))
    s.me.pc = BitVec.ofNat 64 (2 ^ 25 + 4096) ∧ s.me.tpc = BitVec.ofNat 64 (2 ^ 25) ∧ s.me.tcause = 4#64 ∧ s.me.taddr = 33#64 ∧ s.me.topen = false ∧ s.me.stopped = true ∧
    (s.me.getX 2).w = BitVec.ofNat 64 (2 ^ 22 - 128) ∧ readBack s (2 ^ 22 - 128) 128 = (3 + 2 ^ 20 + 2 ^ 25 * 2 ^ 64, false)) := by decide +kernel

theorem witness_TrapToHandler : let s := handled
    let t := s.strand 0
    let u := (((s.dropTags 0).forgetBroken linkTag 0).leaveSlots 0 []).asksNo 0 |>.setStrand 0 { t with tpc := 5, tcause := 8, taddr := 0, tinfo := 0, topen := false, stopped := true, wait := none, convWait := none, link := none }
    supLevel 8 = false ∧ t.topen = true ∧ t.tvec ≠ 0 ∧ t.conv = none ∧ (t.getX 2).p = false ∧ (t.getX 2).w.toNat % 64 = 0 ∧
    (u.check (u.agentOf 0) .store (2 ^ 22 - 128) 128).2 = .ok (part (2 ^ 22 - 128) 128) ∧
    ((u.check (u.agentOf 0) .store (2 ^ 22 - 128) 128).1.writePieces (u.agentOf 0) (some 0) 0 false (3 + 2 ^ 20 + 2 ^ 25 * 2 ^ 64) false (part (2 ^ 22 - 128) 128)).2 = none := by decide +kernel

/-- With no handler the strand is held with its notice, and the supervisor strand hears of it: three words, the cause, the strand and valid (R300). -/
theorem test_trap_to_supervisor : (let s := two id (xs [(1, 33)])
    let t := out (exec (.jr 1 0) { s with cur := 1 })
    (t.strand 1).tcause = 516#64 ∧ (t.strand 1).pc = (s.strand 1).pc ∧ (t.strand 1).hold.isSome = true ∧ (t.strand 0).rq.length = 3 ∧
    (t.strand 0).rq.head?.map (·.w.toNat % 2 ^ 8) = some 4 ∧ (t.strand 0).rq.head?.map (·.w.msb) = some true) := by decide +kernel

theorem witness_TrapToSupervisor : let s := two id id
    let a := app id
    (s.strand 1).conv = none ∧ (s.strand 1).sup = false ∧ (s.strand 1).topen = true ∧ supLevel 1 = false ∧ (s.strand 1).tvec = 0 ∧ s.supOf 0 = some 0 ∧ (s.strand 0).rq.length ≤ 13 ∧ s.noticeAhead 1 = false ∧
    ¬ ((two (fun t => { t with rq := List.replicate 14 {} }) id).strand 0).rq.length ≤ 13 ∧ a.supOf 0 = none ∧ (a.strand 0).sup = false ∧ supLevel 5 = true ∧
    (app fun t => { t with topen := false }).me.topen = false ∧ (s.strand 0).sup = true ∧ (s.strand 0).conv = none ∧ supLevel 11 = false := by decide +kernel

theorem test_ecall : (let s := out (exec (.ecall 1 7) { two id (xs [(1, 99)]) with cur := 1 })
    (s.strand 1).pc = BitVec.ofNat 64 (2 ^ 25 + 32) ∧ (s.strand 1).hold.map (·.n2) = some 99#64 ∧ (s.strand 1).topen = true ∧ (s.strand 0).rq.map (·.w.toNat % 2 ^ 15) = [7, 0, 99]) ∧
    cause (bx []) (.ecall 1 7) = 1 := by decide +kernel

theorem witness_ServiceCalls : let s := ({ two id (xs [(1, 99)]) with cur := 1 } : State)
    (bx []).me.sup = true ∧ s.me.sup = false ∧ (s.me.getX 1).p = false ∧ s.me.conv = none ∧ s.supOf s.myCore = some 0 ∧ (s.strand 0).rq.length ≤ 13 ∧ s.noticeAhead s.cur = false ∧ (app id).supOf 0 = none ∧
    ((app (xp 1)).me.getX 1).p = true := by decide +kernel

/-- A strand that a trap holds. -/
def heldBy (service : Bool) (t : Strand) : Strand := { t with hold := some { n0 := 0, n1 := 0, n2 := 0, service := service }, topen := service, stopped := true }

theorem test_trap_returns : (let s := out (exec .tret (out (exec (.jr 1 0) (app fun t => xs [(1, 33), (2, 2 ^ 22)] { t with tvec := BitVec.ofNat 64 (2 ^ 25 + 4096), vl := 3, ew := 1 }))))
    s.me.pc = BitVec.ofNat 64 (2 ^ 25) ∧ s.me.topen = true ∧ s.me.stopped = false ∧ s.me.vl = 3 ∧ (s.me.getX 2).w = BitVec.ofNat 64 (2 ^ 22)) ∧
    (out (exec .tren (app fun t => { t with topen := false }))).me.topen = true ∧
    (let s := out (exec (.tretS 3 { strand := 1, m := 0 }) (two id (heldBy false))); (s.me.getX 3).w = 1#64 ∧ (s.strand 1).hold = none ∧ (s.strand 1).topen = true) ∧
    after (two id id) (.tretS 3 { strand := 1, m := 0 }) 3 = 0 ∧ cause (app id) (.tretS 3 { strand := 1, m := 0 }) = 1 := by decide +kernel

theorem witness_TrapReturns : let s := bx [(2, 2 ^ 22)]
    let t := two id (heldBy true)
    s.me.heldPre = none ∧ s.me.vecDone = true ∧ (s.me.getX 2).p = false ∧ (checks s .load (2 ^ 22) 128).2 = .ok (part (2 ^ 22) 128) ∧
    ((checks s .load (2 ^ 22) 128).1.readPieces s.myAgent 0 false (part (2 ^ 22) 128)).2 = .ok 0 false ∧ t.me.sup = true ∧ t.selSid { strand := 1, m := 0 } = 1 ∧ 1 ≠ t.cur ∧
    (t.strand 1).heldPre = none ∧ (t.strand 1).hold.isSome = true ∧ (t.strand (t.selSid { strand := 2, m := 0 })).hold = none := by decide +kernel

/-- hget of a register, of a CSR and of the resume pc; hput of the pc; a selector that names nothing (R312). -/
theorem test_held_access : (let s := fun (l : List (Nat × Nat)) => two (xs l) fun t => heldBy false (xs [(7, 70)] { t with vl := 9 })
    let k : StrandSel := { strand := 1, m := 0 }
    after (s [(1, 2 ^ 12 + 7)]) (.hget 3 1 k) 3 = 70 ∧ after (s [(1, 0)]) (.hget 3 1 k) 3 = 9 ∧ after (s [(1, 2 ^ 13)]) (.hget 3 1 k) 3 = 2 ^ 25 ∧
    ((out (exec (.hput 1 2 k) (s [(1, 2 ^ 13), (2, 96)]))).strand 1).pc = 96#64 ∧ cause (s [(1, 2 ^ 13), (2, 97)]) (.hput 1 2 k) = 4 ∧
    cause (s [(1, 2 ^ 13 + 1)]) (.hget 3 1 k) = 1 ∧ cause (s [(1, 2 ^ 12 + 32)]) (.hget 3 1 k) = 1) := by decide +kernel

theorem witness_HeldStrandAccess : let s := two (xs [(1, 2 ^ 12 + 31)]) (heldBy false)
    s.me.sup = true ∧ (s.me.getX 1).p = false ∧ (s.me.getX 2).p = false ∧ ((two id id).strand 1).hold = none ∧ (s.strand 1).hold.isSome = true ∧ 1 ≠ s.cur ∧
    csrAccess 0x000 true = some 1 ∧ (s.me.getX 1).w.toNat = 2 ^ 12 + (31#5).toNat ∧ csrAccess 0x015 true = some 2 ∧ csrLegal 0x015 64#64 = true ∧ (2 ^ 12 + 32 ≤ 2 ^ 13 - 1 ∧ 2 ^ 13 - 1 < 2 ^ 13) := by decide +kernel

theorem test_idle : after (one fun t => { t with rq := [{}] }) (.idle 3 0) 3 = 0 ∧ moved (one fun t => { t with rq := [{}] }) (.idle 3 0) = 32 ∧ after (one fun t => { t with preq := true }) (.idle 3 0) 3 = 1 ∧
    moved (bx []) (.idle 3 0) = 0 ∧ after { one (fun t => waiting (.idle 3 1) 0 (xs [(1, 5)] t)) with now := 5 } (.idle 3 1) 3 = 2 := by decide +kernel

theorem witness_IdleEnds : ((bx [(1, 5)]).me.getX 1).p = false ∧ (one fun t => { t with rq := [{}] }).me.rq ≠ [] ∧ (bx []).me.rq = [] ∧ (one fun t => { t with preq := true }).me.preq = true ∧
    (bx []).me.preq = false ∧ ({ one (fun t => waiting (.idle 3 1) 0 (xs [(1, 5)] t)) with now := 5 } : State).expired (.idle 3 1) 5#64 = true ∧ (bx []).expired (.idle 3 1) 5#64 = false := by decide +kernel

theorem witness_Privileged : (app id).me.sup = false ∧ cause (app id) (.vsave 1 2 { strand := 0, m := 0 }) = 1 ∧ cause (app id) (.tinvAll 0 0 1) = 1 ∧ cause (app id) (.hget 3 1 { strand := 0, m := 0 }) = 1 := by decide +kernel

/-- A range cached for space 0: dropped by its space and by its page, kept for another space (R315). -/
theorem test_translation_drops : (let s := fun (l : List (Nat × Nat)) => (checks (bx l) .load (2 ^ 22) 64).1
    ((s []).core 0).rlb.length = 1 ∧ ((out (exec (.tinvAll 0 0 1) (s []))).core 0).rlb = [] ∧ ((out (exec (.tinvAs 1 0 1) (s [(1, 1)]))).core 0).rlb.length = 1 ∧
    ((out (exec (.tinvAs 1 0 4) (s []))).core 0).rlb = [] ∧ ((out (exec (.tinvPg 1 2 1) (s [(1, 2 ^ 26 - 1)]))).core 0).rlb = [] ∧
    ((out (exec (.tinvPg 1 2 1) (s [(1, 2 ^ 26)]))).core 0).rlb.length = 1 ∧ cause (bx [(1, 4096)]) (.tinvAs 1 0 1) = 1) := by decide +kernel

theorem witness_TranslationDrops : let s := bx [(1, 4095), (2, 4096)]
    s.me.sup = true ∧ s.me.wait = none ∧ (∀ t ∈ s.strands, t.2.conv = none) ∧ (∀ c ∈ s.cores, c.2.mx.ops = []) ∧ s.packets = [] ∧ (s.me.getX 1).w.toNat < 4096 ∧ 4096 ≤ (s.me.getX 2).w.toNat ∧ sameInst 1 0 0 = true ∧ sameInst 4 0 1 = true ∧
    sameInst 1 0 1 = false := by decide +kernel

/-- A dirty line is written back and stays; lcinval drops it (R316). -/
theorem test_line_upkeep : (let s := out (exec (.st 5 1 63 0) (bx [(1, 2 ^ 22), (2, 512), (5, 9)]))
    let c := out (exec (.lcclean 1 2) s)
    s.home (2 ^ 22) 64 = 0 ∧ c.home (2 ^ 22) 64 = 9 ∧ (c.core 0).lines.length = 1 ∧ ((out (exec (.lcinval 1 2) s)).core 0).lines.length = 0 ∧ cause (bx [(2, 2 ^ 48)]) (.lcclean 1 2) = 1) := by decide +kernel

/-- A host range, and a domain that is admitted: the hint starts a transfer of the region toward the device (R317, R334). -/
def hostRange (l : List (Nat × Nat)) : State := { ranged [(2 ^ 41, 2 ^ 24, 2 ^ 30, 0x13F1)] (bx l) with domains := [1] }

theorem test_ownhints : (let s := out (exec (.ownhintDev 1) (hostRange [(1, 2 ^ 41)])); s.transfers.map (·.toDev) = [true] ∧ s.me.pc = (bx []).me.pc + 32#64) ∧
    (out (exec (.ownhintHost 1) (hostRange [(1, 2 ^ 41)]))).transfers = [] ∧ (out (exec (.ownhintDev 1) (bx [(1, 2 ^ 22)]))).transfers = [] := by decide +kernel

theorem witness_LinesAndHints : let s := bx [(1, 2 ^ 22), (2, 2 ^ 15), (3, 2 ^ 48)]
    let h := hostRange [(1, 2 ^ 41)]
    let x := h.xlate h.myAgent {} (2 ^ 41)
    (s.me.getX 1).p = false ∧ (s.me.getX 2).p = false ∧ s.rangeDone s.cur (2 ^ 22) (2 ^ 15) = true ∧ ({ s with packets := [{ sent 0 [] with vas := [2 ^ 22] }] } : State).rangeDone s.cur (2 ^ 22) (2 ^ 15) = false ∧ s.packets = [] ∧ s.me.queue = [] ∧ s.me.blk = none ∧ ctxOf s.cur ≠ 8 ∧
    0 < (s.me.getX 2).w.toNat ∧ 2 ^ 22 % 2 ^ 15 + (s.me.getX 2).w.toNat ≤ 2 ^ 15 ∧
    (s.xlate s.myAgent {} (2 ^ 22)).2.toOption = some { fa := 2 ^ 22 } ∧ 2 ^ 48 ≤ (s.me.getX 3).w.toNat ∧
    x.2.toOption = some { fa := 2 ^ 64 + 2 ^ 30, il := 4, dom := 1 } ∧ hasNat x.1.domains 1 = true ∧ x.1.owner (regionOf (2 ^ 64 + 2 ^ 30)) = .host ∧
    (s.xlate s.myAgent {} (2 ^ 26)).2.toOption = none := by decide +kernel

/-- The supervisor saves held strand 1 at 2^23, x2 naming the registers: v1 alone is dirty and holds 5 in element 0. -/
def saver (mask : Nat) : State := two (xs [(1, 2 ^ 23), (2, mask)]) fun t => heldBy false
  { t with v := [(1, { bits := 5 })], vdirty := 2, vstate := 2, vl := 9, ew := 2, fcsr := 3, rq := [{ w := 4 }], m := [(2, 6)] }

theorem test_vsave_and_restore : (let k : StrandSel := { strand := 1, m := 0 }
    let s := out (exec (.vsave 1 2 k) (saver 2))
    let gone := s.setStrand 1 (heldBy false { s.strand 1 with v := [], m := [], vl := 0, rq := [], ew := 0 })
    let r := out (exec (.vrestore 1 2 k) gone)
    let t := out (exec (.vrestoreSt 1 2 k) gone)
    (s.strand 1).vdirty = 0#64 ∧ (s.strand 1).vstate = 1 ∧ (s.me.pc - (saver 2).me.pc) = 32#64 ∧ (Sparse.get {} (r.strand 1).v 1).bits = 5 ∧ (r.strand 1).vl = 0 ∧
    (Sparse.get {} (t.strand 1).v 1).bits = 5 ∧ (t.strand 1).vl = 9 ∧ (t.strand 1).ew = 2 ∧ (t.strand 1).rq = [{ w := 4 }] ∧ Sparse.get 0 (t.strand 1).m 2 = 6 ∧ (t.strand 1).hold.isSome = true) := by decide +kernel

/-- The whole area of a save or a restore passes, and no earlier access to it is open. -/
def freeOf (r : State × Except Chk (List Piece × List (Nat × List Piece))) : Bool := match r.2 with
  | .ok (ps, slots) => !r.1.slotsPending ps slots
  | .error _ => false

/-- With no shares the dirty bits named clear all the same (R320). -/
theorem test_restore_corners : (let k : StrandSel := { strand := 1, m := 0 }
    let s := saver 2
    (out (exec (.vrestore 1 2 k) (s.setStrand 1 { s.strand 1 with g := 0, held := 0 }))).strand 1 |>.vdirty) = 0#64 := by decide +kernel

theorem witness_SaveRestore : let s := saver 2
    let c := s.checkArea (.area true) (2 ^ 23) (saveV 2 5) (2 ^ 23 + saveV 2 5) (regBits 2 5) (setBits 2 (2 ^ 5))
    let d := s.checkArea (.area false) 0 0 (2 ^ 23 + saveV 2 5) (regBits 2 5) (setBits 2 (2 ^ 5))
    s.me.sup = true ∧ (s.me.getX 1).p = false ∧ (s.me.getX 2).p = false ∧ (s.strand 1).hold.isSome = true ∧ 2 ^ 23 % 512 = 0 ∧ s.me.vecDone = true ∧ (s.strand 1).conv = none ∧ 0 < regBits 2 5 ∧
    freeOf c = true ∧ freeOf d = true ∧ (two id (heldBy false)).me.sup = true ∧ regBits 0 5 = 0 ∧ s.heldBack {} = false ∧ (s.strand 1).past = [] ∧
    (match (s.checkArea (.area true) (2 ^ 30) (saveV 2 5) (2 ^ 30 + saveV 2 5) (regBits 2 5) (setBits 2 (2 ^ 5))).2, (s.checkArea (.area false) 0 0 (2 ^ 30 + saveV 2 5) (regBits 2 5) (setBits 2 (2 ^ 5))).2 with
     | .error (.trap 5 _), .error (.trap 5 _) => true
     | _, _ => false) = true := by decide +kernel

theorem witness_RestoreState : let k : StrandSel := { strand := 1, m := 0 }
    let s := out (exec (.vsave 1 2 k) (saver 2))
    let c := checks s (.area false) (2 ^ 23) 11264
    let r := c.1.readArea c.1.myAgent 0 (part (2 ^ 23) 11264)
    let e := r.1.checkArea (.area false) (2 ^ 23 + 11264) (saveV 2 5 - 11264) (2 ^ 23 + saveV 2 5) (regBits 2 5) (setBits 2 (2 ^ 5))
    s.me.sup = true ∧ (s.strand 1).hold.isSome = true ∧ s.me.vecDone = true ∧ (s.strand 1).conv = none ∧ c.2 = .ok (part (2 ^ 23) 11264) ∧ areaOk r.2.1 = true ∧ r.2.2 = 0 ∧
    r.2.1 / 2 ^ (64 * 2) % 2 ^ 64 / 32 % 64 = 2 ∧ r.2.1 / 2 ^ (64 * 2) % 2 ^ 64 / 4 % 8 = 5 ∧ r.2.1 / 2 ^ (64 * 8) % 2 ^ 64 % 64 = 0 ∧
    freeOf e = true ∧ 2 ≤ e.1.freeShares e.1.myCore + (s.strand 1).held := by decide +kernel

/-- A held strand's area with a state the spec forbids, a poisoned block, and a vpc between words: ILLEGAL, POISON_CONTROL, ALIGN; no shares to be had: it waits (R320). -/
def badArea (n : Nat) : State :=
  let s := word (2 ^ 23 + 64 * 2) 0x54 (word (2 ^ 23 + 64 * 7) 128 (saver 2))
  if n = 0 then word (2 ^ 23 + 64 * 5) 3 s else if n = 1 then { s with poison := [(2 ^ 23 + 64 * 22) / 512] } else if n = 2 then word (2 ^ 23 + 64 * 8) 32 s
  else (s.setStrand 1 { s.strand 1 with held := 0 }).setStrand 2 { s.strand 1 with held := 31, hold := none }

theorem test_restore_traps : let i := Instr.vrestoreSt 1 2 { strand := 1, m := 0 }
    cause (badArea 0) i = 1 ∧ cause (badArea 1) i = 8 ∧ cause (badArea 2) i = 4 ∧ (out (exec i (badArea 3))).me.wait.isSome = true := by decide +kernel

theorem witness_RestoreTraps : let r := fun (n : Nat) => let c := checks (badArea n) (.area false) (2 ^ 23) 11264
      (c.1.readArea c.1.myAgent 0 (part (2 ^ 23) 11264)).2
    areaOk (r 0).1 = false ∧ areaOk (r 1).1 = true ∧ (r 1).2 / 2 ^ (8 * 22) % 2 ^ 8 ≠ 0 ∧ areaOk (r 2).1 = true ∧ (r 2).2 = 0 ∧ (r 2).1 / 2 ^ (64 * 8) % 2 ^ 64 % 64 = 32 ∧ (badArea 3).freeShares 0 + ((badArea 3).strand 1).held < 2 ∧
    ((badArea 3).strand 1).past = [] ∧ (badArea 3).heldBack {} = false := by decide +kernel

theorem witness_SaveTraps : let k : StrandSel := { strand := 1, m := 0 }
    (∀ i ∈ [Instr.vsave 1 2 k, .vrestore 1 2 k, .vrestoreSt 1 2 k], cause (two id id) i = 1 ∧ cause (two (xs [(1, 64)]) (heldBy false)) i = 4 ∧ cause (two (xp 1) (heldBy false)) i = 8) ∧
    (two id id).me.sup = true ∧ ((two id id).strand 1).hold = none ∧ ((two (xs [(1, 64)]) (heldBy false)).strand 1).hold.isSome = true ∧ 64 % 512 ≠ 0 ∧
    ({ saver 2 with packets := [sent 0 []] } : State).heldBack {} = true ∧ ((saver 2).strand 1).hold.isSome = true ∧ 2 ^ 23 % 512 = 0 := by decide +kernel

/-- A convoy of strand 1 that has translated an address, and the TINV that waits for it (R315). -/
def flying (wait : Bool) (num : Nat) : State :=
  let s := two (fun t => { t with conv := none, wait := if wait then some { instr := .tinvAll 0 0 1, since := 0, flight := some { convs := [(1, 5, 0, 0, 2 ^ 22)] } } else none })
    fun t => { t with conv := some { num := num, addr := 0, hdr := { kind := 0, count := 0, units := 0, lc := 0, back := 0 }, konst := 0, words := [0], strips := 1, issued := 1, probes := [(0, [{ id := 0, va := 2 ^ 22, ps := part (2 ^ 22) 32 }])]
                                     hist := { v := [], m := [], sc := [], blk := { vl := 1, ew := 2, rm := 0, g := 2 } } } }
  s

theorem test_tinv_waits : ((out (exec (.tinvAll 0 0 1) (flying false 5))).me.wait.map (·.flight)) = some (some { convs := [(1, 5, 0, 0, 2 ^ 22)] }) ∧ moved (flying true 5) (.tinvAll 0 0 1) = 0 ∧
    moved (flying true 6) (.tinvAll 0 0 1) = 32 := by decide +kernel

theorem witness_TinvFlights : let s := flying true 5
    s.me.sup = true ∧ (s.me.wait.map fun w => (decide (w.instr = .tinvAll 0 0 1), w.flight)) = some (true, some { convs := [(1, 5, 0, 0, 2 ^ 22)] }) ∧ ((s.strand 1).conv.map fun c => (c.num, c.translated)) = some (5, [(0, 0, 2 ^ 22)]) ∧
    (flying false 5).me.wait = none ∧ (((flying true 6).strand 1).conv.map (·.num)) = some 6 := by decide +kernel

/-! ### The matrix control strand -/

/-- A matrix control strand in context 8 of a core of die 0 (Loam), with registers and matrix state. -/
def mcs (f : Strand → Strand) (m : Matrix → Matrix) : State :=
  let s := app f
  let t := s.strand 0
  ({ s with cur := 8, groups := [(0, { grp0 with sids := [0] })] } : State).setStrand 8 { t with vstate := 0 } |>.modMx 0 m

/-- A full slot 2 of one plane. -/
def fullSlot (m : Matrix) : Matrix := { m with slots := [(2, { full := true, planes := 1 })] }

/-- An operation still open. -/
def openOp (k : MxKind) (m : Matrix) : Matrix := { m with issue := m.issue + 1, ops := m.ops ++ [{ num := m.issue + 1, kind := k }] }

/-- Operations are numbered from 1, a row claims its slot, and an empty slot parks the strand (R227, R244, R250). -/
theorem test_rows : (let s := out (exec (.mma 3 5 2) (mcs id fullSlot)); (s.me.getX 3).w = 1#64 ∧ s.mx.ops.length = 1 ∧ (s.mx.slot 2).claimed = true ∧ s.me.pc.toNat = 2 ^ 25 + 64) ∧
    (out (exec (.mma 3 5 3) (mcs id fullSlot))).me.wait.isSome = true ∧ after (mcs id fullSlot) (.mvrdSgn 3 5 2) 3 = 1 ∧ after (mcs id fullSlot) (.mvrdTopk 3 5 2) 3 = 1 ∧
    cause (app id) (.mma 3 5 2) = 1 ∧ after (mcs id (openOp (.mclr 0 1 1))) (.mclr 3 0 0 3) 3 = 2 := by decide +kernel

theorem test_geometry_and_thresholds : (out (exec (.mcfg 2) (mcs id fullSlot))).mx.K = 256 ∧ (out (exec (.mcfg 2) (mcs id fullSlot))).mx.N = 256 ∧
    (out (exec (.mcfg 2) (mcs id (openOp (.mclr 0 1 1))))).me.wait.isSome = true ∧ after (mcs id id) (.mthr 3 5) 3 = 0xFF800000 ∧
    (out (exec (.mthw 1 5) (mcs (xs [(1, 2 ^ 40 + 7)]) id))).mx.thr 5 = 7 ∧ after (mcs id fullSlot) (.mstat 3 0) 3 = 4 ∧ after (mcs id (openOp (.mclr 0 1 1))) (.mstat 3 3) 3 = 1 := by decide +kernel

theorem test_matrix_memory :
    (let m := fun (g : Nat) => mcs (fun t => xs [(1, 2 ^ 22), (2, 2 ^ 15)] t) fun m => { m with mcfg := g }; let s := (m 0, m 4)
     after s.1 (.mldb 3 1 2 0 0 0) 3 = 1 ∧ after s.2 (.mstc 3 1 2 0 3 0 0) 3 = 1) ∧
    (let s := mcs (fun t => xs [(1, 2 ^ 22), (2, 2 ^ 15), (4, 2 ^ 23), (5, 2)] t) id; after s (.mldbX 3 1 2 4 5 0 0 0) 3 = 1) ∧
    cause (mcs (xs [(1, 2 ^ 22), (4, 2 ^ 23)]) id) (.mldbX 3 1 2 4 5 0 0 0) = 1 ∧ cause (mcs (xs [(1, 2 ^ 22 + 32)]) id) (.mldb 3 1 2 2 0 0) = 4 := by decide +kernel

theorem witness_MatrixOperations : let s := mcs (fun t => xs [(1, 2 ^ 22), (4, 2 ^ 23), (5, 1)] t) fun m => { fullSlot m with mcfg := 0 }
    s.fate s.cur .m1 = .runs ∧ ctxOf s.cur = 8 ∧ s.mx.open = [] ∧ (s.me.getX 1).p = false ∧ (s.me.getX 2).p = false ∧ s.mxHeld = false ∧ s.mx.open.length < 16 ∧
    (s.checkRows 0 (mldbWidth 0 0) ((List.range s.mx.K).map fun _ => 2 ^ 22)).2.isOk = true ∧ 1 ≤ (s.me.getX 5).w.toNat ∧ (s.me.getX 5).w.toNat ≤ s.mx.K ∧
    s.heldBack { cls := 0 } = false ∧ (s.checkRun Want.load (2 ^ 23) 16 16).2.toOption = some [(256, 2 ^ 23)] ∧
    ((s.checkRun Want.load (2 ^ 23) 16 16).1.readPieces s.myAgent 0 false (pagePieces [(256, 2 ^ 23)] (2 ^ 23) 16)).2 = .ok 0 false ∧
    s.bitsPending s.cur (pagePieces [(256, 2 ^ 23)] (2 ^ 23) 16) = false ∧ (s.checkRuns Want.store [] [(2 ^ 22, 32, 32 * s.mx.N)]).2.isOk = true ∧
    ((List.range 1).any fun j => (List.range s.mx.N).any fun c => isVNan ((s.mx.row j).get c)) = false ∧
    (s.mx.slot 2).full = true ∧ (s.mx.slot 2).claimed = false ∧ s.mx.queuedRows < 4 := by decide +kernel

theorem witness_ThresholdsAndStatus : let s := mcs id (openOp (.row 4 2 (some true)))
    s.fate s.cur .m1 = .runs ∧ ctxOf s.cur = 8 ∧ (s.me.getX 1).p = false ∧ (∀ o ∈ s.mx.open, o.verdictOn 5 = false) ∧ s.mx.open = [] ++ s.mx.open ∧ (s.mx.slot 7).planes ≤ 16 ∧ (s.mx.stat 0).testBit 32 = false := by decide +kernel

/-- The gang as die 4 (Marl) has it, with those profiles. -/
def onMarl (profiles : Nat) (mig : Bool) : State :=
  let s := app id
  let t := s.strand 0
  ({ s with cur := 16 * 256 + 8, gangs := [(0, { gang0 with die := 4, profiles := profiles, migratable := mig })], groups := [(0, { grp0 with core := 256 })] } : State).setStrand (16 * 256 + 8) t

theorem witness_MatrixFate : let s := onMarl 0x3F true
    (app id).fate (app id).cur .m1 = .runs ∧ ctxOf (app id).cur ≠ 8 ∧ (onMarl 0 true).fate s.cur .m1 = .illegal ∧ s.fate s.cur .m1 = .migrate := by decide +kernel

theorem test_migrate : (let s := out (exec (.mthr 3 5) (onMarl 0x3F true)); (s.groups.map fun p => p.2.phase) = [GPhase.migrating]) ∧ cause (onMarl 0x3F false) (.mthr 3 5) = 1 := by decide +kernel

theorem witness_ProfileFate : let s := onMarl 0x3F true
    ((app id).strand 0).sup = false ∧ (app id).gangOf 0 = some gang0 ∧ gang0.profiles.testBit Profile.m1.bit = true ∧ (dieProfiles 0).testBit Profile.m1.bit = true ∧
    (s.strand s.cur).sup = false ∧ (s.gangOf s.cur).map (·.migratable) = some true ∧ (dieProfiles 4).testBit Profile.m1.bit = false ∧
    ((onMarl 0x3F false).gangOf s.cur).map (·.migratable) = some false ∧ ((onMarl 0 true).gangOf s.cur).map (·.profiles) = some 0 := by decide +kernel

/-! ### Vector members -/

/-- A register of elements of w bits. -/
def vr (w : Nat) (l : List Nat) : VReg := { bits := (l.zipIdx.map fun p => p.1 * 2 ^ (w * p.2)).sum }

/-- The block and the convoy in progress, at its first slot, of the strands below. -/
def blkOf (vl : Nat) : Blk := { vl := vl, ew := 2, rm := 0, g := 2 }
def conv1 (vl konst : Nat) : Conv :=
  { addr := 0, hdr := { kind := 0, count := 0, units := 0, lc := 0, back := 0 }, konst := konst, words := [0], strips := 1, issued := 1
    hist := { v := [], m := [], sc := [], blk := blkOf vl } }

/-- A convoy behind the one in progress, as it left the strand. -/
def pastOf (k : Conv) (vl : Nat) : Past := { conv := k, blk := blkOf vl, b := Vector.replicate 8 {}, lc := Vector.replicate 4 0, vdirty := 0, vstate := 1, estart := 0 }

/-- A strand with vl elements to do, those vector registers and masks. -/
def vx (vl : Nat) (v : List (Nat × VReg)) (m : List (Nat × Nat)) (f : Strand → Strand := id) : State :=
  one fun t => f { t with v := v, m := m, blk := some (blkOf vl), conv := some (conv1 vl 7) }

/-- Operands v2 and v3, destination v1, m0 not used, 32 bits. -/
def form (ew : BitVec 2) : VAForm := { vd := 1, vs1 := 2, vs2 := 3, f35 := 4, mask := 0, me := 0, ew := ew, os := 0, rm := 6, variant := 0 }

/-- The first n elements of register r after instruction i. -/
def elems (s : State) (i : Instr) (r w n : Nat) : List Nat := (List.range n).map ((Sparse.get {} (out (exec i s)).me.v r).get w)

/-- A mask register after instruction i. -/
def maskAfter (s : State) (i : Instr) (r : Nat) : Nat := Sparse.get 0 (out (exec i s)).me.m r

/-- The flags that i leaves in its convoy. -/
def flagsAfter (s : State) (i : Instr) : Nat := ((out (exec i s)).me.conv.map (·.flags)).getD 0

/-- The cause that i raises for its convoy, 0 where it raises none. -/
def raised (s : State) (i : Instr) : Nat := (((out (exec i s)).core 0).supEnd.getD (0, 0)).2

/-- Each member on v2 and v3 of two i8 elements leaves those two in v1. -/
def two8 (l : List (Instr × Nat × Nat × Nat × Nat × Nat × Nat)) : Bool := l.all fun p =>
  match p with
  | (i, a, b, x, y, u, v) => elems (vx 2 [(2, vr 8 [a, b]), (3, vr 8 [x, y])] []) i 1 8 2 == [u, v]

theorem test_vector_integers : two8 [
    (.vadd (form 0), 255, 1, 3, 1, 2, 2), (.vsub (form 0), 0, 5, 1, 3, 255, 2), (.vrsub (form 0), 1, 3, 0, 5, 255, 2), (.vand (form 0), 12, 7, 10, 8, 8, 0), (.vor (form 0), 12, 7, 10, 8, 14, 15),
    (.vxor (form 0), 12, 7, 10, 8, 6, 15), (.vsll (form 0), 3, 1, 9, 7, 6, 128), (.vsrl (form 0), 128, 128, 7, 8, 1, 128), (.vsra (form 0), 128, 64, 6, 6, 254, 1), (.vmin (form 0), 128, 1, 0, 2, 128, 1),
    (.vmax (form 0), 128, 1, 0, 2, 0, 2), (.vminu (form 0), 128, 1, 0, 2, 0, 1), (.vmaxu (form 0), 128, 1, 0, 2, 128, 2)] = true := by decide +kernel

theorem test_vector_products : two8 [
    (.vmul (form 0), 17, 255, 16, 255, 16, 1), (.vmulh (form 0), 255, 128, 255, 128, 0, 64), (.vmulhu (form 0), 255, 16, 255, 16, 254, 1), (.vdiv (form 0), 249, 9, 2, 0, 253, 255),
    (.vdivu (form 0), 249, 9, 2, 0, 124, 255), (.vrem (form 0), 249, 9, 2, 0, 255, 9), (.vremu (form 0), 249, 128, 4, 255, 1, 128), (.vdiv (form 0), 128, 7, 255, 255, 128, 249),
    (.vsadd (form 0), 127, 128, 1, 255, 127, 128), (.vsaddu (form 0), 255, 1, 1, 1, 255, 2), (.vssub (form 0), 128, 127, 1, 255, 128, 127), (.vssubu (form 0), 1, 7, 2, 2, 0, 5)] = true ∧
    elems (vx 2 [(2, vr 8 [3, 20]), (3, vr 8 [5, 20]), (4, vr 8 [1, 1])] []) (.vmadd (form 0)) 1 8 2 = [16, 145] := by decide +kernel

/-- Inactive elements keep their values; a constant and an immediate are sign-extended (R151, R152). -/
theorem test_operands : elems (vx 3 [(1, vr 16 [7, 7, 7, 7]), (2, vr 16 [1, 2, 3])] [(0, 5)]) (.vadd { form 1 with me := 1, os := 3, f35 := 63 }) 1 16 4 = [0, 7, 2, 7] ∧
    elems (vx 1 [(2, vr 64 [2 ^ 64 - 1])] []) (.vadd { form 3 with os := 2 }) 1 64 1 = [6] := by decide +kernel

/-- The spec's worked limb addition (R157). -/
theorem test_limb_groups :
    (let s := vx 2 [(2, vr 64 [0xFFFFFFFFFFFFFFFF, 5]), (3, vr 64 [1, 7]), (4, vr 64 [2 ^ 64 - 1, 2 ^ 64 - 1]), (5, vr 64 [0, 0])] [(2, 1)]
     let g := { form 3 with variant := 1, f35 := 0 }
     elems s (.vgadd g) 1 64 2 = [0, 13] ∧ maskAfter s (.vgcy { g with vd := 8 }) 1 = 0 ∧
     elems s (.vgadd { g with vs1 := 4, vs2 := 5, f35 := 20 }) 1 64 2 = [0, 0] ∧ maskAfter s (.vgcy { g with vd := 8, vs1 := 4, vs2 := 5, f35 := 20 }) 1 = 1 ∧
     elems s (.vgsub { g with vs1 := 5, vs2 := 3 }) 1 64 2 = [2 ^ 64 - 1, 2 ^ 64 - 8] ∧ maskAfter s (.vgbw { g with vd := 8, vs1 := 5, vs2 := 3 }) 1 = 1) := by decide +kernel

theorem test_vector_compares :
    (let s := vx 3 [(2, vr 8 [128, 1, 2]), (3, vr 8 [1, 1, 128])] [(1, 0xF0)]
     let f := { form 0 with vd := 8 }
     [Instr.vmseq f, .vmsne f, .vmslt f, .vmsltu f, .vmsle f, .vmsleu f, .vmsgt f, .vmsgtu f].map (fun i => maskAfter s i 1 - 0xF0) = [2, 5, 1, 4, 3, 6, 4, 1]) := by decide +kernel

theorem test_reductions :
    (let s := vx 3 [(2, vr 8 [128, 1, 6]), (3, vr 8 [3])] []
     let f := form 0
     [Instr.vredsum f, .vredmax f, .vredmin f, .vredmaxu f, .vredminu f, .vredand f, .vredor f, .vredxor f].map (fun i => elems s i 1 8 1) = [[138], [6], [128], [128], [1], [0], [135], [132]].map fun l => l.map (· % 256)) := by decide +kernel

/-- v2 poisoned in element 1. -/
def vp (vl : Nat) : State := vx vl [(2, { bits := 0, pois := 0xF0 }), (3, {})] []

theorem witness_VectorMembers : let s := vx 2 [] []
    s.me.blk = some (blkOf 2) ∧ s.me.conv = some (conv1 2 7) ∧ (∀ e ∈ (s.me.env (blkOf 2) (conv1 2 7)).actives 0 0, (Sparse.get {} s.me.v 2).poi 32 e = false ∧ (Sparse.get {} s.me.v 3).poi 32 e = false) ∧
    ((vp 2).me.env (blkOf 2) (conv1 2 7)).actives 0 0 = [0, 1] ∧ (((vp 2).me.env (blkOf 2) (conv1 2 7)).vec 2 32).poi 0 = false ∧ raised (vp 2) (.vmseq { form 2 with vd := 8 }) = 8 ∧ (((vp 2).me.env (blkOf 2) (conv1 2 7)).vec 2 32).poi 1 = true := by decide +kernel

/-- A poisoned limb stops a carry mask (R154, R157). -/
theorem test_limb_poison : (let g := { form 2 with variant := 1, f35 := 0, vd := 8 }; raised (vp 2) (.vgcy g) = 8 ∧ raised (vp 2) (.vgbw g) = 8) := by decide +kernel

/-- Each member on one f32 element of v2 and v3 (and v4) leaves that in v1, with those flags (NV 256, OF 512, UF 1024, NX 2048, DZ 4096). -/
def flt (w : Nat) (l : List (Instr × Nat × Nat × Nat × Nat × Nat)) : Bool := l.all fun p =>
  let s := vx 1 [(2, vr w [p.2.1]), (3, vr w [p.2.2.1]), (4, vr w [p.2.2.2.1])] []
  elems s p.1 1 w 1 == [p.2.2.2.2.1] && flagsAfter s p.1 == p.2.2.2.2.2

theorem test_floats : flt 32 [
    (.vfadd (form 2), 0x3F800000, 0x40000000, 0, 0x40400000, 0), (.vfsub (form 2), 0x3F800000, 0x40000000, 0, 0xBF800000, 0), (.vfmul (form 2), 0x40400000, 0x3F000000, 0, 0x3FC00000, 0),
    (.vfdiv (form 2), 0x3F800000, 0x40400000, 0, 0x3EAAAAAB, 2048), (.vfdiv (form 2), 0x3F800000, 0, 0, 0x7F800000, 4096), (.vfmin (form 2), 0, 0x80000000, 0, 0x80000000, 0),
    (.vfmax (form 2), 0, 0x80000000, 0, 0, 0), (.vfsgnj (form 2), 0x3F800000, 0x80000000, 0, 0xBF800000, 0), (.vfsgnjn (form 2), 0x3F800000, 0x80000000, 0, 0x3F800000, 0),
    (.vfma (form 2), 0x40400000, 0x3F000000, 0x3F800000, 0x40200000, 0), (.vfms (form 2), 0x40400000, 0x3F000000, 0x3F800000, 0x3F000000, 0),
    (.vfnma (form 2), 0x40400000, 0x3F000000, 0x3F800000, 0xBF000000, 0), (.vfsqrt (form 2), 0x40000000, 0, 0, 0x3FB504F3, 2048), (.vfmul (form 2), 0x7F7FFFFF, 0x40000000, 0, 0x7F800000, 2560),
    (.vfmul { form 2 with rm := 4 }, 0x7F7FFFFF, 0x40000000, 0, 0x7F7FFFFF, 2560), (.vfsqrt (form 2), 0xBF800000, 0, 0, 0x7FC00000, 256)] = true := by decide +kernel

theorem test_doubles : flt 64 [
    (.vfaddF64 (form 3), 0x3FF0000000000000, 0x4000000000000000, 0, 0x4008000000000000, 0), (.vfsubF64 (form 3), 0x3FF0000000000000, 0x4000000000000000, 0, 0xBFF0000000000000, 0),
    (.vfmulF64 (form 3), 0x4008000000000000, 0x3FE0000000000000, 0, 0x3FF8000000000000, 0), (.vfdivF64 (form 3), 0x3FF0000000000000, 0x4008000000000000, 0, 0x3FD5555555555555, 2048),
    (.vfminF64 (form 3), 0, 2 ^ 63, 0, 2 ^ 63, 0), (.vfmaxF64 (form 3), 0, 2 ^ 63, 0, 0, 0), (.vfsgnjF64 (form 3), 1, 2 ^ 63, 0, 2 ^ 63 + 1, 0), (.vfsgnjnF64 (form 3), 1, 2 ^ 63, 0, 1, 0),
    (.vfmaF64 (form 3), 0x4008000000000000, 0x3FE0000000000000, 0x3FF0000000000000, 0x4004000000000000, 0), (.vfmsF64 (form 3), 0x4008000000000000, 0x3FE0000000000000, 0x3FF0000000000000, 0x3FE0000000000000, 0),
    (.vfnmaF64 (form 3), 0x4008000000000000, 0x3FE0000000000000, 0x3FF0000000000000, 0xBFE0000000000000, 0), (.vfsqrtF64 (form 3), 0x4010000000000000, 0, 0, 0x4000000000000000, 0)] = true := by decide +kernel

/-- Each conversion of one element of v2 read at width r leaves that in v1 at width d, with those flags. -/
def cvt (l : List (Instr × Nat × Nat × Nat × Nat × Nat)) : Bool := l.all fun p =>
  let s := vx 1 [(2, vr p.2.1 [p.2.2.2.1])] []
  elems s p.1 1 p.2.2.1 1 == [p.2.2.2.2.1] && flagsAfter s p.1 == p.2.2.2.2.2

theorem test_conversions : cvt [
    (.vfcvtF32Bf16 (form 2), 16, 32, 0x3F80, 0x3F800000, 0), (.vfcvtBf16F32 (form 2), 32, 16, 0x3F808000, 0x3F80, 2048), (.vfcvtBf16F32 (form 2), 32, 16, 0x3F818000, 0x3F82, 2048),
    (.vfcvtF64F32 (form 3), 32, 64, 0xBF800000, 0xBFF0000000000000, 0), (.vfcvtF32F64 (form 3), 64, 32, 0x3FD5555555555555, 0x3EAAAAAB, 2048), (.vfcvtIF (form 2), 32, 32, 0xBFC00000, 0xFFFFFFFE, 2048),
    (.vfcvtUF (form 2), 32, 32, 0xBF800000, 0, 256), (.vfcvtIF (form 2), 32, 32, 0x7F800000, 0x7FFFFFFF, 256), (.vfcvtIFF64 (form 3), 64, 64, 0xC008000000000000, 2 ^ 64 - 3, 0),
    (.vfcvtUFF64 (form 3), 64, 64, 0x4008000000000000, 3, 0), (.vfcvtFI (form 2), 32, 32, 0xFFFFFFFF, 0xBF800000, 0), (.vfcvtFU (form 2), 32, 32, 0xFFFFFFFF, 0x4F800000, 2048),
    (.vfcvtFIF64 (form 3), 64, 64, 2 ^ 64 - 1, 0xBFF0000000000000, 0), (.vfcvtFUF64 (form 3), 64, 64, 3, 0x4008000000000000, 0)] = true := by decide +kernel

/-- Pairs (1, 1), (1, 2), (2, 1) and (1, quiet NaN). -/
theorem test_float_compares :
    (let s := vx 4 [(2, vr 32 [0x3F800000, 0x3F800000, 0x40000000, 0x3F800000]), (3, vr 32 [0x3F800000, 0x40000000, 0x3F800000, 0x7FC00000])] []
     let f := { form 2 with vd := 8 }
     [Instr.vmfeq f, .vmfne f, .vmflt f, .vmfle f, .vmfgt f, .vmfge f, .vmford f].map (fun i => (maskAfter s i 1, flagsAfter s i)) = [(1, 0), (14, 0), (2, 256), (3, 256), (4, 256), (5, 256), (7, 0)]) ∧
    (let s := vx 4 [(2, vr 64 [0x3FF0000000000000, 0x3FF0000000000000, 0x4000000000000000, 0x3FF0000000000000]),
       (3, vr 64 [0x3FF0000000000000, 0x4000000000000000, 0x3FF0000000000000, 0x7FF8000000000000])] []
     let f := { form 3 with vd := 8 }
     [Instr.vmfeqF64 f, .vmfneF64 f, .vmfltF64 f, .vmfleF64 f, .vmfgtF64 f, .vmfgeF64 f, .vmfordF64 f].map (fun i => (maskAfter s i 1, flagsAfter s i)) =
       [(1, 0), (14, 0), (2, 256), (3, 256), (4, 256), (5, 256), (7, 0)]) := by decide +kernel

/-- A vNaN, a NaN, an infinity, a zero, a subnormal, a negative number against each class of R163. -/
theorem test_classes :
    (let s := vx 6 [(2, vr 32 [0x7FA30000, 0x7FC00000, 0xFF800000, 0x80000000, 1, 0xBF800000])] []
     (List.range 8).map (fun k => maskAfter s (.vmfclass { form 2 with vd := 8, variant := BitVec.ofNat 3 k }) 1) = [1, 1, 0, 2, 4, 8, 16, 44]) ∧
    maskAfter (vx 2 [(2, vr 64 [0x7FF8000000000000, 0xFFF0000000000000])] []) (.vmfclassF64 { form 3 with vd := 8, variant := 3 }) 1 = 1 := by decide +kernel

theorem test_float_reductions :
    (let s := vx 3 [(2, vr 32 [0x3F800000, 0xC0000000, 0x40400000]), (3, vr 32 [0x3F000000])] []
     let f := form 2
     [Instr.vfredsum f, .vfredmax f, .vfredmin f].map (fun i => elems s i 1 32 1) = [[0x40200000], [0x40400000], [0xC0000000]]) ∧
    (let s := vx 2 [(2, vr 64 [0x3FF0000000000000, 0xC000000000000000]), (3, vr 64 [0])] []
     let f := form 3
     [Instr.vfredsumF64 f, .vfredmaxF64 f, .vfredminF64 f].map (fun i => elems s i 1 64 1) = [[0xBFF0000000000000], [0x3FF0000000000000], [0xC000000000000000]]) := by decide +kernel

/-- A vNaN read as a number stops its convoy, naming VERDICT_CONSUMED (10). -/
def vn : State := vx 2 [(2, vr 32 [0, 0x7FA30000]), (3, {})] []

theorem witness_FloatMembers : let c := (vn.me.env (blkOf 2) (conv1 2 7))
    let d := ((vx 2 [(2, vr 32 [0x3F800000]), (3, {})] []).me.env (blkOf 2) (conv1 2 7))
    vn.me.blk = some (blkOf 2) ∧ vn.me.conv = some (conv1 2 7) ∧ c.actives 0 0 = [0, 1] ∧ isVNan ((c.vec 2 32).val 0) = false ∧ isVNan ((c.vec 2 32).val 1) = true ∧
    (∀ e ∈ d.actives 0 0, isVNan ((d.vec 2 32).val e) = false ∧ isVNan ((d.vec 3 32).val e) = false ∧ (d.vec 2 32).poi e = false ∧ (d.vec 3 32).poi e = false) ∧ 0 < (blkOf 2).vl ∧
    isVNan ((d.fop2 (form 2) 32).val 0) = false ∧ isVNan ((c.fop2 { form 2 with vs2 := 2 } 32).val 1) = true ∧
    raised vn (.vfadd (form 2)) = 10 ∧ raised vn (.vfcvtBf16F32 (form 2)) = 10 ∧ raised vn (.vfredsum (form 2)) = 10 ∧ raised (vp 2) (.vmfeq { form 2 with vd := 8 }) = 8 := by decide +kernel

theorem witness_Rounding : f32 ∈ [bf16, f32, f64] ∧ 0 < ({ neg := false, n := 1, d := 3 } : Ex).n ∧ 0 < ({ neg := false, n := 1, d := 3 } : Ex).d ∧
    f32.isInf (f32.round 0 { neg := false, n := 1, d := 3 }).1 = false ∧ (f32.round 0 { neg := false, n := 1, d := 3 }) = (0x3EAAAAAB, 2048) := by decide +kernel

/-- A scale register of that layout: its codes, and its super-scales from the place R41 gives them. -/
def scaleOf (codes sups : List Nat) : VReg := { bits := (vr 8 codes).bits + (vr 32 sups).bits * 2 ^ 256 }

/-- A register of w-bit elements with a few of them given by index. -/
def at16 (l : List (Nat × Nat)) : VReg := { bits := (l.map fun p => p.2 * 2 ^ (16 * p.1)).sum }

/-- The spec's worked reduction (R167), bf16 in two superblocks, the second with super-scale +∞ and nothing but zeros; and its worked first pass (R149). -/
theorem test_scaled_reduction :
    (let s := vx 512 [(2, at16 [(0, 0x3F80), (1, 0x3F10), (2, 0xBE3C), (64, 0x3F39), (65, 0xBDB8), (192, 0x3DA2)]), (3, {})] [] fun t =>
       { t with sc := [(0, scaleOf [127, 125, 0, 123, 127, 127, 127, 127] [0x40400000, 0x7F800000])] }
     let f := { form 1 with variant := 1, f35 := 0 }
     elems s (.vreds f) 1 32 1 = [0x40940980] ∧ flagsAfter s (.vreds f) = 0) := by decide +kernel

theorem test_scale_pass :
    (let s := vx 256 [(2, at16 [(5, 0xC040), (70, 0x3F00), (255, 0x3DCD)])] []
     let r := Sparse.get {} (out (exec (.vqscale { form 1 with vd := 0 }) s)).me.sc 0
     (List.range 4).map (r.get 8) = [127, 125, 0, 123] ∧ r.get 32 8 = 0x40400000) := by decide +kernel

/-- The spec's elements of block 1 (R150) as f32 0.4, −0.5: codes 13 and 1, read back as 0.421875 and −0.521484375; a q integer is sign-extended. -/
theorem test_apply_and_quantize :
    (let s := vx 2 [(2, vr 32 [0x3ECCCCCD, 0xBF000000]), (3, vr 8 [3, 254])] [] fun t => { t with sc := [(0, scaleOf [125] [0x40400000])] }
     elems s (.vqquant { form 2 with f35 := 0 }) 1 8 2 = [13, 1] ∧ elems s (.vqapply { form 2 with vs1 := 3, f35 := 0 }) 1 32 2 = [0x40100000, 0xBFC00000] ∧
     elems s (.vqquant { form 2 with f35 := 0, variant := 3 }) 1 8 2 = [1, 255]) := by decide +kernel

/-- The two best of four elements, NaN last. -/
theorem test_topk :
    (let s := vx 4 [(2, vr 32 [0x3F800000, 0x7FC00000, 0x40000000, 0xBF800000]), (3, vr 32 [4])] []
     elems s (.vtopk { form 2 with variant := 2 }) 1 32 3 = [2, 0, 3] ∧ flagsAfter s (.vtopk { form 2 with variant := 2 }) = 256 ∧
     raised s (.vtopk { form 2 with variant := 1, os := 3, f35 := 1 }) = 1) := by decide +kernel

theorem test_mask_members :
    (let s := vx 4 [] [(2, 0b1100), (3, 0b1010), (1, 0xF0), (4, 0b0100)]
     let f : VAForm := { form 0 with vd := 8, vs1 := 16, vs2 := 24 }
     [Instr.vmand f, .vmor f, .vmxor f, .vmandn f, .vmorn f, .vmnand f, .vmnor f, .vmxnor f].map (fun i => maskAfter s i 1 - 0xF0) = [8, 14, 6, 4, 13, 7, 1, 9] ∧
     (List.range 5).map (fun v => maskAfter s (.vmrel { f with variant := BitVec.ofNat 3 v }) 1 - 0xF0) = [3, 7, 4, 12, 8] ∧
     (List.range 4).map (fun v => maskAfter s (.vmslide1 { f with variant := BitVec.ofNat 3 v }) 1 - 0xF0) = [8, 6, 9, 14] ∧
     elems s (.vmpopc { form 0 with vs1 := 16 }) 1 8 1 = [2] ∧ elems s (.vmfirst { form 0 with vs1 := 16 }) 1 8 1 = [2] ∧ elems s (.vmfirst { form 0 with vs1 := 40 }) 1 8 1 = [255]) := by decide +kernel

theorem test_element_moves :
    (let s := vx 4 [(1, vr 8 [9, 9, 9, 9, 9]), (2, vr 8 [1, 2, 3, 4, 5]), (3, vr 8 [3, 0, 1, 7])] [(0, 0b1010)]
     let f := { form 0 with os := 3, f35 := 1 }
     [Instr.vshiftUp f, .vshiftDn f, .vrotUp f, .vrotDn f, .vshiftInsUp f, .vshiftInsDn f, .vrgather (form 0), .vsel (form 0), .vmv f, .vexpand { form 0 with me := 1 },
       .vcompress { form 0 with me := 1 }].map (fun i => elems s i 1 8 5) =
       [[9, 1, 2, 3, 9], [2, 3, 4, 5, 9], [4, 1, 2, 3, 9], [2, 3, 4, 1, 9], [1, 1, 2, 3, 9], [2, 3, 4, 1, 9], [4, 1, 2, 0, 9], [3, 2, 1, 4, 9], [1, 1, 1, 1, 9],
        [9, 1, 9, 2, 9], [2, 4, 9, 9, 9]]) := by decide +kernel

theorem test_indexes_and_scans :
    (let s := vx 4 [(2, vr 8 [1, 2, 1, 1])] [(1, 0b0101), (2, 0b0100)]
     elems s (.viota { form 0 with vs1 := 8 }) 1 8 4 = [0, 1, 1, 2] ∧ elems s (.vid (form 0)) 1 8 4 = [0, 1, 2, 3] ∧ elems s (.vconfl (form 0)) 1 8 4 = [255, 255, 0, 2] ∧
     elems s (.vsegscan { form 0 with f35 := 16 }) 1 8 4 = [1, 3, 1, 2]) := by decide +kernel

theorem witness_ScaledMembers : let t := { (vx 2 [] []).me with sc := [(0, scaleOf [] [0x7FA30000])] }
    let c := t.env (blkOf 2) (conv1 2 7)
    maxVl (blkOf 2).g t.n2 8 = 2048 ∧ (blkOf 2).vl ≤ 2048 ∧ (∀ e ∈ c.actives 0 0, isVNan ((c.vec 2 32).val e) = false) ∧ isVNan (c.super (c.scaleReg 0) 0) = true ∧
    isVNan (c.super (c.scaleReg 1) 0) = false ∧ 0 < (blkOf 2).vl ∧ isVNan ((c.fop2 { form 1 with ew := 2 } 32).val 0) = false ∧ (c.op2 { form 2 with os := 3, f35 := 4 } 32).poi 0 = false ∧
    (c.op2 { form 2 with os := 3, f35 := 4 } 32).val 0 = 4 ∧ (∀ e ∈ c.actives 0 0, (c.vec 2 32).poi e = false) ∧ c.actives 0 0 = [0, 1] := by decide +kernel

theorem witness_ElementMoves : let c := ((vp 2).me.env (blkOf 2) (conv1 2 7))
    let d := (({ (vp 2).me with b := (vp 2).me.b.set 0 { w := 0, p := true } } : Strand).env (blkOf 2) (conv1 2 7))
    (d.count { form 2 with os := 1, vs2 := 0 }).p = true ∧ (c.count { form 2 with os := 3 }).p = false ∧ (∀ e ∈ c.actives 0 0, (c.vec 3 32).poi e = false) ∧ c.actives 0 0 = [0, 1] ∧
    (c.vec 2 32).poi 0 = false ∧ (c.vec 2 32).poi 1 = true ∧ (form 2).variant ≠ 1 ∧ raised (vp 2) (.vrgather { form 2 with vs2 := 2 }) = 8 ∧ raised (vp 2) (.vconfl (form 2)) = 8 ∧
    raised vn (.vsegscan { form 2 with variant := 5 }) = 10 ∧ 5 ≤ (5#3).toNat ∧ (0#3).toNat < 5 := by decide +kernel

/-- A poisoned element poisons the entries of its block and superblock; a super-scale that is a vNaN is consumed; at vl = 0 vreds writes nothing (R166, R167). -/
theorem test_scale_poison :
    (let r := Sparse.get {} (out (exec (.vqscale { form 2 with vd := 0 }) (vp 2))).me.sc 0
     r.poi 8 0 = true ∧ r.poi 8 1 = false ∧ r.poi 32 8 = true) ∧
    (let s := fun (vl : Nat) => vx vl [(1, vr 32 [7]), (2, {}), (3, {})] [] fun t => { t with sc := [(0, scaleOf [127] [0x7FA30000])] }
     let f := { form 1 with variant := 1, f35 := 0 }
     raised (s 1) (.vreds f) = 10 ∧ elems (s 0) (.vreds f) 1 32 1 = [7] ∧ (out (exec (.vreds f) (s 0))).me.conv.map (·.slot) = some 1) := by decide +kernel

/-- A memory member of 32-bit elements of v1 at b0, unit stride. -/
def mform : VMForm :=
  { vd := 1, hi3 := 0, base := 0, vs2 := 0, f35 := 0, mask := 0, me := 0, ew := 2, w1 := 31, mfmt := 0, am := 0, cls := 0, order := 0, scope := 0, scale := 0 }

/-- The strand with those block arguments. -/
def bs (l : List (Nat × Nat)) (t : Strand) : Strand := { t with b := Vector.ofFn fun i => { w := BitVec.ofNat 64 (((l.find? fun p => p.1 == i.val).map (·.2)).getD 0) } }

/-- The member comes at the first slot of a fresh convoy, its probe pass over. -/
def probed (op : Nat) (f : VMForm) (s : State) : State :=
  let vl := (s.me.blk.getD (blkOf 0)).vl
  match (s.probeMember s.myAgent (s.me.env (blkOf vl) (conv1 vl 7)) op f true).2 with
  | .ok ps _ => s.setMe { s.me with conv := some { conv1 vl 7 with probes := [(0, ps)] } }
  | _ => s

/-- A member's result after its probe pass. -/
def vmem (op : Nat) (i : VMForm → Instr) (f : VMForm) (s : State) : State := out (exec (i f) (probed op f s))

/-- The first n elements of register r. -/
def els (s : State) (r w n : Nat) : List Nat := (List.range n).map ((Sparse.get {} s.me.v r).get w)

/-- Three elements 12 bits wide stored at an odd bit and loaded back, sign-extended as q integers' codes are not: plain loads keep the bits (R134). -/
theorem test_unit_stride : (let f := { mform with w1 := 11 }
    let s := vmem 0x301 .vst f (vx 3 [(1, vr 32 [5, 0xFFF, 0x1007])] [] (bs [(0, 2 ^ 22 + 3)]))
    readBack s (2 ^ 22 + 3) 36 = (5 + 0xFFF * 2 ^ 12 + 7 * 2 ^ 24, false) ∧ s.me.conv.map (·.performed) = some true ∧ s.me.conv.map (·.slot) = some 1 ∧
    els (vmem 0x300 .vld { f with vd := 4 } s) 4 32 3 = [5, 0xFFF, 7]) := by decide +kernel

/-- Stride 64 and indexes 0, 256, 64. -/
theorem test_strides_and_indexes : (let s := vx 3 [(1, vr 32 [5, 6, 7]), (2, vr 64 [0, 256, 64])] [] (bs [(0, 2 ^ 22), (1, 64)])
    let t := vmem 0x301 .vsts { mform with am := 1, vs2 := 1 } s
    let u := vmem 0x301 .vstx { mform with am := 2, vs2 := 2 } s
    readBack t (2 ^ 22) 160 = (5 + 6 * 2 ^ 64 + 7 * 2 ^ 128, false) ∧ els (vmem 0x300 .vlds { mform with am := 1, vs2 := 1, vd := 4 } t) 4 32 3 = [5, 6, 7] ∧
    readBack u (2 ^ 22) 288 = (5 + 7 * 2 ^ 64 + 6 * 2 ^ 256, false) ∧ els (vmem 0x300 .vldx { mform with am := 2, vs2 := 2, vd := 4 } u) 4 32 3 = [5, 6, 7] ∧
    els (vmem 0x300 .vldff { mform with am := 3, vd := 4 } u) 4 32 3 = [5, 0, 7] ∧ els (vmem 0x300 .vld { mform with vd := 4, me := 1 } (u.setMe { u.me with m := [(0, 4)] })) 4 32 3 = [0, 0, 7]) := by decide +kernel

/-- vstr writes the register's elements like vst. -/
theorem test_vstr : (let s := vmem 0x302 .vstr mform (vx 2 [(1, vr 32 [5, 6])] [] (bs [(0, 2 ^ 22)])); readBack s (2 ^ 22) 64 = (5 + 6 * 2 ^ 32, false)) := by decide +kernel

theorem test_links : (let s := vmem 0x340 .vlink mform (vx 2 [(1, vr 32 [5, 6])] [(0, 3)] (bs [(0, 2 ^ 22)]))
    let t := vmem 0x341 .vscond { mform with me := 1 } (s.setMe { s.me with v := [(1, vr 32 [8, 9])] })
    els s 1 32 2 = [0, 0] ∧ s.me.vlinks.length = 2 ∧ s.tagged vlinkTag (2 ^ 13) 0 = true ∧ t.home (2 ^ 22) 64 = 8 + 9 * 2 ^ 32 ∧ Sparse.get 1 t.me.m 0 = 0 ∧ t.me.vlinks = [] ∧
    Sparse.get 0 (vmem 0x341 .vscond { mform with me := 1 } t).me.m 0 = 0) := by decide +kernel

/-- Two elements at one address take two rounds: 3 + 5 + 6 in memory, old values 3 and 8 (R217, R218). -/
theorem test_vamo : (let s := vx 2 [(1, vr 32 [5, 6]), (2, vr 64 [0, 0])] [] (bs [(0, 2 ^ 22)])
    let f : VMForm := { mform with am := 2, vs2 := 2, f35 := 1 }
    let t := (vmem 0x342 .vamoAdd f s).modConv fun k => { k with words := [encVM 0x342 f] }
    (t.me.conv.map (·.pend)) = some (.vamo 1 [0, 1] [0] []) ∧
    (let r := out (exec (.memoryReply 0) t); r.me.conv.map (·.pend) = some (.vamo 1 [0, 1] [0] [0]) ∧ r.tagged amoTag (2 ^ 13) 0 = true)) := by decide +kernel

theorem test_amo_values : amoValue 0x342 8 200 100 0 = 44 ∧ amoValue 0x343 8 128 1 0 = 128 ∧ amoValue 0x344 8 128 1 0 = 1 ∧ amoValue 0x345 8 128 1 0 = 1 ∧ amoValue 0x346 8 128 1 0 = 128 ∧
    amoValue 0x347 8 128 1 0 = 1 ∧ amoValue 0x348 8 7 9 7 = 9 ∧ amoValue 0x348 8 7 9 8 = 7 ∧ amoValue 0x349 32 0x3F800000 0x40000000 0 = 0x40400000 := by decide +kernel

theorem test_rred_and_vwaitv : (let s := vx 2 [(1, vr 32 [0x3F800000, 0x40000000])] [] (bs [(0, 2 ^ 22)])
    let t := vmem 0x350 .rred mform s
    let u := vmem 0x360 .vwaitv { mform with w1 := 63, ew := 3 } s
    t.packets.length = 1 ∧ t.me.conv.map (·.slot) = some 1 ∧ (t.packets.map fun p => p.elems.map (·.dst)) = [[2 ^ 22, 2 ^ 22 + 32]] ∧
    (u.me.conv.map (·.pend)).getD .none = .vwait [0, 1] (s.coreCycle 0)) := by decide +kernel

theorem test_transfers : (let s := vx 4 [(2, vr 32 [5, 6, 7, 8])] [(1, 0b1100)] (bs [(0, 2), (3, 99)])
    let f : VXForm := { vd := 0, vs1 := 8, mask := 0, me := 0, ew := 2, idx := 0, sreg := 0, param := 0 }
    let st := fun (i : Instr) => ((out (exec i s)).me.conv.map (·.staged)).getD []
    st (.vmpopcRq f) = [.push { w := BitVec.ofNat 64 (2 ^ 63 + 2) }] ∧ st (.vmfirstRq f) = [.push { w := BitVec.ofNat 64 (2 ^ 63 + 2) }] ∧ st (.vrqb { f with idx := 3 }) = [.push { w := 99 }] ∧
    st (.vrqe { f with vs1 := 2 }) = [.push { w := 7 }] ∧ st (.vsetlc { f with idx := 2, param := 3 }) = [.lc 2 99] ∧ st (.vsetvl { f with param := 16 }) = [.vl 7 (some 2)]) := by decide +kernel

/-- vx in a core with matrix state. -/
def vm1 (v : List (Nat × VReg)) (m : Matrix → Matrix) : State := (vx 2 v []).modMx 0 m

theorem test_coupling : (let f : VXForm := { vd := 1, vs1 := 2, mask := 0, me := 0, ew := 2, idx := 2, sreg := 0, param := 4 }
    let st := fun (s : State) (i : Instr) => ((out (exec i s)).me.conv.map (·.staged)).getD []
    (out (exec (.vtoa f) (vm1 [] fullSlot))).me.convWait.isSome = true ∧ (out (exec (.vtoaS f) (vm1 [] fullSlot))).me.convWait.isSome = true ∧
    st (vm1 [] id) (.vtoa f) = [.fill 2 false 4 0 0] ∧ st (vm1 [(2, vr 8 [3, 255])] id) (.vtoaS f) = [.fill 2 true 4 (3 + (2 ^ 16 + 1) * 2 ^ 17) 0] ∧
    elems (vm1 [] fun m => { m with acc := [(2, { bits := 7 + 8 * 2 ^ 32 })] }) (.vfromc f) 1 32 2 = [7, 8] ∧
    st (vm1 [(2, vr 32 [0x3F800000, 0x40000000])] id) (.vthrmax f) = [.thr 2 0x40000000]) := by decide +kernel

/-- A value written to memory. -/
def stores (s : State) (a w v : Nat) : State := (s.writePieces s.myAgent (some 0) 0 false v false (part a w)).1

/-- [3, 7] and [7, 9] in memory at 2^22 and 2^23: the second pass of visect emits 7, the first of vmerge 3. -/
def streams : State := stores (stores (vx 4 [] [] (bs [(0, 2 ^ 22), (1, 2), (2, 2 ^ 23), (3, 2), (4, 2 ^ 24), (5, 0)])) (2 ^ 22) 64 (3 + 7 * 2 ^ 32)) (2 ^ 23) 64 (7 + 9 * 2 ^ 32)
def g1 : G1Form := { co := 4, ca := 0, cb := 2, ew := 2, mode := 0 }

theorem test_merges : (let s := out (exec (.visect g1) streams); let t := out (exec (.visect g1) s)
    (s.me.b.toList.map (·.w.toNat)).take 6 = [2 ^ 22 + 32, 1, 2 ^ 23, 2, 2 ^ 24, 0] ∧ (t.me.b.toList.map (·.w.toNat)).take 6 = [2 ^ 22 + 64, 0, 2 ^ 23 + 32, 1, 2 ^ 24 + 32, 1] ∧ t.me.estart = 1 ∧
    readBack t (2 ^ 24) 32 = (7, false) ∧ (out (exec (.visect g1) t)).me.conv.map (·.slot) = some 1) ∧
    (let s := out (exec (.vmerge g1) streams); readBack s (2 ^ 24) 32 = (3, false) ∧ s.me.estart = 1 ∧ (s.me.b.toList.map (·.w.toNat)).take 6 = [2 ^ 22 + 32, 1, 2 ^ 23, 2, 2 ^ 24 + 32, 1]) := by decide +kernel

/-- A convoy's environment in a state. -/
def envOf (s : State) : Env := s.me.env (s.me.blk.getD (blkOf 0)) (s.me.conv.getD (conv1 0 7))

theorem witness_Transfers : let s := vx 4 [] [] (fun t => { bs [(0, 2)] t with b := (bs [(0, 2)] t).b.set 1 { w := 0, p := true } })
    s.me.blk = some (blkOf 4) ∧ s.me.conv = some (conv1 4 7) ∧ ((envOf s).arg 0).p = false ∧ (envOf s).active 0 0 ((envOf s).arg 0).w.toNat = true ∧ (envOf s).active 0 1 ((envOf s).arg 0).w.toNat = false ∧
    ((envOf s).arg 1).p = true := by decide +kernel

theorem witness_MatrixCoupling : let s := vm1 [(2, vr 32 [0x3F800000, 0x7FA30000])] fun m => { openOp (.row 2 0 none) (fullSlot m) with vtoaQ := [] }
    (s.mx.slot 3).full = false ∧ (∀ q ∈ s.mx.vtoaQ, q.1 = 3 → q.2 = s.cur) ∧ (4 : Nat) ≤ 16 ∧ 0 < (4 : Nat) ∧ (∀ j ∈ List.range 4, isVNan ((envOf s).super {} j) = false) ∧ (s.mx.slot 2).full = true ∧
    (∀ o ∈ s.mx.open, o.writesRow 3 = false) ∧ (∃ o ∈ s.mx.open, o.writesRow 2 = true) ∧ (envOf s).actives 0 0 = [0, 1] ∧ (envOf s).actives 0 1 = [] ∧
    isVNan (((envOf s).vec 2 32).val 0) = false ∧ ((envOf s).vec 2 32).poi 0 = false ∧ isVNan (((envOf s).vec 2 32).val 1) = true ∧
    (∀ e ∈ (envOf s).actives 0 0, ¬ (isVNan (((envOf s).vec 3 32).val e) = true ∨ ((envOf s).vec 3 32).poi e = true)) := by decide +kernel

/-- One element at a. -/
def probe1 (a : Nat) (tr : Tr) : Probe := { id := 0, va := a, ps := [{ off := 0, len := 32, va := a, tr := tr }] }

/-- A state whose member's probe pass found those. -/
def found (ps : List Probe) (t : Strand → Strand := id) : State := vx 1 [(1, vr 32 [5])] [] fun s => t { bs [(0, 2 ^ 22)] s with conv := some { conv1 1 7 with probes := [(0, ps)] } }

/-- What a member's first run over its elements answers. -/
def runs (g : Probe → State → State × ElemRes) (s : State) (ps : List Probe) : RunRes := (runElems g false ps s).2

theorem witness_VectorLoads : let p := probe1 (2 ^ 22) { fa := 2 ^ 22 }
    let q := probe1 (2 ^ 22) { fa := 2 ^ 64, il := 4 }
    let s := found [p]
    s.me.blk = some (blkOf 1) ∧ s.me.conv.isSome = true ∧ vmCheck 0x300 mform (envOf s) true = none ∧ p.isDev = false ∧ q.isDev = false ∧
    runs (State.loadElem mform (envOf s)) s [p] = .done ∧ runs (State.loadElem mform (envOf s)) s [q] = .left [q] ∧ p.trailer = false ∧ p.remote = false ∧ s.ownAgain p.ps = (s, .ok) ∧
    (s.me.wm.toList.map fun m => m.need p.va 32) = [0, 0, 0, 0] ∧ (s.readPieces s.myAgent 0 false p.ps).2 = .ok 0 false := by decide +kernel

theorem witness_VectorStores : let p := probe1 (2 ^ 22) { fa := 2 ^ 22 }
    let q := probe1 (2 ^ 22) { fa := 2 ^ 64, il := 4 }
    let s := found [p]
    vmCheck 0x301 mform (envOf s) true = none ∧ vmCheck 0x302 mform (envOf s) true = none ∧ mform.order ≠ 2 ∧ runs (State.storeElem 0x301 mform (envOf s)) s [p] = .done ∧
    runs (State.storeElem 0x301 mform (envOf s)) s [q] = .left [q] ∧ s.me.estart ≤ p.id ∧ s.ownAgain p.ps = (s, .ok) ∧ (s.writePieces s.myAgent (some 0) 0 false 5 false p.ps).2 = none ∧
    (envOf s).actives 0 0 = [0] := by decide +kernel

/-- An element whose region has failed to come, and one whose range lies outside memory, stop their member (R336, R90). -/
theorem witness_members_stop : let p := probe1 (2 ^ 22) { fa := 2 ^ 64, il := 4, dom := 1 }
    let s := { found [p] with transfers := [{ region := 2 ^ 40, toDev := true, failed := true, joined := [0] }] }
    (runElems (State.loadElem mform (envOf s)) true [p] s).2 = .stop 7 (2 ^ 22) p ∧ (runElems (State.storeElem 0x301 mform (envOf s)) true [p] s).2 = .stop 7 (2 ^ 22) p := by decide +kernel

theorem witness_OtherMembers : let p := probe1 (2 ^ 22) { fa := 2 ^ 22 }
    let s := found [p]
    (∀ op ∈ [0x340, 0x341, 0x342, 0x343, 0x344, 0x345, 0x346, 0x347, 0x348, 0x349, 0x350, 0x360], vmCheck op mform (envOf s) true = none) ∧ mform.order ≠ 2 ∧ mform.order = 0 ∧
    (s.readPieces s.myAgent 0 true p.ps).2 = .ok 0 false ∧ p.lines = [2 ^ 13] ∧ (found []).me.conv.map (·.probes) = some [(0, [])] ∧ (envOf (found [])).actives 0 1 = [] ∧
    vmCheck 0x360 { mform with me := 1 } (envOf (found [])) true = none ∧ 0 < (8 : Nat) := by decide +kernel

theorem witness_Merges : let s := streams
    s.me.cursorPoi 4 = false ∧ s.me.cursorPoi 0 = false ∧ s.me.cursorPoi 2 = false ∧ s.me.mergeEnded true g1 4 = false ∧ s.me.mergeEnded false g1 4 = false ∧
    s.me.heads = (none, none) ∧ (s.headOf none 0 32).2 = .key { key := 3, pois := false, ps := part (2 ^ 22) 32 } ∧ ((s.headOf none 0 32).1.headOf none 2 32).2 = .key { key := 7, pois := false, ps := part (2 ^ 23) 32 } ∧
    (s.headOf (some { key := 5, pois := true, ps := [] }) 0 32).2 = .key { key := 5, pois := true, ps := [] } ∧
    (((s.headOf none 0 32).1.headOf none 2 32).1.check s.myAgent { Want.store with noDev := true } (2 ^ 24) 32).2 = .ok (part (2 ^ 24) 32) ∧
    (vx 0 [] []).me.mergeEnded true g1 0 = true ∧ (vx 0 [] []).me.mergeEnded false g1 0 = true ∧ (g1.mode).toNat ≤ 1 ∧ ((s.me.cursor 4).2 = 0) ∧
    (({ s.me with b := s.me.b.set 5 { w := 1 } } : Strand).cursor 4).2 ≠ 0 ∧ (s.readKey true (BitVec.ofNat 64 (2 ^ 22)) 32).2 = .key { key := 3, pois := false, ps := part (2 ^ 22) 32 } := by decide +kernel

/-- A merge of mode 2 that has written 3 at 2^24, with the heads it holds; and the same where A's next key is 3 again. -/
def union3 (again : Bool) : State :=
  let s := streams
  let s := if again then stores s (2 ^ 22) 64 (3 + 3 * 2 ^ 32) else s
  out (execVmerge { g1 with mode := 2 } s)

/-- vmerge of mode 2 writes a key that differs from the last and drops one that equals it (R181); heads it cannot read and an output it cannot write stop it. -/
theorem test_merge_union : let f := { g1 with mode := 2 }
    let d := out (exec (.vmerge f) (union3 false))
    let e := out (exec (.vmerge f) (union3 true))
    (d.me.estart, readBack d (2 ^ 24 + 32) 32) = (2, (7, false)) ∧ (e.me.estart, (e.me.cursor 0).2.toNat, (e.me.cursor 4).2.toNat) = (1, 0, 1) ∧
    ((out (exec (.vmerge g1) (streams.setMe { streams.me with b := streams.me.b.set 2 { w := BitVec.ofNat 64 (2 ^ 30) } }))).core 0).supEnd.map (·.2) = some 5 ∧
    ((out (exec (.vmerge g1) (streams.setMe { streams.me with b := streams.me.b.set 4 { w := BitVec.ofNat 64 (2 ^ 30) } }))).core 0).supEnd.map (·.2) = some 5 := by decide +kernel

theorem witness_MergeCorners : let s := union3 false
    let low := fun (a n : Nat) => match (s.readKey true (BitVec.ofNat 64 a) n).2 with
      | .key h => h.key
      | .none => 98
      | .stop (.trap c _) _ => 100 + c
      | .stop _ _ => 99
    s.me.cursorPoi 4 = false ∧ (s.me.cursor 4).2 ≠ 0 ∧ s.me.mergeEnded false g1 4 = false ∧ low (2 ^ 24) 32 = 3 ∧ low (2 ^ 30) 32 = 105 ∧
    (match ((union3 true).headOf (union3 true).me.heads.1 0 32).2 with
     | .key h => h.key
     | _ => 99) = 3 ∧
    (match ({ s with packets := [sent 0 []] } : State).readKey true (BitVec.ofNat 64 (2 ^ 24)) 32 with
     | (_, .stop .wait _) => true
     | _ => false) = true ∧
    (checks s { Want.store with noDev := true } (2 ^ 30) 32).2 = .trap 5 (2 ^ 30) ∧
    heldPast (part (2 ^ 22) 32) (some { key := 3, pois := false, ps := part (2 ^ 22) 32 }) = none ∧
    heldPast (part (2 ^ 23) 32) (some { key := 3, pois := false, ps := part (2 ^ 22) 32 }) = some { key := 3, pois := false, ps := part (2 ^ 22) 32 } := by decide +kernel

/-! ### Events of the vector side -/

/-- vaddi.i8 v1, v0, 4, the spec's worked member word, in a convoy of its own that ends its block: header kind 110, then constant 0. -/
def addWord : Nat := 0x001 * 2 ^ 54 + 2 ^ 48 + 4 * 2 ^ 30 + 3 * 2 ^ 22
def convoyAt (word : Nat) (t : Strand → Strand) : State :=
  (one fun s => t { s with vpc := BitVec.ofNat 64 (2 ^ 25 + 1024), blk := some (blkOf 3) }).homeWrite (2 ^ 25 + 1024) 128 (6 * 2 ^ 29 + word * 2 ^ 64)

/-- The convoy above is checked, issues its strip, runs its member and retires. -/
theorem test_convoy : (let s := out (exec (.convoyStripIssue 0 1) (convoyAt addWord fun t => { t with v := [(0, vr 8 [1, 2, 255])], deficit := 1 }))
    let t := out (exec (.vadd { vd := 1, vs1 := 0, vs2 := 0, f35 := 4, mask := 0, me := 0, ew := 0, os := 3, rm := 0, variant := 0 }) s)
    let u := out (exec (.convoyRetire 0) t)
    s.me.conv.map (·.issued) = some 1 ∧ s.me.deficit = 0 ∧ s.me.conv.map (·.words) = some [addWord] ∧ els u 1 8 3 = [5, 6, 3] ∧ u.me.blk = none ∧ u.me.vdirty = 2#64 ∧ u.me.vstate = 2) := by decide +kernel

theorem test_block_start : (let s := out (exec (.blockStart 0) (one fun t => { t with queue := [.block { addr := 128, args := [{ w := 7 }], vl := 5, ew := 1, rm := 2, g := 2 }] }))
    s.me.vpc = 128#64 ∧ (s.me.b.toList.getD 0 {}).w = 7#64 ∧ s.me.blk = some { vl := 5, ew := 1, rm := 2, g := 2 } ∧ s.me.queue = []) := by decide +kernel

/-- A vrqb convoy that ends its block, issued, at its member; that convoy with its member done. -/
def rqbConv : Conv := { conv1 1 0 with hdr := { kind := 6, count := 0, units := 0, lc := 0, back := 0 }, words := [bitsAt [(0x382, 54), (7, 18)]] }
def doneConv : Conv := { conv1 1 0 with slot := 1 }

theorem witness_StepRunsMember :
    let s := State.reset.withFetchWord 64 (bitsAt [(0x382, 54), (7, 18)])
    let u := ({ s with agenda := [], pick := 0 } : State).tick 1
    let behind := fun (ps : List Past) (j : Nat) => let v := ({ u with pick := j } : State); v.modStrand 0 fun t => { t with past := ps }
    let word := fun (v : State) (c : Conv) => decide (c.pend = .none ∧ c.strips ≤ c.issued ∧ c.slot < c.words.length ∧ v.vecGoes 0 = true) &&
      decodesTo decodeMember [(nth 0 c.words c.slot, .vrqb ⟨0, 0, 0, 0, 0, 7, 0, 0⟩)]
    s.agenda.map (·.who) = [.vector 0] ∧ u.pastGoes 0 = false ∧ (u.strand 0).behind.length = 0 ∧ u.pick % 2 = 0 ∧ (u.strand 0).conv.map (word u) = some true ∧
    (let v := behind [pastOf rqbConv 1] 0;
      v.pastGoes 0 = false ∧ (v.strand 0).behind = [0] ∧ v.pick % 3 = 0 ∧ ((v.setStrand 0 ((v.strand 0).focus 0)).strand 0).conv.map (word (v.setStrand 0 ((v.strand 0).focus 0))) = some true) ∧
    (let v := (behind [pastOf rqbConv 1] 2).modStrand 0 fun t => { t with stopped := true, conv := t.conv.map fun c => { c with performed := true } };
      v.pick % 3 = 1 + 1 ∧ v.vecStarts 0 = false ∧ v.pastGoes 0 = false ∧ (v.strand 0).conv.map (word v) = some true) ∧
    (behind [pastOf doneConv 1] 0).pastGoes 0 = true ∧
    (let v := (behind [] 1).modStrand 0 fun t => { t with conv := some rqbConv, queue := [block0] };
      v.pastGoes 0 = false ∧ v.pick % 2 = 0 + 1 ∧ v.vecStarts 0 = true ∧ (v.strand 0).conv = some rqbConv ∧ rqbConv.hdr.kind = 6 ∧ rqbConv.strips ≤ rqbConv.issued ∧ (v.strand 0).queue = [block0]) ∧
    (Instr.breakpoint (.migrate true)).isEvent = true := by decide +kernel

/-- A loop-back convoy goes back while its counter is not 0 (R33). -/
theorem test_loop : (let k : Conv := { conv1 1 0 with addr := 2 ^ 20, hdr := { kind := 7, count := 0, units := 0, lc := 1, back := 3 }, slot := 1, flags := 256, staged := [.push { w := 9 }] }
    let s := out (exec (.convoyRetire 0) (vx 1 [] [] fun t => { t with conv := some k, lc := t.lc.set 1 5 }))
    s.me.vpc = BitVec.ofNat 64 (2 ^ 20 - 192) ∧ s.me.lc[1] = 4#64 ∧ s.me.rq = [{ w := 9 }] ∧ s.me.fcsr = 256#64 ∧ s.me.conv = none) ∧
    (let k : Conv := { conv1 1 0 with addr := 2 ^ 20, hdr := { kind := 7, count := 0, units := 0, lc := 1, back := 3 }, slot := 1 }
     (out (exec (.convoyRetire 0) (vx 1 [] [] fun t => { t with conv := some k }))).me.vpc = BitVec.ofNat 64 (2 ^ 20 + 128)) := by decide +kernel

theorem witness_BlocksStart : let s := one fun t => { t with queue := [.dead 0, block0] }
    s.vecGoes 0 = true ∧ (s.strand 0).passDead.blk = none ∧ (s.strand 0).passDead.queue = [block0] ∧
    (let k := { conv1 1 0 with hdr := { kind := 6, count := 0, units := 0, lc := 0, back := 0 } }
     let l := fun (q : List QItem) (k : Conv) => vx 1 [(1, vr 32 [5])] [] fun t => { t with conv := some k, queue := q, vdirty := 2 };
     let a := out (exec (.blockStart 0) (l [block0] k))
     let d := out (exec (.blockStart 0) (l [.dead 1, block0] k))
     (l [block0] k).vecStarts 0 = true ∧ (l [block0] k).me.blk = some (blkOf 1) ∧ (l [block0] k).me.conv = some k ∧ k.strips ≤ k.issued ∧
       a.me.past.map (fun p => (p.conv, p.taken)) = [(k, [block0])] ∧ a.me.v.length = 1 ∧ a.me.vdirty = 2#64 ∧ d.me.past.map (·.taken) = [[.dead 1, block0]] ∧ d.me.v = [] ∧ d.me.vdirty = 0#64 ∧
       (out (exec (.blockStart 0) (l [block0] (conv1 1 0)))).me.queue = [block0] ∧ (out (exec (.blockStart 0) (l [block0] { k with issued := 0 }))).me.queue = [block0] ∧
       (l [] k).vecStarts 0 = true ∧ ((l [block0] k).modStrand 0 fun t => { t with stopped := true }).vecStarts 0 = false) := by decide +kernel

/-- A convoy of one load of DEV memory, at its check. -/
def devLoad (past : List Past) : State :=
  let s := ranged [(2 ^ 41, 2 ^ 24, 2 ^ 30, 0x17F1)] (convoyAt addWord fun t => { bs [(0, 2 ^ 41)] t with deficit := 1, past := past, blk := some (blkOf 1) })
  ({ s with domains := [1], owners := [((2 ^ 64 + 2 ^ 30) / 2 ^ 24, .dev)] } : State).homeWrite (2 ^ 25 + 1024) 128 (6 * 2 ^ 29 + 2 ^ 19 + encVM 0x300 mform * 2 ^ 64)

/-- What the check of the convoy at vpc answers, as its first strip issues: whether it goes on, and waits for earlier ones. -/
def issues (s : State) : Option Bool :=
  let s := ({ (s.modCore 0 fun x => { x with rr := 0 }).modStrand 0 (fun x => { x with deficit := (s.strand 0).deficit - s.stripCost 0 }) with cur := 0 } : State).modStrand 0 Strand.forward
  match s.me.blk, s.me.conv with
  | some b, none => (match (s.checkConvoy 0 b).2 with
    | .go k _ => some (s.me.devWaits k)
    | _ => none)
  | _, _ => none

/-- A DEV load behind a convoy that has not completed does not issue; behind one that has, it does (R127). -/
theorem test_dev_waits : (out (exec (.convoyStripIssue 0 1) (devLoad [pastOf rqbConv 1]))).me.conv = none ∧ (out (exec (.convoyStripIssue 0 1) (devLoad [pastOf rqbConv 1]))).me.deficit = 1 ∧
    (out (exec (.convoyStripIssue 0 1) (devLoad [pastOf doneConv 1]))).me.conv.isSome = true := by decide +kernel

theorem witness_StripsIssue : let s := convoyAt addWord fun t => { t with deficit := 1 }
    let k : Conv := { conv1 3 0 with strips := 2, issued := 1 }
    let t := (vx 3 [] [] fun t => { t with conv := some k, deficit := 1 })
    let m := ({ (t.setStrand 8 t.me) with cur := 0 } : State).setStrand 0 {}
    let n := ({ t with cur := 0 } : State).modCore 0 fun c => { c with rr := 7 }
    s.frozen 0 = false ∧ k.issued < k.strips ∧ issues s = some false ∧ issues (devLoad [pastOf rqbConv 1]) = some true ∧ (devLoad [pastOf rqbConv 1]).wantsStrip 0 = true ∧ s.wantsStrip 0 = true ∧ s.stripCost 0 = 1 ∧ 0 < s.stripCost 0 ∧ s.stripCost 0 ≤ (s.strand 0).deficit ∧ (s.strand 0).vecIdle = false ∧ (s.core 0).rr % 8 = 0 ∧ (s.strand 0).blk = some (blkOf 3) ∧
    (s.strand 0).conv = none ∧ t.wantsStrip 0 = true ∧ (t.strand 0).conv = some k ∧ t.stripCost 0 ≤ (t.strand 0).deficit ∧ (t.strand 0).vecIdle = false ∧
    n.wantsStrip 7 = false ∧ n.wantsStrip 0 = true ∧ (n.core 0).rr % 8 = 7 ∧ (7 + 1) % 8 = 0 ∧ n.stripCost 0 ≤ (n.strand 0).deficit + (n.strand 0).share ∧
    (∀ j ∈ List.range 8, m.wantsStrip j = false) ∧ m.wantsStrip 8 = true ∧ (m.strand 8).conv = some k := by decide +kernel

/-- What the check of that convoy answers: its cause and slot, 0 where there is none. -/
def checkCause (s : State) : Nat × Nat := match (s.checkConvoy 0 (s.me.blk.getD (blkOf 0))).2 with
  | .trap c => (c.code, c.slot)
  | _ => (0, 0)

/-- A header of kind 0, a header on no page, a poisoned word, a wrong unit, no encoding, no shares, registers off. -/
theorem test_convoy_causes : checkCause (convoyAt addWord id) = (0, 0) ∧ checkCause (one fun t => { t with vpc := 2 ^ 25, blk := some (blkOf 3) }) = (1, 0) ∧
    (checkCause (one fun t => { t with vpc := 2 ^ 30, blk := some (blkOf 3) })).1 = 5 ∧ checkCause ((convoyAt addWord id).setPoison ((2 ^ 25 + 1024) / 512) true) = (9, 0) ∧
    checkCause ((convoyAt addWord id).homeWrite (2 ^ 25 + 1024) 32 (6 * 2 ^ 29 + 2 ^ 19)) = (3, 0) ∧ checkCause (convoyAt (addWord + 1) id) = (1, 0) ∧
    checkCause (convoyAt addWord fun t => { t with blk := some { blkOf 0 with g := 0 } }) = (11, 0) ∧ checkCause (convoyAt addWord fun t => { t with vstate := 0 }) = (12, 0) := by decide +kernel

/-- The model's convoy header of that word, and the hypotheses of its statement. -/
theorem witness_ConvoyCauses : let h := 6 * 2 ^ 29
    headerOk 0 = false ∧ headerOk h = true ∧ (headerOf h).count = 0 ∧ unitsOfOpcode (opOf addWord) = some ((headerOf h).unit 0) ∧ (headerOf (h + 2 ^ 19)).unit 0 ≠ (headerOf h).unit 0 ∧
    decide (memberOf (addWord + 1) = .bad) = true ∧ (convoyAt addWord id).illegalMember 0 ((one fun t => t).me.env (blkOf 3) (conv1 3 0)) true (memberOf addWord) = false ∧
    ({ one fun t => { t with past := [pastOf { conv1 1 0 with words := List.replicate 1023 (encVM 0x300 mform) } 1] } with cur := 0 } : State).countsFull 0 [encVM 0x300 mform] = true := by decide +kernel

theorem witness_ConvoysRetire : let k := { conv1 1 0 with hdr := { kind := 6, count := 0, units := 0, lc := 0, back := 0 }, slot := 1, staged := [.fill 2 false 4 0 0] }
    let s := vx 1 [] [] fun t => { t with conv := some k, blk := some { blkOf 1 with ff := some 1 } }
    s.vecGoes 0 = true ∧ (s.strand 0).conv = some k ∧ (s.strand 0).mayRetire k = true ∧ (s.strand 0).queue = [] ∧ ({ k with staged := [.thr 2 7] } : Conv).pushes.length ≤ 16 ∧
    ({ k with staged := [.push {}] } : Conv).staged = [.push {}] := by decide +kernel

/-- A load of one element of host memory: its reply arrives. -/
def awaiting (op : Nat) (f : VMForm) (pend : Pend) (ps : List Probe) : State :=
  vx 2 [(1, vr 32 [5, 6]), (2, vr 64 [0, 0])] [] fun s => { bs [(0, 2 ^ 22)] s with conv := some { conv1 2 7 with words := [encVM op f], pend := pend, probes := [(0, ps)] } }

theorem test_memory_reply : (let q := probe1 (2 ^ 22) { fa := 2 ^ 64 + 512, il := 4 }
    let s := (awaiting 0x300 mform (.elems true [q]) [q]).homeWrite (2 ^ 64 + 512) 32 77
    let s := { s with owners := [((2 ^ 64 + 512) / 2 ^ 24, .dev)], domains := [0] }
    let t := out (exec (.memoryReply 0) s)
    els t 1 32 2 = [77, 6] ∧ t.me.conv.map (·.slot) = some 1 ∧ t.me.conv.map (·.pend) = some .none) := by decide +kernel

theorem test_vamo_commit : (let p := probe1 (2 ^ 22) { fa := 2 ^ 22 }
    let f := { mform with am := 2, vs2 := 2, f35 := 1 }
    let s := (awaiting 0x342 f (.vamo 1 [0] [0] [0]) [p]).homeWrite (2 ^ 22) 32 3
    let lost := out (exec (.vamoCommit 0) s)
    let t := out (exec (.vamoCommit 0) (s.placeTag amoTag (2 ^ 13) 0))
    lost.me.conv.map (·.pend) = some (.vamo 2 [0] [0] []) ∧ lost.tagged amoTag (2 ^ 13) 0 = false ∧ (lost.home (2 ^ 22) 32) = 3 ∧ t.home (2 ^ 22) 32 = 8 ∧ t.me.conv.map (·.slot) = some 1) := by decide +kernel

/-- v4 holds the comparand 5: the word at 2^22 is 5. -/
def vwaits (left : List Nat) : State :=
  let f : VMForm := { mform with w1 := 63, ew := 3, f35 := 4, mfmt := 1, scale := 2 }
  let p := { probe1 (2 ^ 22) { fa := 2 ^ 22 } with ps := part (2 ^ 22) 64 }
  let s := (awaiting 0x360 f (.vwait left 0) [p]).homeWrite (2 ^ 22) 64 5
  s.setMe { s.me with v := [(4, vr 64 [5, 5])], b := (bs [(0, 2 ^ 22), (1, 10)] s.me).b, m := [(2, 3)] }

theorem test_vwaitv : (let two := (vwaits [0]).modConv fun k => { k with probes := k.probes.map fun p => (p.1, p.2 ++ p.2.map fun q => { q with id := 1 }) }
    let t := out (exec (.vwaitvElementSatisfied 0 0) two); els t 1 64 1 = [5] ∧ Sparse.get 0 t.me.m 2 = 2 ∧ t.me.conv.map (·.slot) = some 1) ∧
    (out (exec (.vwaitvElementSatisfied 0 0) (vwaits [0, 1]))).me.conv.map (·.pend) = some (.vwait [1] 0) ∧
    (let t := out (exec (.vwaitvExpiry 0) { vwaits [0] with now := 10 }); els t 1 64 1 = [2 ^ 22] ∧ (Sparse.get 0 t.me.m 2).testBit 0 = true ∧ t.me.conv.map (·.slot) = some 1) ∧
    (out (exec (.vwaitvExpiry 0) { vwaits [0] with now := 9 })).me.conv.map (·.slot) = some 0 := by decide +kernel

theorem witness_MemberEvents : let q := probe1 (2 ^ 22) { fa := 2 ^ 22 }
    let a := awaiting 0x300 mform (.elems true [q]) [q]
    let v := awaiting 0x342 mform (.vamo 1 [0] [0] [0]) [q]
    let w := vwaits [0]
    let r := fun (f : VMForm) (s : State) => runs (State.loadElem f (envOf s)) s
    a.me.conv.map (·.pend) = some (.elems true [q]) ∧ decide (memberOf (encVM 0x300 mform) = .vm 0x300 mform) = true ∧ decide (memberOf (encVM 0x301 mform) = .vm 0x301 mform) = true ∧
    a.frozen 0 = false ∧ r mform a [q] = .done ∧ v.vecGoes 0 = true ∧ q.lines = [2 ^ 13] ∧ (v.placeTag amoTag (2 ^ 13) 0).tagged amoTag (2 ^ 13) 0 = true ∧ v.tagged amoTag (2 ^ 13) 0 = false ∧
    w.me.conv.map (·.pend) = some (.vwait [0] 0) ∧ (w.ownAgain (part (2 ^ 22) 64)).2 = .ok ∧ (w.readPieces w.myAgent 0 true (part (2 ^ 22) 64)).2 = .ok 5 false ∧
    ((envOf w).vec 4 64).val 0 = 5 ∧ ((envOf w).arg 1).w.toNat = 10 ∧ (envOf w).active 0 0 0 = true ∧ [0].Nodup := by decide +kernel

/-- A load behind a watermark that needs 1 element of 32 bits, none published; the limit is 7 cycles. -/
def behindWm (published : Nat) : State :=
  let word := encVM 0x300 mform
  let s := (one fun t => { bs [(0, 2 ^ 22)] t with
    vpc := BitVec.ofNat 64 (2 ^ 25 + 1024), blk := some (blkOf 1), convWait := some 0
    wm := t.wm.set 0 { base := BitVec.ofNat 64 (2 ^ 22), w1 := BitVec.ofNat 64 (2 ^ 63 + 31 * 2 ^ 56 + 64), pub := BitVec.ofNat 64 (2 ^ 23), lim := 7 } })
  (s.homeWrite (2 ^ 25 + 1024) 128 (6 * 2 ^ 29 + 2 ^ 19 + word * 2 ^ 64)).homeWrite (2 ^ 23) 64 published

theorem witness_WatermarkWaits : let s := behindWm 1
    s.vecGoes 0 = true ∧ s.me.convWait.isSome = true ∧ s.me.blk = some (blkOf 1) ∧ s.me.conv = none ∧ (match (s.checkConvoy 0 (blkOf 1)).2 with
      | .go _ vl => vl == 1
      | _ => false) = true ∧ checkCause { behindWm 0 with now := 7 } = (16, 0) ∧ checkCause { behindWm 0 with now := 6 } = (0, 0) := by decide +kernel

theorem test_watermark_ends : (out (exec (.watermarkWaitEnd 0) (behindWm 1))).me.convWait = none ∧ (out (exec (.watermarkWaitEnd 0) (behindWm 0))).me.convWait = some 0 ∧
    (((out (exec (.watermarkTimeout 0) { behindWm 0 with now := 7 })).core 0).supEnd.getD (0, 0)).2 = 16 ∧ (out (exec (.watermarkTimeout 0) { behindWm 0 with now := 6 })).me.blk.isSome = true := by decide +kernel

/-- A load whose mask or index a lower slot gives: its convoy's check could not probe it. -/
def lateAt (vl a : Nat) (f : State → State := id) : State := f (vx vl [(1, vr 32 [5, 6])] [] fun s => { bs [(0, a)] s with conv := some { conv1 vl 7 with late := [0], words := [encVM 0x300 mform] } })

/-- The probe pass found that many elements in order, 99 where it waits, 100 plus its cause where it traps. -/
def probes (s : State) (f : VMForm) : Nat := match (s.probeMember s.myAgent (envOf s) 0x300 f false).2 with
  | .ok _ vl => vl
  | .trap c => 100 + c.code
  | .wait => 99

/-- A member of a convoy in progress behind the watermark of `behindWm`. -/
def memberWm (published now : Nat) : State :=
  let s := lateAt 1 (2 ^ 22) fun s => s.setMe { s.me with convWait := some 0, wm := (behindWm 0).me.wm }
  { s.homeWrite (2 ^ 23) 64 published with now := now }

theorem witness_MembersStart : let s := lateAt 1 (2 ^ 22)
    s.me.blk = some (blkOf 1) ∧ (s.me.conv.map fun k => (k.late, k.slot, k.probes)) = some ([0], 0, []) ∧ vmCheck 0x300 mform (envOf s) true = none ∧
    vmCheck 0x300 mform (envOf (s.setMe { s.me with b := Vector.ofFn fun _ => { w := 0, p := true } })) true = some (8, none) ∧
    ({ found [] with packets := [sent 0 []] } : State).memWaits 0x300 mform [] = true ∧ hasNat (conv1 1 7).late (conv1 1 7).slot = false ∧ (s.wmCheck 0 (envOf s) 0x300 mform).2 = .ok ∧
    ((memberWm 0 6).wmCheck 0 (envOf (memberWm 0 6)) 0x300 mform).2 = .wait ∧ ((memberWm 0 7).wmCheck 0 (envOf (memberWm 0 7)) 0x300 mform).2 = .trap { code := 16, addr := BitVec.ofNat 64 (2 ^ 23), elem := some 0 } ∧
    probes (lateAt 1 (2 ^ 26)) mform = 105 ∧ probes (lateAt 2 (2 ^ 26 - 32)) { mform with am := 3 } = 1 ∧
    probes (lateAt 1 (2 ^ 41) fun s => { ranged [(2 ^ 41, 2 ^ 24, 2 ^ 30, 0x13F1)] s with domains := [1] }) mform = 99 := by decide +kernel

theorem witness_MemberWatermarks : let s := memberWm 1 6
    s.vecGoes 0 = true ∧ s.me.convWait.isSome = true ∧ s.me.blk = some (blkOf 1) ∧ s.me.conv.isSome = true ∧ decide (memberOf (encVM 0x300 mform) = .vm 0x300 mform) = true ∧
    (s.wmCheck 0 (envOf s) 0x300 mform).2 = .ok ∧ ((memberWm 0 6).wmCheck 0 (envOf s) 0x300 mform).2 = .wait ∧
    ((memberWm 0 7).wmCheck 0 (envOf s) 0x300 mform).2 = .trap { code := 16, addr := BitVec.ofNat 64 (2 ^ 23), elem := some 0 } ∧ (out (exec (.watermarkWaitEnd 0) s)).me.convWait = none := by decide +kernel

/-- A block of one convoy, its store of class 3, queued behind nothing: a fence of class 3 waits for it, one of the others does not (R133, R277). -/
def storeAhead : State :=
  (one fun t => { t with queue := [.block { addr := BitVec.ofNat 64 (2 ^ 25 + 1024), args := [], vl := 1, ew := 2, rm := 0, g := 2 }] }).homeWrite (2 ^ 25 + 1024) 128
    (6 * 2 ^ 29 + 2 ^ 19 + encVM 0x301 { mform with cls := 3 } * 2 ^ 64)

theorem test_fence_ahead : moved storeAhead (.fence 1 7) = 32 ∧ moved storeAhead (.fence 1 8) = 0 := by decide +kernel

theorem witness_FencesAhead : let s := storeAhead
    let h := 6 * 2 ^ 29 + 2 ^ 19
    s.me.blk = none ∧ s.peekWords (s.agentOf 0) (2 ^ 25 + 1024) 1 = some [h] ∧ headerOk (h % 2 ^ 32) = true ∧ (headerOf (h % 2 ^ 32)).kind = 6 ∧ (headerOf (h % 2 ^ 32)).count = 0 ∧
    s.peekWords (s.agentOf 0) (2 ^ 25 + 1088) 1 = some [encVM 0x301 { mform with cls := 3 }] ∧ wordClasses [encVM 0x301 { mform with cls := 3 }] = 8 := by decide +kernel

/-- A convoy of one push whose member is done, behind the one in progress; the reply queue holds q words. -/
def fullQueue (q : Nat) : State :=
  vx 1 [] [] fun t => { t with past := [pastOf { conv1 1 0 with slot := 1, staged := [.push { w := 9 }], dirty := [1] } 1], rq := List.replicate q {} }

/-- A convoy whose strips have all issued goes behind, the next is checked past it, and a full reply queue keeps it there (R126, R127). -/
theorem test_convoys_wait : (let s := vx 1 [(1, vr 32 [5])] [] id
    let t := s.me.forward
    t.conv = none ∧ t.past.map (·.conv) = [conv1 1 7] ∧ t.vpc = 128#64 ∧ t.v = s.me.v) ∧ (out (exec (.convoyRetire 0) (fullQueue 16))).me.past.length = 1 ∧
    (let t := out (exec (.convoyRetire 0) (fullQueue 15)); t.me.past = [] ∧ t.me.rq.length = 16 ∧ t.me.vdirty = 2#64 ∧ t.me.conv = some (conv1 1 7)) := by decide +kernel

theorem witness_ConvoysWait : let s := fullQueue 15
    let p := pastOf { conv1 1 0 with slot := 1, staged := [.push { w := 9 }], dirty := [1] } 1
    let k := conv1 1 7
    let l : Conv := { k with hdr := { kind := 7, count := 0, units := 0, lc := 1, back := 3 } }
    s.me.past = [p] ∧ p.conv.complete = true ∧ s.me.rq.length + p.conv.pushes.length ≤ 16 ∧ (({ s with cur := 0 } : State).setStrand 0 (s.me.focus 0)).vecGoes 0 = true ∧ p.taken = [] ∧ p.conv.dirty ≠ [] ∧
    ({ p with taken := [.dead 1, block0] } : Past).taken.contains (.dead 1) = true ∧ s.me.conv = some k ∧ s.me.blk = some (blkOf 1) ∧ k.hdr.kind ≠ 6 ∧ k.strips ≤ k.issued ∧ k.isMerge = false ∧ k.mayTrim = false ∧
    k.rest.any setsVl = false ∧ (l.pending ++ pendingOf false s.me.past.reverse).contains (4, l.hdr.lc.toNat) = false ∧ ({ k with issued := 0 } : Conv).issued < k.strips ∧
    (fullQueue 16).me.pastReady = false ∧ (fullQueue 16).vecGoes 0 = true ∧ (fullQueue 16).me.mayRetire k = false ∧
    (let f : Conv := { conv1 1 0 with slot := 1, staged := [.fill 2 false 4 0 0] }; f.complete = true ∧ f.pushes = [] ∧ ({ p with conv := { f with hdr := rqbConv.hdr } } : Past).conv.hdr.kind = 6) := by decide +kernel

/-- A VAMO of two elements in one line, in round r. -/
def amos (r : Nat) (sent came : List Nat) : State :=
  let p := probe1 (2 ^ 22) { fa := 2 ^ 22 }
  awaiting 0x342 { mform with am := 2, vs2 := 2, f35 := 1 } (.vamo r [0, 1] sent came) [p, { probe1 (2 ^ 22) { fa := 2 ^ 22 } with id := 1 }]

/-- The second element of the line stays for round 2, and from round 9 on elements go one by one (R218). -/
theorem test_vamo_rounds : ((out (exec (.vamoCommit 0) ((amos 1 [0] [0]).placeTag amoTag (2 ^ 13) 0))).me.conv.map (·.pend)) = some (.vamo 2 [1] [1] []) ∧
    ((out (exec (.vamoCommit 0) (amos 9 [] []))).me.conv.map (·.pend)) = some (.vamo 9 [1] [] []) ∧ (out (exec (.vamoCommit 0) (amos 9 [] []))).home (2 ^ 22) 32 = 5 := by decide +kernel

theorem witness_VamoCommits : let s := amos 1 [0] [0]
    let p := probe1 (2 ^ 22) { fa := 2 ^ 22 }
    s.vecGoes 0 = true ∧ (s.readPieces s.myAgent 0 true p.ps).2 = .ok 0 false ∧ Mem.wf s.mem = true ∧ (amos 1 [0] []).slotProbes.filter (fun q => hasNat [0] q.id && !hasNat [] q.id) = [p] ∧
    s.slotProbes.filter (fun q => hasNat [0] q.id) = [p] ∧ (s.placeTag amoTag (2 ^ 13) 0).tagged amoTag (2 ^ 13) 0 = true ∧ s.tagged amoTag (2 ^ 13) 0 = false ∧
    (amos 9 [] []).slotProbes.filter (fun q => hasNat [0, 1] q.id) = [p, { p with id := 1 }] ∧ ([0, 1].filter fun e => !hasNat [0] e) = [1] ∧ ([1].filter fun e => !hasNat [0] e) ≠ [] ∧
    ([0].filter fun e => !hasNat [0] e) = [] := by decide +kernel

/-- A VWAITV whose word lies in a scratchpad: the range at 2^40 leads there. -/
def vwaitScratch (map : Bool) : State :=
  let f : VMForm := { mform with w1 := 63, ew := 3, f35 := 4, mfmt := 1, scale := 2 }
  let s := awaiting 0x360 f (.vwait [0] 0) [{ probe1 (2 ^ 40) { fa := 2 ^ 58 } with ps := [{ off := 0, len := 64, va := 2 ^ 40, tr := { fa := 2 ^ 58 } }] }]
  let s := s.setMe { s.me with v := [(4, vr 64 [0, 5])], b := (bs [(0, 2 ^ 40), (1, 10)] s.me).b }
  if map then withScratch s else s

theorem witness_VwaitvScratch : let s := vwaitScratch true
    let r := fun (s : State) => (s.check s.myAgent .homeLoad (2 ^ 40) 64).2
    s.vecGoes 0 = true ∧ spaceOfPhys (2 ^ 58) = 1 ∧ r s = .ok [{ off := 0, len := 64, va := 2 ^ 40, tr := { fa := 2 ^ 58 } }] ∧ r (vwaitScratch false) = .trap 5 (2 ^ 40) ∧
    (out (exec (.vwaitvElementSatisfied 0 0) s)).me.conv.map (·.slot) = some 1 ∧
    (((out (exec (.vwaitvElementSatisfied 0 0) (vwaitScratch false))).core 0).supEnd.getD (0, 0)).2 = 5 := by decide +kernel

/-! ### Ends of waits -/

/-- What each strand of these waits for has come. -/
def ready (i : Instr) (f : State → State := id) : State := f (one fun t => waiting i 0 (xs [(1, 2 ^ 23), (2, 0)] t))

/-- The strand's turn, its time waited counted from now. -/
def againOf (s : State) (sid : Nat) (w : Wait) : State := ({ s with cur := sid } : State).setMe { s.strand sid with wait := some { w with since := s.coreCycle (coreOf sid) } }

theorem witness_WaitsEnd : let s := ready (.waita 4 1 2 0 0)
    s.me.wait = some { instr := .waita 4 1 2 0 0, since := 0 } ∧ s.canIssue 0 = true ∧
    ([(Instr.waita 4 1 2 0 0, Instr.waitaSatisfied 0, id), (.tlwait 0 4 0 5 1 0, .tlwaitSatisfied 0, fun s => { s with ctxMap := [(5, 3)] }), (.barArv 3 0 0, .barrierArrival 0, id), (.join 3 1 4, .joinSatisfied 0, word (2 ^ 23) (2 ^ 63)),
      (.rqpop 3, .rqpopEnd 0, fun s => s.setMe { s.me with rq := [{ w := 5 }] }), (.waitc 0 0 0 0, .waitcEnd 0, id), (.setvl 3 1 2, .shareGrant 0, id),
      (.idle 3 4, .idleEnd 0, fun s => s.setMe { s.me with rq := [{ w := 5 }] }), (.copy copyForm, .copySlotFree 0, fun _ => copyState.setMe (waiting (.copy copyForm) 0 copyState.me)),
      (.persist 21 8 10 5, .copySlotFree 0, fun _ => copyState.setMe (waiting (.persist 21 8 10 5) 0 copyState.me)),
      (.copyMc copyMcForm, .copySlotFree 0, fun _ => copyState.setMe (waiting (.copyMc copyMcForm) 0 copyState.me))] : List (Instr × Instr × (State → State))).all (fun x =>
        let s := ready x.1 x.2.2
        goes (exec x.2.1 s) && (out (exec x.2.1 s)).me.wait.isNone && decide ((out (exec x.2.1 s)).me.pc ≠ s.me.pc) && (out (exec x.1 s)).me.wait.isNone) = true := by decide +kernel

theorem test_wait_ends : (let s := out (exec (.rqpopEnd 0) (ready (.rqpop 3) fun s => s.setMe { s.me with rq := [{ w := 5 }] })); (s.me.getX 3).w = 5#64 ∧ s.me.rq = [] ∧ s.me.pc = (bx []).me.pc + 32#64) ∧
    (out (exec (.rqpopEnd 0) (ready (.rqpop 3)))).me.wait.isSome = true ∧ (out (exec (.barWtEnd 0) (ready (.barWt 4 0 0)))).me.wait.isSome = true ∧
    ((out (exec (.idleEnd 0) (ready (.idle 3 4) fun s => s.setMe { s.me with rq := [{ w := 5 }] })))).me.rq.length = 1 := by decide +kernel

theorem witness_MemoryWaitsEnd : let s := ready (.waita 4 1 2 0 0)
    let w : Wait := { instr := .waita 4 1 2 0 0, since := 0 }
    let z := againOf s 0 w
    s.me.wait = some w ∧ s.canIssue 0 = true ∧ z.heldBack {} = false ∧ (z.me.getX 1).p = false ∧ (z.me.getX 2).p = false ∧ (z.me.getX 4).p = false ∧ (2 ^ 23) % 64 = 0 ∧
    (z.waitRead (BitVec.ofNat 64 (2 ^ 23))).2.toOption = some {} ∧ (z.me.getX 2).w = 0 ∧
    ((word (2 ^ 23) (2 ^ 63) z).waitRead (BitVec.ofNat 64 (2 ^ 23))).2.toOption = some { w := BitVec.ofNat 64 (2 ^ 63) } ∧
    ({ z with ctxMap := [(5, 3)] } : State).physCtx z.me.asid 5 = some 3 ∧ isLoam (coreOf 0) = true ∧ 0 ≤ z.tlmOf 0 ∧ z.me.allIssued = true ∧ z.counts 0 = (0, 0, 0, 0) := by decide +kernel

theorem witness_SharedWaitsEnd : let s := ready (.barArv 3 0 0)
    let c := copyState
    (s.getBar 0 0).toOption = some { c := 1, a := 0, P := 0, recs := [], level := 1 } ∧ s.vectorDone 0 = true ∧ s.accessesDone 0 = true ∧ s.me.preq = false ∧ s.me.lpart ≤ s.me.g ∧
    c.slotsUsed 0 < 256 ∧ c.accessesDone 0 = true ∧ c.physCtx c.me.asid 5 = some 3 ∧ (c.me.getX 10).w.toNat < 2 ^ 48 ∧ (∀ r ∈ [8#5, 9, 10, 12], (c.me.getX r).p = false) ∧ copyForm.twoD = 0 ∧
    ({ copyForm with rc := 0 } : CopyForm).rc = 0 ∧ (let u := out (exec (.barArv 3 0 0) s); Sparse.get 1 [(0, 0)] (u.barKey 0) < 1 ∧ (u.getBar 0 0).toOption = some { c := 1, a := 0, P := 1, recs := [(0, 0)], level := 1 }) := by decide +kernel

theorem witness_ReplyEnds : let s := ready (.rqpop 3) fun s => s.setMe { s.me with rq := [{ w := 5 }] }
    s.me.rq = { w := 5 } :: [] ∧ s.canIssue 0 = true ∧ s.me.wait.isSome = true ∧ (s.me.getX 4).p = false := by decide +kernel

/-- An application strand that waits on a copy timeline with limit 5. -/
def limited (now : Nat) : State := { app fun t => waiting (.tlwait 0 4 0 5 1 7) 0 (xs [(4, 5)] t) with now := now, ctxMap := [(5, 3)] }

theorem test_wait_timeout : (let s := out (exec (.waitTimeout 0) (limited 5)); cause (limited 5) (.waitTimeout 0) = 16 ∧ s.me.tpc = (limited 5).me.pc ∧ s.me.wait = none) ∧
    (out (exec (.waitTimeout 0) (limited 4))).me.wait.isSome = true := by decide +kernel

theorem witness_WaitTimeouts : let s := limited 5
    s.canIssue 0 = true ∧ s.expired (.tlwait 0 4 0 5 1 7) ((s.me.getX 4).w) = true ∧ (s.me.getX 4).p = false ∧ s.physCtx s.me.asid 5 = some 3 ∧ (s.copyCtx 3).timeline < 7 ∧ s.me.sup = false ∧
    s.me.conv = none ∧ s.me.topen = true ∧ s.me.tvec = 0 ∧ (out (exec (.tlwait 0 4 0 5 1 7) s)).me.wait = none := by decide +kernel

theorem test_outside_writes : (let s := out (exec (.preemptCsrWrite 0 (BitVec.ofNat 64 (2 ^ 63 + 200))) { bx [] with now := 9 }); s.me.preq = true ∧ s.me.grace = 200 ∧ s.me.reqAt = 9) ∧
    ((out (exec (.wdwinWrite 0 77) (app id))).groups.map fun p => (p.2.wdwin, p.2.wd)) = [(77#64, .armed)] ∧ ((out (exec (.wdwinWrite 0 0) (app id))).groups.map fun p => p.2.wd) = [.off] ∧
    (out (exec (.csrWrite 0 0x015 64) (bx []))).me.tvec = 64#64 := by decide +kernel

theorem witness_OutsideWrites : (bx []).me.phase = .running ∧ (200 : Nat) % 2 ^ 63 < 2 ^ 32 ∧ (app id).me.group = some 0 ∧ (app id).group? 0 = some grp0 ∧ csrAccess 0x015 true = some 2 ∧ csrLegal 0x015 64 = true ∧
    csrWaits 0x015 = false ∧ csrAccess 0x040 true = some 2 ∧ (64#64).toNat % 64 = 0 ∧ (bx []).me.vecDone = true := by decide +kernel

/-! ### Notices, pre-emption, the watchdog, groups -/

/-- Strand 1 is held, its notice not pushed. -/
def noticed (n : Nat) : State := two (fun t => { t with rq := List.replicate n {}, hold := none }) fun t => { t with hold := some { n0 := 1, n1 := 2, n2 := 3 } }

theorem test_notice : (let s := out (exec (.trapNoticePush 1) (noticed 1)); (s.strand 0).rq.map (·.w) = [0, 1, 2, 3] ∧ (s.strand 1).hold.map (·.pushed) = some true) ∧
    ((out (exec (.trapNoticePush 1) (noticed 14))).strand 0).rq.length = 14 := by decide +kernel

theorem witness_NoticesPushed : ((noticed 13).strand 1).hold = some { n0 := 1, n1 := 2, n2 := 3 } ∧ (noticed 13).supOf 0 = some 0 ∧ ((noticed 13).strand 0).rq.length ≤ 13 ∧ ((noticed 13).strand 0).hold = none ∧ ctxOf 1 = 1 := by decide +kernel

/-- A strand with a pre-emption set at cycle 100 with a window of 200. -/
def preempted (now : Nat) (f : Strand → Strand) : State := { app fun t => f { t with preq := true, reqAt := 100, grace := 200 } with now := now }

theorem test_forced_preemption : cause (preempted 300 id) (.forcedPreemption 0) = 15 ∧ cause (preempted 299 id) (.forcedPreemption 0) = 0 ∧
    (out (exec (.forcedPreemption 0) (preempted 310 fun t => { t with topen := false }))).me.heldPre = some 300 ∧
    (let s := out (exec (.heldPreemptExpiry 0) (preempted 500 fun t => { t with topen := false, heldPre := some 300 })); s.me.preq = false ∧ s.me.hold.isSome = true ∧ s.me.tcause = 0) := by decide +kernel

/-- A pre-empted strand that waits on a LAUNCH (R122, R282): one that is answered has completed, one that is not gives its submission up. -/
theorem test_launch_preempted : (let s := fun (c : Option Nat) => { preempted 300 fun t => { t with wait := some { instr := .launch 3 1, since := 0 } } with
      submits := [{ die := 0, fromSid := some 0, stream := 0, block := 0, status := c }] }
    let t := fun c => out (exec (.forcedPreemption 0) (s c))
    ((t (some 2)).me.getX 3).w = 2 ∧ (t (some 2)).me.pc = (s none).me.pc + 64#64 ∧ (t (some 2)).submits = [] ∧ (t none).me.pc = (s none).me.pc ∧ (t none).submits = []) := by decide +kernel

theorem witness_ForcedPreemptions : let s := preempted 300 id
    s.canIssue 0 = true ∧ s.me.performing = false ∧ (∀ u ∈ s.submits, u.fromSid ≠ some 0) ∧ s.me.preq = true ∧ s.me.heldPre = none ∧ s.me.reqAt + s.me.grace ≤ s.coreCycle 0 ∧ s.me.topen = true ∧
    (preempted 500 fun t => { t with topen := false, heldPre := some 300 }).canIssue 0 = true ∧ 300 + s.me.grace ≤ (preempted 500 id).coreCycle 0 := by decide +kernel

/-- The group at the end of a window of 2^26 cycles. -/
def windowed (f : Group → Group) (g : Strand → Strand := id) : State := { app g with groups := [(0, f { grp0 with sids := [0] })], now := 2 ^ 26 }

theorem test_watchdog : (out (exec (.watchdogWindowEnd 0) (windowed fun g => { g with progress := true }))).groups.map (fun p => (p.2.wdStart, p.2.wd)) = [(2 ^ 26, .armed)] ∧
    cause (windowed id) (.watchdogWindowEnd 0) = 13 ∧ ((out (exec (.watchdogWindowEnd 0) (windowed fun g => { g with wd := .warned }))).groups.map fun p => p.2.endKind) = [some .wdog] ∧
    ((out (exec (.watchdogWindowEnd 0) { windowed id with now := 2 ^ 26 - 1 })).groups.map fun p => p.2.wd) = [.armed] := by decide +kernel

theorem witness_Watchdog : let s := windowed id
    s.group? 0 = some grp0 ∧ grp0.phase = .placed ∧ grp0.wd ≠ .off ∧ grp0.wdwin ≠ 0 ∧ grp0.wdwin.toNat ≤ grp0.wdBase + (s.coreCycle 0 - grp0.wdStart) ∧ s.frozen 0 = false ∧ grp0.progress = false ∧
    grp0.all = [0] ∧ (s.strand 0).topen = true ∧ ((windowed id fun t => { t with topen := false }).strand 0).topen = false ∧ (s.strand 0).phase = .running ∧ (s.strand 0).parked = false ∧ ((windowed id fun t => waiting (.rqpop 3) 0 t).strand 0).parked = true ∧ grp0.wd = .armed := by decide +kernel

theorem test_group_ends : (let s := out (exec (.groupKill (.group 0)) (app fun t => { t with rq := [{ w := 1 }], queue := [block0] }))
    s.me.phase = .ended ∧ s.me.rq = [] ∧ s.me.queue = [] ∧ (s.groups.map fun p => (p.2.phase, p.2.endKind)) = [(.ending, some .killed)] ∧ (s.gangs.map fun p => p.2.killed) = [true]) ∧
    (let s := out (exec (.groupFaultEnd 0 4) (app id)); (s.gangs.map fun p => p.2.firstFault) = [some (0, 4)]) ∧
    (let s := out (exec (.groupKill (.group 0)) { app id with groups := [(0, { grp0 with phase := .waiting, sids := [] })] })
     (s.groups.map fun p => p.2.phase) = [.retired] ∧ (s.gangs.map fun p => p.2.ended) = [1]) := by decide +kernel

/-- A gang that is killed creates no more groups (R328). -/
theorem test_gang_kill : (let s := out (exec (.groupKill (.gang 0)) { app id with gangs := [(0, { gang0 with groups := 3 })] })
    (s.gangs.map fun p => (p.2.created, p.2.ended, p.2.killed)) = [(3, 2, true)] ∧ (s.groups.map fun p => p.2.phase) = [.ending]) := by decide +kernel

/-- Of two fault ends in one cycle the lower group's counts (R284). -/
theorem test_fault_order : (let s := { app id with groups := [(0, { grp0 with gid := 5 }), (1, { grp0 with gid := 2, sids := [] })], gangs := [(0, { gang0 with groups := 9 })] }
    ((out (exec (.groupFaultEnd 1 6) (out (exec (.groupFaultEnd 0 4) s)))).gangs.map fun p => p.2.firstFault) = [some (2, 6)] ∧
    ((out (exec (.groupFaultEnd 1 6) { out (exec (.groupFaultEnd 0 4) s) with now := 99 })).gangs.map fun p => p.2.firstFault) = [some (5, 4)]) := by decide +kernel

theorem witness_GroupsStopped : (app id).group? 0 = some grp0 ∧ (app id).gang? 0 = some gang0 ∧ grp0.phase = .placed := by decide +kernel

theorem test_retire_and_join : (let s := out (exec (.groupRetirement 0) { app (fun t => { t with phase := .ended }) with gangs := [(0, { gang0 with join := BitVec.ofNat 64 (2 ^ 22) })] })
    let t := out (exec (.joinStatusWrite 0) s)
    (s.strand 0).phase = .free ∧ (s.groups.map fun p => p.2.phase) = [.retired] ∧ (s.gangs.map fun p => (p.2.ended, p.2.okEnds)) = [(1, 1)] ∧ t.home (2 ^ 22) 64 = 0x8000000000000001 ∧
    (t.gangs.map fun p => p.2.joined) = [true]) := by decide +kernel

theorem witness_GroupsRetire : let s := app fun t => { t with phase := .ended }
    Mem.wf s.mem = true ∧ s.group? 0 = some grp0 ∧ s.gang? 0 = some gang0 ∧ grp0.phase = .placed ∧ (∀ sid ∈ grp0.all, (s.strand sid).phase = .ended) ∧ grp0.mcsRuns = false ∧ grp0.savedMcs = none ∧ ({ grp0 with mstarted := true } : Group).mcsRuns = true ∧ (s.core 0).mx.ops = [] := by decide +kernel

theorem witness_Joins : let q := { gang0 with join := BitVec.ofNat 64 (2 ^ 22), ended := 1, firstFault := some (0, 4) }
    let s := { app id with gangs := [(0, q)] }
    s.gang? 0 = some q ∧ q.joined = false ∧ q.groups ≤ q.ended ∧ q.join ≠ 0 ∧ q.join.toNat % 64 = 0 ∧ gang0.join = 0 ∧ gang0.firstFault = none ∧
    (s.check (cpAgent 0 0 false) Want.store (2 ^ 22) 64).2 = .ok (part (2 ^ 22) 64) ∧
    (s.cpCanWrite (cpAgent 0 0 false) (2 ^ 26)).2 = .trap 5 (2 ^ 26) ∧ ({ ranged [(2 ^ 41, 2 ^ 24, 2 ^ 30, 0x13F1)] s with domains := [1] }.cpCanWrite (cpAgent 0 0 false) (2 ^ 41)).2 = .wait := by decide +kernel

/-- Only die 0 is out of reset. -/
def die0 : Sparse Die := (List.range 15).map fun d => (d + 1, { inReset := true })

/-- A launch from strand 0 of one group of a code object at 2^24, its block at 2^23, resident where asked. -/
def launching (resident block : Nat) : State :=
  let s := { app id with dies := die0, objects := [(0, BitVec.ofNat 64 (2 ^ 24), 2 ^ 20)], submits := [{ die := 0, fromSid := some 0, stream := 0, block := BitVec.ofNat 64 block }] }
  word (2 ^ 24 + 128) 64 (word (2 ^ 24 + 64) (2 * 2 ^ 3) (word (2 ^ 24) (0x10 + 2 ^ 8) (word (2 ^ 23 + 64) (1 + 2 * 2 ^ 27 + resident * 2 ^ 45) (word (2 ^ 23) (2 ^ 24) s))))

theorem test_launch_judged : (let s := out (exec (.gangAcceptance 0) (launching 0 (2 ^ 23))); s.submits.map (fun u => (u.status, u.gang)) = [(some 0, some 1)] ∧ (s.gangs.map fun p => p.2.created) = [1, 0]) ∧
    (out (exec (.gangAcceptance 0) (launching 0 (2 ^ 23 + 1)))).submits.map (·.status) = [some 4] ∧ (out (exec (.gangAcceptance 0) (launching 0 (2 ^ 22)))).submits.map (·.status) = [some 1] := by decide +kernel

theorem test_resident_launch : (let s := out (exec (.gangAcceptance 0) (launching 1 (2 ^ 23))); s.submits.map (·.status) = [some 0] ∧ (s.groups.map fun p => p.2.phase) = [.placed, .placed]) := by decide +kernel

theorem witness_LaunchesJudged : let s := launching 0 (2 ^ 23)
    let u : Submit := { die := 0, fromSid := some 0, stream := 0, block := BitVec.ofNat 64 (2 ^ 23) }
    (s.die 0).stopped = false ∧ (s.die 0).inReset = false ∧ s.submits.find? (fun u => u.die == 0 && u.status.isNone) = some u ∧ s.launcher u = some { asid := 0, sup := false, maxPrio := 0, origin := 0 } ∧
    (2 ^ 23 + 1) % 64 ≠ 0 ∧ (match (s.judge u { asid := 0, sup := false, maxPrio := 0, origin := 0 }).2 with
      | .accept q _ => decide (q.resident = false ∧ q.entry = BitVec.ofNat 64 (2 ^ 24 + 64))
      | _ => false) = true ∧ (descOf (0x10 + 2 ^ 8 + 16 * 2 ^ 64 + 64 * 2 ^ 128)).isSome = true ∧ descOf 0 = none ∧
    ((descOf (0x10 + 2 ^ 8 + 16 * 2 ^ 64 + 64 * 2 ^ 128)).map fun d => d.loadable) = some true := by decide +kernel

/-- A gang with a group to create. -/
def unplaced : State := { app id with dies := die0, strands := [], groups := [], gangs := [(0, { gang0 with profiles := 1, created := 0, scratch := 2, arg := 9 })] }

theorem test_placement : (let s := out (exec (.placement (some (BitVec.ofNat 64 (2 ^ 40)))) unplaced)
    (s.groups.map fun p => (p.2.core, p.2.sids, p.2.grant, p.2.window.toNat)) = [(0, [0], [0, 1], 2 ^ 40)] ∧ (s.strand 0).pc = 0x2000000#64 ∧ (s.strand 0).g = 2 ∧ ((s.strand 0).getX 8).w = 9#64) := by decide +kernel

theorem witness_NewGroups : let s := unplaced
    let q := { gang0 with profiles := 1, created := 0, scratch := 2, arg := 9 }
    s.gangs = [] ++ (0, q) :: [] ∧ q.resident = false ∧ q.created < q.groups ∧ q.prio ≤ 3 ∧ s.groups = [] ∧ s.eligible q.need 0 = true ∧
    ((List.range 1024).all fun j => j == 0 || !s.eligible q.need j || coreRank q.origin 0 < coreRank q.origin j) = true := by decide +kernel

/-- The group of a migrating gang, strand 0 with vector state. -/
def leaving : State := { app (fun t => { t with v := [(1, { bits := 7 }), (2, { bits := 8 })], vdirty := 2, vl := 5, fcsr := 3 }) with
  dies := die0
  groups := [(0, { grp0 with phase := .migrating, grant := [3] })]
  gangs := [(0, { gang0 with migratable := true })] }

theorem test_migration : (let s := out (exec (.migration 0) leaving)
    let t := out (exec (.placement none) s)
    (s.groups.map fun p => (p.2.phase, p.2.saved.map fun t => (t.vl, t.v.length, (Sparse.get {} t.v 1).bits))) = [(.waiting, [(5, 1, 7)])] ∧ (s.strand 0).phase = .free ∧
    (t.groups.map fun p => (p.2.phase, p.2.core, p.2.sids)) = [(.placed, 0, [0])] ∧ (t.strand 0).fcsr = 3#64 ∧ (t.strand 0).pc = (app id).me.pc) := by decide +kernel

theorem witness_Migrations : let s := leaving
    let g : Group := { grp0 with phase := .migrating, grant := [3] }
    s.group? 0 = some g ∧ s.frozen 0 = false ∧ s.migrationWaits 0 g = false ∧ Mem.wf s.mem = true ∧ g.mcsRuns = false ∧ s.submits = [] ∧ (s.strand 0).conv = none := by decide +kernel

theorem witness_MovedGroups : let s := out (exec (.migration 0) leaving)
    let q := { gang0 with migratable := true }
    (match s.groups with
      | [(0, g)] => decide (g.phase = .waiting ∧ s.gang? g.gang = some q ∧ s.eligible (g.need q) 0 = true ∧
          ((List.range 1024).all fun j => j == 0 || !s.eligible (g.need q) j || coreRank g.migSrc 0 < coreRank g.migSrc j) = true ∧ g.saved.length = 1 ∧ g.savedMx = none)
      | _ => false) = true ∧ q.prio ≤ 3 ∧ (∀ x ∈ s.gangs, x.2.groups ≤ x.2.created) := by decide +kernel

/-- A copy's access to a window waits. -/
def xwaits (s : State) (ag : Agent) (a : Nat) : Bool :=
  match (s.xlate ag Want.engineDst a).2 with
  | .error .wait => true
  | _ => false

/-- A copy that is resumed while its group moves: its accesses to the window wait, and the move does not wait for it (R73); the group's own draining copies go on. -/
theorem test_resumed_copy : (let o : CopyOp := { num := 1, kind := .copy, src := 0, dests := [{ addr := 64 }], len := 64, cls := 1, asid := 0, sup := false, core := some 0, sid := some 0, group := some 0 }
    let g : Group := { grp0 with phase := .migrating, grant := [3], window := BitVec.ofNat 64 (2 ^ 40) }
    let s := (({ leaving with groups := [(0, g)], booted := true } : State)).setCopyCtx 3 { stopped := true, ops := [o] }
    let t := out (exec (.setContextState 0 0 3 true false) s)
    (t.copyCtx 3).ops.map (·.later) = [true] ∧ t.migrationWaits 0 g = false ∧ (s.setCopyCtx 3 { ops := [o] }).migrationWaits 0 g = true ∧
    xwaits t (({ o with later := true } : CopyOp).agent 3) (2 ^ 40) = true ∧ xwaits t (o.agent 3) (2 ^ 40) = false ∧
    (t.mapCopies fun o => { o with later := false }).copyCtx 3 = { ops := [o] }) := by decide +kernel

/-- A gang with a matrix entry, its only group to create. -/
def unplacedM1 : State := { unplaced with gangs := [(0, { gang0 with profiles := 3, created := 0, mentry := some 0x3000000#64, arg := 9 })] }

/-- The matrix control strand starts with its group on a Loam core (R56). -/
theorem test_matrix_start : let s := out (exec (.placement none) unplacedM1)
    (s.groups.map fun p => (p.2.core, p.2.mcsRuns)) = [(0, true)] ∧ (s.strand 8).pc = 0x3000000#64 ∧ ((s.strand 8).getX 8).w = 9#64 ∧ (s.strand 8).g = 0 ∧ (s.strand 8).idx = 8 := by decide +kernel

theorem witness_NewGroupsM1 : let q := { gang0 with profiles := 3, created := 0, mentry := some 0x3000000#64, arg := 9 }
    q.mentry = some 0x3000000#64 ∧ isLoam 0 = true ∧ unplacedM1.eligible q.need 0 = true ∧ ((List.range 1024).all fun j => j == 0 || !unplacedM1.eligible q.need j || coreRank q.origin 0 < coreRank q.origin j) = true := by decide +kernel

/-- A convoy of strand 16, on core 1, whose second member has found an element in unit 3 of core 0's scratchpad. -/
def reaching : State :=
  let p : Probe := { id := 0, va := 2 ^ 40, ps := [{ off := 0, len := 32, va := 2 ^ 40, tr := { fa := 2 ^ 58 + 3 * 2 ^ 15 } }] }
  let k : Conv := { addr := 0, hdr := { kind := 0, count := 1, units := 0, lc := 0, back := 0 }, konst := 0, words := [0, 0], strips := 1, issued := 1, probes := [(0, []), (1, [p])]
                    hist := { v := [], m := [], sc := [], blk := { vl := 1, ew := 2, rm := 0, g := 2 } } }
  leaving.setStrand 16 { leaving.strand 0 with conv := some k, group := none, sup := true }

theorem test_probes_afresh : ((out (exec (.migration 0) reaching)).strand 16).conv.map (fun c => (c.late, c.probes.map (·.2))) = some ([1], [[]]) := by decide +kernel

theorem witness_MigrationsReach : let s := reaching
    let g : Group := { grp0 with phase := .migrating, grant := [3] }
    s.group? 0 = some g ∧ s.frozen 0 = false ∧ s.migrationWaits 0 g = false ∧ Mem.wf s.mem = true ∧ ((s.strand 16).conv.map fun c => (decide (c.probes.map (·.1)).Nodup, c.slot, c.pend)) = some (true, 0, .none) ∧
    (2 ^ 58 + 3 * 2 ^ 15) / 2 ^ 32 = 2 ^ 26 + g.core ∧ (2 ^ 58 + 3 * 2 ^ 15) % 2 ^ 32 / 2 ^ 15 = 3 ∧ g.core < 1024 ∧ g.sids.length ≤ 8 ∧ g.grant.length ≤ 512 ∧ (∀ sid ∈ g.sids, (s.strand sid).n2 ≤ 6) ∧
    (g.sids.map fun sid => (s.strand sid).g).sum ≤ 32 := by decide +kernel

/-- The record's header and a strand's first words (R74, R75): profile word, unit and register counts, and the cost of one unit and one register. -/
theorem test_record : let s := out (exec (.migration 0) leaving)
    let w := fun (o : Nat) => s.home (migAddrOf o) 64
    (w 0, w 448, w 384) = (0x10 + 2 * 2 ^ 11 + 5 * 2 ^ 17, 1 + 2 ^ 10, 2400 + 16 + 900) ∧ (w (512 + 64 * 31), w (512 + 64 * 32), w (512 + 64 * 33)) = (2 ^ 25, 3, 5) := by decide +kernel

/-! ### The matrix engine at work -/

/-- A core whose matrix state has those operations. -/
def gangWith (m : Matrix → Matrix) (l : List MxOp) : State := (bx []).modMx 0 fun x => { m x with issue := l.length, ops := l }

/-- The spec's worked bound (R237): 256 × 256 at P = 4, 1.5, −0.5 and 1.0 in segment 0 of A with magnitudes 12, 4 and 8, and 2^−5 in segment 4; 0.75, 1.0, −0.25 in column 0 of B, and 1.0 in segment 4. -/
def bound : State := gangWith (fun m => { m with
  mcfg := 2
  bmat := 0x3F40 + 0x3F80 * 2 ^ (16 * 256) + 0xBE80 * 2 ^ (16 * 512) + 0x3F80 * 2 ^ (16 * 256 * 128)
  slots := [(0, { full := true, planes := 4, bits := 12 + (4 + 2 ^ 16) * 2 ^ 17 + 8 * 2 ^ 34 + 8 * 2 ^ (17 * 128) + 127 * 2 ^ 17408 + 122 * 2 ^ (17408 + 32) })] })
  [{ num := 1, kind := .row 0 0 (some false) }]

/-- The table of that example: S and R as f32 at planes 3, 2 and 1 to come, settled positive at 1 and not before; the trace's vNaN is 0x7FA30000. -/
theorem test_bound : (let m := (bound.core 0).mx
    let q := m.slot 0
    let S := fun p => match boundS m q 0 0 p 0 with | .fin x => x | _ => { n := 7 }
    let R := fun p => (finite? (boundR m q 0 0 p)).getD { n := 7 }
    let V := fun p => verdict (S p) (R p) ((boundE m 0 (S p) (R p)).getD { n := 1 }) none
    (S 3).eq { n := 1, d := 2 } = true ∧ (S 2).eq { n := 3, d := 8 } = true ∧ (S 1).eq { n := 3, d := 8 } = true ∧ (R 3).eq { n := 29, d := 16 } = true ∧ (R 2).eq { n := 13, d := 16 } = true ∧
    (R 1).eq { n := 5, d := 16 } = true ∧ V 3 = none ∧ V 2 = none ∧ V 1 = some false ∧ vNan false 3 0 = 0x7FA30000 ∧ maySettle m q 0 0 false = true) := by decide +kernel

/-- An mma at one plane, 1024 × 64, in its last stage, every output but the first settled: 1.0 × 2.0 in segment 28 is added to it. -/
def smallRow : State := gangWith (fun m => { m with
  mcfg := 4
  bmat := 0x4000 * 2 ^ (16 * 64 * 896)
  slots := [(0, { full := true, planes := 1, bits := 2 ^ (17 * 896) + 127 * 2 ^ (17408 + 8 * 28) })] })
  [{ num := 1, kind := .row 3 0 none, entered := true, stage := 7, vals := 0x3F800000, settled := 2 ^ 64 - 2 }]

theorem test_row : (let s := out (exec (.checkPoint 0 1) smallRow)
    let t := out (exec (.rowLeavesStage 0 1) s)
    let u := out (exec (.accumulatorRowWrite 0 1) t)
    ((s.core 0).mx.op 1).map (·.plane) = some 1 ∧ (t.core 0).mx.slot 0 = {} ∧ (u.core 0).mx.tlm = 1 ∧ ((u.core 0).mx.row 3).get 0 = 0x40400000 ∧ ((u.core 0).mx.row 3).get 1 = 0) := by decide +kernel

/-- The monitor of an mvrd on the same row settles the last output after a plane that is not the last, and the row leaves. -/
theorem test_monitored_row : (let m := (smallRow.core 0).mx
    let s := smallRow.modMx 0 fun x => { x with slots := [(0, { m.slot 0 with planes := 4, bits := 2 ^ (17 * 896 + 3) + 127 * 2 ^ (17408 + 8 * 28) })], ops := x.ops.map fun o => { o with kind := .row 3 0 (some false) } }
    let t := out (exec (.checkPoint 0 1) s)
    ((t.core 0).mx.op 1).map (fun o => (o.left, o.settled, o.vals)) = some (true, 2 ^ 64 - 1, vNan false 1 28) ∧ (t.core 0).mx.slot 0 = {} ∧ (Sparse.get [] (t.core 0).mx.trace 3).length = 1) := by decide +kernel

theorem witness_RowsRun : let o : MxOp := { num := 1, kind := .row 3 0 none }
    let m := (smallRow.core 0).mx
    let e := (m.op 1).getD o
    let s := gangWith (fun m => { m with slots := [(0, { full := true, planes := 1 })] }) [o]
    let left := (((out (exec (.rowLeavesStage 0 1) (out (exec (.checkPoint 0 1) smallRow)))).core 0).mx.op 1).getD o
    smallRow.frozen 0 = false ∧ (m.op 1).isSome = true ∧ e.left = false ∧ e.plane < (m.slot 0).planes ∧ e.entered = true ∧ (s.core 0).mx.op 1 = some o ∧ (s.core 0).mx.mayEnter 1 3 = true ∧
    o.entered = false ∧ o.plane < ((s.core 0).mx.slot 0).planes ∧ (m.slot 0).planes ≤ ({ e with plane := 1 } : MxOp).plane ∧ m.before 1 = [] ∧ left.left = true := by decide +kernel

/-- A load of one bf16 row of N = 1024, the rest of the macro zero; a clear; a store. -/
theorem test_engine_moves : (let s := (gangWith (fun m => { m with mcfg := 0, acc := [(3, { bits := 7 })] }) [{ num := 1, kind := .mldb [some (2 ^ 22), none] 0 16 0 [(2 ^ 7, 2 ^ 22)] }]).homeWrite (2 ^ 22) 16 0x3F80
    let t := out (exec (.mldbComplete 0 1) s)
    (t.core 0).mx.bmat = 0x3F80 ∧ (t.core 0).mx.tlm = 1) ∧
    (let t := out (exec (.mclrComplete 0 1) (gangWith (fun m => { m with acc := [(3, { bits := 7 }), (4, { bits := 9 })], th := [(3, 5)] }) [{ num := 1, kind := .mclr 3 1 3 }]))
     (t.core 0).mx.row 3 = {} ∧ ((t.core 0).mx.row 4).bits = 9 ∧ (t.core 0).mx.thr 3 = 0xFF800000) ∧
    (let t := out (exec (.mstcComplete 0 1) (gangWith (fun m => { m with mcfg := 4, acc := [(3, { bits := 0x3F800000 })] }) [{ num := 1, kind := .mstc 3 1 true [2 ^ 22] 0 [(2 ^ 7, 2 ^ 22)] }]))
     readBack t (2 ^ 22) 32 = (0x3F80, false) ∧ (t.core 0).mx.tlm = 1) := by decide +kernel

theorem witness_MovesRun : let s := gangWith id [{ num := 1, kind := .mldb [some (2 ^ 22), none] 0 16 0 [(2 ^ 7, 2 ^ 22)] }]
    s.frozen 0 = false ∧ ((s.core 0).mx.op 1).isSome = true ∧ (s.core 0).mx.before 1 = [] ∧
    ((s.readRows (s.agentOf (mcsOf 0)) 0 0 16 (s.core 0).mx.N [(2 ^ 7, 2 ^ 22)] [some (2 ^ 22), none]).2.all fun x => decide (x.1 < 2 ^ (16 * (s.core 0).mx.N))) = true ∧
    (∀ c ∈ List.range 8, (f32.convert bf16 0 ((s.core 0).mx.row 3 |>.get c)).1 < 2 ^ 16) := by decide +kernel

/-- The matrix control strand waits for slot 2, which is full. -/
def claiming (i : Instr) (m : Matrix → Matrix) : State := mcs (waiting i 0) m

theorem test_claim_and_trace : (let s := out (exec (.rowClaim 0) (claiming (.mma 3 5 2) fullSlot)); (s.me.getX 3).w = 1#64 ∧ s.me.wait = none ∧ (s.mx.slot 2).claimed = true) ∧
    (out (exec (.rowClaim 0) (claiming (.mma 3 5 2) id))).me.wait.isSome = true ∧ (out (exec (.monitorTrace 0 3) (bx []))).views = [{ what := "trace", words := [] }] := by decide +kernel

theorem witness_ClaimsAndTraces : let s := claiming (.mma 3 5 2) fullSlot
    s.canIssue 8 = true ∧ s.me.wait = some { instr := .mma 3 5 2, since := 0 } ∧ s.fate 8 .m1 = .runs ∧ (s.mx.slot 2).full = true ∧ (s.mx.slot 2).claimed = false ∧ s.mx.queuedRows < 4 ∧
    s.mx.open.length < 16 ∧ Sparse.get [] s.mx.trace 5 = [] ∧
    (let e : TraceEnt := { stage := 1, p := 2, thr := 3, cols := [(some (.fin (-5) (-3), 0x3F800000), 0)] }
     let t := (bx []).modMx 0 fun m => { m with trace := [(5, [e])] }
     Sparse.get [] (t.core 0).mx.trace 5 = [e] ∧ (out (exec (.monitorTrace 0 5) t)).views.map (·.words) = [[1, 2, 3, 1, 0, 1, 5, 2 ^ 64 - 3, 0x3F800000, 0]]) := by decide +kernel

theorem witness_StageSums : let m := (bound.core 0).mx
    let q := m.slot 0
    let z : Slot := { q with scaled := true, bits := q.bits % 2 ^ 17536 + 0x7F800000 * 2 ^ 17536 }
    q.nan 0 = false ∧ nanSeg (m.bSeg 0 0) = false ∧ dotSeg m q 0 0 0 ≠ 0 ∧ dotSeg m q 1 0 0 = 0 ∧ (match f32.val (q.scale 0) with
     | .fin x => x.eq { n := 1 }
     | _ => false) = true ∧ z.nan 0 = false ∧ f32.val (z.scale 0) = .inf false ∧
    ({ q with bits := q.bits % 2 ^ 17408 + 255 * 2 ^ 17408 } : Slot).nan 0 = true ∧ stageSum m q 0 0 0 = 0x3EC00000 := by decide +kernel

theorem witness_MonitorTests : let m := (bound.core 0).mx
    let q := m.slot 0
    let o : MxOp := { num := 1, kind := .row 0 0 (some false), entered := true, plane := 3, settled := 2 ^ 256 - 2 }
    let z : Slot := { q with scaled := true, bits := q.bits % 2 ^ 17536 + 0x7F800000 * 2 ^ 17536 }
    let fin := fun (v : FVal) => match v with
      | .fin _ => true
      | _ => false
    (0 : Nat) < m.N ∧ o.settled.testBit 0 = false ∧ o.pois = 0 ∧ f32.isNan 0 = false ∧ ((List.range m.segs).all fun i => !q.nan i && !nanSeg (m.bSeg i 0)) = true ∧ fin (boundS m q 0 0 1 0) = true ∧ fin (f32.val (boundR m q 0 0 1)) = true ∧
    boundS m z 0 0 1 0 = .inf false ∧ fin (f32.val 0) = true ∧ (∀ k ∈ List.range 4, fin (f32.val (q.scale k)) = true) ∧ q.scaled = false ∧ ({ o with settled := 1 } : MxOp).settled.testBit 0 = true ∧
    ((monitor m q o none).1.settled.testBit 0, (monitor m q o none).1.vals % 2 ^ 32) = (true, vNan false 3 0) ∧ (monitor m q { o with plane := 2 } none).1.settled.testBit 0 = false := by decide +kernel

/-! ### Copy engines and RRED updates -/

/-- Context 3 of die 0, out of reset, with those operations. -/
def engine (l : List CopyOp) : State := ({ bx [] with dies := [] } : State).setCopyCtx 3 { issue := l.length, ops := l }

/-- A copy of 64 bits from 2^22 to 2^23, with completion word 77 at 2^24. -/
def copyOp (comp : Option Word) : CopyOp :=
  { num := 1, kind := .copy, src := BitVec.ofNat 64 (2 ^ 22), dests := [{ addr := BitVec.ofNat 64 (2 ^ 23), comp := comp }], len := 64, cls := 0, asid := 0, sup := true, core := some 0, cv := 77, started := true }

theorem test_copy : (let s := out (exec (.copyOperationEnd 0 3) ((engine [copyOp (some (BitVec.ofNat 64 (2 ^ 24)))]).homeWrite (2 ^ 22) 64 5))
    s.home (2 ^ 23) 64 = 5 ∧ s.home (2 ^ 24) 64 = 77 ∧ (s.copyCtx 3).timeline = 1 ∧ (s.copyCtx 3).ops = []) ∧
    ((out (exec (.copyOperationStart 0 3) (engine [{ copyOp none with started := false }]))).copyCtx 3).ops.map (·.started) = [true] := by decide +kernel

theorem test_multicast : (let o := { copyOp none with kind := .mc, dests := [{ addr := BitVec.ofNat 64 (2 ^ 23) }, { addr := BitVec.ofNat 64 (2 ^ 30) }] }
    let s := out (exec (.copyMcDestinationComplete 0 3 0) ((engine [o]).homeWrite (2 ^ 22) 64 5))
    let t := out (exec (.copyMcDestinationComplete 0 3 1) s)
    let u := out (exec (.copyOperationEnd 0 3) t)
    s.home (2 ^ 23) 64 = 5 ∧ (t.copyCtx 3).err = 2 + 5 * 2 ^ 16 + 2 ^ 32 ∧ (t.copyCtx 3).ops.map (fun o => o.dests.map fun d => (d.done, d.failed)) = [[(true, false), (false, true)]] ∧
    (u.copyCtx 3).timeline = 1 ∧ (u.copyCtx 3).failed = [1]) := by decide +kernel

theorem test_copy_fault : (let s := out (exec (.copyFaultStop 0 3) (engine [{ copyOp none with dests := [{ addr := BitVec.ofNat 64 (2 ^ 30) }] }]))
    (s.copyCtx 3).err = 1 + 5 * 2 ^ 16 + 2 ^ 32 ∧ (s.copyCtx 3).timeline = 1 ∧ (s.copyCtx 3).stopped = false ∧ (s.copyCtx 3).failed = [1]) := by decide +kernel

/-- A fault on host memory, whose region is pinned, stops the context: it may be resumed (R200). -/
theorem test_copy_stops : (let s := { (hostRange []) with dies := [], owners := [((2 ^ 64 + 2 ^ 30) / 2 ^ 24, .pinned)] }
    let t := out (exec (.copyFaultStop 0 3) (s.setCopyCtx 3 { issue := 1, ops := [{ copyOp none with dests := [{ addr := BitVec.ofNat 64 (2 ^ 41) }] }] }))
    (t.copyCtx 3).stopped = true ∧ (t.copyCtx 3).err = 7 * 2 ^ 16 + 2 ^ 24 + 2 ^ 32 ∧ (t.copyCtx 3).timeline = 0 ∧ (t.copyCtx 3).ops.length = 1) := by decide +kernel

theorem test_persist : (let o := { copyOp none with kind := .persist, dests := [], started := true }
    ((out (exec (.copyOperationEnd 0 3) (engine [o]))).copyCtx 3).timeline = 1 ∧ ((out (exec (.persistenceFlushAck 0 3) (engine [o]))).copyCtx 3).ops.map (·.acked) = [true]) := by decide +kernel

theorem witness_CopyEngines : let o := copyOp (some (BitVec.ofNat 64 (2 ^ 24)))
    let s := engine [o]
    let h : State := { hostRange [] with dies := [] }
    let bad := { copyOp none with dests := [{ addr := BitVec.ofNat 64 (2 ^ 30) }] }
    let mc := { copyOp none with kind := .mc, dests := [{ addr := BitVec.ofNat 64 (2 ^ 23) }, { addr := BitVec.ofNat 64 (2 ^ 30) }] }
    let clear := fun (r : State × RunChk) => match r.2 with
      | .clear => (0, 0, 0)
      | .fault k c v => (k + 1, c, v)
      | .wait k => (0, k + 1, 1)
    (s.copyCtx 3).ops = o :: [] ∧ (s.copyCtx 3).stopped = false ∧ (s.die 0).inReset = false ∧ o.started = true ∧ clear (s.copyCheck (o.agent 3) o true (some (BitVec.ofNat 64 (2 ^ 23))) (o.chunks 0)) = (0, 0, 0) ∧
    s.compWaits (o.agent 3) (some (BitVec.ofNat 64 (2 ^ 24))) = false ∧ (s.check (o.agent 3) { Want.store with far := true, noHost := true } (2 ^ 24) 64).2 = .ok (part (2 ^ 24) 64) ∧
    (s.check (o.agent 3) { Want.store with far := true, noHost := true } (2 ^ 30) 64).2 = .trap 5 (2 ^ 30) ∧ clear (s.movePayload (o.agent 3) o (BitVec.ofNat 64 (2 ^ 23)) (o.chunks 0)) = (0, 0, 0) ∧
    clear (h.movePayload (o.agent 3) o (BitVec.ofNat 64 (2 ^ 41)) (o.chunks 0)) = (0, 1, 1) ∧ clear (s.movePayload (o.agent 3) o (BitVec.ofNat 64 (2 ^ 30)) (o.chunks 0)) = (1, 5, 2 ^ 30) ∧
    ({ mc with dests := mc.dests.map fun d => { d with failed := true } } : CopyOp).dests.all (fun d => d.done || d.failed) = true ∧
    (match (s.persistRange (o.agent 3) o).2 with
      | .ok ps => ps.all fun p => p.tr.il != 5
      | _ => false) = true ∧
    clear (s.copyCheck (o.agent 3) mc true none (mc.chunks 0)) = (0, 0, 0) ∧ mc.dests[0]? = some { addr := BitVec.ofNat 64 (2 ^ 23) } ∧
    clear (s.copyCheck (o.agent 3) mc false (some (BitVec.ofNat 64 (2 ^ 23))) (mc.chunks 0)) = (0, 0, 0) ∧ (clear (s.copyCheck (o.agent 3) mc false (some (BitVec.ofNat 64 (2 ^ 30))) (mc.chunks 0))) = (1, 5, 2 ^ 30) ∧
    (clear (s.copyCheck (o.agent 3) bad true (some (BitVec.ofNat 64 (2 ^ 30))) (bad.chunks 0))) = (1, 5, 2 ^ 30) ∧ s.hostHomed (o.agent 3) (2 ^ 30) = false ∧ (hostRange []).hostHomed (o.agent 3) (2 ^ 41) = true := by decide +kernel

/-- A packet that adds 1.0 to the word at 2^22. -/
def packet1 : RPacket := { mid := 0, sid := some 0, sender := 0, unit := 1, vl := 1, mask := 1, payload := [0x3F800000], elems := [{ dst := 2 ^ 22, m := 1, e := 0, sp := 0, p := false }] }

theorem test_rred_update : (let s := out (exec (.rredUpdate 0) (({ bx [] with packets := [packet1] } : State).homeWrite (2 ^ 22) 32 0x40000000))
    s.home (2 ^ 22) 32 = 0x40400000 ∧ s.packets = [] ∧ (s.core 0).logK.map (·.after) = [[0x40400000]] ∧ (s.core 0).logS = []) ∧
    (let far := { packet1 with unit := 2 ^ 20 + peerOf (2 ^ 59), elems := [{ dst := 2 ^ 59, m := 1, e := 0, sp := 0, p := false }] }
     (out (exec (.rredUpdate 0) { bx [] with packets := [far], peersDown := [peerOf (2 ^ 59)] })).mem = (bx []).mem) := by decide +kernel

theorem witness_RredUpdates : let s := { bx [] with packets := [packet1] }
    s.packets[0]? = some packet1 ∧ (∀ q ∈ s.packets.take 0, packet1.follows q = false) ∧ packet1.follows packet1 = false ∧ ({ packet1 with mid := 2 } : RPacket).follows packet1 = true ∧ s.peersDown = [] ∧ packet1.elems.length = 1 ∧ 2 ^ 22 % 32 = 0 ∧ Mem.wf s.mem = true ∧
    packet1.unit < 2 ^ 20 ∧ packet1.unit % 2 = 1 ∧ spaceOfPhys (2 ^ 59) = 2 ∧ hasNat [peerOf (2 ^ 59)] (peerOf (2 ^ 59)) = true := by decide +kernel

/-- A multicast whose source faults: each destination not done has its bit, and the timeline takes its number; a pinned host region stops it (R200, R201). -/
theorem test_source_fault : (let o := { copyOp none with kind := .mc, src := BitVec.ofNat 64 (2 ^ 30), dests := [{ addr := BitVec.ofNat 64 (2 ^ 23), done := true }, { addr := BitVec.ofNat 64 (2 ^ 24) }] }
    let t := out (exec (.copyFaultStop 0 3) (engine [o]))
    (t.copyCtx 3).err = 2 + 5 * 2 ^ 16 + 2 ^ 32 ∧ (t.copyCtx 3).timeline = 1 ∧ (t.copyCtx 3).failed = [1]) ∧
    (let s := { (hostRange []) with dies := [], owners := [((2 ^ 64 + 2 ^ 30) / 2 ^ 24, .pinned)] }
     let t := out (exec (.copyFaultStop 0 3) (s.setCopyCtx 3 { issue := 1, ops := [{ copyOp none with kind := .mc, src := BitVec.ofNat 64 (2 ^ 41) }] }))
     (t.copyCtx 3).stopped = true ∧ (t.copyCtx 3).err = 7 * 2 ^ 16 + 2 ^ 24 + 2 ^ 32 ∧ (t.copyCtx 3).ops.length = 1) := by decide +kernel

/-- A destination's completion word, after its payload; one that cannot be written fails it (R201, R225). -/
theorem test_multicast_words : (let o := fun (a : Nat) => { copyOp none with kind := .mc, dests := [{ addr := BitVec.ofNat 64 (2 ^ 23), comp := some (BitVec.ofNat 64 a) }] }
    let t := fun (a : Nat) => out (exec (.copyMcDestinationComplete 0 3 0) ((engine [o a]).homeWrite (2 ^ 22) 64 5))
    (t (2 ^ 24)).home (2 ^ 23) 64 = 5 ∧ (t (2 ^ 24)).home (2 ^ 24) 64 = 77 ∧ ((t (2 ^ 24)).copyCtx 3).err = 0 ∧ ((t (2 ^ 30)).copyCtx 3).err = 1 + 5 * 2 ^ 16 + 2 ^ 32) := by decide +kernel

theorem witness_Payloads : let o := copyOp none
    let s := engine [o]
    let mc := { o with kind := .mc }
    let far := { o with kind := .mc, src := BitVec.ofNat 64 (2 ^ 30) }
    let g := State.gather (o.agent 3) (mc.chunks 0) (s.homeWrite (2 ^ 22) 64 5, mc)
    o.rows = 1 ∧ s.peersDown = [] ∧ o.lost = [] ∧ Mem.wf s.mem = true ∧ (s.core 0).lines = [] ∧ (s.check (o.agent 3) Want.engineSrc (2 ^ 22) 64).2 = .ok (part (2 ^ 22) 64) ∧
    (s.check (o.agent 3) Want.engineDst (2 ^ 23) 64).2 = .ok (part (2 ^ 23) 64) ∧ o.got = 0 ∧ o.bits = 0 ∧ (g.1.2.got, g.1.2.bits) = (64, 5) ∧ g.2 = .clear ∧
    (s.check (o.agent 3) { Want.store with far := true, noHost := true } (2 ^ 24) 64).2 = .ok (part (2 ^ 24) 64) ∧ (s.check (o.agent 3) { Want.store with far := true, noHost := true } (2 ^ 30) 64).2 = .trap 5 (2 ^ 30) ∧
    (State.gather (o.agent 3) (far.chunks 0) (s, far)).2 = .fault 0 5 (2 ^ 30) ∧ far.chunksTo 0 0 = [] ∧ s.hostHomed (o.agent 3) (2 ^ 30) = false := by decide +kernel

/-! ### Streams, the host interface, ownership, lines -/

/-- Stream 1 of die 0 with its control block at 2^22, its ring of two records at 2^23, and that record first. -/
def stream1 : Stream := { ctl := BitVec.ofNat 64 (2 ^ 22), asid := 0, fn := 0 }
def streaming (x : Stream) (op a b w1 w2 w3 : Nat) : State :=
  let s := word (2 ^ 22 + 64) 1 (word (2 ^ 22) (2 ^ 23) ({ bx [] with dies := [(0, { streams := [(1, x)] })], booted := true } : State))
  word (2 ^ 23 + 192) w3 (word (2 ^ 23 + 128) w2 (word (2 ^ 23 + 64) w1 (word (2 ^ 23) (op + 2 ^ 8 + a * 2 ^ 16 + b * 2 ^ 24) s)))

/-- Its command in progress. -/
def cmdOf (s : State) : Option SCmd := (s.stream? 0 1).bind (·.cmd)

theorem test_streams_begin : (let s := out (exec (.streamLaunch 0 1) (streaming stream1 1 0 0 (2 ^ 24) 0 0)); s.submits.map (·.block.toNat) = [2 ^ 24] ∧ (cmdOf s).isSome = true) ∧
    (let s := out (exec (.streamCopy 0 1) (streaming stream1 2 3 1 (2 ^ 24) (2 ^ 25) 64)); (s.copyCtx 3).ops.map (·.num) = [1] ∧ (cmdOf s).map (·.num) = some 1) ∧
    (cmdOf (out (exec (.streamWaitv 0 1) (streaming stream1 3 1 0 (2 ^ 24) 7 9)))).map (·.w3) = some 9#64 ∧
    (let s := out (exec (.streamSigv 0 1) (streaming stream1 4 0 0 (2 ^ 24) 7 0)); s.home (2 ^ 24) 64 = 7 ∧ s.home (2 ^ 22 + 192) 64 = 1 ∧ cmdOf s = none) ∧
    (cmdOf (out (exec (.streamTrigwait 0 1) (streaming { stream1 with accepted := [4] } 5 0 0 0 0 0)))).isSome = true ∧
    (out (exec (.streamTrigwait 0 1) (streaming stream1 5 0 0 0 0 0))).home (2 ^ 22 + 256) 64 = 1 + 2 ^ 8 ∧ (out (exec (.streamSigv 0 1) (streaming stream1 6 0 0 0 0 0))).home (2 ^ 22 + 256) 64 = 1 + 2 ^ 8 := by decide +kernel

/-- A stream whose command is that, with the answer of its launch, or its wait. -/
def mid (op a w1 w2 w3 num : Nat) : State :=
  streaming { stream1 with
    cmd := some { op := op, a := a, w1 := BitVec.ofNat 64 w1, w2 := BitVec.ofNat 64 w2, w3 := BitVec.ofNat 64 w3, num := num }
    accepted := [0] } op a 0 w1 w2 w3
def launchAnswered (code : Nat) : State :=
  { mid 1 0 (2 ^ 24) 0 0 0 with submits := [{ die := 0, fromSid := none, stream := 1, block := 0, status := some code, gang := some 7 }] }

theorem test_streams_end : (let s := out (exec (.streamCommandComplete 0 1) (launchAnswered 0)); s.home (2 ^ 22 + 192) 64 = 1 ∧ (s.stream? 0 1).map (·.accepted) = some [7, 0] ∧ s.submits = []) ∧
    (out (exec (.streamCommandComplete 0 1) (launchAnswered 3))).home (2 ^ 22 + 256) 64 = 1 + 2 * 2 ^ 8 + 3 * 2 ^ 16 ∧
    (out (exec (.streamCommandComplete 0 1) ((mid 2 3 0 0 0 1).setCopyCtx 3 { timeline := 1 }))).home (2 ^ 22 + 192) 64 = 1 ∧
    (out (exec (.streamCommandComplete 0 1) ((mid 2 3 0 0 0 1).setCopyCtx 3 { timeline := 1, failed := [1] }))).home (2 ^ 22 + 256) 64 = 1 + 4 * 2 ^ 8 ∧
    (out (exec (.streamCommandComplete 0 1) (word (2 ^ 24) 7 (mid 3 1 (2 ^ 24) 7 0 0)))).home (2 ^ 22 + 192) 64 = 1 ∧
    (out (exec (.streamCommandComplete 0 1) (word (2 ^ 24) 8 (mid 3 0 (2 ^ 24) 7 0 0)))).home (2 ^ 22 + 192) 64 = 1 ∧
    (cmdOf (out (exec (.streamCommandComplete 0 1) (word (2 ^ 24) 8 (mid 3 1 (2 ^ 24) 7 0 0))))).isSome = true ∧
    (out (exec (.streamCommandComplete 0 1) { mid 5 0 0 0 0 0 with gangs := [(0, gang0)] })).home (2 ^ 22 + 192) 64 = 1 ∧
    (out (exec (.streamWaitvTimeout 0 1) { mid 3 1 (2 ^ 24) 7 9 0 with now := 9 })).home (2 ^ 22 + 256) 64 = 1 + 3 * 2 ^ 8 ∧
    (cmdOf (out (exec (.streamWaitvTimeout 0 1) { mid 3 1 (2 ^ 24) 7 9 0 with now := 8 }))).isSome = true := by decide +kernel

/-- What a read of the command processor gives. -/
def cpWord (s : State) (a w : Nat) : Nat := match (s.cpRead { core := 0, onCore := false, asid := 0, sup := false } a w).2 with
  | .ok v => v
  | _ => 2 ^ 520

theorem witness_Streams : let s := streaming { stream1 with accepted := [0] } 4 0 0 (2 ^ 24) 7 0
    let v := 2 ^ 23 + 2 ^ 64
    let cp : Agent := { core := 0, onCore := false, asid := 0, sup := false }
    (s.stream? 0 1).map (·.cmd) = some none ∧ (s.die 0).inReset = false ∧ (s.die 0).stopped = false ∧ cpWord s (2 ^ 22) 512 = v ∧ v / 2 ^ 256 % 4 = 0 ∧ v / 2 ^ 64 % 32 = 1 ∧ (recordOf (cpWord s (2 ^ 23) 256)).lap = 0 / 2 ^ 1 % 255 + 1 ∧
    (recordOf (cpWord s (2 ^ 23) 256)).ok 1 = true ∧ (recordOf (6 + 2 ^ 8)).ok 1 = false ∧ 5 < (recordOf (6 + 2 ^ 8)).op ∧ (s.check cp Want.store (2 ^ 24) 64).2 = .ok (part (2 ^ 24) 64) ∧
    (s.check cp Want.store (2 ^ 22 + 192) 64).2 = .ok (part (2 ^ 22 + 192) 64) ∧ (s.check cp Want.store (2 ^ 22 + 256) 64).2 = .ok (part (2 ^ 22 + 256) 64) ∧ (2 ^ 22) % 64 = 0 ∧
    (launchAnswered 0).submits.find? (fun u => u.fromSid == none && u.die == 0 && u.stream == 1) = some { die := 0, fromSid := none, stream := 1, block := 0, status := some 0, gang := some 7 } ∧
    ({ mid 5 0 0 0 0 0 with gangs := [(0, gang0)] } : State).gangTriggered 0 = true ∧ cpWord (mid 3 1 0 0 9 0) (2 ^ 22) 512 / 2 ^ 256 % 4 = 0 ∧ (9 : Nat) ≤ ({ mid 3 1 0 0 9 0 with now := 9 } : State).cmdCycles 0 { op := 3, a := 1, w1 := 0, w2 := 0, w3 := 9 } := by decide +kernel

/-- The status of the last command of function 0. -/
def status (s : State) (i : Instr) : Nat := ((Sparse.get [] (out (exec i s)).mailbox 0).head?).getD 99

theorem test_host_commands : (let s := { bx [] with booted := true }
    status (bx []) (.mapCopyContext 0 7 5 0 3) = 2 ∧ status s (.registerAddressSpace 0 7 (BitVec.ofNat 64 (2 ^ 20))) = 0 ∧ status s (.registerAddressSpace 0 4096 0) = 1 ∧
    status (app id) (.registerAddressSpace 0 0 (BitVec.ofNat 64 (2 ^ 20))) = 2 ∧ status s (.registerStream 0 0 1 (BitVec.ofNat 64 (2 ^ 22)) 0) = 0 ∧ (out (exec (.mapCopyContext 0 7 5 0 3) s)).ctxMap = [(128 * 7 + 5, 3)] ∧
    ((out (exec (.setContextState 0 0 3 true true) (s.setCopyCtx 3 { stopped := true, err := 2 ^ 24 + 5 * 2 ^ 16 + 1 }))).copyCtx 3).err = 0 ∧ status s (.setContextState 0 16 0 true true) = 1 ∧
    (out (exec (.enableOwnershipDomain 0 4) s)).domains = [4] ∧ (out (exec (.disableOwnershipDomain 0 4) { s with domains := [4] })).domains = [] ∧ status s (.enableOwnershipDomain 0 0) = 1 ∧
    (out (exec (.pinOwnershipRegion 0 1 (2 ^ 64)) s)).owner (2 ^ 40) = .pinned ∧ (out (exec (.unpinOwnershipRegion 0 1 (2 ^ 64)) { s with owners := [(2 ^ 40, .pinned)] })).owner (2 ^ 40) = .host ∧
    (out (exec (.pinOwnershipRegion 0 1 (2 ^ 64)) { s with owners := [(2 ^ 40, .dev)] })).transfers.map (·.pins) = [[0]]) := by decide +kernel

theorem test_stream_state : (let s := word (2 ^ 22 + 256) (1 + 2 ^ 8) (mid 3 1 0 7 0 0)
    let t := out (exec (.setStreamState 0 0 1 0) s)
    t.home (2 ^ 22 + 256) 64 = 2 ^ 8 ∧ cmdOf t = none ∧ status s (.setStreamState 0 0 1 0) = 0) := by decide +kernel

theorem witness_HostCommands : let s := { bx [] with booted := true }
    let p := { s with transfers := [{ region := 2 ^ 40, toDev := false, pins := [3], dom := 1 }] }
    let t := word (2 ^ 22 + 256) (1 + 2 ^ 8) (mid 3 1 0 7 0 0)
    s.hostBusy 0 = false ∧ s.spaceLocked 0 7 = false ∧ (app id).spaceInUse 0 = true ∧ s.spaceInUse 7 = false ∧ s.descOk (BitVec.ofNat 64 (2 ^ 20)) = true ∧ s.streamLocked 0 0 1 = false ∧ s.streamInUse 0 1 = false ∧
    ({ mid 3 1 0 7 0 0 with gangs := [(0, gang0)] } : State).streamInUse 0 1 = true ∧ s.ctxLocked 0 0 3 = false ∧ s.owner (2 ^ 40) ≠ .dev ∧ s.transferring (2 ^ 40) = false ∧
    ({ s with owners := [(2 ^ 40, .dev)] } : State).owner (2 ^ 40) = .dev ∧ ({ s with owners := [(2 ^ 40, .pinned)] } : State).owner (2 ^ 40) = .pinned ∧
    p.transferring (2 ^ 40) = true ∧ (out (exec (.pinOwnershipRegion 0 1 (2 ^ 64)) p)).transfers.map (·.pins) = [[3, 0]] ∧
    t.booted = true ∧ (t.stream? 0 1).isSome = true ∧ t.streamLocked 0 0 1 = false ∧ cpWord t (2 ^ 22) 512 / 2 ^ 256 % 4 = 1 ∧
    (t.check { core := 0, onCore := false, asid := 0, sup := false } Want.store (2 ^ 22 + 256) 64).2 = .ok (part (2 ^ 22 + 256) 64) := by decide +kernel

/-- A supervisor strand is to run the code object at 2^24 on core 1. -/
def supPlace : SupPlace := { fn := 0, core := 1, ctx := 2, asid := 0, desc := BitVec.ofNat 64 (2 ^ 24), arg := 9 }
def supState : State := word (2 ^ 24 + 128) 64 (word (2 ^ 24 + 64) (2 * 2 ^ 3) (word (2 ^ 24) (0x10 + 2 ^ 8) { bx [] with dies := [], booted := true }))

theorem test_supervisors : (let s := out (exec (.placeSupervisorStrand supPlace) supState)
    (s.strand 18).sup = true ∧ (s.strand 18).pc = BitVec.ofNat 64 (2 ^ 24 + 64) ∧ ((s.strand 18).getX 8).w = 9#64 ∧ (s.strand 18).share = 128 ∧ s.mailbox = [(0, [0])] ∧
    status s (.placeSupervisorStrand { supPlace with ctx := 3 }) = 2 ∧ ((out (exec (.removeSupervisorStrand 0 { core := 1, ctx := 2, asid := 0 }) s)).strand 18).phase = .free) := by decide +kernel

theorem witness_Supervisors : let s := supState
    s.hostBusy 0 = false ∧ s.booted = true ∧ coreBuilt 1 = true ∧ s.spaceLocked 0 0 = false ∧ (s.core 1).withdrawn = false ∧ (s.die 0).inReset = false ∧ (2 ^ 24) % 64 = 0 ∧
    ((descOf (match (s.cpRead { core := 0, onCore := false, asid := 0, sup := true } (2 ^ 24) 256).2 with
      | .ok v => v
      | _ => 0)).map fun d => (kindMatches (Config.isMarl 0) d.profiles d.minors, d.shares)) = some (true, 2) ∧ (s.strand 18).phase = .free ∧ s.supOf 1 = none ∧ 2 ≤ s.freeShares 1 ∧
    (∀ c ∈ coreSids 1, (s.strand c).hold = none) ∧ s.removals = [] ∧ s.supOf 0 = some 0 ∧ (∀ c ∈ coreSids 0, (s.strand c).hold = none) ∧ supPlace.desc.toNat % 64 = 0 ∧ supPlace.asid < 4096 ∧ (s.strand (sidOf 0 0)).asid = 0 := by decide +kernel

theorem test_tdisp : (out (exec (.tdispStateRequest 3 .locked) (bx []))).vfs = [(3, .locked)] ∧ (out (exec (.tdispStateRequest 3 .run) (bx []))).vfs = [] ∧
    (out (exec (.tdispStateRequest 3 .run) { bx [] with vfs := [(3, .locked)] })).vfs = [(3, .run)] ∧ (out (exec (.tdispErrorTransition 3) (bx []))).vfs = [(3, .error)] := by decide +kernel

/-- A transfer of region 2^40 toward the device. -/
def moving (dev : Bool) (pins : List Nat) : State := { bx [] with transfers := [{ region := 2 ^ 40, toDev := dev, pins := pins, dom := 1, joined := [0] }], domains := [1], now := 2 ^ 20 - 1 }

theorem test_transfers_end : (let s := out (exec (.ownershipTransferComplete (2 ^ 40)) (moving true [])); s.owner (2 ^ 40) = .dev ∧ s.transfers.map (·.flipped) = [true] ∧
      (out (exec (.ownershipTransferComplete (2 ^ 40)) { moving true [] with transfers := [{ region := 2 ^ 40, toDev := true, dom := 1 }] })).transfers = []) ∧ (out (exec (.ownershipTransferComplete (2 ^ 40)) { moving true [] with domains := [] })).transfers.map (·.failed) = [true] ∧
    (let s := out (exec (.ownershipTransferComplete (2 ^ 40)) (moving false [0])); s.owner (2 ^ 40) = .pinned ∧ s.mailbox = [(0, [0])]) ∧
    (let late := { moving true [] with now := 2 ^ 20 }
     (out (exec (.ownershipTransferTimeout (2 ^ 40)) late)).transfers.map (·.failed) = [true] ∧ (out (exec (.ownershipTransferComplete (2 ^ 40)) late)).transfers.map (·.failed) = [true]) ∧
    (out (exec (.ownershipTransferTimeout (2 ^ 40)) (moving true []))).transfers.map (·.failed) = [false] := by decide +kernel

theorem test_host_accesses : (let s := (app id).homeWrite (2 ^ 22) 32 0x04030201
    (out (exec (.hostRead (2 ^ 19 + 1) 2) s)).views.map (·.words) = [[0x0302, 0]] ∧ (out (exec (.hostWrite (2 ^ 19 + 1) 2 0xAABB) (s.placeTag linkTag (2 ^ 13) 0))).home (2 ^ 22) 32 = 0x04AABB01 ∧
    (out (exec (.hostWrite (2 ^ 19 + 1) 2 0xAABB) (s.placeTag linkTag (2 ^ 13) 0))).tags = [] ∧ (out (exec (.hostrd 0 (2 ^ 19 + 1) 2) s)).views.map (·.words) = [[0x0302, 0]] ∧
    (out (exec (.hostwr 0 (2 ^ 19 + 1) 2 0xAABB) s)).home (2 ^ 22) 32 = 0x04AABB01 ∧
    (out (exec (.hostRead (2 ^ 61) 1) { s with owners := [(2 ^ 40, .dev)] })).transfers.map (fun t => (t.region, t.toDev)) = [(2 ^ 40, false)]) := by decide +kernel

/-- A read across two words that has one of them left (R195). -/
theorem witness_TornReads : let r : HostRd := { byte := 2 ^ 19 + 7, n := 2, left := [2 ^ 16 + 1] }
    let s := { bx [] with hostReads := [r] }
    s.hostReads.find? (fun r => r.byte == 2 ^ 19 + 7 && r.n == 2) = some r ∧ r.left ≠ [] ∧ r.left.erase (2 ^ 16 + 1) = [] ∧ (2 ^ 19 + 7) / 8 ≠ (2 ^ 19 + 8) / 8 ∧ (2 ^ 19 + 7) % 64 + 2 ≤ 64 ∧ (bx []).hostReads = [] ∧
    (List.range (((2 ^ 19 + 7) % 8 + 2 + 7) / 8)).map (· + (2 ^ 19 + 7) / 8) = [2 ^ 16, 2 ^ 16 + 1] := by decide +kernel

theorem witness_HostAndLines : (moving true []).transfers.find? (fun t => t.region == 2 ^ 40 && !t.failed) = some { region := 2 ^ 40, toDev := true, dom := 1, joined := [0] } ∧ hasNat (moving true []).domains 1 = true ∧ hasNat ({ moving true [] with domains := [] } : State).domains 1 = false ∧ 0 + 2 ^ 20 ≤ ({ moving true [] with now := 2 ^ 20 } : State).now ∧ (moving true []).now < 2 ^ 20 ∧
    (0 : Nat) < 2 ∧ (2 ^ 19 + 1) % 64 + 2 ≤ 64 ∧ kaolinOk (bx []) (8 * (2 ^ 19 + 1)) = true ∧ (bx []).owner (2 ^ 40) ≠ .dev ∧ (bx []).transferring (2 ^ 40) = false ∧ (app id).argByte 0 (2 ^ 19 + 1) 2 = some (2 ^ 19 + 1) ∧ (app id).argByte 0 (2 ^ 23) 1 = none ∧
    coreBuilt 0 = true ∧ Mem.wf (bx []).mem = true := by decide +kernel

/-- A line of core 0's cache with its low byte dirty. -/
def dirtyLine : State := (bx []).modCore 0 fun c => { c with lines := [(2 ^ 13, { data := 0x1234, dirty := 0xFF })] }

theorem test_lines : (let s := out (exec (.lineEviction 0 (2 ^ 13)) dirtyLine); s.home (2 ^ 22) 16 = 0x34 ∧ (s.core 0).lines = []) ∧
    (let s := out (exec (.storePerformedAtHome 0 (2 ^ 13)) dirtyLine); s.home (2 ^ 22) 16 = 0x34 ∧ (s.core 0).lines.map (fun l => l.2.dirty) = [0]) ∧
    (((out (exec (.fetchFill 0 (2 ^ 13)) ((bx []).homeWrite (2 ^ 22) 8 7))).core 0).fetch.map fun l => (l.1, l.2.data)) = [(2 ^ 13, 7)] ∧
    (let s := out (exec (.codeObjectLoad 0 (BitVec.ofNat 64 (2 ^ 24)) 1024) supState); s.objects.length = 1 ∧ s.views.map (·.words) = [[0]]) ∧
    (out (exec (.codeObjectLoad 0 (BitVec.ofNat 64 (2 ^ 24)) 1024) (bx []))).views.map (·.words) = [[1]] := by decide +kernel

theorem witness_LinesMove : Sparse.get none ((dirtyLine.core 0).lines.map fun p => (p.1, some p.2)) (2 ^ 13) = some { data := 0x1234, dirty := 0xFF } ∧ (0xFF : Nat) < 2 ^ 512 ∧ Mem.wf dirtyLine.mem = true ∧
    Sparse.get none ((dirtyLine.core 0).fetch.map fun p => (p.1, some p.2)) (2 ^ 13) = none ∧ kaolinOk dirtyLine (512 * 2 ^ 13) = true ∧
    ((descOf (match (supState.cpRead { core := 0, onCore := false, asid := 0, sup := true } (2 ^ 24) 256).2 with
      | .ok v => v
      | _ => 0)).map (·.loadable)) = some true ∧ descOf (match ((bx []).cpRead { core := 0, onCore := false, asid := 0, sup := true } (2 ^ 24) 256).2 with
      | .ok v => v
      | _ => 1) = none := by decide +kernel

/-! ### The debugger, bring-up and errors of the part -/

/-- A breakpoint at the pc of the strand of group 0, and the core that has stopped there (R262, R291). -/
def atLine : State := out (execBreakpoint (.set (some 0) (BitVec.ofNat 64 codeBase)) (app id))
def stoppedThere : State := out (execBreakpoint (.reach 0 (BitVec.ofNat 64 codeBase)) atLine)

theorem test_debugger : stoppedThere.frozen 0 = true ∧ (out (exec (.fyvContinue 0) stoppedThere)).frozen 0 = false ∧ (out (exec (.breakpoint (.reach 0 0)) atLine)).frozen 0 = false ∧
    (out (exec (.breakpoint (.reach 0 (BitVec.ofNat 64 codeBase))) (out (exec (.breakpoint (.delete (some 0) (BitVec.ofNat 64 codeBase))) atLine)))).frozen 0 = false ∧
    (out (exec (.breakpoint (.migrate true)) (bx []))).brkMigrate = true ∧ (out (exec (.breakpoint (.resume true)) (bx []))).brkResume = true ∧
    (let s := { stoppedThere with now := 9 }; let t := out (exec (.fyvPreempt 0 200) s); t.me.preq = true ∧ t.me.grace = 200 ∧ t.me.reqAt = s.coreCycle 0) ∧
    (out (exec (.fyvPreempt 0 200) (bx []))).me.preq = false := by decide +kernel

theorem test_views : (let s := bx []
    let r : RredRec := { cycle := 3, sender := 0, vl := 1, mask := 1, payload := [7], scales := [8], dst := [2 ^ 22], after := [9] }
    let u := s.modCore 0 fun c => { c with logK := [r] }
    let log := fun (a : Nat) => (out (exec (.rredlog { sid := 0, addr := BitVec.ofNat 64 a, bits := 32 }) u)).views.map (·.words)
    (out (exec (.fyvView (.strand 0)) s)).views.map (fun v => v.words.take 3) = [[0, 2 ^ 25, 0]] ∧ (out (exec (.fyvView (.convoy 0)) (vx 2 [] []))).views.map (fun v => v.words.take 4) = [[0, 1, 0, 0]] ∧
    (out (exec (.fyvView (.csr 0 0x023)) (app id))).views.map (·.words) = [[0x023, 0, 0]] ∧ (out (exec (.fyvView (.area 0 (BitVec.ofNat 64 (2 ^ 23)))) (word (2 ^ 23) 5 s))).views.map (fun v => v.words.take 2) = [[5, 0]] ∧
    log (2 ^ 22 + 31) = [[3, 0, 1, 1, 7, 8, 9]] ∧ log (2 ^ 22 + 32) = [[]] ∧
    (out (exec (.ctx 0 5) (({ s with ctxMap := [(5, 3)] } : State).setCopyCtx 3 { issue := 4, timeline := 2, err := 5, stopped := true }))).views.map (·.words) = [[3, 2, 4, 2, 5]] ∧
    (out (exec (.vamoView (.tags 0 (BitVec.ofNat 64 (2 ^ 22)))) (s.placeTag amoTag (2 ^ 13) 0))).views.map (·.words) = [[2 ^ 22, 0, 0, 2, 1]] ∧
    (out (exec (.vamoView (.v 0 3)) (one fun t => { t with v := [(3, { bits := 6 })] }))).views.map (·.words) = [[3, 6, 0, 0]] ∧ (out (exec (.xlate 0 (BitVec.ofNat 64 (2 ^ 22))) s)).views.map (·.words) = [[2 ^ 22, 2 ^ 22]] ∧
    (out (exec (.xlate 0 (BitVec.ofNat 64 (2 ^ 30))) s)).views.map (·.words) = [[2 ^ 30]] ∧ (out (exec (.mrec 0) { app id with groups := [(0, { grp0 with migCost := 5 })] })).views.map (·.what) = ["mrec"]) := by decide +kernel

theorem witness_Debugger : let s := stoppedThere
    coreBuilt 3 = true ∧ (s.core 0).halted = true ∧ (s.strand 0).phase = .running ∧ atLine.breaks = [(some 0, BitVec.ofNat 64 codeBase)] ∧ atLine.group? 0 = some grp0 ∧ grp0.phase = .placed ∧ grp0.all = [0] ∧
    (atLine.strand 0).hold = none ∧ (atLine.strand 0).pc = BitVec.ofNat 64 codeBase ∧ (bx []).me.conv = none ∧ (vx 2 [] []).me.conv = some (conv1 2 7) ∧ ((bx []).peekAt 0 (2 ^ 23) 11264).isSome = true ∧
    (bx []).peekAt 0 (2 ^ 30) 11264 = none ∧ (bx []).debugAddr 0 (2 ^ 22) = some (2 ^ 22) ∧ (bx []).debugAddr 0 (2 ^ 30) = none ∧ ({ bx [] with ctxMap := [(5, 3)] } : State).physCtx 0 5 = some 3 ∧
    ({ app id with groups := [(0, { grp0 with migCost := 5 })] } : State).group? 0 = some { grp0 with migCost := 5 } := by decide +kernel

/-- What firmware settles on a package whose core 5 failed. -/
def bring : BringUp := { capVa := BitVec.ofNat 64 (2 ^ 40), capPa := 2 ^ 24, migBase := BitVec.ofNat 64 (2 ^ 41), failing := [5], pkgIndex := 2, firmware := (List.range 21).map fun i => BitVec.ofNat 384 (11 + i) }

theorem test_bring_up : (let s := out (exec (.powerGood bring) { State.reset with now := 77 })
    s.booted = true ∧ (s.die 3).inReset = false ∧ (s.die 3).lag = 77 ∧ (s.die 0).available = 63 ∧ (s.die 4).available = 48 ∧ (s.core 5).withdrawn = true ∧ s.pkg = 2 ∧ Sparse.get 0 s.measures 1 = 11 ∧ Sparse.get 0 s.measures 2 = 12 ∧ (s.die 1).capVa = BitVec.ofNat 64 (2 ^ 40 + 2 ^ 15)) := by
  decide +kernel

theorem witness_BringsUp : State.reset.booted = false ∧ bringUpOk bring State.reset = true ∧ bring.failing.Nodup ∧ (app id).booted = true := by decide +kernel

theorem test_thermal_shutdown : (let s := out (exec (.thermalShutdown 0) { app id with dies := [] }); (s.die 0).inReset = true ∧ (s.die 0).stopped = true ∧ (s.groups.map fun p => p.2.phase) = [.ending]) ∧
    (let s := out (exec (.dieResetRelease { die := 0, failing := [] }) { bx [] with dies := [(0, { inReset := true, stopped := true })], booted := true, now := 9 }); (s.die 0).inReset = false ∧ (s.die 0).lag = 9 ∧ (s.strand 0).phase = .free) ∧
    ((out (exec (.dieResetRelease { die := 0, failing := [] }) { app id with dies := [(0, { inReset := true })] })).die 0).inReset = true := by decide +kernel

theorem witness_DiesStop : let s := { app id with dies := [] }
    s.booted = true ∧ (s.die 0).inReset = false ∧ (s.die 1).inReset = false ∧ (∀ x ∈ s.groups, dieOf x.2.core ≠ 1) ∧ s.group? 0 = some grp0 ∧ (s.gang? 0).isSome = true ∧ dieOf grp0.core = 0 ∧ grp0.phase = .placed ∧
    (app id).booted = true ∧ ((app id).die 1).inReset = true ∧ (∀ x ∈ (app id).groups, dieOf x.2.core ≠ 1) := by decide +kernel

theorem test_soft_errors : exec (.softError (.corrected none)) (bx []) = .next (bx []) ∧ (out (exec (.softError (.scratch (2 ^ 49))) (bx []))).poison = [2 ^ 49] ∧ (out (exec (.kaolinUncorrectableError 7) (bx []))).poison = [7] ∧
    ((out (exec (.softError (.cacheLine 0 (2 ^ 13))) dirtyLine)).core 0).lines.map (fun l => l.2.pois) = [true] ∧ (Sparse.get {} (out (exec (.softError (.vreg 0 1 5)) (bx []))).me.v 1).pois = 2 ^ 5 ∧
    (((out (exec (.softError (.acc 0 3 4)) (bx []))).core 0).mx.row 3).pois = 2 ^ 4 ∧ ((out (exec (.softError (.macroCell 0 2 3)) (bx []))).core 0).mx.bpois = 2 ^ (2 * 512 + 3) ∧
    (out (exec (.softError (.noPoison 0)) (app id))).gangs.map (fun g => g.2.firstFault) = [some (0, 8)] := by
  refine ⟨rfl, ?_⟩
  decide +kernel

theorem witness_SoftErrors : spaceOfPhys (2 ^ 49 * 512) = 1 ∧ physOk (bx []) (2 ^ 49 * 512) = true ∧ kaolinOk (bx []) (7 * 512) = true ∧ coreBuilt 0 = true ∧ isLoam 0 = true ∧ (bx []).me.phase = .running ∧ 1 < 2 ^ (bx []).me.n2 ∧
    5 < regBits (bx []).me.g (bx []).me.n2 / 8 ∧ 2 < ((bx []).core 0).mx.K ∧ 3 < ((bx []).core 0).mx.N ∧ (app id).group? 0 = some grp0 ∧ (app id).gang? 0 = some gang0 ∧ gang0.firstFault = none := by decide +kernel

theorem test_core_withdrawal : (let s := ({ app id with dies := [(0, { available := 64 })] } : State).modCore 0 fun c => { c with due := true }
    let t := out (exec (.coreWithdrawal 0 (some 0)) s)
    let u := out (exec (.coreWithdrawal 0 none) s)
    (t.core 0).withdrawn = true ∧ (t.die 0).available = 63 ∧ (t.groups.map fun p => p.2.endKind) = [some (.fault 8)] ∧ (u.groups.map fun p => p.2.endKind) = [some .killed] ∧ t.eligible gang0.need 0 = false) ∧
    (out (exec (.peerLinkLoss 3) (bx []))).peersDown = [3] ∧ (out (exec (.peerLinkReturn 3) { bx [] with peersDown := [3] })).peersDown = [] := by decide +kernel

theorem witness_CoresWithdrawn : (app id).booted = true ∧ ((app id).core 0).withdrawn = false ∧ grp0.core = 0 ∧ (3 : Nat) < 64 ∧ (some 0 : Option Nat).isSome = true ∧ coreBuilt 0 = true := by decide +kernel

theorem test_measurement : (out (exec (.firmwareImageUpdate 3 7 true) (bx []))).measures = [(3, 7)] ∧ (out (exec (.firmwareImageUpdate 3 7 false) (bx []))).measures = [] ∧
    (out (exec (.spdmRequest (.measurement 3)) { bx [] with measures := [(3, 7)] })).views.map (·.words) = [[3, 7]] ∧ (out (exec (.spdmRequest (.measurement 4)) (bx []))).views.map (·.words) = [[4]] ∧
    (out (exec (.spdmRequest (.certificate 3)) (bx []))).views.map (·.words) = [[3]] ∧
    (out (exec (.spdmRequest (.certificate 3)) (out (exec (.spdmRequest (.provision 3 9)) (bx []))))).views.map (·.words) = [[3, 9]] ∧ (out (exec (.spdmRequest (.provision 0 9)) (bx []))).certs = [] ∧
    (out (exec (.hostLinkTraining 5) (bx []))).linkRate = 5 ∧ cause (app id) .illegalEncoding = 1 := by decide +kernel

/-- A step that comes to a breakpoint's line halts the core before the instruction there; one that starts on it does not stop again (R262). -/
def toLine (line : Nat) : State :=
  let s := { app id with breaks := [(some 0, BitVec.ofNat 64 line)], agenda := [{ who := .strand 0, dt := 1 }] }
  s.homeWrite codeBase 32 (match encode (.addi 3 0 1) with
    | .word w => w
    | _ => 0)

theorem test_break_stops : (let s := out (step (toLine (codeBase + 32))); (s.core 0).halted = true ∧ s.me.pc = BitVec.ofNat 64 (codeBase + 32) ∧ (s.me.getX 3).w = 1#64) ∧
    ((out (step (toLine codeBase))).core 0).halted = false := by decide +kernel

theorem witness_DebugStops : let s := toLine (codeBase + 32)
    s.agenda = [{ who := .strand 0, dt := 1 }] ∧ (∀ p ∈ s.strands, p.2.phase = .running → p.2.hold = none) ∧ (s.strand 0).group = some 0 ∧ (s.strand 0).pc ≠ BitVec.ofNat 64 (codeBase + 32) ∧
    (out (turn (({ s with agenda := [] } : State).tick 1) (.strand 0))).me.pc = BitVec.ofNat 64 (codeBase + 32) ∧ s.breaks ≠ [] := by decide +kernel

/-- The views of a member in progress, of a log across two units, of a waiting group and of a round. -/
theorem test_more_views :
    (let s := awaiting 0x300 mform (.elems true [{ probe1 (2 ^ 22) { fa := 2 ^ 22 } with id := 1 }]) [probe1 (2 ^ 22) { fa := 2 ^ 22 }, { probe1 (2 ^ 22) { fa := 2 ^ 22 } with id := 1 }]
     (out (exec (.fyvView (.convoy 0)) s)).views.map (fun v => (v.words.drop 8)) = [[0, 1, 32, 1, 0, 5]]) ∧
    (out (exec (.vamoView (.vamo 0)) (amos 1 [0] [0]))).views.map (·.words) = [[1, 2, 1, 0, 1, 0, 1, 0]] ∧
    (out (exec (.fyvView (.csr 0 0x010)) (out (exec (.migration 0) leaving)))).views.map (·.words) = [[0x010, 0, 0]] ∧
    (let r := fun (d n : Nat) => ({ cycle := n, sender := 0, vl := 1, mask := 1, payload := [], scales := [], dst := [d], after := [] } : RredRec)
     let s := (ranged [(2 ^ 26, 2 ^ 20, 2 ^ 58, 0x3E1)] (bx [])).modCore 0 fun c => { c with logK := [r (2 ^ 26 - 32) 3, r (2 ^ 58) 5], logS := [r (2 ^ 58) 4] }
     (out (exec (.rredlog { sid := 0, addr := BitVec.ofNat 64 (2 ^ 26 - 32), bits := 64 }) s)).views.map (·.words) = [[3, 0, 1, 1, 4, 0, 1, 1]] ∧
     s.debugAddr 0 (2 ^ 26 - 32) = some (2 ^ 26 - 32) ∧ s.debugAddr 0 (2 ^ 26) = some (2 ^ 58) ∧ unitOf (2 ^ 26 - 32) ≠ unitOf (2 ^ 58)) := by decide +kernel

/-! ### More of what the statements assume -/

/-- A vNaN among vqscale's elements is consumed (10), a poisoned element or group size of vtopk is POISON_CONTROL (8) (R154, R166, R185). -/
theorem test_scale_and_rank_traps : raised (vx 2 [(2, vr 32 [0, 0x7FA30000])] []) (.vqscale { form 2 with vd := 0 }) = 10 ∧
    raised (vp 2) (.vtopk { form 2 with variant := 0, os := 3, f35 := 1 }) = 8 ∧
    raised (vx 2 [] [] fun t => { t with b := t.b.set 0 { w := 4, p := true } }) (.vtopk { form 2 with variant := 0, os := 1, vs2 := 0 }) = 8 := by decide +kernel

theorem witness_ScaleTraps : let c := (vx 2 [(2, vr 32 [0, 0x7FA30000])] []).me.env (blkOf 2) (conv1 2 7)
    let d := (vp 2).me.env (blkOf 2) (conv1 2 7)
    let q := ({ (vp 2).me with b := (vp 2).me.b.set 0 { w := 4, p := true } } : Strand).env (blkOf 2) (conv1 2 7)
    c.actives 0 0 = [0] ++ 1 :: [] ∧ isVNan ((c.vec 2 32).val 1) = true ∧ isVNan ((c.vec 2 32).val 0) = false ∧ (d.op2 { form 2 with os := 3, f35 := 1 } 32).poi 0 = false ∧
    1 ≤ (d.op2 { form 2 with os := 3, f35 := 1 } 32).val 0 ∧ ((d.vec 2 32).poi 0 || (d.vec 2 32).poi 1) = true ∧ (q.op2 { form 2 with os := 1, vs2 := 0 } 32).poi 0 = true := by decide +kernel

/-- Row 1 of the gang stands in stage 2; row 2 has its planes of stage 1 done, and leaves it all the same, the stage not free (R231). -/
def following : State := gangWith (fun m => { m with slots := [(1, { full := true, planes := 2 })] })
  [{ num := 1, kind := .row 3 0 none, entered := true, stage := 2 }, { num := 2, kind := .row 4 1 none, entered := true, stage := 1, plane := 2 }]

theorem test_rows_leave : (let t := out (exec (.rowLeavesStage 0 2) following)
    ((t.core 0).mx.op 2).map (fun o => (o.stage, o.plane)) = some (2, 0) ∧ (((out (exec (.checkPoint 0 2) t)).core 0).mx.op 2).map (·.plane) = some 0) := by decide +kernel

theorem witness_StagesFree : (smallRow.core 0).mx.stageFree 1 7 = true ∧ (following.core 0).mx.stageFree 2 2 = false ∧ ((following.core 0).mx.op 2).isSome = true := by decide +kernel

/-- A late load whose probe pass is over but which an earlier update keeps waiting: what the pass found is kept (R90). -/
theorem test_probes_kept : (let t := out (exec (.vld mform) { lateAt 1 (2 ^ 22) with packets := [sent 0 []] })
    t.me.conv.map (fun k => (k.slot, k.probes.map fun p => p.2.length)) = some (0, [1])) := by decide +kernel

theorem witness_ProbesKept : let s := ({ lateAt 1 (2 ^ 22) with packets := [sent 0 []] } : State)
    let u := s.convGoes s.cur true
    let r := u.probeMember u.myAgent (envOf s) 0x300 mform true
    vmCheck 0x300 mform (envOf s) true = none ∧ (s.wmCheck s.cur (envOf s) 0x300 mform).2 = .ok ∧ (match r.2 with
      | .ok ps vl => decide (1 ≤ vl) && (r.1.setMe { r.1.me with conv := r.1.me.conv.map fun k => { k with probes := Sparse.put k.probes k.slot ps } }).memWaits 0x300 mform ps
      | _ => false) = true := by decide +kernel

/-- A convoy behind the one in progress that fills slot 3 when it retires. -/
def fillsAhead : State := (vm1 [] id).modStrand 0 fun t => { t with past := [pastOf { conv1 1 0 with slot := 1, staged := [.fill 3 false 4 0 0] } 1] }

theorem test_fill_ahead : (out (exec (.vtoa { vd := 1, vs1 := 2, mask := 0, me := 0, ew := 2, idx := 3, sreg := 0, param := 4 }) fillsAhead)).me.convWait.isSome = true ∧
    (fillsAhead.me.past.map fun p => p.conv.fills) = [[3]] := by decide +kernel

/-- The head of a merge waits for a store of its class behind it. -/
theorem witness_HeadsWait : let p := pastOf { conv1 1 0 with words := [encVM 0x301 mform] } 1
    let s := vx 1 [] [] fun t => { t with past := [p] }
    p.conv.holdsUp 0 (part (2 ^ 22) 32) = true ∧ (s.check s.myAgent { Want.load with noDev := true } (2 ^ 22) 32).2 = .ok (part (2 ^ 22) 32) ∧
    (match (s.readKey false (BitVec.ofNat 64 (2 ^ 22)) 32).2 with
      | .stop .wait _ => true
      | _ => false) = true ∧ (pastOf doneConv 1).conv.holdsUp 0 (part (2 ^ 22) 32) = false := by decide +kernel

/-- Stream 1's LAUNCH of the block at 2^23, its control block at c, its state bits st. -/
def streamLaunching (c st : Nat) : State :=
  let s := launching 0 (2 ^ 23)
  word (2 ^ 22 + 256) st { s with
    dies := (0, { streams := [(1, { stream1 with ctl := BitVec.ofNat 64 c, cmd := some { op := 1, a := 0, w1 := 0, w2 := 0, w3 := 0 } })] }) :: die0
    submits := [{ die := 0, fromSid := none, stream := 1, block := BitVec.ofNat 64 (2 ^ 23) }] }

/-- A running stream's LAUNCH completes with its answer; a stopped stream's is not looked at (R60, R61). -/
theorem test_stream_launches : (let t := out (exec (.gangAcceptance 0) (streamLaunching (2 ^ 22) 0)); t.submits = [] ∧ t.home (2 ^ 22 + 192) 64 = 1 ∧ (t.stream? 0 1).map (fun x => (x.accepted, x.cmd)) = some ([1], none)) ∧
    (let t := out (exec (.gangAcceptance 0) (streamLaunching (2 ^ 22) 2)); t.submits.map (·.status) = [none] ∧ t.gangs.length = 1) := by decide +kernel

theorem witness_LaunchesHeeded : let u : Submit := { die := 0, fromSid := none, stream := 1, block := BitVec.ofNat 64 (2 ^ 23) }
    let s := streamLaunching (2 ^ 22) 0
    let w := { ranged [(2 ^ 41, 2 ^ 24, 2 ^ 30, 0x13F1)] (streamLaunching (2 ^ 41) 0) with domains := [1] }
    s.heeds u = true ∧ (s.heedNow u).2 = true ∧ (s.launcher u).isSome = true ∧ (streamLaunching (2 ^ 22) 2).heeds u = false ∧ w.heeds u = true ∧ (w.heedNow u).2 = false := by decide +kernel

/-- A convoy behind the one in progress that reaches into the moving group's window. -/
theorem test_past_afresh : (let s := reaching.modStrand 16 fun t => { t with conv := none, past := [{ pastOf ((t.conv).getD (conv1 1 0)) 1 with taken := [] }] }
    ((out (exec (.migration 0) s)).strand 16).past.map (fun p => (p.conv.late, p.conv.probes.map (·.2))) = [([1], [[]])]) := by decide +kernel

/-- A state whose stream 1 has its control block in a region on its way to the package. -/
def farStream : State := { hostRange [] with dies := [(0, { streams := [(1, { stream1 with ctl := BitVec.ofNat 64 (2 ^ 41) })] })], booted := true }

/-- A command that must wait for its words comes again, and the function's other commands wait for it (R332). -/
theorem test_commands_wait : (let t := out (exec (.setStreamState 0 0 1 0) farStream)
    t.hostCmd? 0 = some (.streamState 0 1 0) ∧ t.mailbox = [] ∧ t.transfers.length = 1 ∧ out (exec (.enableOwnershipDomain 0 4) t) = t) ∧
    (let t := out (exec (.placeSupervisorStrand { supPlace with desc := BitVec.ofNat 64 (2 ^ 41) }) { hostRange [] with booted := true, dies := [] })
     (t.hostCmd? 0).isSome = true ∧ t.hostBusy 0 = true) := by decide +kernel

/-- A LAUNCH that has its answer has executed: setting the stream's state leaves it (R61). -/
theorem test_answered_stays : (let t := out (exec (.setStreamState 0 0 1 0) (word (2 ^ 22 + 256) 2 { launchAnswered 0 with booted := true })); t.submits.length = 1 ∧ (cmdOf t).isSome = true) := by decide +kernel

/-- A transfer toward the device that has ended, its joined access still to be performed, and one the other way: it begins once the access is over (R335). -/
theorem test_transfer_waits : (let z : Transfer := { region := 2 ^ 40, toDev := false, dom := 1 }
    let s := { moving true [] with transfers := [{ region := 2 ^ 40, toDev := true, dom := 1, joined := [0], flipped := true }, z] }
    s.runs z = false ∧ s.me.phase = .running ∧ s.me.hold = none ∧ (s.asksNo 0).runs z = true) := by decide +kernel

/-- A load of two elements that has completed, and what it wrote (R324). -/
def wroteTwo : Conv := { conv1 2 7 with words := [encVM 0x300 mform], slot := 1, wrote := [{ slot := 0, file := 0, reg := 1, w := 32, es := [0, 1] }] }
def behindTwo : State := vx 2 [] [] fun t => { t with conv := none, past := [{ pastOf wroteTwo 2 with v := [(1, vr 32 [5, 6])] }] }

/-- A COPY.MC of core 0 one of whose destinations, in the memory of core 7 of package 3, has been delivered. -/
def toPeer : State := let s := ranged [(2 ^ 41, 2 ^ 24, 2 ^ 59 + 3 * 2 ^ 52 + 7 * 2 ^ 32, 0x3F9)] (bx [])
  ({ s with ctxMap := [(5, 3)] } : State).setCopyCtx 3 { issue := 1, ops := [{ num := 1, kind := .mc, src := 0, dests := [{ addr := BitVec.ofNat 64 (2 ^ 41), done := true }, { addr := 0 }], len := 64, cls := 1
                                                                               asid := 0, sup := false, core := some 0 }] }

/-- A waiting group with parked matrix state. -/
def parkedGroup : Group := { grp0 with phase := .waiting, saved := [{}], savedMx := some { mcfg := 3 } }

/-- A convoy's writes in groups of one width, also of one behind; mcfg as saved; the peer's coreid; a VAMO's register, reserved from its issue (R290, R293, R324, R325). -/
theorem test_view_points : (out (exec (.fyvView (.convoy 0)) (vx 2 [(1, vr 32 [5, 6])] [] fun t => { t with conv := some wroteTwo }))).views.map (fun v => (v.words.drop 8)) = [[0, 1, 32, 2, 0, 5, 1, 6]] ∧
    (out (exec (.fyvView (.convoy 0)) behindTwo)).views.map (fun v => (v.words.drop 8)) = [[0, 1, 32, 2, 0, 5, 1, 6]] ∧
    (out (exec (.fyvView (.csr 0 0x030)) { app id with groups := [(0, parkedGroup)] })).views.map (·.words) = [[0x030, 0, 3]] ∧
    (out (exec (.ctx 0 5) toPeer)).views.map (fun v => v.words.getLast?) = [some (3 * 2 ^ 10 + 7)] ∧
    (out (exec (.vamoView (.v 0 1)) (awaiting 0x342 { mform with am := 2, vs2 := 2, f35 := 1 } .none []))).views.map (fun v => (v.words.drop 3)) = [[1]] := by decide +kernel

theorem witness_ViewPoints : behindTwo.me.past.length = 1 ∧ behindTwo.me.conv = none ∧ decide (memberOf (encVM 0x300 mform) = .vm 0x300 mform) = true ∧ (memberOf (encVM 0x300 mform)).writes = [(0, 1)] ∧
    parkedGroup.phase = .waiting ∧ parkedGroup.saved.length ≤ 8 ∧ parkedGroup.savedMcs = none ∧ isLoam parkedGroup.migSrc = true ∧ toPeer.physCtx 0 5 = some 3 ∧
    (match (toPeer.xlate { core := 0, onCore := false, asid := 0, sup := true } { peer := true, far := true } (2 ^ 41)).2 with
      | .ok x => decide (x.fa < 2 ^ 64 ∧ spaceOfPhys x.fa = 2)
      | _ => false) = true ∧ decide (memberOf (encVM 0x342 { mform with am := 2, vs2 := 2, f35 := 1 }) = .vm 0x342 { mform with am := 2, vs2 := 2, f35 := 1 }) = true := by decide +kernel

/-- Code in a range whose target is 16 bits before the end of a line: its first word crosses the lines, and is read whole; poison of the second counts (R27, R91, R93, R187). -/
def crossing (l : List Nat) : State := { (ranged [(2 ^ 41, 2 ^ 24, 2 ^ 23 + 496, 0x3E1)] (bx [])).homeWrite (2 ^ 23 + 496) 32 0xDEADBEEF with poison := l }

theorem test_fetch_crosses : (let f := fun (s : State) => (s.fetch32 (s.agentOf 0) false (2 ^ 41)).2
    f (crossing []) = .ok 0xDEADBEEF ∧ f (crossing [2 ^ 14 + 1]) = .trap 9 (2 ^ 41)) := by decide +kernel

end Sys2Proof.Tests
end

section
/-!
SUPPORT. One line of memory as one core sees it: its copy in the core's line cache, its bits and poison at home, and the three moves that filling and writing
back make on it (R189). What a store leaves in a line survives every move, whatever other lines of the cache come and go.
-/

namespace Sys2Proof.Machine

/-! ### Bits of masks and fields -/

theorem testBit_ones (lo len i : Nat) : (ones lo len).testBit i = (decide (lo ≤ i) && decide (i < lo + len)) := by
  unfold ones
  rw [Nat.testBit_mul_two_pow, Nat.testBit_two_pow_sub_one]
  by_cases h : lo ≤ i <;> simp [h]
  omega

/-- A mask of at least one bit is not zero. -/
theorem ones_ne_zero (lo len : Nat) (h : 0 < len) : ones lo len ≠ 0 := by
  unfold ones
  have h1 : 2 ^ 1 ≤ 2 ^ len := Nat.pow_le_pow_right (by omega) h
  have h2 := Nat.two_pow_pos lo
  exact Nat.mul_ne_zero (by omega) (by omega)

theorem testBit_putField (w lo len v i : Nat) :
    (putField w lo len v).testBit i = if lo ≤ i ∧ i < lo + len then v.testBit (i - lo) else w.testBit i := by
  have e : putField w lo len v = 2 ^ lo * (2 ^ len * (w / 2 ^ (lo + len)) + v % 2 ^ len) + w % 2 ^ lo := by
    rw [putField_eq, Nat.pow_add]
    ring
  rw [e, Nat.testBit_two_pow_mul_add _ (Nat.mod_lt _ (Nat.two_pow_pos _)),
    Nat.testBit_two_pow_mul_add _ (Nat.mod_lt _ (Nat.two_pow_pos _)), Nat.testBit_mod_two_pow, Nat.testBit_mod_two_pow,
    Nat.testBit_div_two_pow]
  by_cases h1 : i < lo
  · simp [h1, Nat.not_le.2 h1]
  · by_cases h2 : i < lo + len
    · simp [h1, h2, Nat.not_lt.1 h1, show i - lo < len by omega]
    · simp only [if_neg h1, if_neg (show ¬ i - lo < len by omega), if_neg (show ¬ (lo ≤ i ∧ i < lo + len) by omega)]
      congr 1
      omega

/-- Two fields side by side make one. -/
theorem mod_two_pow_add (v a b : Nat) : v % 2 ^ (a + b) = v % 2 ^ a + field v a b * 2 ^ a := by
  rw [Nat.pow_add, Nat.mod_mul, field, Nat.mul_comm]

/-! ### Lines -/

theorem mem_linesOf (fa w l : Nat) : l ∈ linesOf fa w ↔ 0 < w ∧ fa / 512 ≤ l ∧ l ≤ (fa + w - 1) / 512 := by
  unfold linesOf
  split
  · simp only [List.not_mem_nil, false_iff]
    omega
  · simp only [List.mem_map, List.mem_range]
    constructor
    · rintro ⟨i, hi, rfl⟩
      omega
    · rintro ⟨_, h1, h2⟩
      exact ⟨l - fa / 512, by omega, by omega⟩

/-! ### Lines at their home -/

/-- A masked write is a write of the bits that the mask chooses (R6). -/
theorem Mem.testBit_readBits_writeMasked (m : List Host.Cell) (fa w v mask i : Nat) (h : Mem.wf m = true) (hi : i < w) :
    (Mem.readBits (Mem.writeMasked m fa w v mask) fa w).testBit i =
      if mask.testBit i then v.testBit i else (Mem.readBits m fa w).testBit i := by
  have e : Mem.writeMasked m fa w v mask =
      Mem.writeBits m fa w ((Mem.readBits m fa w &&& ((mask % 2 ^ w) ^^^ (2 ^ w - 1))) ||| (v &&& (mask % 2 ^ w))) := rfl
  rw [e, Mem.readBits_writeBits _ _ _ _ h]
  simp only [Nat.testBit_mod_two_pow, Nat.testBit_or, Nat.testBit_and, Nat.testBit_xor, Nat.testBit_two_pow_sub_one, hi, decide_true,
    Bool.true_and]
  by_cases hm : mask.testBit i <;> simp [hm]

/-- A write of one line leaves every other line as it was. -/
theorem Mem.readBits_writeMasked_line_ne (m : List Host.Cell) (line j v mask : Nat) (h : Mem.wf m = true) (hj : j ≠ line) :
    Mem.readBits (Mem.writeMasked m (line * 512) 512 v mask) (j * 512) 512 = Mem.readBits m (j * 512) 512 := by
  have hw := Mem.wf_writeMasked m (line * 512) 512 v mask h
  unfold Mem.readBits
  rw [Mem.readBytes_congr _ m _ _ hw h]
  intro q hq1 hq2
  unfold Mem.writeMasked
  rw [Mem.byte_writeBytes _ _ _ _ _ h, if_neg]
  unfold ceilDiv at hq2 ⊢
  omega

@[simp] theorem State.breakTags_mem (s : State) (l : Nat) : (s.breakTags l).mem = s.mem := rfl
@[simp] theorem State.breakTags_cores (s : State) (l : Nat) : (s.breakTags l).cores = s.cores := rfl
@[simp] theorem State.breakTags_poison (s : State) (l : Nat) : (s.breakTags l).poison = s.poison := rfl
@[simp] theorem State.setPoison_mem (s : State) (l : Nat) (p : Bool) : (s.setPoison l p).mem = s.mem := rfl
@[simp] theorem State.setPoison_cores (s : State) (l : Nat) (p : Bool) : (s.setPoison l p).cores = s.cores := rfl

/-- A line marked is poisoned, a line cleared is not. -/
@[simp] theorem State.hasNat_setPoison_same (s : State) (l : Nat) (p : Bool) : hasNat (s.setPoison l p).poison l = p := by
  cases p <;> simp [State.setPoison]
  simp [hasNat]

theorem State.hasNat_setPoison_ne (s : State) (l j : Nat) (p : Bool) (h : j ≠ l) :
    hasNat (s.setPoison l p).poison j = hasNat s.poison j := by
  cases p
  · simp only [State.setPoison, hasNat, Bool.false_eq_true, ite_false, List.any_filter]
    congr 1
    funext a
    by_cases e : a = j
    · simp [e, h]
    · simp [e]
  · exact hasNat_insertNat_ne _ _ _ h

@[simp] theorem State.homeWriteLine_cores (s : State) (line data mask : Nat) (p c : Bool) :
    (s.homeWriteLine line data mask p c).cores = s.cores := by
  unfold State.homeWriteLine
  simp only
  repeat' split
  all_goals rfl

theorem State.homeWriteLine_mem (s : State) (line data mask : Nat) (p c : Bool) (h : mask ≠ 0) :
    (s.homeWriteLine line data mask p c).mem = Mem.writeMasked s.mem (line * 512) 512 data mask := by
  unfold State.homeWriteLine
  rw [if_neg h]
  simp only
  repeat' split
  all_goals rfl

/-- A write-back with an empty mask writes nothing. -/
@[simp] theorem State.homeWriteLine_zero (s : State) (line data : Nat) (p c : Bool) : s.homeWriteLine line data 0 p c = s := rfl

/-- A write-back brings the bits of its mask home (R189). -/
theorem State.homeWriteLine_home_same (s : State) (line data mask : Nat) (p c : Bool) (h : MemOk s) (i : Nat) (hi : i < 512) :
    ((s.homeWriteLine line data mask p c).home (line * 512) 512).testBit i =
      if mask.testBit i then data.testBit i else (s.home (line * 512) 512).testBit i := by
  by_cases hm : mask = 0
  · simp [hm]
  · unfold State.home
    rw [s.homeWriteLine_mem _ _ _ _ _ hm, Mem.testBit_readBits_writeMasked _ _ _ _ _ _ h hi]

theorem State.homeWriteLine_home_ne (s : State) (line data mask : Nat) (p c : Bool) (h : MemOk s) (j : Nat) (hj : j ≠ line) :
    (s.homeWriteLine line data mask p c).home (j * 512) 512 = s.home (j * 512) 512 := by
  by_cases hm : mask = 0
  · simp [hm]
  · unfold State.home
    rw [s.homeWriteLine_mem _ _ _ _ _ hm, Mem.readBits_writeMasked_line_ne _ _ _ _ _ h hj]

/-- A write-back that does not clear poison poisons its line where it wrote poisoned data, and else leaves the poison (R95). -/
theorem State.homeWriteLine_poison_same (s : State) (line data mask : Nat) (p : Bool) :
    hasNat (s.homeWriteLine line data mask p false).poison line = (hasNat s.poison line || (p && mask != 0)) := by
  by_cases hm : mask = 0
  · simp [hm]
  · unfold State.homeWriteLine
    rw [if_neg hm, bne_iff_ne.2 hm, Bool.and_true]
    cases p with
    | false => exact (Bool.or_false _).symm
    | true => exact (State.hasNat_setPoison_same _ _ _).trans (Bool.or_true _).symm

theorem State.homeWriteLine_poison_ne (s : State) (line data mask : Nat) (p c : Bool) (j : Nat) (hj : j ≠ line) :
    hasNat (s.homeWriteLine line data mask p c).poison j = hasNat s.poison j := by
  unfold State.homeWriteLine
  split
  · rfl
  · simp only
    split
    · exact State.hasNat_setPoison_ne _ _ _ _ hj
    · split
      · exact State.hasNat_setPoison_ne _ _ _ _ hj
      · rfl

/-! ### A core's copy of a line -/

theorem Sparse.map_put {α β : Type} (f : α → β) (l : Sparse α) (k : Nat) (v : α) :
    (Sparse.put l k v).map (fun p => (p.1, f p.2)) = Sparse.put (l.map fun p => (p.1, f p.2)) k (f v) := by
  induction l with
  | nil => rfl
  | cons p t ih =>
    simp only [Sparse.put, List.map_cons]
    split
    · rfl
    · split
      · rfl
      · simp [ih]

theorem Sparse.map_del {α β : Type} (f : α → β) (l : Sparse α) (k : Nat) :
    (Sparse.del l k).map (fun p => (p.1, f p.2)) = Sparse.del (l.map fun p => (p.1, f p.2)) k := by
  induction l with
  | nil => rfl
  | cons p t ih =>
    simp only [Sparse.del, List.map_cons]
    split
    · exact ih
    · simp [ih]

/-- The line as core k's cache holds it, where it holds it. -/
def State.lineEntry (s : State) (k line : Nat) : Option CLine :=
  Sparse.get none ((s.core k).lines.map fun p => (p.1, some p.2)) line

theorem State.lineEntry_of_cores (s t : State) (h : t.cores = s.cores) (k line : Nat) : t.lineEntry k line = s.lineEntry k line := by
  unfold State.lineEntry State.core
  rw [h]

/-- Core k's cache with a line put in. -/
def State.putLine (s : State) (k line : Nat) (l : CLine) : State :=
  s.modCore k fun c => { c with lines := Sparse.put c.lines line l }

/-- Core k's cache with a line taken out. -/
def State.delLine (s : State) (k line : Nat) : State :=
  s.modCore k fun c => { c with lines := Sparse.del c.lines line }

theorem State.lineEntry_putLine (s : State) (k line : Nat) (l : CLine) (j : Nat) :
    (s.putLine k line l).lineEntry k j = if j = line then some l else s.lineEntry k j := by
  simp only [State.lineEntry, State.putLine, State.core, State.modCore, State.setCore, Sparse.get_put_same, Sparse.map_put]
  split
  · next h => rw [h, Sparse.get_put_same]
  · next h => rw [Sparse.get_put_ne _ _ _ _ _ h]

theorem State.lineEntry_delLine (s : State) (k line j : Nat) :
    (s.delLine k line).lineEntry k j = if j = line then none else s.lineEntry k j := by
  simp only [State.lineEntry, State.delLine, State.core, State.modCore, State.setCore, Sparse.get_put_same, Sparse.map_del]
  split
  · next h => rw [h, Sparse.get_del_same]
  · next h => rw [Sparse.get_del_ne _ _ _ _ h]

/-- What the core reads of a line: its copy, or the line at its home. -/
theorem State.cacheLine_eq (s : State) (k line : Nat) :
    s.cacheLine k line = (s.lineEntry k line).getD { data := s.home (line * 512) 512, pois := hasNat s.poison line } := by
  unfold State.cacheLine State.lineEntry
  split
  · next h => rw [h]; rfl
  · next h => rw [h]; rfl

/-! ### The operations of a line cache, by the copy they meet -/

theorem State.writeBackOne_of_none (s : State) (k line : Nat) (h : s.lineEntry k line = none) : s.writeBackOne k line = s := by
  unfold State.lineEntry at h
  simp only [State.writeBackOne, h]

theorem State.writeBackOne_of_some (s : State) (k line : Nat) (l : CLine) (h : s.lineEntry k line = some l) :
    s.writeBackOne k line =
      (s.homeWriteLine line l.data l.dirty l.wpois (!l.pois)).putLine k line { l with dirty := 0, wpois := false } := by
  unfold State.lineEntry at h
  simp only [State.writeBackOne, h]
  rfl

theorem State.writeBack_of_none (s : State) (k line : Nat) (h : s.lineEntry k line = none) : s.writeBack k line = s := by
  unfold State.lineEntry at h
  simp only [State.writeBack, h]

theorem State.writeBack_of_some (s : State) (k line : Nat) (l : CLine) (h : s.lineEntry k line = some l) :
    s.writeBack k line = if l.dirty = 0 then s else (s.classBack k l.classes).writeBackOne k line := by
  unfold State.lineEntry at h
  simp only [State.writeBack, h]

theorem State.evict_eq (s : State) (k line : Nat) : s.evict k line = (s.writeBack k line).delLine k line := rfl

/-- After a write-back of the one line, its copy is clean. -/
theorem State.lineEntry_writeBackOne (s : State) (k line j : Nat) :
    (s.writeBackOne k line).lineEntry k j =
      if j = line then (s.lineEntry k line).map fun l => { l with dirty := 0, wpois := false } else s.lineEntry k j := by
  cases h : s.lineEntry k line with
  | none =>
    rw [s.writeBackOne_of_none k line h]
    split
    · next e => rw [e, h]; rfl
    · rfl
  | some l =>
    rw [s.writeBackOne_of_some k line l h, State.lineEntry_putLine, State.lineEntry_of_cores _ _ (s.homeWriteLine_cores _ _ _ _ _)]
    rfl

/-- A write-back leaves no dirty bit in its line. -/
theorem State.writeBack_dirty (s : State) (k line : Nat) (l : CLine) (h : (s.writeBack k line).lineEntry k line = some l) :
    l.dirty = 0 := by
  cases he : s.lineEntry k line with
  | none =>
    rw [s.writeBack_of_none k line he, he] at h
    cases h
  | some l0 =>
    rw [s.writeBack_of_some k line l0 he] at h
    split at h
    · next hd =>
      rw [he] at h
      cases h
      exact hd
    · rw [State.lineEntry_writeBackOne, if_pos rfl] at h
      obtain ⟨l1, _, rfl⟩ := Option.map_eq_some_iff.1 h
      rfl

/-! ### A line that is not in the cache stays out, except where it is filled -/

theorem State.writeBackOne_absent (s : State) (k line j : Nat) (h : s.lineEntry k j = none) :
    (s.writeBackOne k line).lineEntry k j = none := by
  rw [State.lineEntry_writeBackOne]
  split
  · next e => rw [← e, h]; rfl
  · exact h

theorem State.classBack_absent (s : State) (k mask j : Nat) (h : s.lineEntry k j = none) : (s.classBack k mask).lineEntry k j = none :=
  List.foldlRecOn (motive := fun t : State => t.lineEntry k j = none) _ _ h fun t ht l _ => t.writeBackOne_absent k l j ht

theorem State.writeBack_absent (s : State) (k line j : Nat) (h : s.lineEntry k j = none) : (s.writeBack k line).lineEntry k j = none := by
  cases he : s.lineEntry k line with
  | none => rw [s.writeBack_of_none k line he, h]
  | some l =>
    rw [s.writeBack_of_some k line l he]
    split
    · exact h
    · exact State.writeBackOne_absent _ _ _ _ (s.classBack_absent _ _ _ h)

theorem State.evict_absent (s : State) (k line j : Nat) (h : s.lineEntry k j = none) : (s.evict k line).lineEntry k j = none := by
  rw [s.evict_eq, State.lineEntry_delLine, s.writeBack_absent k line j h, ite_self]

theorem State.evict_absent_same (s : State) (k line : Nat) : (s.evict k line).lineEntry k line = none := by
  rw [s.evict_eq, State.lineEntry_delLine, if_pos rfl]

theorem State.makeRoom_absent (s : State) (k j : Nat) (h : s.lineEntry k j = none) : (s.makeRoom k).lineEntry k j = none := by
  unfold State.makeRoom
  split
  · split
    · exact s.evict_absent _ _ _ h
    · exact h
  · exact h

/-! ### The moves of a line -/

/-- A line as a core sees it: the copy in its cache, the bits and the poison at home. -/
structure LineView where
  entry : Option CLine
  home : Nat
  pois : Bool

/-- Line `line` as core k sees it. -/
def State.lineView (s : State) (k line : Nat) : LineView :=
  { entry := s.lineEntry k line, home := s.home (line * 512) 512, pois := hasNat s.poison line }

/-- What the cache does to a line (R189): it brings the dirty bits home and keeps the line, clean; it drops a line without dirty bits; it fills a line from
its home. A write-back may clear the poison of a line only where the copy is not poisoned (R95). -/
inductive LineMove : LineView → LineView → Prop where
  | writeBack (l : CLine) (h h' : Nat) (p p' : Bool)
      (hh : ∀ i, i < 512 → h'.testBit i = if l.dirty.testBit i then l.data.testBit i else h.testBit i)
      (hp : l.pois = true → p' = (p || (l.wpois && l.dirty != 0))) :
      LineMove ⟨some l, h, p⟩ ⟨some { l with dirty := 0, wpois := false }, h', p'⟩
  | drop (l : CLine) (h : Nat) (p : Bool) (hd : l.dirty = 0) : LineMove ⟨some l, h, p⟩ ⟨none, h, p⟩
  | fill (h : Nat) (p : Bool) (c : Nat) : LineMove ⟨none, h, p⟩ ⟨some { data := h, pois := p, classes := c }, h, p⟩

/-- From s to t memory stays canonical, and core k's view of every line goes by moves of the cache alone. -/
def CacheMoves (k : Nat) (s t : State) : Prop :=
  MemOk s → MemOk t ∧ ∀ line, Relation.ReflTransGen LineMove (s.lineView k line) (t.lineView k line)

theorem CacheMoves.refl (k : Nat) (s : State) : CacheMoves k s s := fun h => ⟨h, fun _ => .refl⟩

theorem CacheMoves.trans {k : Nat} {s t u : State} (h : CacheMoves k s t) (h' : CacheMoves k t u) : CacheMoves k s u := fun hs => by
  obtain ⟨ht, m⟩ := h hs
  obtain ⟨hu, m'⟩ := h' ht
  exact ⟨hu, fun line => (m line).trans (m' line)⟩

theorem CacheMoves.foldl {α : Type} {k : Nat} (f : State → α → State) (h : ∀ s x, CacheMoves k s (f s x)) (l : List α) (s : State) :
    CacheMoves k s (l.foldl f s) :=
  List.foldlRecOn (motive := fun t => CacheMoves k s t) _ _ (CacheMoves.refl k s) fun t ht x _ => ht.trans (h t x)

/-- A step that moves one line and leaves the others is made of moves. -/
theorem CacheMoves.of_line {k line : Nat} {s t : State} (hm : MemOk s → MemOk t)
    (h : MemOk s → LineMove (s.lineView k line) (t.lineView k line)) (hne : MemOk s → ∀ j, j ≠ line → t.lineView k j = s.lineView k j) :
    CacheMoves k s t := fun hs => by
  refine ⟨hm hs, fun j => ?_⟩
  by_cases e : j = line
  · exact e ▸ .single (h hs)
  · exact hne hs j e ▸ .refl

theorem State.writeBackOne_moves (s : State) (k line : Nat) : CacheMoves k s (s.writeBackOne k line) := by
  cases he : s.lineEntry k line with
  | none =>
    rw [s.writeBackOne_of_none k line he]
    exact CacheMoves.refl k s
  | some l =>
    refine CacheMoves.of_line (line := line) (s.writeBackOne_memOk k line) (fun hs => ?_) (fun hs j hj => ?_)
    · unfold State.lineView
      rw [State.lineEntry_writeBackOne, if_pos rfl, he, s.writeBackOne_of_some k line l he]
      exact .writeBack l _ _ _ _ (s.homeWriteLine_home_same _ _ _ _ _ hs) fun hp => by
        rw [hp]
        exact s.homeWriteLine_poison_same _ _ _ _
    · unfold State.lineView
      rw [State.lineEntry_writeBackOne, if_neg hj, s.writeBackOne_of_some k line l he]
      congr 1
      · exact s.homeWriteLine_home_ne _ _ _ _ _ hs j hj
      · exact s.homeWriteLine_poison_ne _ _ _ _ _ j hj

theorem State.classBack_moves (s : State) (k mask : Nat) : CacheMoves k s (s.classBack k mask) :=
  CacheMoves.foldl _ (fun t l => t.writeBackOne_moves k l) _ s

theorem State.writeBack_moves (s : State) (k line : Nat) : CacheMoves k s (s.writeBack k line) := by
  cases he : s.lineEntry k line with
  | none =>
    rw [s.writeBack_of_none k line he]
    exact CacheMoves.refl k s
  | some l =>
    rw [s.writeBack_of_some k line l he]
    split
    · exact CacheMoves.refl k s
    · exact (s.classBack_moves k _).trans (State.writeBackOne_moves _ k line)

theorem State.delLine_moves (s : State) (k line : Nat) (h : ∀ l, s.lineEntry k line = some l → l.dirty = 0) :
    CacheMoves k s (s.delLine k line) := fun hs => by
  refine ⟨hs, fun j => ?_⟩
  unfold State.lineView
  rw [State.lineEntry_delLine]
  split
  · next e =>
    subst e
    cases he : s.lineEntry k j with
    | none => exact .refl
    | some l => exact .single (.drop l _ _ (h l he))
  · exact .refl

theorem State.evict_moves (s : State) (k line : Nat) : CacheMoves k s (s.evict k line) :=
  (s.writeBack_moves k line).trans (State.delLine_moves _ k line (s.writeBack_dirty k line))

theorem State.makeRoom_moves (s : State) (k : Nat) : CacheMoves k s (s.makeRoom k) := by
  unfold State.makeRoom
  split
  · split
    · exact s.evict_moves k _
    · exact CacheMoves.refl k s
  · exact CacheMoves.refl k s

theorem State.fill_moves (s : State) (k cls line : Nat) : CacheMoves k s (s.fill k cls line) := by
  unfold State.fill
  split
  · exact CacheMoves.refl k s
  · have hnone := (s.evict k line).makeRoom_absent k line (s.evict_absent_same k line)
    refine ((s.evict_moves k line).trans (State.makeRoom_moves _ k)).trans ?_
    generalize (s.evict k line).makeRoom k = u at hnone
    refine CacheMoves.of_line (line := line) (t := u.putLine k line _) id (fun _ => ?_) (fun _ j hj => ?_)
    · unfold State.lineView
      rw [State.lineEntry_putLine, if_pos rfl, hnone]
      exact .fill _ _ _
    · unfold State.lineView
      rw [State.lineEntry_putLine, if_neg hj]
      rfl

/-! ### What survives the moves -/

/-- Bit i of the line reads b, and goes on to: a clean copy agrees with the home in it. -/
def LineView.Reads (x : LineView) (i : Nat) (b : Bool) : Prop :=
  match x.entry with
  | some l => l.data.testBit i = b ∧ (l.dirty.testBit i = true ∨ x.home.testBit i = b)
  | none => x.home.testBit i = b

/-- The line reads poisoned, and goes on to: the poison is at home, or comes home with the dirty bits. -/
def LineView.Poisoned (x : LineView) : Prop :=
  match x.entry with
  | some l => l.pois = true ∧ ((l.wpois = true ∧ l.dirty ≠ 0) ∨ x.pois = true)
  | none => x.pois = true

theorem LineMove.reads {x y : LineView} (h : LineMove x y) {i : Nat} {b : Bool} (hi : i < 512) (hx : x.Reads i b) : y.Reads i b := by
  cases h with
  | writeBack l h h' p p' hh hp =>
    obtain ⟨hdata, hhome⟩ := hx
    refine ⟨hdata, .inr ?_⟩
    show h'.testBit i = b
    rw [hh i hi]
    rcases hhome with hd | hhome
    · rw [if_pos hd, hdata]
    · rw [hdata, show h.testBit i = b from hhome, ite_self]
  | drop l h p hd =>
    obtain ⟨_, hdirty | hhome⟩ := hx
    · simp [hd] at hdirty
    · exact hhome
  | fill h p c => exact ⟨hx, .inr hx⟩

theorem LineMove.poisoned {x y : LineView} (h : LineMove x y) (hx : x.Poisoned) : y.Poisoned := by
  cases h with
  | writeBack l h h' p p' hh hp =>
    obtain ⟨hpois, hhome⟩ := hx
    refine ⟨hpois, .inr ?_⟩
    show p' = true
    rw [hp hpois]
    rcases hhome with ⟨hw, hd⟩ | hhome
    · simp [hw, hd]
    · simp [show p = true from hhome]
  | drop l h p hd =>
    obtain ⟨_, ⟨_, hdirty⟩ | hhome⟩ := hx
    · exact absurd hd hdirty
    · exact hhome
  | fill h p c => exact ⟨hx, .inr hx⟩

theorem LineMove.reads_of_moves {x y : LineView} (h : Relation.ReflTransGen LineMove x y) {i : Nat} {b : Bool} (hi : i < 512)
    (hx : x.Reads i b) : y.Reads i b := by
  induction h with
  | refl => exact hx
  | tail _ m ih => exact m.reads hi ih

theorem LineMove.poisoned_of_moves {x y : LineView} (h : Relation.ReflTransGen LineMove x y) (hx : x.Poisoned) : y.Poisoned := by
  induction h with
  | refl => exact hx
  | tail _ m ih => exact m.poisoned ih

/-- Core k reads bits fa to fa + w − 1, as far as they lie in the line, as those of v, and the line as poisoned where p is set; and goes on to. -/
structure State.LineHolds (s : State) (k fa w v : Nat) (p : Bool) (line : Nat) : Prop where
  reads : ∀ i, i < 512 → fa ≤ line * 512 + i → line * 512 + i < fa + w → (s.lineView k line).Reads i (v.testBit (line * 512 + i - fa))
  poisoned : p = true → (s.lineView k line).Poisoned

/-- What a line holds survives the moves of the cache. -/
theorem State.LineHolds.moves {s t : State} {k fa w v line : Nat} {p : Bool} (h : s.LineHolds k fa w v p line)
    (hm : Relation.ReflTransGen LineMove (s.lineView k line) (t.lineView k line)) : t.LineHolds k fa w v p line where
  reads i hi h1 h2 := LineMove.reads_of_moves hm hi (h.reads i hi h1 h2)
  poisoned hp := LineMove.poisoned_of_moves hm (h.poisoned hp)

/-! ### Writing and reading through the cache -/

/-- A fold that sets a property at each element of a list, and keeps it at the others, has it at all of them. -/
theorem foldl_establishes {α : Type} (f : State → α → State) (I : State → Prop) (P : State → α → Prop) (L : List α)
    (hI : ∀ s x, I s → I (f s x)) (hset : ∀ s, I s → ∀ x ∈ L, P (f s x) x) (hkeep : ∀ s, I s → ∀ x ∈ L, ∀ y, P s y → P (f s x) y)
    (s : State) (hs : I s) (y : α) (hy : y ∈ L ∨ P s y) : P (L.foldl f s) y := by
  induction L generalizing s with
  | nil => exact hy.resolve_left (by simp)
  | cons x t ih =>
    refine ih (fun s hs z hz => hset s hs z (by simp [hz])) (fun s hs z hz => hkeep s hs z (by simp [hz])) _ (hI s x hs) ?_
    rcases hy with hy | hy
    · rcases List.mem_cons.1 hy with rfl | hy
      · exact .inr (hset s hs y (by simp))
      · exact .inl hy
    · exact .inr (hkeep s hs x (by simp) y hy)

/-- The part of a cached write that lies in one line. -/
def State.writeLine (s : State) (k cls fa w v : Nat) (p : Bool) (line : Nat) : State :=
  let s := s.fill k cls line
  let l := s.cacheLine k line
  let sl := lineSlice fa w line
  s.putLine k line { l with
    data := putField l.data sl.1 sl.2.2 (v / 2 ^ sl.2.1), dirty := l.dirty ||| ones sl.1 sl.2.2,
    pois := p || (l.pois && sl.2.2 != 512), wpois := p || (l.wpois && sl.2.2 != 512) }

theorem State.cacheWrite_eq (s : State) (k cls fa w v : Nat) (p : Bool) :
    s.cacheWrite k cls fa w v p = (linesOf fa w).foldl (fun s line => s.writeLine k cls fa w v p line) s := rfl

theorem State.writeLine_memOk (s : State) (k cls fa w v : Nat) (p : Bool) (line : Nat) (h : MemOk s) :
    MemOk (s.writeLine k cls fa w v p line) := s.fill_memOk k cls line h

/-- A write of a line leaves its bits there, dirty, and its poison. -/
theorem State.writeLine_holds (s : State) (k cls fa w v : Nat) (p : Bool) (line : Nat) (h : line ∈ linesOf fa w) :
    (s.writeLine k cls fa w v p line).LineHolds k fa w v p line := by
  obtain ⟨hw, hlo, hhi⟩ := (mem_linesOf fa w line).1 h
  have hview : ((s.writeLine k cls fa w v p line).lineView k line).entry = _ :=
    ((s.fill k cls line).lineEntry_putLine k line _ line).trans (if_pos rfl)
  constructor
  · intro i hi h1 h2
    unfold LineView.Reads
    rw [hview]
    simp only [lineSlice]
    have hin : max fa (line * 512) - line * 512 ≤ i ∧
        i < max fa (line * 512) - line * 512 + (min (fa + w) ((line + 1) * 512) - max fa (line * 512)) := by omega
    refine ⟨?_, .inl ?_⟩
    · rw [testBit_putField, if_pos hin, Nat.testBit_div_two_pow]
      congr 1
      omega
    · rw [Nat.testBit_or, testBit_ones]
      simp [hin]
  · intro hp
    unfold LineView.Poisoned
    rw [hview]
    refine ⟨by simp [hp], .inl ⟨by simp [hp], ?_⟩⟩
    have hpos : 0 < (lineSlice fa w line).2.2 := by
      simp only [lineSlice]
      omega
    intro h0
    exact ones_ne_zero _ _ hpos (Nat.or_eq_zero_iff.1 h0).2

/-- A write of a line leaves what another line holds, whichever lines leave the cache for it. -/
theorem State.writeLine_keeps (s : State) (k cls fa w v : Nat) (p : Bool) (line j : Nat) (hs : MemOk s) (hj : j ≠ line)
    (h : s.LineHolds k fa w v p j) : (s.writeLine k cls fa w v p line).LineHolds k fa w v p j := by
  have hview : (s.writeLine k cls fa w v p line).lineView k j = (s.fill k cls line).lineView k j := by
    unfold State.lineView State.writeLine
    rw [State.lineEntry_putLine, if_neg hj]
    rfl
  refine h.moves ?_
  rw [hview]
  exact (s.fill_moves k cls line hs).2 j

/-- A cached write is held by every line it touches. -/
theorem State.cacheWrite_holds (s : State) (k cls fa w v : Nat) (p : Bool) (hs : MemOk s) (line : Nat) (hl : line ∈ linesOf fa w) :
    (s.cacheWrite k cls fa w v p).LineHolds k fa w v p line := by
  rw [s.cacheWrite_eq]
  refine foldl_establishes _ MemOk (fun t j => t.LineHolds k fa w v p j) _ (fun t x ht => t.writeLine_memOk _ _ _ _ _ _ x ht)
    (fun t _ x hx => t.writeLine_holds k cls fa w v p x hx) (fun t ht x hx y hy => ?_) s hs line (.inl hl)
  by_cases e : y = x
  · exact e ▸ t.writeLine_holds k cls fa w v p x hx
  · exact t.writeLine_keeps k cls fa w v p x y ht e hy

/-- What the core reads of a line has the bits that the line reads. -/
theorem State.testBit_cacheLine {s : State} {k line i : Nat} {b : Bool} (h : (s.lineView k line).Reads i b) :
    (s.cacheLine k line).data.testBit i = b := by
  simp only [LineView.Reads, State.lineView] at h
  rw [s.cacheLine_eq]
  cases he : s.lineEntry k line with
  | none =>
    rw [he] at h
    exact h
  | some l =>
    rw [he] at h
    exact h.1

/-- What the core reads of a line that holds v is v's field. -/
theorem State.LineHolds.field_cacheLine {s : State} {k fa w v line : Nat} {p : Bool} (h : s.LineHolds k fa w v p line) :
    field (s.cacheLine k line).data (lineSlice fa w line).1 (lineSlice fa w line).2.2 =
      field v (lineSlice fa w line).2.1 (lineSlice fa w line).2.2 := by
  apply Nat.eq_of_testBit_eq
  intro i
  rw [testBit_field, testBit_field]
  by_cases hi : i < (lineSlice fa w line).2.2
  · simp only [hi, decide_true, Bool.true_and]
    simp only [lineSlice] at hi ⊢
    rw [State.testBit_cacheLine (h.reads _ (by omega) (by omega) (by omega))]
    congr 1
    omega
  · simp [hi]

theorem State.LineHolds.pois_cacheLine {s : State} {k fa w v line : Nat} (h : s.LineHolds k fa w v true line) :
    (s.cacheLine k line).pois = true := by
  have hp := h.poisoned rfl
  simp only [LineView.Poisoned, State.lineView] at hp
  rw [s.cacheLine_eq]
  cases he : s.lineEntry k line with
  | none =>
    rw [he] at hp
    exact hp
  | some l =>
    rw [he] at hp
    exact hp.1

/-- The part of a cached read that lies in one line, added to what the lines before it gave. -/
def State.readLine (k cls fa w : Nat) (r : State × Nat × Bool) (line : Nat) : State × Nat × Bool :=
  let s := r.1.fill k cls line
  let l := s.cacheLine k line
  let sl := lineSlice fa w line
  (s, r.2.1 + field l.data sl.1 sl.2.2 * 2 ^ sl.2.1, r.2.2 || l.pois)

/-- The first n lines of a cached read, where every line holds v: the bits of v they cover, with its poison. -/
theorem State.readLine_range (s : State) (k cls fa w v : Nat) (p : Bool) (hs : MemOk s)
    (h : ∀ line ∈ linesOf fa w, s.LineHolds k fa w v p line) (n : Nat) (hn : n ≤ (fa + w - 1) / 512 - fa / 512 + 1) (hw : 0 < w) :
    let r := ((List.range n).map (· + fa / 512)).foldl (State.readLine k cls fa w) (s, 0, false)
    CacheMoves k s r.1 ∧ r.2.1 = v % 2 ^ (min (fa + w) ((fa / 512 + n) * 512) - fa) ∧ (p = true → 0 < n → r.2.2 = true) := by
  induction n with
  | zero =>
    refine ⟨CacheMoves.refl k s, ?_, by simp⟩
    rw [show min (fa + w) ((fa / 512 + 0) * 512) - fa = 0 by omega, Nat.pow_zero, Nat.mod_one]
    rfl
  | succ n ih =>
    obtain ⟨hmoves, hval, _⟩ := ih (by omega)
    rw [List.range_succ, List.map_append, List.foldl_append]
    generalize ((List.range n).map (· + fa / 512)).foldl (State.readLine k cls fa w) (s, 0, false) = r at hmoves hval
    set line := n + fa / 512 with hline
    have hmoves' := hmoves.trans (r.1.fill_moves k cls line)
    have hholds := (h line ((mem_linesOf _ _ _).2 (by omega))).moves ((hmoves' hs).2 line)
    refine ⟨hmoves', ?_, fun hp _ => ?_⟩
    · show r.2.1 + _ * _ = _
      rw [hholds.field_cacheLine, hval]
      simp only [lineSlice]
      rw [show max fa (line * 512) - fa = min (fa + w) ((fa / 512 + n) * 512) - fa by omega,
        ← mod_two_pow_add]
      congr 2
      omega
    · subst hp
      show (r.2.2 || _) = true
      rw [hholds.pois_cacheLine, Bool.or_true]

/-- A cached read of bits that their lines hold gives them, poisoned where they are. -/
theorem State.cacheRead_of_holds (s : State) (k cls fa w v : Nat) (p : Bool) (hs : MemOk s) (hw : 0 < w)
    (h : ∀ line ∈ linesOf fa w, s.LineHolds k fa w v p line) :
    (s.cacheRead k cls fa w).2.1 = v % 2 ^ w ∧ (p = true → (s.cacheRead k cls fa w).2.2 = true) := by
  have e : s.cacheRead k cls fa w =
      ((List.range ((fa + w - 1) / 512 - fa / 512 + 1)).map (· + fa / 512)).foldl (State.readLine k cls fa w) (s, 0, false) := by
    have hl : linesOf fa w = _ := if_neg (by omega)
    rw [← hl]
    rfl
  obtain ⟨_, hval, hpois⟩ := s.readLine_range k cls fa w v p hs h _ le_rfl hw
  rw [e, hval]
  refine ⟨?_, fun hp => hpois hp (by omega)⟩
  congr 2
  omega

/-! ### Writing and reading at the home -/

theorem State.homeWrite_mem (s : State) (fa w v : Nat) (p : Bool) : (s.homeWrite fa w v p).mem = Mem.writeBits s.mem fa w v := by
  unfold State.homeWrite
  refine List.foldlRecOn (motive := fun t : State => t.mem = Mem.writeBits s.mem fa w v) _ _ rfl fun t ht l _ => ?_
  simp only
  repeat' split
  all_goals exact ht

theorem State.homeWrite_cores (s : State) (fa w v : Nat) (p : Bool) : (s.homeWrite fa w v p).cores = s.cores := by
  unfold State.homeWrite
  refine List.foldlRecOn (motive := fun t : State => t.cores = s.cores) _ _ rfl fun t ht l _ => ?_
  simp only
  repeat' split
  all_goals exact ht

/-- Poisoned data poisons every line it is written to (R95). -/
theorem State.homeWrite_poison (s : State) (fa w v l : Nat) (hl : l ∈ linesOf fa w) :
    hasNat (s.homeWrite fa w v true).poison l = true := by
  unfold State.homeWrite
  refine foldl_establishes _ (fun _ => True) (fun t j => hasNat t.poison j = true) _ (fun _ _ _ => trivial)
    (fun t _ x _ => ?_) (fun t _ x _ y hy => ?_) _ trivial l (.inl hl)
  · exact State.hasNat_setPoison_same _ _ _
  · by_cases e : y = x
    · exact e ▸ State.hasNat_setPoison_same _ _ _
    · exact (State.hasNat_setPoison_ne _ _ _ _ e).trans hy

/-- Lines evicted one after the other are all out of the cache. -/
theorem State.evictAll_absent (s : State) (k : Nat) (L : List Nat) (l : Nat) (hl : l ∈ L) :
    (L.foldl (fun s l => s.evict k l) s).lineEntry k l = none :=
  foldl_establishes _ (fun _ => True) (fun t j => t.lineEntry k j = none) L (fun _ _ _ => trivial)
    (fun t _ x _ => t.evict_absent_same k x) (fun t _ x _ y hy => t.evict_absent k x y hy) s trivial l (.inl hl)

/-- To evict lines that the cache does not hold changes nothing at home. -/
theorem State.evictAll_of_absent (s : State) (k : Nat) (L : List Nat) (h : ∀ l ∈ L, s.lineEntry k l = none) :
    (L.foldl (fun s l => s.evict k l) s).mem = s.mem ∧ (L.foldl (fun s l => s.evict k l) s).poison = s.poison := by
  induction L generalizing s with
  | nil => exact ⟨rfl, rfl⟩
  | cons l t ih =>
    have hl : s.evict k l = s.delLine k l := by rw [s.evict_eq, s.writeBack_of_none k l (h l (by simp))]
    have ih := ih (s.evict k l) fun j hj => s.evict_absent k l j (h j (by simp [hj]))
    rw [hl] at ih
    rw [List.foldl_cons, hl]
    exact ih

/-! ### A part written and read back -/

/-- A part whose bits are served by the agent's own line cache. -/
theorem State.writePiece_cached (s : State) (ag : Agent) (sid : Option Nat) (cls v : Nat) (pz : Bool) (p : Piece)
    (h : (p.tr.cached && ag.onCore) = true) :
    s.writePiece ag sid cls false v pz p =
      ((s.ownStore sid p.tr.fa p.len).cacheWrite ag.core cls p.tr.fa p.len (v / 2 ^ p.off % 2 ^ p.len) pz, true) := by
  simp [State.writePiece, h]

theorem State.readPiece_cached (s : State) (ag : Agent) (cls : Nat) (p : Piece) (hd : p.tr.device = false)
    (h : (p.tr.cached && ag.onCore) = true) :
    s.readPiece ag cls false p =
      ((s.cacheRead ag.core cls p.tr.fa p.len).1, .ok (s.cacheRead ag.core cls p.tr.fa p.len).2.1 (s.cacheRead ag.core cls p.tr.fa p.len).2.2) := by
  simp [State.readPiece, h, hd]

theorem State.ownStore_memOk (s : State) (sid : Option Nat) (fa w : Nat) (h : MemOk s) : MemOk (s.ownStore sid fa w) := by
  unfold State.ownStore
  split <;> exact h

/-- A part that no line cache serves is written at its home; where it is a DEV range, its lines are then out of the core's cache (R265, R266). -/
theorem State.writePiece_uncached (s : State) (ag : Agent) (sid : Option Nat) (cls v : Nat) (pz : Bool) (p : Piece)
    (hs : MemOk s) (hd : p.tr.device = false) (h : (p.tr.cached && ag.onCore) = false) :
    ∃ t, MemOk t ∧ ((ag.onCore && p.tr.dev) = true → ∀ l ∈ linesOf p.tr.fa p.len, t.lineEntry ag.core l = none) ∧
      s.writePiece ag sid cls false v pz p = (t.homeWrite p.tr.fa p.len (v / 2 ^ p.off % 2 ^ p.len) pz, true) := by
  have hb : MemOk (if ag.onCore then (s.ownStore sid p.tr.fa p.len).classBack ag.core (2 ^ cls) else s.ownStore sid p.tr.fa p.len) := by
    split
    · exact State.classBack_memOk _ _ _ (s.ownStore_memOk sid _ _ hs)
    · exact s.ownStore_memOk sid _ _ hs
  simp only [State.writePiece, h, hd, Bool.false_and, Bool.false_eq_true, ite_false, Bool.false_or]
  generalize (if ag.onCore then (s.ownStore sid p.tr.fa p.len).classBack ag.core (2 ^ cls) else s.ownStore sid p.tr.fa p.len) = u at hb
  refine ⟨_, ?_, fun hdev l hl => ?_, rfl⟩
  · split
    · exact memOk_foldl _ _ (fun s l hs => s.evict_memOk ag.core l hs) u hb
    · exact hb
  · rw [if_pos (by simp [hdev])]
    exact u.evictAll_absent ag.core _ l hl

/-- A part that no line cache serves is read at its home, as it stands there where its lines are out of the core's cache. -/
theorem State.readPiece_uncached (s : State) (ag : Agent) (cls : Nat) (p : Piece) (hd : p.tr.device = false)
    (h : (p.tr.cached && ag.onCore) = false)
    (ha : (ag.onCore && p.tr.dev) = true → ∀ l ∈ linesOf p.tr.fa p.len, s.lineEntry ag.core l = none) :
    ∃ u, s.readPiece ag cls false p = (u, .ok (s.home p.tr.fa p.len) (s.homePois p.tr.fa p.len)) := by
  simp only [State.readPiece, h, hd, Bool.false_and, Bool.false_eq_true, ite_false, Bool.false_or]
  split
  · next hdev =>
    obtain ⟨hmem, hpoison⟩ := s.evictAll_of_absent ag.core (linesOf p.tr.fa p.len) (ha hdev)
    unfold State.home State.homePois
    rw [hmem, hpoison]
    exact ⟨_, rfl⟩
  · exact ⟨_, rfl⟩

/-- A line cache gives back what was written into it (R189). -/
theorem State.readPiece_writePiece_cached (s : State) (ag : Agent) (sid : Option Nat) (cls v : Nat) (pz : Bool) (p : Piece)
    (hs : MemOk s) (hlen : 0 < p.len) (hd : p.tr.device = false) (h : (p.tr.cached && ag.onCore) = true) :
    ∃ u q, (s.writePiece ag sid cls false v pz p).1.readPiece ag cls false p = (u, .ok (v / 2 ^ p.off % 2 ^ p.len) q) ∧
      (pz = true → q = true) := by
  have ho := s.ownStore_memOk sid p.tr.fa p.len hs
  rw [s.writePiece_cached ag sid cls v pz p h, State.readPiece_cached _ ag cls p hd h]
  obtain ⟨hval, hpois⟩ := State.cacheRead_of_holds _ ag.core cls p.tr.fa p.len (v / 2 ^ p.off % 2 ^ p.len) pz
    (State.cacheWrite_memOk _ _ cls _ _ _ pz ho) hlen (State.cacheWrite_holds _ ag.core cls _ _ _ pz ho)
  rw [Nat.mod_mod] at hval
  exact ⟨_, _, by rw [hval], hpois⟩

/-- The home gives back what was written there (R6). -/
theorem State.readPiece_writePiece_uncached (s : State) (ag : Agent) (sid : Option Nat) (cls v : Nat) (pz : Bool) (p : Piece)
    (hs : MemOk s) (hlen : 0 < p.len) (hd : p.tr.device = false) (h : (p.tr.cached && ag.onCore) = false) :
    ∃ u q, (s.writePiece ag sid cls false v pz p).1.readPiece ag cls false p = (u, .ok (v / 2 ^ p.off % 2 ^ p.len) q) ∧
      (pz = true → q = true) := by
  obtain ⟨t, ht, habsent, hwrite⟩ := s.writePiece_uncached ag sid cls v pz p hs hd h
  rw [hwrite]
  obtain ⟨u, hread⟩ := State.readPiece_uncached (t.homeWrite p.tr.fa p.len (v / 2 ^ p.off % 2 ^ p.len) pz) ag cls p hd h
    fun hdev l hl => (State.lineEntry_of_cores _ _ (t.homeWrite_cores _ _ _ _) _ _).trans (habsent hdev l hl)
  have hval : (t.homeWrite p.tr.fa p.len (v / 2 ^ p.off % 2 ^ p.len) pz).home p.tr.fa p.len = v / 2 ^ p.off % 2 ^ p.len := by
    rw [State.home, t.homeWrite_mem, Mem.readBits_writeBits _ _ _ _ ht, Nat.mod_mod]
  rw [hval] at hread
  refine ⟨u, _, hread, fun hp => ?_⟩
  subst hp
  have hfirst : p.tr.fa / 512 ∈ linesOf p.tr.fa p.len := (mem_linesOf _ _ _).2 (by omega)
  exact List.any_eq_true.2 ⟨_, hfirst, t.homeWrite_poison _ _ _ _ hfirst⟩

/-- Settles O11: where the agent's line cache serves the part, the lines hold the written bits until they are read, through every fill and write-back between;
else the part is written and read at its home. -/
theorem storeThenLoad : Obligations.StoreThenLoad := by
  unfold Obligations.StoreThenLoad
  intro s t ag sid cls v pz p hs hoff hlen hd hwrite
  have hback : ∃ u q, (s.writePiece ag sid cls false v pz p).1.readPiece ag cls false p = (u, .ok (v / 2 ^ p.off % 2 ^ p.len) q) ∧
      (pz = true → q = true) := by
    cases h : p.tr.cached && ag.onCore with
    | true => exact s.readPiece_writePiece_cached ag sid cls v pz p hs hlen hd h
    | false => exact s.readPiece_writePiece_uncached ag sid cls v pz p hs hlen hd h
  rwa [hwrite, hoff, Nat.pow_zero, Nat.div_one] at hback

end Sys2Proof.Machine
end

section
/-!
SUPPORT. The fate of an opcode of a profile (R16), and what the check that every matrix long form makes first does with it (R243).
-/

namespace Sys2Proof.Machine

/-! ### The fate of an opcode -/

section
variable {s : State} {sid : Nat} {p : Profile} {q : Gang}

theorem dieHas_iff (d : Nat) (p : Profile) : dieHas d p = true ↔ (dieProfiles d).testBit p.bit = true := by
  rw [dieHas, bitAt_eq_testBit]

/-- The test that turns an undeclared opcode away: S1 is declared by every gang. -/
theorem undeclared_iff (q : Gang) (p : Profile) :
    (p != .s1 && !bitAt q.profiles p.bit) = true ↔ ¬ (p = .s1 ∨ q.profiles.testBit p.bit = true) := by
  simp [bitAt_eq_testBit]

/-- In a strand of a gang the declaration counts first, then what the die carries, then whether the gang may move (R16). -/
theorem State.fate_of_gang (hsup : (s.strand sid).sup = false) (hq : s.gangOf sid = some q) :
    s.fate sid p =
      if p = .s1 ∨ q.profiles.testBit p.bit = true then
        if (dieProfiles (dieOf (coreOf sid))).testBit p.bit = true then .runs
        else if q.migratable = true then .migrate else .illegal
      else .illegal := by
  simp only [State.fate, hsup, hq, undeclared_iff, dieHas_iff, ite_not, Bool.false_eq_true, if_false]

end

theorem profileFate : Spec.ProfileFate := by
  intro s sid p q hsup hq
  rw [State.fate_of_gang hsup hq]
  refine ⟨fun hdecl hcarries => ?_, fun hdecl hlacks hmig => ?_, fun hdecl hlacks hfixed => ?_, fun hundecl => ?_⟩
  · rw [if_pos hdecl, if_pos hcarries]
  · rw [if_pos hdecl, if_neg hlacks, if_pos hmig]
  · rw [if_pos hdecl, if_neg hlacks, if_neg (by simp [hfixed])]
  · rw [if_neg hundecl]

/-! ### The check of a matrix long form -/

section
variable {s : State} {p : Profile} {k : State → Res}

theorem State.profile_of_runs (h : s.fate s.cur p = .runs) : s.profile p = none := by
  simp only [State.profile, h]

theorem State.profile_of_illegal (h : s.fate s.cur p = .illegal) : s.profile p = some (s.trap 1) := by
  simp only [State.profile, h]

theorem State.profile_of_migrate (h : s.fate s.cur p = .migrate) : s.profile p = some (.next (s.takeMigrate s.cur s.me.pc false 0 p)) := by
  simp only [State.profile, h]

/-- Where M1 runs, a strand other than the matrix control strand raises ILLEGAL. -/
theorem State.mxForm_of_runs (h : s.fate s.cur .m1 = .runs) (hctx : ctxOf s.cur ≠ 8) : s.mxForm k = s.trap 1 := by
  simp only [State.mxForm, State.profile_of_runs h, if_neg hctx]

theorem State.mxForm_of_illegal (h : s.fate s.cur .m1 = .illegal) : s.mxForm k = s.trap 1 := by
  simp only [State.mxForm, State.profile_of_illegal h]

/-- The profile is asked for before the strand is, so that any strand migrates its group (R22, R243). -/
theorem State.mxForm_of_migrate (h : s.fate s.cur .m1 = .migrate) : s.mxForm k = .next (s.takeMigrate s.cur s.me.pc false 0 .m1) := by
  simp only [State.mxForm, State.profile_of_migrate h]

end

/-- An instruction that makes the check of R243 before anything else. -/
def ChecksMatrix (i : Instr) : Prop := ∃ k : State → Res, ∀ s : State, exec i s = s.mxForm k

theorem ChecksMatrix.fate {i : Instr} (hi : ChecksMatrix i) (s : State) :
    (s.fate s.cur .m1 = .runs → ctxOf s.cur ≠ 8 → Spec.Raises s i 1 0) ∧ (s.fate s.cur .m1 = .illegal → Spec.Raises s i 1 0) ∧
    (s.fate s.cur .m1 = .migrate → exec i s = .next (s.takeMigrate s.cur s.me.pc false 0 .m1)) := by
  obtain ⟨k, hk⟩ := hi
  unfold Spec.Raises
  rw [hk]
  exact ⟨State.mxForm_of_runs, State.mxForm_of_illegal, State.mxForm_of_migrate⟩

/-- Each of the eleven matrix long forms is the check of R243, and then its own work. -/
theorem checksMatrix_of_mem {rd rs rst ri rn : Reg} {fmt w1 : BitVec 3} {cls : BitVec 4} {row count1 : BitVec 6} {slot : BitVec 4}
    {flags f : BitVec 2} {geom sel : BitVec 3} :
    ∀ i ∈ [.mcfg geom, .mldb rd rs rst fmt w1 cls, .mldbX rd rs rst ri rn fmt w1 cls, .mma rd row slot, .mvrdSgn rd row slot, .mvrdTopk rd row slot,
      .mclr rd row count1 flags, .mstc rd rs rst row count1 f cls, .mthr rd row, .mthw rs row, .mstat rd sel], ChecksMatrix i := by
  simp only [List.forall_mem_cons, List.not_mem_nil, false_imp_iff, implies_true, and_true]
  refine ⟨?_, ?_, ?_, ?_, ?_, ?_, ?_, ?_, ?_, ?_, ?_⟩ <;> exact ⟨_, fun _ => rfl⟩

theorem matrixFate : Spec.MatrixFate := by
  intro s rd rs rst ri rn fmt w1 cls row count1 slot flags f geom sel i hi
  exact (checksMatrix_of_mem i hi).fate s

/-- Settles O29: a matrix long form's fate is that of the check it makes first, and the fate of an opcode in a gang's strand is R16's three questions in order. -/
theorem fates : Obligations.Fates := by
  unfold Obligations.Fates
  exact ⟨matrixFate, profileFate⟩

end Sys2Proof.Machine
end

section
/-!
SUPPORT. What an access to memory can change (R87, R90, R95, R109, R189, R335): memory at its homes and its poison, link tags, the cores' caches and lookaside
buffers, ownership transfers, and what devices were sent and answered. Every strand, group, die, submission and command is as it was.
-/

namespace Sys2Proof.Machine

/-- t is s but for what an access to memory changes. -/
def SameButAccess (s t : State) : Prop :=
  t = { s with mem := t.mem, poison := t.poison, tags := t.tags, broken := t.broken, cores := t.cores, transfers := t.transfers
               devIn := t.devIn, devOut := t.devOut, freeCtr := t.freeCtr }

namespace SameButAccess

variable {s t u : State}

theorem refl (s : State) : SameButAccess s s := rfl

theorem trans (h : SameButAccess s t) (k : SameButAccess t u) : SameButAccess s u := by
  unfold SameButAccess at *
  rw [k, h]

theorem foldl {α : Type} (f : State → α → State) (h : ∀ s x, SameButAccess s (f s x)) (l : List α) (s : State) : SameButAccess s (l.foldl f s) :=
  List.foldlRecOn (motive := fun t => SameButAccess s t) _ _ (refl s) fun t ht x _ => ht.trans (h t x)

theorem of_check (h : SameButCheck s t) : SameButAccess s t := by
  unfold SameButCheck at h
  unfold SameButAccess
  rw [h]

variable (h : SameButAccess s t)
include h

theorem cur : t.cur = s.cur := by rw [h]
theorem strands : t.strands = s.strands := by rw [h]
theorem groups : t.groups = s.groups := by rw [h]
theorem dies : t.dies = s.dies := by rw [h]
theorem submits : t.submits = s.submits := by rw [h]
theorem hostCmds : t.hostCmds = s.hostCmds := by rw [h]
theorem supEnds : t.supEnds = s.supEnds := by rw [h]

theorem strand (k : Nat) : t.strand k = s.strand k := by rw [State.strand, h.strands, State.strand]

theorem me : t.me = s.me := by rw [State.me, h.cur, h.strand, State.me]

theorem rx (r : Reg) : t.rx r = s.rx r := by rw [State.rx, h.me, State.rx]

theorem myCore : t.myCore = s.myCore := by rw [State.myCore, h.cur, State.myCore]

theorem group? (n : Nat) : t.group? n = s.group? n := by rw [State.group?, h.groups, State.group?]

theorem stream? (d n : Nat) : t.stream? d n = s.stream? d n := by rw [State.stream?, State.die, h.dies, State.stream?, State.die]

theorem hostCmd? (fn : Nat) : t.hostCmd? fn = s.hostCmd? fn := by rw [State.hostCmd?, h.hostCmds, State.hostCmd?]

end SameButAccess

/-! ### The operations that access memory -/

variable (s : State)

theorem State.homeWriteLine_sameButAccess (line data mask : Nat) (p clean : Bool) : SameButAccess s (s.homeWriteLine line data mask p clean) := by
  unfold State.homeWriteLine
  simp only
  repeat' split
  all_goals rfl

theorem State.writeBackOne_sameButAccess (k line : Nat) : SameButAccess s (s.writeBackOne k line) := by
  unfold State.writeBackOne
  split
  · rfl
  · exact (s.homeWriteLine_sameButAccess _ _ _ _ _).trans rfl

theorem State.classBack_sameButAccess (k mask : Nat) : SameButAccess s (s.classBack k mask) :=
  .foldl _ (fun s l => s.writeBackOne_sameButAccess k l) _ s

theorem State.writeBack_sameButAccess (k line : Nat) : SameButAccess s (s.writeBack k line) := by
  unfold State.writeBack
  split
  · rfl
  · split
    · rfl
    · exact (s.classBack_sameButAccess k _).trans (State.writeBackOne_sameButAccess _ k line)

theorem State.evict_sameButAccess (k line : Nat) : SameButAccess s (s.evict k line) := (s.writeBack_sameButAccess k line).trans rfl

theorem State.makeRoom_sameButAccess (k : Nat) : SameButAccess s (s.makeRoom k) := by
  unfold State.makeRoom
  split
  · split
    · exact s.evict_sameButAccess k _
    · rfl
  · rfl

theorem State.fill_sameButAccess (k cls line : Nat) : SameButAccess s (s.fill k cls line) := by
  unfold State.fill
  split
  · rfl
  · exact ((s.evict_sameButAccess k line).trans (State.makeRoom_sameButAccess _ k)).trans rfl

theorem State.relCache_sameButAccess (k mask scope : Nat) : SameButAccess s (s.relCache k mask scope) := by
  unfold State.relCache
  split
  · rfl
  · exact .foldl _ (fun s l => s.writeBack_sameButAccess k l) _ s

theorem State.release_sameButAccess (mask scope : Nat) : SameButAccess s (s.release mask scope) := s.relCache_sameButAccess _ mask scope

theorem State.cleanCore_sameButAccess (k : Nat) : SameButAccess s (s.cleanCore k) := .foldl _ (fun s l => s.writeBack_sameButAccess k l) _ s

theorem State.cacheRead_sameButAccess (k cls fa w : Nat) : SameButAccess s (s.cacheRead k cls fa w).1 :=
  List.foldlRecOn (motive := fun r : State × Nat × Bool => SameButAccess s r.1) _ _ (.refl s) fun r hr line _ => hr.trans (r.1.fill_sameButAccess k cls line)

theorem State.cacheWrite_sameButAccess (k cls fa w v : Nat) (p : Bool) : SameButAccess s (s.cacheWrite k cls fa w v p) :=
  .foldl _ (fun s line => (s.fill_sameButAccess k cls line).trans (.of_check (sameButCores_modCore _ k _).toCheck)) _ s

theorem State.homeWrite_sameButAccess (fa w v : Nat) (p : Bool) : SameButAccess s (s.homeWrite fa w v p) := by
  unfold State.homeWrite
  refine SameButAccess.trans (t := { s with mem := Mem.writeBits s.mem fa w v }) rfl (.foldl _ (fun s l => ?_) _ _)
  simp only
  repeat' split
  all_goals rfl

theorem State.devReads_sameButAccess (w n : Nat) : SameButAccess s (s.devReads w n).1 := by
  induction n generalizing s w with
  | zero => rfl
  | succ n ih =>
    have hd : SameButAccess s s.devRead.1 := by
      unfold State.devRead
      split <;> rfl
    unfold State.devReads
    generalize s.devRead = r at hd ⊢
    obtain ⟨t, _ | v⟩ := r
    · exact hd
    · have h2 := hd.trans (ih t (w - 64))
      simp only
      generalize t.devReads (w - 64) n = q at h2 ⊢
      obtain ⟨u, _ | r⟩ := q <;> exact h2

theorem State.devWrites_sameButAccess (fa w v n : Nat) : SameButAccess s (s.devWrites fa w v n).1 := by
  induction n generalizing s fa w v with
  | zero => rfl
  | succ n ih =>
    have hd : SameButAccess s (s.devWrite fa (min w 64) (v % 2 ^ min w 64)).1 := by
      unfold State.devWrite
      split <;> rfl
    unfold State.devWrites
    generalize s.devWrite fa (min w 64) (v % 2 ^ min w 64) = r at hd ⊢
    obtain ⟨t, _ | _⟩ := r
    · exact hd
    · exact hd.trans (ih t _ _ _)

theorem State.readPiece_sameButAccess (ag : Agent) (cls : Nat) (atHome : Bool) (p : Piece) : SameButAccess s (s.readPiece ag cls atHome p).1 := by
  unfold State.readPiece
  split
  · have hd := s.devReads_sameButAccess p.len (ceilDiv p.len 64)
    generalize s.devReads p.len (ceilDiv p.len 64) = r at hd ⊢
    obtain ⟨t, _ | v⟩ := r <;> exact hd
  · split
    · exact s.cacheRead_sameButAccess _ _ _ _
    · simp only
      split
      · exact .foldl _ (fun s l => s.evict_sameButAccess ag.core l) _ s
      · rfl

theorem State.readPieces_sameButAccess (ag : Agent) (cls : Nat) (atHome : Bool) (l : List Piece) : SameButAccess s (s.readPieces ag cls atHome l).1 := by
  induction l generalizing s with
  | nil => rfl
  | cons p t ih =>
    have h1 := s.readPiece_sameButAccess ag cls atHome p
    unfold State.readPieces
    generalize s.readPiece ag cls atHome p = r at h1 ⊢
    obtain ⟨s1, v | a⟩ := r
    · have h2 := h1.trans (ih s1)
      simp only
      generalize s1.readPieces ag cls atHome t = q at h2 ⊢
      obtain ⟨s2, v | a⟩ := q <;> exact h2
    · exact h1

theorem State.writePiece_sameButAccess (ag : Agent) (sid : Option Nat) (cls : Nat) (atHome : Bool) (v : Nat) (pz : Bool) (p : Piece) :
    SameButAccess s (s.writePiece ag sid cls atHome v pz p).1 := by
  have ho : SameButAccess s (s.ownStore sid p.tr.fa p.len) := by
    unfold State.ownStore
    split <;> rfl
  unfold State.writePiece
  simp only
  split
  · exact ho.trans (State.cacheWrite_sameButAccess _ _ _ _ _ _ _)
  · have hb : SameButAccess s (if ag.onCore then (s.ownStore sid p.tr.fa p.len).classBack ag.core (2 ^ cls) else s.ownStore sid p.tr.fa p.len) := by
      split
      · exact ho.trans (State.classBack_sameButAccess _ _ _)
      · exact ho
    split
    · exact hb.trans (State.devWrites_sameButAccess _ _ _ _ _)
    · refine SameButAccess.trans ?_ (State.homeWrite_sameButAccess _ _ _ _ _)
      split
      · exact hb.trans (.foldl _ (fun s l => s.evict_sameButAccess ag.core l) _ _)
      · exact hb

theorem State.writePieces_sameButAccess (ag : Agent) (sid : Option Nat) (cls : Nat) (atHome : Bool) (v : Nat) (pz : Bool) (l : List Piece) :
    SameButAccess s (s.writePieces ag sid cls atHome v pz l).1 := by
  induction l generalizing s with
  | nil => rfl
  | cons p t ih =>
    have h1 := s.writePiece_sameButAccess ag sid cls atHome v pz p
    unfold State.writePieces
    generalize s.writePiece ag sid cls atHome v pz p = r at h1 ⊢
    obtain ⟨s1, _ | _⟩ := r
    · exact h1
    · exact h1.trans (ih s1)

theorem State.check_sameButAccess (ag : Agent) (want : Want) (a w : Nat) : SameButAccess s (s.check ag want a w).1 := .of_check (s.check_frame ag want a w)

theorem State.checkAll_sameButAccess (ag : Agent) (l : List (Want × Nat × Nat)) : SameButAccess s (s.checkAll ag l).1 :=
  List.foldlRecOn (motive := fun r : State × List Chk => SameButAccess s r.1) _ _ (.refl s) fun r hr x _ => hr.trans (r.1.check_sameButAccess ag x.1 x.2.1 x.2.2)

theorem State.cpRead_sameButAccess (ag : Agent) (a w : Nat) : SameButAccess s (s.cpRead ag a w).1 := by
  have hc := s.check_sameButAccess ag { Want.load with many := true } a w
  unfold State.cpRead
  generalize s.check ag { Want.load with many := true } a w = r at hc ⊢
  obtain ⟨s1, ps | ⟨c, v⟩ | _⟩ := r
  · have hr := hc.trans (s1.readPieces_sameButAccess ag 0 true ps)
    simp only
    generalize s1.readPieces ag 0 true ps = q at hr ⊢
    obtain ⟨s2, ⟨v, _ | _⟩ | a⟩ := q <;> exact hr
  · exact hc
  · exact hc

theorem State.cpWrite_sameButAccess (ag : Agent) (v : Nat) (ps : List Piece) : SameButAccess s (s.cpWrite ag v ps) :=
  s.writePieces_sameButAccess ag none 0 true v false ps

end Sys2Proof.Machine
end

section
/-!
SUPPORT. What a release at package scope leaves (R269), the end of a supervisor strand (R333), and with them TRIG and EXIT (R64, R283, R326).
-/

namespace Sys2Proof.Machine

/-! ### A release writes the dirty lines of its classes back -/

/-- From s to t core k's cache takes no line in and dirties none, and lines keep their classes. -/
def OnlyCleans (k : Nat) (s t : State) : Prop :=
  ∀ n l', t.lineEntry k n = some l' → ∃ l, s.lineEntry k n = some l ∧ l'.classes = l.classes ∧ (l.dirty = 0 → l'.dirty = 0)

theorem OnlyCleans.refl (k : Nat) (s : State) : OnlyCleans k s s := fun _ l h => ⟨l, h, rfl, id⟩

theorem OnlyCleans.trans {k : Nat} {s t u : State} (h : OnlyCleans k s t) (h' : OnlyCleans k t u) : OnlyCleans k s u := fun n l'' hu => by
  obtain ⟨l', ht, hclass', hclean'⟩ := h' n l'' hu
  obtain ⟨l, hs, hclass, hclean⟩ := h n l' ht
  exact ⟨l, hs, hclass'.trans hclass, hclean' ∘ hclean⟩

theorem OnlyCleans.foldl {α : Type} {k : Nat} (f : State → α → State) (h : ∀ s x, OnlyCleans k s (f s x)) (l : List α) (s : State) :
    OnlyCleans k s (l.foldl f s) :=
  List.foldlRecOn (motive := fun t => OnlyCleans k s t) _ _ (.refl k s) fun t ht x _ => ht.trans (h t x)

theorem State.writeBackOne_onlyCleans (s : State) (k line : Nat) : OnlyCleans k s (s.writeBackOne k line) := fun n l' h => by
  rw [State.lineEntry_writeBackOne] at h
  split at h
  · next hn =>
    obtain ⟨l, hl, rfl⟩ := Option.map_eq_some_iff.1 h
    exact ⟨l, hn ▸ hl, rfl, fun _ => rfl⟩
  · exact ⟨l', h, rfl, id⟩

theorem State.writeBack_onlyCleans (s : State) (k line : Nat) : OnlyCleans k s (s.writeBack k line) := by
  cases he : s.lineEntry k line with
  | none =>
    rw [s.writeBack_of_none k line he]
    exact .refl k s
  | some l =>
    rw [s.writeBack_of_some k line l he]
    split
    · exact .refl k s
    · exact (OnlyCleans.foldl _ (fun t l => t.writeBackOne_onlyCleans k l) _ s).trans (State.writeBackOne_onlyCleans _ k line)

theorem Sparse.mem_of_get {α : Type} {l : Sparse α} {n : Nat} {v : α} (h : Sparse.get none (l.map fun p => (p.1, some p.2)) n = some v) :
    (n, v) ∈ l := by
  induction l with
  | nil => simp [Sparse.get] at h
  | cons p t ih =>
    simp only [List.map_cons, Sparse.get] at h
    split at h
    · next hn =>
      cases h
      exact List.mem_cons.2 (.inl (hn ▸ rfl))
    · exact List.mem_cons.2 (.inr (ih h))

theorem State.mem_classLines {s : State} {k n mask : Nat} {l : CLine} (h : s.lineEntry k n = some l) (hl : l.classes &&& mask ≠ 0) :
    n ∈ s.classLines k mask :=
  List.mem_map.2 ⟨(n, l), List.mem_filter.2 ⟨Sparse.mem_of_get h, by simpa using hl⟩, rfl⟩

theorem and_allClasses_ne_zero {m : Nat} (h : ∃ i, i < 16 ∧ m.testBit i = true) : m &&& 0xFFFF ≠ 0 := by
  obtain ⟨i, hi, hm⟩ := h
  intro h
  have hmod : m % 2 ^ 16 = 0 := (Nat.and_two_pow_sub_one_eq_mod m 16).symm.trans h
  have hbit : (m % 2 ^ 16).testBit i = false := by rw [hmod, Nat.zero_testBit]
  simp [-Nat.reducePow, Nat.testBit_mod_two_pow, hm, hi] at hbit

/-- Writing back every line that holds a class of a mask leaves none of them dirty: a line stays clean once it is. -/
theorem State.classLines_writeBack_dirty (s : State) (k mask : Nat) {n : Nat} {l : CLine}
    (h : ((s.classLines k mask).foldl (fun q l => q.writeBack k l) s).lineEntry k n = some l) (hl : l.classes &&& mask ≠ 0) : l.dirty = 0 := by
  obtain ⟨l0, h0, hclass, _⟩ := OnlyCleans.foldl _ (fun t l => t.writeBack_onlyCleans k l) (s.classLines k mask) s n l h
  have hmem : n ∈ s.classLines k mask := State.mem_classLines h0 (hclass ▸ hl)
  refine foldl_establishes _ (fun _ => True) (fun t j => ∀ l, t.lineEntry k j = some l → l.dirty = 0) _ (fun _ _ _ => trivial)
    (fun t _ x _ => t.writeBack_dirty k x) (fun t _ x _ y hy l' hl' => ?_) s trivial n (.inl hmem) l h
  obtain ⟨l, hl, _, hclean⟩ := t.writeBack_onlyCleans k x y l' hl'
  exact hclean (hy l hl)

/-- What has the memory, poison and caches of a release of every class at package scope is released (R269). -/
theorem released_of_release {s t : State} (hmem : t.mem = (s.release allClasses 4).mem) (hpois : t.poison = (s.release allClasses 4).poison)
    (hcores : t.cores = (s.release allClasses 4).cores) : Spec.Released s t s.myCore := by
  refine ⟨hmem, hpois, fun k => ?_, fun n l h hl => ?_⟩
  · rw [State.core, hcores]
    rfl
  · refine s.classLines_writeBack_dirty s.myCore 0xFFFF (n := n) ?_ (and_allClasses_ne_zero hl)
    exact (State.lineEntry_of_cores _ _ hcores.symm _ _).trans h

/-! ### The trigger of a group -/

theorem State.group?_setGroup (s : State) (n : Nat) (g : Group) : (s.setGroup n g).group? n = some g := by
  simp only [State.group?, State.setGroup, Sparse.map_put, Sparse.get_put_same]

theorem State.group?_modGroup {s : State} {n : Nat} {g : Group} (h : s.group? n = some g) (f : Group → Group) :
    (s.modGroup n f).group? n = some (f g) := by
  rw [State.modGroup, h]
  exact s.group?_setGroup n (f g)

/-- The group of the strand whose turn it is is asked whether it has triggered (R63). -/
def State.groupTrig (s : State) : State :=
  match s.me.group with
  | some n => s.updateTrig n
  | none => s

section
variable (s : State)

/-- Asking a group changes the record of groups alone. -/
theorem State.groupTrig_eq : s.groupTrig = { s with groups := s.groupTrig.groups } := by
  unfold State.groupTrig State.updateTrig State.modGroup
  split
  · split <;> rfl
  · rfl

theorem State.groupTrig_me : s.groupTrig.me = s.me := by
  rw [s.groupTrig_eq]
  rfl

theorem State.groupTrig_mem : s.groupTrig.mem = s.mem := by rw [s.groupTrig_eq]
theorem State.groupTrig_poison : s.groupTrig.poison = s.poison := by rw [s.groupTrig_eq]
theorem State.groupTrig_cores : s.groupTrig.cores = s.cores := by rw [s.groupTrig_eq]

end

/-- A group stays triggered, and triggers with its only strand (R63). -/
theorem State.groupTrig_group? {s : State} {n : Nat} {g : Group} (hn : s.me.group = some n) (hg : s.group? n = some g) (htrig : s.me.trig = true) :
    ∃ g', s.groupTrig.group? n = some g' ∧ (g.trig = true → g'.trig = true) ∧ (g.sids = [s.cur] → g.mstarted = false → g'.trig = true) := by
  have heq : s.groupTrig = s.updateTrig n := by simp only [State.groupTrig, hn]
  rw [heq, State.updateTrig, State.group?_modGroup hg]
  refine ⟨_, rfl, fun h => ?_, fun hsids hm => ?_⟩
  · simp [h]
  · have hcur : (s.strand s.cur).trig = true := htrig
    simp [hsids, hm, hcur]

/-! ### The end of a supervisor strand -/

theorem State.foldl_modStrand_eq (f : Strand → Strand) (L : List Nat) (s : State) :
    ∃ strands, L.foldl (fun s k => s.modStrand k f) s = { s with strands := strands } :=
  List.foldlRecOn (motive := fun t : State => ∃ strands, t = { s with strands := strands }) _ _ ⟨s.strands, rfl⟩ fun t ht k _ => by
    obtain ⟨strands, rfl⟩ := ht
    exact ⟨_, rfl⟩

/-- What f keeps of every strand holds of a strand after f has changed any of them. -/
theorem State.foldl_modStrand_strand {P : Strand → Prop} {f : Strand → Strand} (hf : ∀ t, P t → P (f t)) (L : List Nat) {s : State} {j : Nat}
    (h : P (s.strand j)) : P ((L.foldl (fun s k => s.modStrand k f) s).strand j) :=
  List.foldlRecOn (motive := fun t : State => P (t.strand j)) _ _ h fun t ht k _ => by
    by_cases hj : j = k
    · rw [hj, State.modStrand, State.strand_setStrand]
      exact hf _ (hj ▸ ht)
    · rwa [State.modStrand, State.strand_setStrand_ne _ _ _ _ hj]

/-- A change of a core that keeps a field of it keeps that field of every core. -/
theorem State.core_modCore_field {α : Type} (π : Core → α) (s : State) (k j : Nat) {f : Core → Core} (hf : ∀ c, π (f c) = π c) :
    π ((s.modCore k f).core j) = π (s.core j) := by
  by_cases hj : j = k
  · rw [hj, State.modCore, State.core_setCore, hf]
  · rw [State.modCore, State.core_setCore_ne _ _ _ _ hj]

theorem State.writeBackOne_supFn (s : State) (k line j : Nat) : ((s.writeBackOne k line).core j).supFn = (s.core j).supFn := by
  cases h : s.lineEntry k line with
  | none => rw [s.writeBackOne_of_none k line h]
  | some l =>
    rw [s.writeBackOne_of_some k line l h, State.putLine, State.core_modCore_field Core.supFn _ _ _ (by exact fun _ => rfl), State.core,
      s.homeWriteLine_cores, State.core]

theorem State.writeBack_supFn (s : State) (k line j : Nat) : ((s.writeBack k line).core j).supFn = (s.core j).supFn := by
  cases h : s.lineEntry k line with
  | none => rw [s.writeBack_of_none k line h]
  | some l =>
    rw [s.writeBack_of_some k line l h]
    split
    · rfl
    · rw [State.writeBackOne_supFn]
      exact List.foldlRecOn (motive := fun t : State => (t.core j).supFn = (s.core j).supFn) _ _ rfl fun t ht l _ =>
        (t.writeBackOne_supFn k l j).trans ht

theorem State.cleanCore_supFn (s : State) (k j : Nat) : ((s.cleanCore k).core j).supFn = (s.core j).supFn :=
  List.foldlRecOn (motive := fun t : State => (t.core j).supFn = (s.core j).supFn) _ _ rfl fun t ht l _ => (t.writeBack_supFn k l j).trans ht

section
variable (s : State) (sid : Nat)

theorem State.leaveSlots_supFn (keep : List Nat) (j : Nat) : ((s.leaveSlots sid keep).core j).supFn = (s.core j).supFn := by
  unfold State.leaveSlots
  split
  · exact State.core_modCore_field Core.supFn s _ j (by exact fun _ => rfl)
  · rfl

theorem State.leaveSlots_eq (keep : List Nat) : s.leaveSlots sid keep = { s with cores := (s.leaveSlots sid keep).cores } := by
  unfold State.leaveSlots
  split <;> rfl

theorem State.core_dropBroken (j : Nat) : (s.dropBroken sid).core j = s.core j := rfl

theorem State.freeContext_keeps :
    (s.freeContext sid).cur = s.cur ∧ (s.freeContext sid).supEnds = s.supEnds ∧ ∀ j, ((s.freeContext sid).core j).supFn = (s.core j).supFn := by
  have heq := State.leaveSlots_eq ((s.detach sid).dropTags sid) sid []
  have hfn := State.leaveSlots_supFn ((s.detach sid).dropTags sid) sid []
  unfold State.freeContext
  simp only
  generalize ((s.detach sid).dropTags sid).leaveSlots sid [] = u at heq hfn ⊢
  have hcur : u.cur = s.cur := by rw [heq]; rfl
  have hends : u.supEnds = s.supEnds := by rw [heq]; rfl
  refine ⟨hcur, hends, fun j => Eq.trans ?_ (hfn j)⟩
  rw [State.core_dropBroken, State.core_setStrand]
  exact State.core_modCore_field Core.supFn (u.asksNo sid) (coreOf sid) j (by exact fun _ => rfl)

theorem State.freeContext_strand : (s.freeContext sid).strand sid = { grace := (s.strand sid).grace } := State.strand_setStrand _ _ _

end

/-- A held strand's notice waits for the next supervisor strand. -/
def Strand.unpushed (t : Strand) : Strand :=
  match t.hold with
  | some h => { t with hold := some { h with pushed := false } }
  | none => t

theorem Strand.unpushed_phase (t : Strand) : t.unpushed.phase = t.phase := by
  unfold Strand.unpushed
  split <;> rfl

theorem Strand.unpushed_sup (t : Strand) : t.unpushed.sup = t.sup := by
  unfold Strand.unpushed
  split <;> rfl

section
variable {s : State} {k p : Nat} (h : s.supOf k = some p) (cause : Nat)
include h

/-- The supervisor strand ends: its context freed, then its end recorded, then the notices of its core held back. -/
theorem State.endSupervisor_of_supOf :
    s.endSupervisor k cause =
      (coreSids k).foldl (fun s sid => s.modStrand sid Strand.unpushed)
        (let q := (s.cleanCore k).freeContext p
         let fn := (q.core k).supFn
         { q.modCore k (fun c => { c with supEnd := some (fn, cause) }) with
           supEnds := Sparse.put q.supEnds fn ((k, cause) :: Sparse.get [] q.supEnds fn) }) := by
  simp only [State.endSupervisor, h]
  rfl

/-- What the end of a supervisor strand leaves of its context, and records (R333). -/
theorem State.endSupervisor_ends :
    (s.endSupervisor k cause).cur = s.cur ∧ ((s.endSupervisor k cause).strand p).phase = .free ∧ ((s.endSupervisor k cause).strand p).sup = false ∧
      ((s.endSupervisor k cause).core k).supEnd = some ((s.core k).supFn, cause) ∧
      Sparse.get [] (s.endSupervisor k cause).supEnds (s.core k).supFn = (k, cause) :: Sparse.get [] s.supEnds (s.core k).supFn := by
  have hclean := s.cleanCore_sameButAccess k
  obtain ⟨hcur, hends, hfn⟩ := State.freeContext_keeps (s.cleanCore k) p
  rw [hclean.cur] at hcur
  rw [hclean.supEnds] at hends
  have hstrand := State.freeContext_strand (s.cleanCore k) p
  rw [State.endSupervisor_of_supOf h]
  simp only [hfn, State.cleanCore_supFn, hends]
  generalize (s.cleanCore k).freeContext p = q at hcur hstrand ⊢
  set r : State := { q.modCore k (fun c => { c with supEnd := some ((s.core k).supFn, cause) }) with
    supEnds := Sparse.put s.supEnds (s.core k).supFn ((k, cause) :: Sparse.get [] s.supEnds (s.core k).supFn) }
  have hfree : (r.strand p).phase = .free ∧ (r.strand p).sup = false := by
    rw [show r.strand p = _ from hstrand]
    exact ⟨rfl, rfl⟩
  obtain ⟨hphase, hsup⟩ := State.foldl_modStrand_strand (P := fun t => t.phase = .free ∧ t.sup = false) (f := Strand.unpushed)
    (fun t ht => by rwa [Strand.unpushed_phase, Strand.unpushed_sup]) (coreSids k) hfree
  refine ⟨?_, hphase, hsup, ?_⟩
  all_goals
    obtain ⟨strands, heq⟩ := State.foldl_modStrand_eq Strand.unpushed (coreSids k) r
    rw [heq]
  · exact hcur
  · exact ⟨congrArg Core.supEnd (State.core_setCore q k _), Sparse.get_put_same _ _ _ _⟩

end

/-! ### TRIG and EXIT -/

section
variable {s : State} (hsup : s.me.sup = false) (hdone : s.vectorDone s.cur = true)
include hsup hdone

theorem exec_trig_of_vectorDone : exec .trig s = .next (((s.release allClasses 4).setMe { s.me with trig := true }).groupTrig.adv 32) := by
  show execTrig s = _
  rw [execTrig, if_neg (by simp [hsup]), if_neg (by simp [hdone])]
  rfl

theorem exec_exit_of_vectorDone :
    exec .exit s =
      .next ((s.release allClasses 4).setMe { (s.release allClasses 4).me with trig := true, phase := .ended, wait := none, rq := [] }).groupTrig := by
  show execExit s = _
  rw [execExit, if_neg (by simp [hsup]), if_neg (by simp [hdone])]
  rfl

end

theorem triggerAndExit : Spec.TriggerAndExit := by
  intro s
  have hrel := s.release_sameButAccess allClasses 4
  refine ⟨fun hsup hdone => ⟨⟨_, exec_trig_of_vectorDone hsup hdone, ?_, ?_, fun n g hn hg => ?_⟩, ⟨_, exec_exit_of_vectorDone hsup hdone, ?_, ?_⟩⟩,
    fun hsup hbusy => ⟨?_, ?_⟩, fun hsup => ⟨?_, fun hof => ?_⟩⟩
  · rw [State.me_adv, State.groupTrig_me, State.me_setMe]
  · exact released_of_release (State.groupTrig_mem _) (State.groupTrig_poison _) (State.groupTrig_cores _)
  · have hcur : ((s.release allClasses 4).setMe { s.me with trig := true }).cur = s.cur := hrel.cur
    rw [← hcur]
    exact State.groupTrig_group? ((congrArg Strand.group (State.me_setMe _ _)).trans hn) ((hrel.group? n).trans hg)
      (congrArg Strand.trig (State.me_setMe _ _))
  · rw [State.groupTrig_me, State.me_setMe, hrel.me]
  · exact released_of_release (State.groupTrig_mem _) (State.groupTrig_poison _) (State.groupTrig_cores _)
  · show execTrig s = _
    simp [execTrig, hsup, hbusy]
  · show execExit s = _
    simp [execExit, hsup, hbusy]
  · show execTrig s = _
    rw [execTrig, if_pos hsup]
    rfl
  · refine ⟨s.endSupervisor s.myCore 0, ?_, ?_⟩
    · show execExit s = _
      rw [execExit, if_pos hsup]
    · obtain ⟨hcur, hphase, hends⟩ := State.endSupervisor_ends hof 0
      rw [State.me, hcur]
      exact ⟨hphase, hends⟩

end Sys2Proof.Machine
end

section
/-!
SUPPORT. Watermarks and stream pushes of a strand (R58, R59, R65, R285 to R287, R306). Checks, releases and reads between two uses of an operand leave the strand
as it was.
-/

namespace Sys2Proof.Machine

section
variable {s t : State} {ag : Agent} {want : Want} {a w cls : Nat} {atHome : Bool} {ps : List Piece}

theorem SameButAccess.of_check_eq {r : Chk} (h : s.check ag want a w = (t, r)) : SameButAccess s t := by
  simpa only [h] using s.check_sameButAccess ag want a w

theorem SameButAccess.of_checkAll_eq {l : List (Want × Nat × Nat)} {r : Chk} (h : s.checkAll ag l = (t, r)) : SameButAccess s t := by
  simpa only [h] using s.checkAll_sameButAccess ag l

theorem SameButAccess.of_readPieces_eq {r : RdRes} (h : s.readPieces ag cls atHome ps = (t, r)) : SameButAccess s t := by
  simpa only [h] using s.readPieces_sameButAccess ag cls atHome ps

theorem SameButAccess.of_cpRead_eq {r : CpRead} (h : s.cpRead ag a w = (t, r)) : SameButAccess s t := by
  simpa only [h] using s.cpRead_sameButAccess ag a w

end

/-- A cause of the strand whose turn it is, raised where accesses have been made since its instruction began. -/
theorem SameButAccess.trap {s t : State} (h : SameButAccess s t) (code : Nat) :
    t.trap code = .next (t.takeTrap s.cur s.me.pc { code := code }) := by
  rw [State.trap, h.cur, h.me]

theorem ofNat_field (v lo : Nat) : BitVec.ofNat 64 (field v lo 64) = BitVec.ofNat 64 (v / 2 ^ lo) :=
  BitVec.eq_of_toNat_eq (Nat.mod_mod _ _)

/-! ### WMCFG and WMPUB -/

section
variable {s s1 s2 : State} {rs1 rs2 : Reg} {ps : List Piece} {v : Nat} {p : Bool} (hp : s.px rs1 = false) (ha : (s.rx rs1).toNat % 64 = 0)
include hp ha

/-- The words of a watermark are read and legal: the watermark takes them (R285). -/
theorem exec_wmcfg_of_read (k : BitVec 2) (hidle : s.me.vecIdle = true) (hheld : s.heldBack {} = false)
    (hcheck : s.check s.myAgent { Want.load with many := true } (s.rx rs1).toNat 256 = (s1, .ok ps)) (hbits : s1.bitsPending s.cur ps = false)
    (hread : s1.readPieces s1.myAgent 0 false ps = (s2, .ok v false)) (hb : bitAt v 126 = false) (hz : field v 224 32 = 0)
    (hpub : (BitVec.ofNat 64 (field v 128 64)).toNat % 64 = 0) :
    let w := fun i => BitVec.ofNat 64 (field v (64 * i) 64)
    exec (.wmcfg rs1 k) s =
      .next ((s2.setMe { s2.me with wm := s2.me.wm.set k.toNat { base := w 0, w1 := w 1, pub := w 2, lim := w 3, obs := 0 } k.isLt }).adv 32) := by
  intro w
  have hcur : s1.cur = s.cur := (SameButAccess.of_check_eq hcheck).cur
  show execWmcfg rs1 k s = _
  simp only [execWmcfg, hp, ha, hidle, hheld, hcheck, hcur, hbits, hread, hb, hz, hpub]
  rfl

/-- The word is raised to the larger number, at its home (R65, R286). -/
theorem exec_wmpub_of_read (hdone : s.accessesDone s.cur = true) (hp2 : s.px rs2 = false)
    (hcheck : s.check s.myAgent .rmw (s.rx rs1).toNat 64 = (s1, .ok ps))
    (hread : (s1.release allClasses 4).readPieces (s1.release allClasses 4).myAgent 0 true ps = (s2, .ok v p)) :
    exec (.wmpub rs1 rs2) s = .next ((s2.writePieces s2.myAgent (some s2.cur) 0 true (max v (s.rx rs2).toNat) p ps).1.adv 32) := by
  have h2 : SameButAccess s s2 :=
    ((SameButAccess.of_check_eq hcheck).trans (s1.release_sameButAccess allClasses 4)).trans (.of_readPieces_eq hread)
  show execWmpub rs1 rs2 s = _
  simp only [execWmpub, hp, hp2, ha, hdone, hcheck, hread, h2.rx]
  rfl

end

/-! ### STRM.PUSH -/

section
variable {s s1 s2 s3 s4 s5 s6 x : State} {rd rs1 rs2 : Reg} {ws ps qs rs es : List Piece} {c r : Nat} {p q : Bool}

/-- What STRM.PUSH does once its control block and its record are read (R287). -/
def State.pushRecord (s : State) (rd : Reg) (ctl : Word) (c : Nat) (z : Bool) (r : Nat) (p : Bool) : Res :=
  if z then s.trap 8 else
  let n := field c 128 64
  let L := field c 64 5
  if 2 ^ L + field c 192 64 ≤ n then .next ((s.wx rd (BitVec.allOnes 64)).adv 32)
  else
    match s.check s.myAgent { Want.store with noDev := true, many := true } ((field c 0 64 + n % 2 ^ L * 256) % 2 ^ 64) 256 with
    | (s, .ok rs) =>
      (match s.check s.myAgent .rmw (ctl + 128#64).toNat 64 with
       | (s, .ok es) =>
         let s := (s.writePieces s.myAgent (some s.cur) 0 true ((n + 1) % 2 ^ 64) false es).1
         let s := (s.writePieces s.myAgent (some s.cur) 0 true (putField r 8 8 (lapOf n L)) p rs).1
         .next ((s.wx rd (BitVec.ofNat 64 n)).adv 32)
       | (s, k) => s.failed k)
    | (s, k) => s.failed k

theorem State.pushRecord_of_full {ctl : Word} (h : 2 ^ field c 64 5 + field c 192 64 ≤ field c 128 64) :
    s.pushRecord rd ctl c false r q = .next ((s.wx rd (BitVec.allOnes 64)).adv 32) := if_pos h

/-- With room in the ring the tail moves on, and the record is written with its lap. -/
theorem State.pushRecord_of_room {ctl : Word} (h : ¬ 2 ^ field c 64 5 + field c 192 64 ≤ field c 128 64)
    (hslot : s.check s.myAgent { Want.store with noDev := true, many := true }
      ((field c 0 64 + field c 128 64 % 2 ^ field c 64 5 * 256) % 2 ^ 64) 256 = (s4, .ok rs))
    (hreserve : s4.check s4.myAgent .rmw (ctl + 128#64).toNat 64 = (s5, .ok es))
    (htail : s6 = (s5.writePieces s5.myAgent (some s5.cur) 0 true ((field c 128 64 + 1) % 2 ^ 64) false es).1) :
    s.pushRecord rd ctl c false r q =
      .next (((s6.writePieces s6.myAgent (some s6.cur) 0 true (putField r 8 8 (lapOf (field c 128 64) (field c 64 5))) q rs).1.wx rd
        (BitVec.ofNat 64 (field c 128 64))).adv 32) := by
  subst htail
  simp only [State.pushRecord, if_neg h, hslot, hreserve, Bool.false_eq_true, if_false]

/-- The control block and the record pass their checks and are read, after a release. -/
theorem exec_strmPush_of_read (hp : s.px rs1 = false) (ha : (s.rx rs1).toNat % 64 = 0) (hdone : s.accessesDone s.cur = true)
    (hp2 : s.px rs2 = false) (hb : (s.rx rs2).toNat % 64 = 0) (hall : s.checkAll s.myAgent (ctlWants (s.rx rs1)) = (s1, .ok ws))
    (hsrc : s1.check s1.myAgent { Want.homeLoad with many := true } (s.rx rs2).toNat 256 = (s2, .ok qs))
    (hctl : (s2.check s2.myAgent { Want.homeLoad with many := true } (s.rx rs1).toNat 256).2 = .ok ps)
    (hc : (s2.release allClasses 4).readPieces (s2.release allClasses 4).myAgent 0 true ps = (s3, .ok c p))
    (hr : (s2.release allClasses 4).readPieces (s2.release allClasses 4).myAgent 0 false qs = (x, .ok r q)) :
    exec (.strmPush rd rs1 rs2) s = s3.pushRecord rd (s.rx rs1) c p r q := by
  show execStrmPush rd rs1 rs2 s = _
  simp only [execStrmPush, hp, hp2, ha, hb, hdone, hall, hsrc, hctl, hc, hr]
  rfl

end

theorem watermarksAndPushes : Spec.WatermarksAndPushes := by
  intro s s1 s2 s3 s4 s5 s6 x rd rs1 rs2 k ws ps qs rs es v r c p q a b w hp ha
  refine ⟨fun hidle hheld hcheck hbits hread hb hz hpub => ?_, fun hdone hp2 hcheck hread => exec_wmpub_of_read hp ha hdone hp2 hcheck hread,
    fun hdone hp2 hb hall hsrc hctl hc hr => ?_⟩
  · have hpub' : (BitVec.ofNat 64 (field v 128 64)).toNat % 64 = 0 := by rwa [ofNat_field]
    rw [exec_wmcfg_of_read hp ha k hidle hheld hcheck hbits hread (by simpa [bitAt] using hb) hz hpub']
    simp only [ofNat_field]
    rfl
  · have h3 : SameButAccess s s3 := (((SameButAccess.of_checkAll_eq hall).trans (.of_check_eq hsrc)).trans
      (s2.release_sameButAccess allClasses 4)).trans (.of_readPieces_eq hc)
    rw [exec_strmPush_of_read hp ha hdone hp2 hb hall hsrc hctl hc hr]
    have hbase : field c 0 64 = c % 2 ^ 64 := congrArg (· % 2 ^ 64) (Nat.div_one c)
    refine ⟨fun hz => ?_, fun hz hfull => ?_, fun hz hroom hslot hreserve htail => ?_⟩
    · rw [hz]
      exact h3.trap 8
    · rw [hz, State.pushRecord_of_full (Nat.add_comm _ _ ▸ hfull), State.wx_adv]
      rfl
    · rw [hz, State.pushRecord_of_room (ctl := s.rx rs1) (Nat.not_le.2 (Nat.add_comm _ _ ▸ hroom)) (hbase ▸ hslot) hreserve htail, State.wx_adv]
      rfl

/-- Settles O22: TRIG and EXIT by what a release and the end of a supervisor strand leave, the rest by what the checks and reads of one instruction leave alone. -/
theorem triggersAndWatermarks : Obligations.TriggersAndWatermarks := by
  unfold Obligations.TriggersAndWatermarks
  exact ⟨triggerAndExit, watermarksAndPushes⟩

end Sys2Proof.Machine
end

section
/-!
SUPPORT. What a strand hands to the command processor and to the copy engines of its die (R60, R196, R197, R221 to R225, R269, R282).
-/

namespace Sys2Proof.Machine

/-! ### LAUNCH -/

section
variable (s : State) (i : Instr)

/-- A strand that begins to wait changes in its wait alone (R122). -/
theorem State.park_eq : s.park i = s ∨ ∃ w, s.park i = s.setMe { s.me with wait := w } := by
  unfold State.park
  simp only
  split
  · split
    · exact .inl rfl
    · exact .inr ⟨_, rfl⟩
  · exact .inr ⟨_, rfl⟩

theorem State.park_submits : (s.park i).submits = s.submits := by
  obtain h | ⟨w, h⟩ := s.park_eq i <;> rw [h]
  rfl

theorem State.park_mem : (s.park i).mem = s.mem := by
  obtain h | ⟨w, h⟩ := s.park_eq i <;> rw [h]
  rfl

theorem State.park_poison : (s.park i).poison = s.poison := by
  obtain h | ⟨w, h⟩ := s.park_eq i <;> rw [h]
  rfl

theorem State.park_cores : (s.park i).cores = s.cores := by
  obtain h | ⟨w, h⟩ := s.park_eq i <;> rw [h]
  rfl

theorem State.park_me_pc : (s.park i).me.pc = s.me.pc := by
  obtain h | ⟨w, h⟩ := s.park_eq i <;> rw [h]
  rw [State.me_setMe]

theorem State.park_me_x : (s.park i).me.x = s.me.x := by
  obtain h | ⟨w, h⟩ := s.park_eq i <;> rw [h]
  rw [State.me_setMe]

end

/-- A launch block is handed to the command processor of the strand's die. -/
def State.submit (s : State) (block : Word) : State :=
  { s with submits := s.submits ++ [{ die := dieOf s.myCore, fromSid := some s.cur, stream := 0, block := block }] }

section
variable {s : State} {rd rb : Reg} (hp : s.px rb = false)
include hp

theorem exec_launch_of_none (hnone : ∀ u ∈ s.submits, u.fromSid ≠ some s.cur) :
    exec (.launch rd rb) s =
      if !s.accessesDone s.cur then .next (s.park (.launch rd rb))
      else .next (((s.release allClasses 4).submit ((s.release allClasses 4).rx rb)).park (.launch rd rb)) := by
  have hfind : (s.submits.find? fun u => u.fromSid == some s.cur) = none := List.find?_eq_none.2 (by simpa using hnone)
  show execLaunch rd rb s = _
  simp only [execLaunch, hp, hfind]
  rfl

theorem exec_launch_of_some {u : Submit} (hfind : s.submits.find? (fun u => u.fromSid == some s.cur) = some u) :
    exec (.launch rd rb) s =
      match u.status with
      | none => .next (s.park (.launch rd rb))
      | some c => .next ((({ s with submits := s.submits.erase u } : State).wx rd (BitVec.ofNat 64 c)).adv 64) := by
  show execLaunch rd rb s = _
  simp only [execLaunch, hp, hfind]
  rfl

end

theorem launches : Spec.Launches := by
  intro s rd rb u c hp
  have hrel := s.release_sameButAccess allClasses 4
  refine ⟨fun hnone hdone => ?_, fun hnone hbusy => ?_, fun hfind hstatus => ?_, fun hfind hstatus => ?_⟩
  · have hexec := exec_launch_of_none (rd := rd) hp hnone
    rw [hdone] at hexec
    refine ⟨_, hexec, ?_, ?_, ?_, released_of_release (State.park_mem _ _) (State.park_poison _ _) (State.park_cores _ _)⟩
    · rw [State.park_submits, State.submit, hrel.submits, hrel.myCore, hrel.cur, hrel.rx]
      rfl
    · exact (State.park_me_pc _ _).trans (congrArg Strand.pc hrel.me)
    · exact (State.park_me_x _ _).trans (congrArg Strand.x hrel.me)
  · rw [exec_launch_of_none hp hnone, hbusy]
    rfl
  · rw [exec_launch_of_some hp hfind, hstatus]
    simp only [State.wx_adv]
    rfl
  · rw [exec_launch_of_some hp hfind, hstatus]

/-! ### COPY, COPY.MC and PERSIST -/

/-- An operation that may be issued joins its context with the context's next number, which x[rd] receives (R197, R222, R225). -/
theorem State.issueCopy_of_free {s s0 : State} {i : Instr} {rd : Reg} {cx pc : Nat} {o : CopyOp} (hctx : s.physCtx s.me.asid cx = some pc)
    (hfree : s.slotsUsed s.myCore < 256 ∧ s.accessesDone s.cur = true) :
    s.issueCopy s0 i rd cx o =
      let t := s.release allClasses 4
      let n := (t.copyCtx pc).issue + 1
      .next (Spec.ends (t.setCopyCtx pc { t.copyCtx pc with issue := n, ops := (t.copyCtx pc).ops ++ [{ o with num := n }] }) 64 rd (BitVec.ofNat 64 n) false) := by
  obtain ⟨hslots, hdone⟩ := hfree
  simp only [State.issueCopy, hctx, hdone, Nat.not_le.2 hslots]
  simp only [State.queueCopy, State.wx_adv]
  rfl

section
variable {s : State}

theorem exec_persist_of_ok {rd ra rlen : Reg} {cx : BitVec 7} (hlen : (s.rx rlen).toNat < 2 ^ 48) (ha : s.px ra = false) (hl : s.px rlen = false) :
    exec (.persist rd ra rlen cx) s =
      s.issueCopy s (.persist rd ra rlen cx) rd cx.toNat (s.myOp .persist (s.rx ra) [] (s.rx rlen).toNat 1) := by
  show execPersist rd ra rlen cx s = _
  simp only [execPersist, Nat.not_le.2 hlen, ha, hl]
  rfl

/-- What a COPY asks for: its operation, from its operands (R221, R222). -/
def State.copyOp (s : State) (c : CopyForm) : CopyOp :=
  let two := c.twoD = 1
  let lr := fun (i : Nat) => c.rlen + BitVec.ofNat 5 i
  { s.myOp .copy (s.rx c.rsrc) [{ addr := s.rx c.rdst, comp := if c.rc = 0 then none else some (s.rx c.rc) }] (s.rx c.rlen).toNat c.cls.toNat with
    rows := if two then (s.rx (lr 1)).toNat else 1, sstr := if two then s.rx (lr 2) else 0, dstr := if two then s.rx (lr 3) else 0, cv := s.rx c.rv }

/-- The registers a COPY reads (R221, R222). -/
def copyReads (c : CopyForm) : List Reg :=
  [c.rdst, c.rsrc, c.rlen, c.rc, c.rv] ++ if c.twoD = 1 then [c.rlen + 1, c.rlen + 2, c.rlen + 3] else []

theorem ofNat_toNat_add (r : Reg) (i : Nat) : BitVec.ofNat 5 (r.toNat + i) = r + BitVec.ofNat 5 i := by
  rw [BitVec.ofNat_add, BitVec.ofNat_toNat, BitVec.setWidth_eq]

theorem exec_copy_of_ok {t : State} {ps : List Piece} {c : CopyForm} (hlen : (s.rx c.rlen).toNat < 2 ^ 48)
    (hrows : (s.rx c.rlen).toNat * (s.copyOp c).rows < 2 ^ 48) (hregs : ∀ r ∈ copyReads c, s.px r = false)
    (hcomp : (if c.rc = 0 then (s, Chk.ok []) else s.checkComp (s.rx c.rc)) = (t, .ok ps)) :
    exec (.copy c) s = t.issueCopy s (.copy c) c.rd c.ctx.toNat (s.copyOp c) := by
  have hlong : ¬ (decide (2 ^ 48 ≤ (s.rx c.rlen).toNat) || decide (2 ^ 48 ≤ (s.rx c.rlen).toNat * (s.copyOp c).rows)) = true := by
    simp only [Bool.or_eq_true, decide_eq_true_eq, not_or, Nat.not_le]
    exact ⟨hlen, hrows⟩
  have hany : ¬ (copyReads c).any s.px = true := by simpa using hregs
  show execCopy c s = _
  simp only [execCopy, ofNat_toNat_add]
  refine (if_neg hlong).trans ((if_neg hany).trans ?_)
  rw [hcomp]
  rfl

theorem exec_copyMc_of_ok {s1 s2 s3 : State} {ps qs : List Piece} {m : CopyMcForm} {v : Nat} (hheld : s.heldBack {} = false)
    (hlen : (s.rx m.rlen).toNat < 2 ^ 48) (hregs : ∀ r ∈ [m.rtab, m.rsrc, m.rlen, m.rv], s.px r = false) (ha : (s.rx m.rtab).toNat % 64 = 0)
    (hcheck : s.check s.myAgent { Want.load with many := true } (s.rx m.rtab).toNat (128 * (m.n1.toNat + 1)) = (s1, .ok ps))
    (hbits : s1.bitsPending s.cur ps = false) (hread : s1.readPieces s.myAgent 0 false ps = (s2, .ok v false))
    (hcomps : s2.checkComps (mcDests v (m.n1.toNat + 1)) = (s3, .ok qs)) :
    exec (.copyMc m) s = s3.issueCopy s (.copyMc m) m.rd m.ctx.toNat
      { s.myOp .mc (s.rx m.rsrc) (mcDests v (m.n1.toNat + 1)) (s.rx m.rlen).toNat m.cls.toNat with cv := s.rx m.rv } := by
  have hany : [m.rtab, m.rsrc, m.rlen, m.rv].any s.px = false := List.any_eq_false.2 fun r hr => by simp [hregs r hr]
  show execCopyMc m s = _
  simp only [execCopyMc, Nat.not_le.2 hlen, hany, ha, hheld, hcheck, hbits, hread, hcomps]
  rfl

end

theorem copies : Spec.Copies := by
  intro s s1 s2 s3 c m rd ra rlen cx pc v ps qs rel free queued
  refine ⟨fun hfree hctx hlen ha hl => ?_, ?_, fun hheld hlen hregs ha hcheck hbits hread hcomps hctx hfree => ?_⟩
  · exact (exec_persist_of_ok hlen ha hl).trans (State.issueCopy_of_free hctx hfree)
  · intro lr two rows hlen hrows hregs hcomp hctx hfree
    have hcomp' : ∃ qs, (if c.rc = 0 then (s, Chk.ok []) else s.checkComp (s.rx c.rc)) = (s1, .ok qs) := by
      rcases hcomp with ⟨h0, rfl⟩ | ⟨h0, hcomp⟩
      · exact ⟨[], if_pos h0⟩
      · exact ⟨ps, (if_neg h0).trans hcomp⟩
    obtain ⟨_, hcomp'⟩ := hcomp'
    exact (exec_copy_of_ok hlen hrows hregs hcomp').trans (State.issueCopy_of_free hctx hfree)
  · exact (exec_copyMc_of_ok hheld hlen hregs ha hcheck hbits hread hcomps).trans (State.issueCopy_of_free hctx hfree)

/-- Settles O23: with its operands in order each instruction comes down to one submission, or one operation that joins its context. -/
theorem launchesAndCopies : Obligations.LaunchesAndCopies := by
  unfold Obligations.LaunchesAndCopies
  exact ⟨launches, copies⟩

end Sys2Proof.Machine
end

section
/-!
SUPPORT. Stream commands (R58 to R61): what the next record of a running stream begins, the two ways in which a command ends, read naming the next record or the
stream in its error state, and what software's writing of a stream's state forgets (R332).
-/

namespace Sys2Proof.Machine

/-! ### The words of a control block -/

theorem State.cpCanWrite_of_aligned (s : State) (ag : Agent) {a : Nat} (h : a % 64 = 0) : s.cpCanWrite ag a = s.check ag Want.store a 64 :=
  if_neg (not_not.2 h)

section
variable {s t : State} {d n : Nat} {x : Stream} {ps : List Piece} (hal : x.ctl.toNat % 64 = 0)
include hal

/-- A word of a control block that can be written is written (R58). -/
theorem State.putCtl_of_check {word v : Nat} (h : s.check (x.agent d) Want.store ((x.ctl.toNat + 64 * word) % 2 ^ 64) 64 = (t, .ok ps)) :
    s.putCtl d x word v = t.cpWrite (x.agent d) v ps := by
  have hword : (x.ctl.toNat + 64 * word) % 2 ^ 64 % 64 = 0 := by
    rw [Nat.mod_mod_of_dvd _ (by decide)]
    omega
  rw [State.putCtl, s.cpCanWrite_of_aligned _ hword, h]

/-- A command is done: read names the next record (R58). -/
theorem State.cmdDone_of_check {read : Nat} (h : s.check (x.agent d) Want.store ((x.ctl.toNat + 192) % 2 ^ 64) 64 = (t, .ok ps)) :
    s.cmdDone d n x read = (t.cpWrite (x.agent d) ((read + 1) % 2 ^ 64) ps).setStream d n { x with cmd := none } := by
  rw [State.cmdDone, State.putCtl_of_check (word := 3) hal h]

/-- A command ends in the error state, read still naming its record (R61). -/
theorem State.cmdError_of_check {code status : Nat} (h : s.check (x.agent d) Want.store ((x.ctl.toNat + 256) % 2 ^ 64) 64 = (t, .ok ps)) :
    s.cmdError d n x code status =
      (t.cpWrite (x.agent d) (1 + code * 2 ^ 8 + status * 2 ^ 16) ps).setStream d n { x with cmd := none } := by
  rw [State.cmdError, State.putCtl_of_check (word := 4) hal h]

end

/-! ### Commands begin -/

section
variable {s s1 s2 s3 s4 : State} {d n v w : Nat} {x : Stream} {ps qs : List Piece} (hx : s.stream? d n = some x) (hcmd : x.cmd = none) (hruns : s.cpRuns d = true)
  (hctl : s.cpRead (x.agent d) x.ctl.toNat 512 = (s1, .ok v)) (hstate : (ctlOf v).state = 0)
  (hrec : s1.cpRead (x.agent d) (((ctlOf v).base + (ctlOf v).read % 2 ^ (ctlOf v).L * 256) % 2 ^ 64) 256 = (s2, .ok w))
  (hlap : (recordOf w).lap = lapOf (ctlOf v).read (ctlOf v).L)
include hx hcmd hruns hctl hstate hrec hlap

theorem State.nextRecord_of_read : s.nextRecord d n = (s2, some (x, ctlOf v, recordOf w)) := by
  simp only [State.nextRecord, hx, hruns, hcmd, hctl, hstate, hrec, hlap]
  rfl

variable {op : Nat} {f : State → Stream → Ctl → Record → State}

/-- A legal record begins the command of its opcode (R60). -/
theorem State.streamStart_of_legal (hok : (recordOf w).ok x.accepted.length = true) (hop : (recordOf w).op = op) :
    s.streamStart d n op f = .next (f s2 x (ctlOf v) (recordOf w)) := by
  simp only [State.streamStart, State.nextRecord_of_read hx hcmd hruns hctl hstate hrec hlap, hop, beq_self_eq_true, Bool.true_or, if_true, hok]

/-- An illegal record, and one of no opcode, enters ILLCMD (R61). -/
theorem State.streamStart_of_illegal (hok : (recordOf w).ok x.accepted.length = false)
    (hop : (recordOf w).op = op ∨ (recordOf w).op = 0 ∨ 5 < (recordOf w).op) : s.streamStart d n op f = .next (s2.cmdError d n x 1 0) := by
  have hstart : ((recordOf w).op == op || !(decide (1 ≤ (recordOf w).op) && decide ((recordOf w).op ≤ 5))) = true := by
    simp only [Bool.or_eq_true, beq_iff_eq, Bool.not_eq_true', Bool.and_eq_false_iff, decide_eq_false_iff_not]
    omega
  simp only [State.streamStart, State.nextRecord_of_read hx hcmd hruns hctl hstate hrec hlap, hstart, if_true, hok, Bool.false_eq_true, if_false]

end

/-- A command processor that is neither in reset nor stopped executes (R60, R351). -/
theorem State.cpRuns_of_active {s : State} {d : Nat} (hreset : (s.die d).inReset = false) (hstopped : (s.die d).stopped = false) : s.cpRuns d = true := by
  simp [State.cpRuns, hreset, hstopped]

/-- The word that a legal SIGV writes is aligned (R60). -/
theorem Record.sigv_aligned {r : Record} {n : Nat} (hok : r.ok n = true) (hop : r.op = 4) : r.w1.toNat % 64 = 0 := by
  simp only [Record.ok, hop, Bool.and_eq_true, beq_iff_eq] at hok
  omega

/-! ### Copy contexts -/

theorem State.copyCtx_setCopyCtx (s : State) (pc : Nat) (c : CopyCtx) : (s.setCopyCtx pc c).copyCtx pc = c := by
  rw [State.copyCtx, State.setCopyCtx, State.modDie, State.die_setDie, Sparse.get_put_same]

theorem State.copyCtx_setStream (s : State) (d n pc : Nat) (x : Stream) : (s.setStream d n x).copyCtx pc = s.copyCtx pc := by
  rw [State.copyCtx, State.copyCtx, State.setStream, State.modDie]
  by_cases h : pc / 128 = d
  · rw [h, State.die_setDie]
  · rw [State.die_setDie_ne _ _ _ _ h]

theorem streamsBegin : Spec.StreamsBegin := by
  intro s s1 s2 s3 s4 die n v w x ps qs hx hcmd hreset hstopped ag read L r wait put hctl hstate hrec hlap
  have hruns := State.cpRuns_of_active hreset hstopped
  have hrec' : s1.cpRead (x.agent die) (((ctlOf v).base + (ctlOf v).read % 2 ^ (ctlOf v).L * 256) % 2 ^ 64) 256 = (s2, .ok w) := by
    have hbase : (ctlOf v).base = v % 2 ^ 64 := congrArg (· % 2 ^ 64) (Nat.div_one v)
    rw [hbase]
    exact hrec
  have hlegal := fun op f => State.streamStart_of_legal (op := op) (f := f) hx hcmd hruns hctl hstate hrec' hlap
  have hillegal := fun op f => State.streamStart_of_illegal (op := op) (f := f) hx hcmd hruns hctl hstate hrec' hlap
  refine ⟨fun hok => ⟨fun hop => hlegal _ _ hok hop, fun hop => ⟨_, hlegal _ _ hok hop, ?_⟩, fun hop => hlegal _ _ hok hop, fun hop => hlegal _ _ hok hop,
    fun hop hsig hal hread => ?_⟩, fun hok hal herr => ?_⟩
  · simp only [State.copyCtx_setStream, State.queueCopy]
    exact ⟨congrArg CopyCtx.issue (State.copyCtx_setCopyCtx _ _ _), congrArg CopyCtx.ops (State.copyCtx_setCopyCtx _ _ _)⟩
  · have hsig' : s2.cpCanWrite (x.agent die) (recordOf w).w1.toNat = (s3, .ok ps) :=
      (s2.cpCanWrite_of_aligned _ (Record.sigv_aligned hok hop)).trans hsig
    refine (hlegal _ _ hok hop).trans ?_
    rw [hsig']
    exact congrArg _ (State.cmdDone_of_check hal hread)
  · intro err p hp hop
    have hend : s2.cmdError die n x 1 0 = err := State.cmdError_of_check hal herr
    rw [← hend]
    simp only [List.mem_cons, List.not_mem_nil, or_false] at hp
    rcases hp with rfl | rfl | rfl | rfl | rfl <;> exact hillegal _ _ hok hop

end Sys2Proof.Machine
end

section
/-!
SUPPORT. Stream commands end (R60, R61, R63), and software sets a stream's state (R61, R332).
-/

namespace Sys2Proof.Machine

/-! ### Commands end -/

/-- What STREAM_COMMAND_COMPLETE does for the command of a running stream whose control block has been read. -/
def State.endCommand (s : State) (d n : Nat) (x : Stream) (c : SCmd) (read : Nat) : Res :=
  match c.op with
  | 1 =>
    (match s.submits.find? fun u => u.fromSid == none && u.die == d && u.stream == n with
     | some u =>
       (match u.status with
        | some code =>
          (match s.mayWrite (x.agent d) u.statusAddr with
           | (s, .wait) => .next s
           | (s, .ok ps) => .next (s.launchDone d n x read u code ps)
           | (s, .trap _ _) => .next (s.launchDone d n x read u code []))
        | none => .next s)
     | none => .next s)
  | 2 =>
    let k := s.copyCtx (128 * d + c.a)
    if k.timeline < c.num then .next s
    else if hasNat k.failed c.num then .next (s.cmdError d n x 4 0)
    else .next (s.cmdDone d n x read)
  | 3 =>
    (match s.cpRead (x.agent d) c.w1.toNat 64 with
     | (s, .ok w) => if condHolds (1 - c.a) (BitVec.ofNat 64 w) c.w2 then .next (s.cmdDone d n x read) else .next s
     | (s, _) => .next s)
  | _ => if s.gangTriggered (nth 0 x.accepted c.a) then .next (s.cmdDone d n x read) else .next s

section
variable {s s1 : State} {d n v : Nat} {x : Stream} {c : SCmd} (hx : s.stream? d n = some x) (hcmd : x.cmd = some c) (hruns : s.cpRuns d = true)
  (hctl : s.cpRead (x.agent d) x.ctl.toNat 512 = (s1, .ok v)) (hstate : (ctlOf v).state = 0)
include hx hcmd hruns hctl hstate

theorem exec_streamCommandComplete_of_read : exec (.streamCommandComplete d n) s = s1.endCommand d n x c (ctlOf v).read := by
  show execStreamCommandComplete d n s = _
  simp only [execStreamCommandComplete, hx, hcmd, hruns, if_true, hctl, hstate]
  rfl

theorem exec_streamWaitvTimeout_of_expired (hop : c.op = 3) (hlim : c.w3 ≠ 0) (hexp : c.w3.toNat ≤ s.cmdCycles d c) :
    exec (.streamWaitvTimeout d n) s = .next (s1.cmdError d n x 3 0) := by
  show execStreamWaitvTimeout d n s = _
  simp only [execStreamWaitvTimeout, hx, hcmd, hruns, if_true, hctl, hstate, hop, hlim, Nat.not_lt.2 hexp]
  rfl

end

section
variable {s t : State} {d n read : Nat} {x : Stream} {c : SCmd}

/-- A copy whose number the timeline has reached ends as it went (R60, R61). -/
theorem State.endCommand_copy (hop : c.op = 2) (hnum : c.num ≤ (s.copyCtx (128 * d + c.a)).timeline) :
    s.endCommand d n x c read =
      .next (if hasNat (s.copyCtx (128 * d + c.a)).failed c.num then s.cmdError d n x 4 0 else s.cmdDone d n x read) := by
  simp only [State.endCommand, hop, if_neg (Nat.not_lt.2 hnum)]
  split <;> rfl

/-- A WAITV whose word meets its condition is done (R60). -/
theorem State.endCommand_waitv {w : Nat} (hop : c.op = 3) (hread : s.cpRead (x.agent d) c.w1.toNat 64 = (t, .ok w)) (hw : w < 2 ^ 64)
    (hcond : if c.a = 1 then w = c.w2.toNat else c.a = 0 ∧ c.w2.toNat ≤ w) : s.endCommand d n x c read = .next (t.cmdDone d n x read) := by
  have hholds : condHolds (1 - c.a) (BitVec.ofNat 64 w) c.w2 = true := by
    split at hcond
    · next ha => simp [condHolds, ha, hcond]
    · obtain ⟨ha, hle⟩ := hcond
      simp only [condHolds, ha, BitVec.ule, BitVec.toNat_ofNat, Nat.mod_eq_of_lt hw, hle]
      rfl
  simp only [State.endCommand, hop, hread, hholds, if_true]

theorem State.endCommand_trigwait (hop : c.op = 5) (htrig : s.gangTriggered (nth 0 x.accepted c.a) = true) :
    s.endCommand d n x c read = .next (s.cmdDone d n x read) := by
  simp only [State.endCommand, hop, htrig, if_true]

section
variable {u : Submit} {code : Nat} (hop : c.op = 1) (hfind : s.submits.find? (fun u => u.fromSid == none && u.die == d && u.stream == n) = some u)
  (hstatus : u.status = some code)
include hop hfind hstatus

theorem State.endCommand_launch_wait (hmay : s.mayWrite (x.agent d) u.statusAddr = (t, .wait)) : s.endCommand d n x c read = .next t := by
  simp only [State.endCommand, hop, hfind, hstatus, hmay]

theorem State.endCommand_launch_done {ps : List Piece} (hmay : s.mayWrite (x.agent d) u.statusAddr = (t, .ok ps)) :
    s.endCommand d n x c read = .next (t.launchDone d n x read u code ps) := by
  simp only [State.endCommand, hop, hfind, hstatus, hmay]

end

/-- A LAUNCH accepted is done, and its stream remembers the gang (R60, R63). -/
theorem State.launchDone_accepted {u : Submit} {g : Nat} {ps : List Piece} (hg : u.gang = some g) :
    t.launchDone d n x read u 0 ps =
      (({ t with submits := t.submits.erase u } : State).cpWrite (x.agent d) 0 ps).cmdDone d n { x with accepted := g :: x.accepted } read := by
  simp only [State.launchDone, hg, if_true]

/-- A LAUNCH refused ends in LAUNCHFAIL, with its status (R61). -/
theorem State.launchDone_refused {u : Submit} {code : Nat} {ps : List Piece} (hcode : code ≠ 0) :
    t.launchDone d n x read u code ps =
      (({ t with submits := t.submits.erase u } : State).cpWrite (x.agent d) code ps).cmdError d n x 2 code := if_neg hcode

end

theorem streamsEnd : Spec.StreamsEnd := by
  intro s s1 s2 s3 die n v w x c ps qs u g hx hcmd hreset hstopped ag read put hal
  have hruns := State.cpRuns_of_active hreset hstopped
  refine ⟨fun hctl hstate => ?_, fun hctl hstate hop hlim hexp herr => ?_⟩
  · have hend := exec_streamCommandComplete_of_read hx hcmd hruns hctl hstate
    intro k fin
    have hfin : ∀ t : State, s1.endCommand die n x c read = .next (t.cmdDone die n x read) → fin t := fun t ht hread =>
      (hend.trans ht).trans (congrArg _ (State.cmdDone_of_check hal hread))
    refine ⟨fun hop hnum hfailed => hfin _ ?_, fun hop hnum hfailed herr => ?_, fun hop hread hw hcond => hfin _ (State.endCommand_waitv hop hread hw hcond),
      fun hop htrig => hfin _ (State.endCommand_trigwait hop htrig), fun code hop hfind hstatus => ⟨fun hmay => ?_, fun hmay => ⟨fun hcode hg hread => ?_, fun hcode herr => ?_⟩⟩⟩
    · exact (State.endCommand_copy hop hnum).trans (by rw [hfailed]; rfl)
    · refine (hend.trans (State.endCommand_copy hop hnum)).trans ?_
      rw [hfailed, if_pos rfl, State.cmdError_of_check hal herr]
      rfl
    · exact hend.trans (State.endCommand_launch_wait hop hfind hstatus hmay)
    · subst hcode
      rw [hend, State.endCommand_launch_done hop hfind hstatus hmay, State.launchDone_accepted hg]
      exact congrArg _ (State.cmdDone_of_check (x := { x with accepted := g :: x.accepted }) hal hread)
    · rw [hend, State.endCommand_launch_done hop hfind hstatus hmay, State.launchDone_refused hcode]
      exact congrArg _ (State.cmdError_of_check hal herr)
  · rw [exec_streamWaitvTimeout_of_expired hx hcmd hruns hctl hstate hop hlim hexp, State.cmdError_of_check hal herr]
    rfl

/-! ### Commands of the host that may wait -/

theorem State.hostCmd?_put (s : State) (fn : Nat) (i : HostCmd) : ({ s with hostCmds := Sparse.put s.hostCmds fn i } : State).hostCmd? fn = some i := by
  simp only [State.hostCmd?, Sparse.map_put, Sparse.get_put_same]

theorem State.hostCmd?_del (s : State) (fn : Nat) : ({ s with hostCmds := Sparse.del s.hostCmds fn } : State).hostCmd? fn = none := by
  simp only [State.hostCmd?, Sparse.map_del, Sparse.get_del_same]

theorem State.hostBusy_of_hostCmd? {s : State} {fn : Nat} {i : HostCmd} (h : s.hostCmd? fn = some i) : s.hostBusy fn = true := by
  simp [State.hostBusy, h]

section
variable {s u : State} {fn : Nat} {i : HostCmd} {f : State → State × Bool} (hfn : fn < 64)
  (hturn : (s.hostBusy fn = false ∧ s.booted = true) ∨ s.hostCmd? fn = some i) (hcmds : u.hostCmds = s.hostCmds)
include hfn hturn

/-- A command whose turn it is does its work: the first time, or again once it has waited (R332). -/
theorem State.commandOr_of_turn :
    s.commandOr fn i f =
      if s.hostCmd? fn = some i then .next (if (f s).2 then { (f s).1 with hostCmds := Sparse.del (f s).1.hostCmds fn } else (f s).1)
      else .next (if (f s).2 then (f s).1 else { (f s).1 with hostCmds := Sparse.put (f s).1.hostCmds fn i }) := by
  unfold State.commandOr
  split
  · rcases f s with ⟨u, _ | _⟩ <;> rfl
  · next hne =>
    obtain ⟨hbusy, hbooted⟩ := hturn.resolve_right hne
    rw [State.command, hbusy, hbooted, decide_eq_false (Nat.not_le.2 hfn)]
    rcases f s with ⟨u, _ | _⟩ <;> rfl

include hcmds

/-- A command that waits comes again, and the function's later commands wait for it. -/
theorem State.commandOr_waits (hf : f s = (u, false)) :
    ∃ t, s.commandOr fn i f = .next t ∧ t = { u with hostCmds := t.hostCmds } ∧ t.hostCmd? fn = some i ∧ t.hostBusy fn = true := by
  rw [State.commandOr_of_turn hfn hturn, hf]
  split
  · next h =>
    have hu : u.hostCmd? fn = some i := by rwa [State.hostCmd?, hcmds, ← State.hostCmd?]
    exact ⟨u, rfl, rfl, hu, State.hostBusy_of_hostCmd? hu⟩
  · exact ⟨_, rfl, rfl, State.hostCmd?_put u fn i, State.hostBusy_of_hostCmd? (State.hostCmd?_put u fn i)⟩

/-- A command that has done its work waits no more. -/
theorem State.commandOr_done (hf : f s = (u, true)) :
    ∃ t, s.commandOr fn i f = .next t ∧ t = { u with hostCmds := t.hostCmds } ∧ t.hostCmd? fn = none := by
  rw [State.commandOr_of_turn hfn hturn, hf]
  split
  · exact ⟨_, rfl, rfl, State.hostCmd?_del u fn⟩
  · next hne =>
    obtain ⟨hbusy, _⟩ := hturn.resolve_right hne
    refine ⟨u, rfl, rfl, ?_⟩
    have hs : s.hostCmd? fn = none := by
      simp only [State.hostBusy, Bool.or_eq_false_iff, Option.isSome_eq_false_iff, Option.isNone_iff_eq_none] at hbusy
      exact hbusy.2
    rwa [State.hostCmd?, hcmds, ← State.hostCmd?]

end

/-! ### A stream's state set by software -/

/-- What SET_STREAM_STATE does with a stream whose control block has been read and its state word written. -/
def State.stateSet (s : State) (die n : Nat) (x : Stream) (st : BitVec 2) (v : Nat) : State :=
  if st = 0 && field v 256 2 != 0 && !s.launchAnswered die n then s.restartStream die n x else s

section
variable {s : State} {die n v : Nat} {x : Stream} {st : BitVec 2}

theorem State.stateSet_mem : (s.stateSet die n x st v).mem = s.mem := by
  unfold State.stateSet
  split <;> rfl

theorem State.stateSet_hostCmds : (s.stateSet die n x st v).hostCmds = s.hostCmds := by
  unfold State.stateSet
  split <;> rfl

end

section
variable {s s1 : State} {fn die n : Nat} {st : BitVec 2} {x : Stream} (hfn : fn < 64)
  (hturn : (s.hostBusy fn = false ∧ s.booted = true) ∨ s.hostCmd? fn = some (.streamState die n st))
  (hx : s.stream? die n = some x) (hlock : s.streamLocked fn die n = false) (hst : st ≠ 3)
include hfn hturn hx hlock hst

theorem exec_setStreamState_of_wait (hctl : s.cpRead (x.agent die) x.ctl.toNat 512 = (s1, .wait)) :
    ∃ t, exec (.setStreamState fn die n st) s = .next t ∧ t = { s1 with hostCmds := t.hostCmds } ∧ t.hostCmd? fn = some (.streamState die n st) ∧
      t.hostBusy fn = true := by
  show ∃ t, execSetStreamState fn die n st s = .next t ∧ _
  unfold execSetStreamState
  refine State.commandOr_waits hfn hturn (SameButAccess.of_cpRead_eq hctl).hostCmds ?_
  simp only [hx, hlock, hst, hctl]
  rfl

theorem exec_setStreamState_of_read {v : Nat} {q : State} (hctl : s.cpRead (x.agent die) x.ctl.toNat 512 = (s1, .ok v))
    (hput : s1.putCtl die x 4 (putField (field v 256 64) 0 2 st.toNat) = q) (hcmds : q.hostCmds = s.hostCmds) :
    ∃ t, exec (.setStreamState fn die n st) s = .next t ∧ t = { (q.stateSet die n x st v).reply fn 0 with hostCmds := t.hostCmds } ∧
      t.hostCmd? fn = none := by
  show ∃ t, execSetStreamState fn die n st s = .next t ∧ _
  unfold execSetStreamState
  refine State.commandOr_done hfn hturn (State.stateSet_hostCmds.trans hcmds) ?_
  simp only [hx, hlock, hst, hctl, hput]
  rfl

end

theorem State.stream?_setStream (s : State) (d n : Nat) (x : Stream) : (s.setStream d n x).stream? d n = some x := by
  simp only [State.stream?, State.setStream, State.modDie, State.die_setDie, Sparse.map_put, Sparse.get_put_same]

theorem Submit.ofStream_iff (u : Submit) (d n : Nat) : u.ofStream d n = true ↔ u.fromSid = none ∧ u.die = d ∧ u.stream = n := by
  simp [Submit.ofStream, and_assoc]

theorem State.launchAnswered_iff (s : State) (d n : Nat) :
    s.launchAnswered d n = true ↔ ∃ u ∈ s.submits, (u.fromSid = none ∧ u.die = d ∧ u.stream = n) ∧ u.status ≠ none := by
  simp only [State.launchAnswered, List.any_eq_true, Bool.and_eq_true, Submit.ofStream_iff, Option.isSome_iff_ne_none]

section
variable {s : State} {die n v : Nat} {x : Stream} {st : BitVec 2}

/-- A stream that does not begin to run anew, or whose LAUNCH has its answer, keeps its command (R61). -/
theorem State.stateSet_keeps (h : st ≠ 0 ∨ field v 256 2 = 0 ∨ s.launchAnswered die n = true) : s.stateSet die n x st v = s := by
  refine if_neg fun hrestart => ?_
  simp only [Bool.and_eq_true, bne_iff_ne, Bool.not_eq_true', decide_eq_true_eq] at hrestart
  obtain ⟨⟨hst, hstate⟩, hanswer⟩ := hrestart
  rcases h with h | h | h
  · exact h hst
  · exact hstate h
  · exact Bool.false_ne_true (hanswer.symm.trans h)

/-- A stream that runs again forgets its command (R61). -/
theorem State.stateSet_restarts (hst : st = 0) (hstate : field v 256 2 ≠ 0) (hanswer : s.launchAnswered die n = false) :
    s.stateSet die n x st v = s.restartStream die n x := by
  refine if_pos ?_
  simp [hst, hstate, hanswer]

end

/-- The state bits take the new state, and the rest of the word stays. -/
theorem putField_state (w : Nat) (st : BitVec 2) : putField w 0 2 st.toNat % 4 = st.toNat ∧ putField w 0 2 st.toNat / 4 = w / 4 := by
  have hst := st.isLt
  rw [putField_eq]
  omega

theorem streamStates : Spec.StreamStates := by
  intro s s1 s2 fn die n v st x ps hfn hx hlock cmd hturn ag hst hal
  refine ⟨fun hctl => exec_setStreamState_of_wait hfn hturn hx hlock hst hctl, fun hctl hword => ?_⟩
  · have h2 : SameButAccess s s2 := (SameButAccess.of_cpRead_eq hctl).trans (.of_check_eq hword)
    have hput := State.putCtl_of_check (word := 4) (v := putField (field v 256 64) 0 2 st.toNat) hal hword
    have hwrite := s2.cpWrite_sameButAccess (x.agent die) (putField (field v 256 64) 0 2 st.toNat) ps
    have hmem : (s2.cpWrite (x.agent die) (putField (field v 256 64) 0 2 st.toNat) ps).mem = (s2.writePieces ag none 0 true
      (putField (field v 256 64) 0 2 st.toNat) false ps).1.mem := rfl
    generalize s2.cpWrite (x.agent die) (putField (field v 256 64) 0 2 st.toNat) ps = q at hput hwrite hmem
    obtain ⟨t, hexec, ht, hnone⟩ := exec_setStreamState_of_read hfn hturn hx hlock hst hctl hput (hwrite.hostCmds.trans h2.hostCmds)
    obtain ⟨hlow, hhigh⟩ := putField_state (field v 256 64) st
    refine ⟨t, _, hexec, hlow, hhigh, ?_, ?_, hnone, fun hkeep => ?_, fun hzero hstate hopen => ?_⟩
    · rw [ht]
      exact State.stateSet_mem.trans hmem
    · rw [ht]
      exact congrArg List.head? (Sparse.get_put_same _ _ _ _)
    · have hq : q.stateSet die n x st v = q := by
        refine State.stateSet_keeps (hkeep.imp_right (Or.imp_right fun hanswer => ?_))
        rw [State.launchAnswered_iff, hwrite.submits]
        exact hanswer
      rw [hq] at ht
      rw [ht]
      exact ⟨(hwrite.stream? die n).trans ((h2.stream? die n).trans hx), hwrite.submits⟩
    · have hanswer : q.launchAnswered die n = false := by
        rw [← Bool.not_eq_true, State.launchAnswered_iff, hwrite.submits]
        rintro ⟨u, hu, hmine, hstatus⟩
        exact hstatus (hopen u hu hmine)
      rw [State.stateSet_restarts hzero hstate hanswer] at ht
      rw [ht, ← hwrite.submits]
      exact ⟨State.stream?_setStream _ _ _ _, rfl⟩

/-- Settles O56: a record read begins the command of its opcode; a command ends with read or the stream's state written; a stream set to run forgets its command. -/
theorem streams : Obligations.Streams := by
  unfold Obligations.Streams
  exact ⟨streamsBegin, streamsEnd, streamStates⟩

end Sys2Proof.Machine
end

section
/-!
SUPPORT. The expiry of a VWAITV whose state names an element that its probe pass did not find (R280): the element's bit of md is cleared with the inactive ones.
-/

namespace Sys2Proof.Machine

/-- A VWAITV of one element: md is mask register 2, and b1 holds its limit. -/
def waitOne : VMForm :=
  { vd := 1, hi3 := 0, base := 0, vs2 := 0, f35 := 4, mask := 0, me := 0, ew := 3, w1 := 63, mfmt := 1, am := 0, cls := 0, order := 0, scope := 0, scale := 2 }

/-- A block of one element. -/
def blockOfOne : Blk := { vl := 1, ew := 3, rm := 0, g := 1 }

/-- A convoy whose VWAITV has element 0 left, of which its probes hold nothing. -/
def unprobedConv : Conv :=
  { addr := 0, hdr := headerOf 0, konst := 0, words := [encVM 0x360 waitOne], strips := 1, issued := 1, pend := .vwait [0] 0
    hist := { v := [], m := [], sc := [], blk := blockOfOne } }

/-- Strand 0 runs that convoy, and ten cycles have passed, the limit of the wait. -/
def unprobedWait : State :=
  { now := 10
    strands := [(0, { phase := .running, g := 1, b := Vector.replicate 8 { w := 10 }, blk := some blockOfOne, conv := some unprobedConv })] }

/-- The strand has one convoy, so the turn falls to it. -/
theorem unprobedWait_choice : unprobedWait.choice 0 = none := by decide

/-- At the limit the member completes with bit 0 of md clear. -/
theorem unprobedWait_expires (t : State) (h : exec (.vwaitvExpiry 0) unprobedWait = .next t) : (Sparse.get 0 t.me.m 2).testBit 0 = false := by
  have hclear : (match exec (.vwaitvExpiry 0) unprobedWait with
      | .next t => (Sparse.get 0 t.me.m 2).testBit 0
      | _ => true) = false := by decide +kernel
  rwa [h] at hclear

/-- Refutes O46: at the limit of a VWAITV each element left is to have its bit of md set, and one left that no probe names has it cleared, as vwaitDone clears md at
every element without a probe. -/
theorem not_memberEvents : ¬ Obligations.MemberEvents := by
  unfold Obligations.MemberEvents
  rintro ⟨-, -, -, hends⟩
  have hchosen : ({ unprobedWait with cur := 0 } : State).chosen 0 = unprobedWait := State.chosen_none unprobedWait_choice
  obtain ⟨-, hexpiry⟩ := hends unprobedWait unprobedWait unprobedWait unprobedWait unprobedWait 0 0 blockOfOne unprobedConv waitOne [0] 0
    { id := 0, va := 0, ps := [] } 0 0 0 false [] hchosen.symm (by decide) ⟨rfl, rfl⟩ (by decide +kernel) rfl
  obtain ⟨t, hexec, -, hbits⟩ := hexpiry (by decide) (by decide)
  obtain ⟨hbit, -⟩ := hbits 0 (by decide) (by decide) (by decide)
  have hrejoin : ({ unprobedWait with cur := 0 } : State).rejoin 0 t = t := State.rejoin_none unprobedWait_choice
  rw [hrejoin] at hexec
  exact Bool.false_ne_true ((unprobedWait_expires t hexec).symm.trans hbit)

end Sys2Proof.Machine
end

section
/-!
SUPPORT. What the pieces of a group's move change (R71, R72, R76): writes at homes, strands put into contexts, barriers joined, matrix state resumed.
-/

namespace Sys2Proof.Machine

/-! ### Writes at homes -/

/-- t is s but for memory at its homes, its poison and the link tags. -/
def SameButHome (s t : State) : Prop := t = { s with mem := t.mem, poison := t.poison, tags := t.tags, broken := t.broken }

namespace SameButHome

variable {s t u : State}

theorem refl (s : State) : SameButHome s s := rfl

theorem trans (h : SameButHome s t) (k : SameButHome t u) : SameButHome s u := by
  unfold SameButHome at *
  rw [k, h]

theorem foldl {α : Type} (f : State → α → State) (h : ∀ s x, SameButHome s (f s x)) (l : List α) (s : State) : SameButHome s (l.foldl f s) :=
  List.foldlRecOn (motive := fun t => SameButHome s t) _ _ (refl s) fun t ht x _ => ht.trans (h t x)

variable (h : SameButHome s t)
include h

theorem access : SameButAccess s t := by
  unfold SameButHome at h
  unfold SameButAccess
  rw [h]

theorem cores : t.cores = s.cores := by rw [h]

theorem core (k : Nat) : t.core k = s.core k := by rw [State.core, h.cores, State.core]

end SameButHome

section
variable (s : State)

theorem State.homeWrite_sameButHome (fa w v : Nat) (p : Bool) : SameButHome s (s.homeWrite fa w v p) := by
  unfold State.homeWrite
  refine SameButHome.trans (t := { s with mem := Mem.writeBits s.mem fa w v }) rfl (.foldl _ (fun t l => ?_) _ _)
  dsimp only
  split
  · rfl
  · split <;> rfl

theorem State.writeRecord_sameButHome (o v n : Nat) : SameButHome s (s.writeRecord o v n) :=
  .foldl _ (fun t _ => t.homeWrite_sameButHome _ _ _ _) _ s

theorem State.restoreImage_sameButHome (g : Group) (k : Nat) (units : List Nat) : SameButHome s (s.restoreImage g k units) :=
  .foldl _ (fun t _ => .foldl _ (fun t _ => t.homeWrite_sameButHome _ _ _ _) _ t) _ s

/-! ### An acquire at a line cache -/

theorem State.acqCache_sameButAccess (k mask scope : Nat) : SameButAccess s (s.acqCache k mask scope) := by
  unfold State.acqCache
  split
  · rfl
  · exact .foldl _ (fun t l => t.evict_sameButAccess k l) _ s

/-- An acquire at package scope leaves none of the lines of its classes in the cache (R269). -/
theorem State.acqCache_absent {k mask l : Nat} (h : l ∈ s.classLines k mask) : (s.acqCache k mask 4).lineEntry k l = none :=
  foldl_establishes _ (fun _ => True) (fun t l => t.lineEntry k l = none) _ (fun _ _ _ => trivial) (fun t _ l _ => t.evict_absent_same k l)
    (fun t _ l _ j hj => t.evict_absent k l j hj) s trivial l (.inl h)

end

theorem Sparse.not_mem_of_get_none {α : Type} {l : Sparse α} {n : Nat} (h : Sparse.get none (l.map fun p => (p.1, some p.2)) n = none) (v : α) :
    (n, v) ∉ l := by
  induction l with
  | nil => exact List.not_mem_nil
  | cons p t ih =>
    obtain ⟨k, w⟩ := p
    simp only [List.map_cons, Sparse.get] at h
    split at h
    · cases h
    · rename_i hne
      rintro (_ | ⟨_, hmem⟩)
      · exact hne rfl
      · exact ih h hmem

theorem State.not_mem_lines {s : State} {k l : Nat} (h : s.lineEntry k l = none) (x : CLine) : (l, x) ∉ (s.core k).lines :=
  Sparse.not_mem_of_get_none h x

/-! ### Strands put into contexts -/

/-- Strands changed at the places of a list, each place once: each is changed as it was, every other strand is as it was, and so is all but the strands. -/
theorem State.foldl_modStrand_places {α : Type} (σ : α → Nat) (F : α → Strand → Strand) (L : List α) (hL : (L.map σ).Nodup) (s : State) :
    let t := L.foldl (fun s a => s.modStrand (σ a) (F a)) s
    (∀ a ∈ L, t.strand (σ a) = F a (s.strand (σ a))) ∧ (∀ j, j ∉ L.map σ → t.strand j = s.strand j) ∧ t = { s with strands := t.strands } := by
  induction L generalizing s with
  | nil => exact ⟨fun a ha => absurd ha List.not_mem_nil, fun _ _ => rfl, rfl⟩
  | cons a l ih =>
    obtain ⟨ha, hl⟩ := List.nodup_cons.1 hL
    obtain ⟨hmem, hne, heq⟩ := ih hl (s.modStrand (σ a) (F a))
    refine ⟨fun b hb => ?_, fun j hj => ?_, heq⟩
    · rcases List.mem_cons.1 hb with rfl | hb
      · exact (hne _ ha).trans (s.strand_setStrand _ _)
      · refine (hmem b hb).trans (congrArg _ (s.strand_setStrand_ne _ _ _ fun e => ha ?_))
        exact e ▸ List.mem_map_of_mem hb
    · rw [List.map_cons, List.mem_cons, not_or] at hj
      exact (hne j hj.2).trans (s.strand_setStrand_ne _ _ _ hj.1)

theorem map_nth_range {α : Type} (d : α) (l : List α) : (List.range l.length).map (nth d l) = l := by
  refine List.ext_getElem (by simp) fun i h1 h2 => ?_
  simp [nth, h2]

theorem nth_mem {α : Type} (d : α) {l : List α} {i : Nat} (h : i < l.length) : nth d l i ∈ l := by
  simp [nth, h]

/-- The free contexts of a core are contexts of it, each once, and the matrix control strand's is not among them. -/
theorem State.freeCtxs_nodup (s : State) (k : Nat) : (s.freeCtxs k).Nodup := by
  refine List.Nodup.filter _ (List.Nodup.map (fun a b h => ?_) List.nodup_range)
  simpa [sidOf] using h

theorem State.mcsOf_not_mem_freeCtxs (s : State) (k : Nat) : mcsOf k ∉ s.freeCtxs k := by
  intro h
  obtain ⟨c, hc, e⟩ := List.mem_map.1 (List.mem_filter.1 h).1
  have := List.mem_range.1 hc
  simp only [sidOf, mcsOf] at e
  omega

/-! ### Groups -/

theorem State.group?_setGroup_ne (s : State) {n m : Nat} (g : Group) (h : m ≠ n) : (s.setGroup n g).group? m = s.group? m := by
  simp only [State.group?, State.setGroup, Sparse.map_put]
  exact Sparse.get_put_ne _ _ _ _ _ h

/-- A change of a group is the change of that group, where it exists, and of no other. -/
theorem State.group?_modGroup_eq (s : State) (n m : Nat) (f : Group → Group) :
    (s.modGroup n f).group? m = if m = n then (s.group? m).map f else s.group? m := by
  unfold State.modGroup
  cases h : s.group? n with
  | none =>
    dsimp only
    split
    · rename_i e
      rw [e, h]
      rfl
    · rfl
  | some g =>
    dsimp only
    split
    · rename_i e
      rw [e, h]
      exact s.group?_setGroup n (f g)
    · rename_i e
      exact s.group?_setGroup_ne (f g) e

theorem State.modGroup_eq (s : State) (n : Nat) (f : Group → Group) : s.modGroup n f = { s with groups := (s.modGroup n f).groups } := by
  unfold State.modGroup
  split <;> rfl

/-! ### Barriers joined -/

/-- What joining core barriers changes: barriers, progress of groups, and whose turn the model works for. -/
structure JoinsBars (s t : State) : Prop where
  frame : t = { s with cur := t.cur, cores := t.cores, groups := t.groups }
  core : ∀ k, t.core k = { s.core k with cbs := (t.core k).cbs }
  group : ∀ n g, s.group? n = some g → ∃ p, t.group? n = some { g with progress := p }

namespace JoinsBars

variable {s t u : State}

theorem refl (s : State) : JoinsBars s s := ⟨rfl, fun _ => rfl, fun _ g h => ⟨g.progress, h⟩⟩

theorem trans (h : JoinsBars s t) (k : JoinsBars t u) : JoinsBars s u where
  frame := by rw [k.frame, h.frame]
  core c := by rw [k.core c, h.core c]
  group n g hg := by
    obtain ⟨p, hp⟩ := h.group n g hg
    obtain ⟨q, hq⟩ := k.group n _ hp
    exact ⟨q, hq⟩

theorem foldl {α : Type} (f : State → α → State) (h : ∀ s x, JoinsBars s (f s x)) (l : List α) (s : State) : JoinsBars s (l.foldl f s) :=
  List.foldlRecOn (motive := fun t => JoinsBars s t) _ _ (refl s) fun t ht x _ => ht.trans (h t x)

theorem strand (h : JoinsBars s t) (k : Nat) : t.strand k = s.strand k := by
  have hs : t.strands = s.strands := by rw [h.frame]
  rw [State.strand, hs, State.strand]

end JoinsBars

theorem State.setCur_joinsBars (s : State) (sid : Nat) : JoinsBars s { s with cur := sid } :=
  ⟨rfl, fun _ => rfl, fun _ g h => ⟨g.progress, h⟩⟩

theorem State.core_modCore_eq (s : State) (k j : Nat) (f : Core → Core) : (s.modCore k f).core j = if j = k then f (s.core j) else s.core j := by
  split
  · rename_i e
    rw [e]
    exact s.core_setCore k _
  · rename_i e
    exact s.core_setCore_ne k j _ e

theorem State.putBar_joinsBars (s : State) (idx : Nat) (b : Bar) : JoinsBars s (s.putBar 0 idx b) := by
  refine ⟨rfl, fun k => ?_, fun _ g h => ⟨g.progress, h⟩⟩
  rw [State.putBar, if_pos rfl, State.core_modCore_eq]
  split <;> rfl

theorem State.progress_joinsBars (s : State) (sid : Nat) : JoinsBars s (s.progress sid) := by
  unfold State.progress
  split
  · rename_i n hn
    refine ⟨?_, fun k => ?_, fun m g hg => ?_⟩
    · rw [State.modGroup_eq]
    · rw [State.modGroup_eq]
      rfl
    · rw [State.group?_modGroup_eq, hg]
      split
      · exact ⟨true, rfl⟩
      · exact ⟨g.progress, rfl⟩
  · exact JoinsBars.refl s

theorem State.barProgress_joinsBars (s : State) (b : Bar) (ph : Nat) : JoinsBars s (s.barProgress 0 b ph) :=
  .foldl _ (fun t _ => t.progress_joinsBars _) _ s

theorem State.joinBars_joinsBars (s : State) (g : Group) : JoinsBars s (s.joinBars g) := by
  refine .foldl _ (fun t b => (t.setCur_joinsBars (nth 0 g.sids b.1)).trans ?_) _ s
  dsimp only
  split
  · exact JoinsBars.refl _
  · split
    · exact State.putBar_joinsBars _ _ _
    · split
      · exact (State.barProgress_joinsBars _ _ _).trans (State.putBar_joinsBars _ _ _)
      · exact State.putBar_joinsBars _ _ _

end Sys2Proof.Machine
end

section
/-!
SUPPORT. A group in migration resumes (R70, R72, R76, R78, R79).
-/

namespace Sys2Proof.Machine

/-! ### The core it resumes on -/

/-- The better of a core chosen so far and another, by rank from an origin. -/
def nearer (origin : Nat) (b : Option Nat) (k : Nat) : Option Nat :=
  match b with
  | some j => if coreRank origin k < coreRank origin j then some k else b
  | none => some k

/-- Of some cores the one of strictly least rank is chosen. -/
theorem foldl_nearer {origin k : Nat} {l : List Nat} (hk : k ∈ l) (hmin : ∀ j ∈ l, j ≠ k → coreRank origin k < coreRank origin j)
    {b : Option Nat} (hb : ∀ j, b = some j → j = k ∨ coreRank origin k < coreRank origin j) : l.foldl (nearer origin) b = some k := by
  have keeps : ∀ (l : List Nat) (b : Option Nat), (∀ j ∈ l, j ≠ k → coreRank origin k < coreRank origin j) → b = some k →
      l.foldl (nearer origin) b = some k := by
    intro l
    induction l with
    | nil => exact fun b _ hb => hb
    | cons a t ih =>
      rintro b hmin rfl
      refine ih _ (fun j hj => hmin j (List.mem_cons_of_mem _ hj)) ?_
      by_cases ha : a = k
      · simp [nearer, ha]
      · have := hmin a List.mem_cons_self ha
        simp [nearer, Nat.lt_asymm this]
  induction l generalizing b with
  | nil => exact absurd hk List.not_mem_nil
  | cons a t ih =>
    have hmin' : ∀ j ∈ t, j ≠ k → coreRank origin k < coreRank origin j := fun j hj => hmin j (List.mem_cons_of_mem _ hj)
    by_cases ha : a = k
    · subst ha
      refine keeps t _ hmin' ?_
      cases b with
      | none => rfl
      | some j =>
        rcases hb j rfl with rfl | hj
        · simp [nearer]
        · simp [nearer, hj]
    · refine ih ((List.mem_cons.1 hk).resolve_left (Ne.symm ha)) hmin' fun j hj => ?_
      have hlt := hmin a List.mem_cons_self ha
      cases b with
      | none =>
        cases hj
        exact .inr hlt
      | some i =>
        simp only [nearer] at hj
        split at hj
        · cases hj
          exact .inr hlt
        · cases hj
          exact hb _ rfl

/-- The eligible core that is strictly the nearest is the one R70 chooses. -/
theorem State.chooseCore_of_nearest {s : State} {need : Need} {origin k : Nat} (hk : k < 1024) (hel : s.eligible need k = true)
    (hmin : ∀ j, j < 1024 → j ≠ k → s.eligible need j = true → coreRank origin k < coreRank origin j) : s.chooseCore need origin = some k := by
  refine foldl_nearer (List.mem_filter.2 ⟨List.mem_range.2 hk, hel⟩) (fun j hj hne => ?_) (fun j hj => by cases hj)
  obtain ⟨hj, hjel⟩ := List.mem_filter.1 hj
  exact hmin j (List.mem_range.1 hj) hne hjel

/-- Above a priority at which the only waiting group waits, with no gang that has groups to create, nothing waits. -/
theorem State.waitingAt_nil {s : State} {prio : Nat} (hgroups : ∀ x ∈ s.groups, ∀ q, x.2.phase = .waiting → s.gang? x.2.gang = some q → q.prio ≠ prio)
    (hgangs : ∀ x ∈ s.gangs, x.2.prio ≠ prio ∨ x.2.resident = true ∨ x.2.groups ≤ x.2.created) : s.waitingAt prio = [] := by
  refine List.append_eq_nil_iff.2 ⟨List.filterMap_eq_nil_iff.2 fun x hx => ?_, List.filterMap_eq_nil_iff.2 fun x hx => ?_⟩
  · split
    · rename_i q hp hq
      rw [if_neg (by simpa using hgroups x hx q hp hq)]
    · rfl
  · refine if_neg fun h => ?_
    simp only [Bool.and_eq_true, beq_iff_eq, Bool.not_eq_true', decide_eq_true_eq] at h
    obtain ⟨⟨hprio, hres⟩, hleft⟩ := h
    rcases hgangs x hx with h | h | h
    · exact h hprio
    · exact Bool.false_ne_true (hres.symm.trans h)
    · omega

/-- At its own priority the one waiting group comes first, on the core chosen for it. -/
theorem State.waitingAt_moved {s : State} {n k : Nat} {g : Group} {q : Gang} {l r : List (Nat × Group)} (hgroups : s.groups = l ++ (n, g) :: r)
    (hwait : g.phase = .waiting) (hq : s.gang? g.gang = some q) (hrest : ∀ x ∈ l ++ r, x.2.phase ≠ .waiting)
    (hcore : s.chooseCore (g.need q) g.migSrc = some k) : (s.waitingAt q.prio).head? = some (.moved n g q k) := by
  have hnone : ∀ x ∈ l, ∀ q' prio, x.2.phase = .waiting → s.gang? x.2.gang = some q' → q'.prio ≠ prio :=
    fun x hx _ _ hp => absurd hp (hrest x (List.mem_append_left _ hx))
  unfold State.waitingAt
  rw [hgroups, List.filterMap_append, List.filterMap_eq_nil_iff.2 ?_, List.nil_append, List.filterMap_cons_some (b := Cand.moved n g q k) ?_]
  · rfl
  · simp [hwait, hq, hcore]
  · intro x hx
    split
    · rename_i hp _
      exact absurd hp (hrest x (List.mem_append_left _ hx))
    · rfl

/-- The one group that waits for a core, ahead of the gangs of its priority, is the one that is placed. -/
theorem exec_placement_moved {s : State} {n k : Nat} {g : Group} {q : Gang} {l r : List (Nat × Group)} {w : Option Word} (hgroups : s.groups = l ++ (n, g) :: r)
    (hwait : g.phase = .waiting) (hq : s.gang? g.gang = some q) (hprio : q.prio ≤ 3) (hrest : ∀ x ∈ l ++ r, x.2.phase ≠ .waiting)
    (hgangs : ∀ x ∈ s.gangs, x.2.prio ≤ q.prio ∨ x.2.resident = true ∨ x.2.groups ≤ x.2.created)
    (hcore : s.chooseCore (g.need q) g.migSrc = some k) : exec (.placement w) s = .next (s.resume n g q k) := by
  have habove : ∀ prio, q.prio < prio → s.waitingAt prio = [] := by
    refine fun prio hlt => State.waitingAt_nil (fun x hx q' hp hq' => ?_) fun x hx => (hgangs x hx).imp_left (by omega)
    rw [hgroups, List.mem_append, List.mem_cons] at hx
    rcases hx with hx | rfl | hx
    · exact absurd hp (hrest x (List.mem_append_left _ hx))
    · cases hq.symm.trans hq'
      omega
    · exact absurd hp (hrest x (List.mem_append_right _ hx))
  obtain ⟨y, hy⟩ := List.head?_eq_some_iff.1 (State.waitingAt_moved hgroups hwait hq hrest hcore)
  have hhead : ([3, 2, 1, 0].flatMap s.waitingAt).head? = some (.moved n g q k) := by
    generalize q.prio = prio at hprio habove hy
    have h3 := habove 3
    have h2 := habove 2
    have h1 := habove 1
    interval_cases prio <;> simp_all
  show execPlacement w s = _
  simp only [execPlacement, hhead]

/-! ### The matrix state it resumes with -/

section
variable (s : State) (n k : Nat) (g : Group) (q : Gang) (rebase : Strand → Word)

/-- On a Marl core the matrix state stays parked, its strand's cycle rebased (R76, R77). -/
theorem State.resumeMatrix_marl (h : isLoam k = false) :
    s.resumeMatrix n g q k rebase = s.modGroup n fun g => { g with savedMcs := g.savedMcs.map fun t => { t with rebase := rebase t } } := by
  simp [State.resumeMatrix, h]

/-- On a Loam core the parked matrix state is restored (R77). -/
theorem State.resumeMatrix_parked {m : Matrix} {t : Strand} (h : isLoam k = true) (hm : g.matrix = true) (hmx : g.savedMx = some m) (ht : g.savedMcs = some t) :
    s.resumeMatrix n g q k rebase =
      ((s.modStrand (mcsOf k) fun old => { t with rebase := rebase t, grace := old.grace }).modMx k fun x => { m with vtoaQ := x.vtoaQ }).modGroup n
        fun g => { g with savedMx := none, savedMcs := none } := by
  simp [State.resumeMatrix, h, hm, hmx, ht]

end

/-- What resuming or starting the matrix state of group n on core k changes: the matrix control strand there, matrix state, and the group's matrix part. -/
structure ResumesMatrix (n k : Nat) (s t : State) : Prop where
  strand : ∀ j, j ≠ mcsOf k → t.strand j = s.strand j
  core : ∀ j, t.core j = { s.core j with mx := (t.core j).mx }
  group : ∀ g, s.group? n = some g → ∃ mcs mx started, t.group? n = some { g with savedMcs := mcs, savedMx := mx, mstarted := started }

namespace ResumesMatrix

variable {n k : Nat} {s t u : State}

theorem refl (s : State) : ResumesMatrix n k s s := ⟨fun _ _ => rfl, fun _ => rfl, fun g h => ⟨g.savedMcs, g.savedMx, g.mstarted, h⟩⟩

theorem trans (h : ResumesMatrix n k s t) (h' : ResumesMatrix n k t u) : ResumesMatrix n k s u where
  strand j hj := (h'.strand j hj).trans (h.strand j hj)
  core j := by rw [h'.core j, h.core j]
  group g hg := by
    obtain ⟨_, _, _, ht⟩ := h.group g hg
    obtain ⟨a, b, c, hu⟩ := h'.group _ ht
    exact ⟨a, b, c, hu⟩

theorem lines (h : ResumesMatrix n k s t) (j : Nat) : (t.core j).lines = (s.core j).lines := by rw [h.core j]

end ResumesMatrix

section
variable (s : State) (n k : Nat)

theorem State.setMcs_resumesMatrix (t : Strand) : ResumesMatrix n k s (s.setStrand (mcsOf k) t) :=
  ⟨fun j hj => s.strand_setStrand_ne _ j _ hj, fun _ => rfl, fun g h => ⟨g.savedMcs, g.savedMx, g.mstarted, h⟩⟩

theorem State.modMx_resumesMatrix (f : Matrix → Matrix) : ResumesMatrix n k s (s.modMx k f) := by
  refine ⟨fun _ _ => rfl, fun j => ?_, fun g h => ⟨g.savedMcs, g.savedMx, g.mstarted, h⟩⟩
  rw [State.modMx, State.core_modCore_eq]
  split <;> rfl

theorem State.modGroup_resumesMatrix {f : Group → Group}
    (hf : ∀ g, ∃ mcs mx started, f g = { g with savedMcs := mcs, savedMx := mx, mstarted := started }) : ResumesMatrix n k s (s.modGroup n f) := by
  refine ⟨fun j _ => ?_, fun j => ?_, fun g h => ?_⟩
  · rw [s.modGroup_eq]
    rfl
  · rw [s.modGroup_eq]
    rfl
  · obtain ⟨mcs, mx, started, e⟩ := hf g
    exact ⟨mcs, mx, started, (State.group?_modGroup h f).trans (congrArg some e)⟩

theorem State.startMatrix_resumesMatrix (q : Gang) (rebase : Word) : ResumesMatrix n k s (s.startMatrix n q k rebase) := by
  unfold State.startMatrix
  split
  · split
    · exact (((s.setMcs_resumesMatrix n k _).trans (State.setMcs_resumesMatrix _ n k _)).trans (State.modMx_resumesMatrix _ n k _)).trans
        (State.modGroup_resumesMatrix _ n k fun g => ⟨g.savedMcs, g.savedMx, true, rfl⟩)
    · exact ResumesMatrix.refl s
  · exact ResumesMatrix.refl s

theorem State.resumeMatrix_resumesMatrix (g : Group) (q : Gang) (rebase : Strand → Word) : ResumesMatrix n k s (s.resumeMatrix n g q k rebase) := by
  unfold State.resumeMatrix
  split
  · exact State.modGroup_resumesMatrix s n k fun g => ⟨_, g.savedMx, g.mstarted, rfl⟩
  · split
    · exact ResumesMatrix.refl s
    · split
      · exact ((s.setMcs_resumesMatrix n k _).trans (State.modMx_resumesMatrix _ n k _)).trans
          (State.modGroup_resumesMatrix _ n k fun g => ⟨none, none, g.mstarted, rfl⟩)
      · exact s.startMatrix_resumesMatrix n k q _

end

end Sys2Proof.Machine
end

section
/-!
SUPPORT. A group in migration resumes, step by step (R72, R76).
-/

namespace Sys2Proof.Machine

/-- A recorded strand in a context again: its cycle goes on from the record, and the grace window is the context's (R76; log entry 4). -/
def Strand.restored (t : Strand) (off : Word) (old : Strand) : Strand := { t with rebase := t.rebase + off, grace := old.grace }

/-- What a group adds to the cycles of core k, so that its strands' go on from the record (R76). -/
def State.resumeOffset (s : State) (g : Group) (k : Nat) : Word := BitVec.ofNat 64 (g.migCycle + g.migCost) - BitVec.ofNat 64 (s.coreCycle k)

/-- The group as it stands on core k, its watchdog counting from a cycle of that core. -/
def State.resumedGroup (s : State) (g : Group) (k start : Nat) : Group :=
  { g with core := k, sids := (s.freeCtxs k).take g.saved.length, phase := .placed, saved := [], savedBar := [], grant := (s.freeUnits k).take g.grant.length
           wdStart := start, readyAt := if g.savedMx.isSome && isLoam k then s.coreCycle k + 1165 else 0 }

/-- The strands of a group in their contexts. -/
def State.restoreStrands (s : State) (ts : List Strand) (sids : List Nat) (off : Word) : State :=
  (List.range sids.length).foldl (fun s i => s.modStrand (nth 0 sids i) ((nth {} ts i).restored off)) s

/-- The machine with the group's strands and scratchpad on core k. -/
def State.resumeStorage (s : State) (g : Group) (k : Nat) : State :=
  let sids := (s.freeCtxs k).take g.saved.length
  ((s.acqCache k allClasses 4).restoreStrands g.saved sids (s.resumeOffset g k)).restoreImage { g with core := k, sids := sids } k
    ((s.freeUnits k).take g.grant.length)

/-- The record names core k, and the group stands there, before its matrix state does. -/
def State.resumePlaced (s : State) (n : Nat) (g : Group) (k : Nat) : State :=
  let u := s.resumeStorage g k
  let u := u.writeRecord (recordOffset g.migSrc + 64 + 16) (u.coreId k) 16
  u.setGroup n (s.resumedGroup g k (u.coreCycle k))

/-- The end of a resume: copies count for the strands again, barriers are joined, and fyv may halt the core (R76, R325). -/
def State.resumeEnds (s : State) (n : Nat) (g : Group) (k : Nat) : State :=
  let back := (List.range g.sids.length).map (fun i => (movedKey n i, nth 0 g.sids i)) ++ if isLoam k then [(movedKey n 8, mcsOf k)] else []
  let s := ((s.mapCopies fun o => { o with later := o.later && o.group != some n }).rebindCopies fun o => Sparse.get o back o).joinBars g
  if s.brkResume then s.modCore k fun c => { c with halted := true } else s

section
variable (s : State) (n k : Nat) (g : Group) (q : Gang)

theorem State.resume_eq :
    s.resume n g q k =
      ((s.resumePlaced n g k).resumeMatrix n { g with core := k, sids := (s.freeCtxs k).take g.saved.length } q k fun t => t.rebase + s.resumeOffset g k).resumeEnds n
        { g with core := k, sids := (s.freeCtxs k).take g.saved.length } k := by
  unfold State.resume State.resumeEnds State.resumePlaced State.resumeStorage State.restoreStrands State.resumedGroup State.resumeOffset Strand.restored
  with_reducible rfl

/-- What the end of a resume leaves of each core, strand and group. -/
theorem State.resumeEnds_keeps :
    (∀ j, (s.resumeEnds n g k).strand j = s.strand j) ∧
    (∀ j, ((s.resumeEnds n g k).core j).mx = (s.core j).mx ∧ ((s.resumeEnds n g k).core j).lines = (s.core j).lines) ∧
    ∀ m h, s.group? m = some h → ∃ p, (s.resumeEnds n g k).group? m = some { h with progress := p } := by
  have hjoin := State.joinBars_joinsBars ((s.mapCopies fun o => { o with later := o.later && o.group != some n }).rebindCopies fun o =>
    Sparse.get o ((List.range g.sids.length).map (fun i => (movedKey n i, nth 0 g.sids i)) ++ if isLoam k then [(movedKey n 8, mcsOf k)] else []) o) g
  unfold State.resumeEnds
  dsimp only at hjoin ⊢
  generalize State.joinBars _ _ = t at hjoin ⊢
  have hcore : ∀ j, (t.core j).mx = (s.core j).mx ∧ (t.core j).lines = (s.core j).lines := fun j => by
    rw [hjoin.core j]
    exact ⟨rfl, rfl⟩
  split
  · refine ⟨fun j => hjoin.strand j, fun j => ?_, fun m h hm => hjoin.group m h hm⟩
    rw [State.core_modCore_eq]
    split <;> exact hcore j
  · exact ⟨fun j => hjoin.strand j, hcore, fun m h hm => hjoin.group m h hm⟩

/-- Each recorded strand in its context, and every other strand as it was. -/
theorem State.restoreStrands_strand (ts : List Strand) {sids : List Nat} (off : Word) (h : sids.Nodup) :
    (∀ i, i < sids.length → (s.restoreStrands ts sids off).strand (nth 0 sids i) = (nth {} ts i).restored off (s.strand (nth 0 sids i))) ∧
    (∀ j, j ∉ sids → (s.restoreStrands ts sids off).strand j = s.strand j) ∧
    s.restoreStrands ts sids off = { s with strands := (s.restoreStrands ts sids off).strands } := by
  have hmap := map_nth_range 0 sids
  obtain ⟨hin, hout, heq⟩ := State.foldl_modStrand_places (nth 0 sids) (fun i => (nth {} ts i).restored off) (List.range sids.length) (hmap.symm ▸ h) s
  exact ⟨fun i hi => hin i (List.mem_range.2 hi), fun j hj => hout j (hmap.symm ▸ hj), heq⟩

/-- Where the recorded strand i of a group goes, as its contexts are chosen. -/
def State.resumeSids (s : State) (g : Group) (k : Nat) : List Nat := (s.freeCtxs k).take g.saved.length

theorem State.resumeSids_nodup : (s.resumeSids g k).Nodup := (s.freeCtxs_nodup k).sublist (List.take_sublist _ _)

theorem State.mcsOf_not_mem_resumeSids : mcsOf k ∉ s.resumeSids g k := fun h => s.mcsOf_not_mem_freeCtxs k (List.mem_of_mem_take h)

/-- What the group finds on core k: its strands, the matrix control strand's context as it was, and none of the lines an acquire drops. -/
structure OnCore (u : State) : Prop where
  strand : ∀ i, i < (s.resumeSids g k).length →
    u.strand (nth 0 (s.resumeSids g k) i) = (nth {} g.saved i).restored (s.resumeOffset g k) (s.strand (nth 0 (s.resumeSids g k) i))
  mcs : u.strand (mcsOf k) = s.strand (mcsOf k)
  lines : ∀ l ∈ s.classLines k 0xFFFF, u.lineEntry k l = none

variable {s k g} in
theorem OnCore.home {u v : State} (h : OnCore s k g u) (hv : SameButHome u v) : OnCore s k g v where
  strand i hi := (hv.access.strand _).trans (h.strand i hi)
  mcs := (hv.access.strand _).trans h.mcs
  lines l hl := (State.lineEntry_of_cores _ _ hv.cores _ _).trans (h.lines l hl)

variable {s k g} in
theorem OnCore.setGroup {u : State} (h : OnCore s k g u) (m : Nat) (x : Group) : OnCore s k g (u.setGroup m x) := ⟨h.strand, h.mcs, h.lines⟩

theorem State.restoreStrands_onCore : OnCore s k g ((s.acqCache k allClasses 4).restoreStrands g.saved (s.resumeSids g k) (s.resumeOffset g k)) := by
  have hacq := s.acqCache_sameButAccess k allClasses 4
  have hgone := fun l hl => s.acqCache_absent (k := k) (mask := 0xFFFF) (l := l) hl
  change ∀ l, l ∈ s.classLines k 0xFFFF → (s.acqCache k allClasses 4).lineEntry k l = none at hgone
  generalize s.acqCache k allClasses 4 = u at hacq hgone ⊢
  obtain ⟨hin, hout, heq⟩ := u.restoreStrands_strand g.saved (s.resumeOffset g k) (s.resumeSids_nodup k g)
  refine ⟨fun i hi => (hin i hi).trans (by rw [hacq.strand]), (hout _ (s.mcsOf_not_mem_resumeSids k g)).trans (hacq.strand _), fun l hl => ?_⟩
  refine (State.lineEntry_of_cores u _ ?_ k l).trans (hgone l hl)
  rw [heq]

theorem State.resumeStorage_onCore : OnCore s k g (s.resumeStorage g k) :=
  (s.restoreStrands_onCore k g).home (State.restoreImage_sameButHome _ _ _ _)

theorem State.resumePlaced_onCore : OnCore s k g (s.resumePlaced n g k) := by
  have h := s.resumeStorage_onCore k g
  unfold State.resumePlaced
  generalize s.resumeStorage g k = u at h ⊢
  exact (h.home (u.writeRecord_sameButHome _ _ _)).setGroup n _

theorem State.resumePlaced_group? : ∃ start, (s.resumePlaced n g k).group? n = some (s.resumedGroup g k start) := ⟨_, State.group?_setGroup _ n _⟩

end

/-- The free contexts of the core chosen are enough for the strands recorded. -/
theorem State.resumeSids_length {s : State} {g : Group} {q : Gang} {k : Nat} (h : s.eligible (g.need q) k = true) :
    (s.resumeSids g k).length = g.saved.length := by
  simp only [State.eligible, Group.need, Bool.and_eq_true] at h
  obtain ⟨⟨⟨⟨-, hroom⟩, -⟩, -⟩, -⟩ := h
  rw [State.resumeSids, List.length_take, Nat.min_eq_left (of_decide_eq_true hroom)]

/-- Parked matrix state in the engine of a core, and its strand in the matrix control strand's context. -/
def State.putMatrix (s : State) (k : Nat) (m : Matrix) (t : Strand) : State :=
  (s.modStrand (mcsOf k) fun old => { t with grace := old.grace }).modMx k fun x => { m with vtoaQ := x.vtoaQ }

/-- Restoring parked matrix state leaves it on the core (R77, R79). -/
theorem State.putMatrix_leaves (s : State) (k n : Nat) (m : Matrix) (t : Strand) (f : Group → Group) :
    let u := (s.putMatrix k m t).modGroup n f
    (u.core k).mx = { m with vtoaQ := (u.core k).mx.vtoaQ } ∧ u.strand (mcsOf k) = { t with grace := (s.strand (mcsOf k)).grace } ∧
      ∀ g, s.group? n = some g → u.group? n = some (f g) := by
  intro u
  have hu : u = { s.putMatrix k m t with groups := u.groups } := State.modGroup_eq _ n f
  have hcore : u.core k = (s.putMatrix k m t).core k := by
    rw [hu]
    rfl
  refine ⟨?_, ?_, fun g hg => State.group?_modGroup (s := s.putMatrix k m t) hg f⟩
  · rw [hcore, State.putMatrix, State.modMx, State.core_modCore_eq, if_pos rfl]
  · rw [hu]
    exact s.strand_setStrand _ _

theorem movedGroups : Spec.MovedGroups := by
  intro s n k g q l r w hgroups hwait hq hprio hrest hgangs hk hel hmin
  have hexec := exec_placement_moved (w := w) hgroups hwait hq hprio hrest hgangs (State.chooseCore_of_nearest hk hel hmin)
  have hlen := State.resumeSids_length hel
  have hon := s.resumePlaced_onCore n k g
  obtain ⟨start, hgroup⟩ := s.resumePlaced_group? n k g
  rw [s.resume_eq n k g q] at hexec
  have hparked := fun m u => State.resumeMatrix_parked (s.resumePlaced n g k) n k { g with core := k, sids := (s.freeCtxs k).take g.saved.length } q
    (fun t => t.rebase + s.resumeOffset g k) (m := m) (t := u)
  have hmarl := State.resumeMatrix_marl (s.resumePlaced n g k) n k { g with core := k, sids := (s.freeCtxs k).take g.saved.length } q
    (fun t => t.rebase + s.resumeOffset g k)
  have hmatrix := (s.resumePlaced n g k).resumeMatrix_resumesMatrix n k { g with core := k, sids := (s.freeCtxs k).take g.saved.length } q
    (fun t => t.rebase + s.resumeOffset g k)
  generalize s.resumePlaced n g k = a at hexec hon hgroup hparked hmarl hmatrix
  generalize a.resumeMatrix n _ q k _ = b at hexec hparked hmarl hmatrix
  obtain ⟨mcs, mx, started, hgroup'⟩ := hmatrix.group _ hgroup
  obtain ⟨hendStrand, hendCore, hendGroup⟩ := b.resumeEnds_keeps n k { g with core := k, sids := (s.freeCtxs k).take g.saved.length }
  generalize b.resumeEnds n _ k = t at hexec hendStrand hendCore hendGroup
  obtain ⟨p, hend⟩ := hendGroup n _ hgroup'
  refine ⟨t, _, hexec, hend, rfl, rfl, rfl, rfl, fun i hi => ?_, fun l hl x => ?_, fun h => ?_, fun m u hloam hm hmx hu => ?_⟩
  · refine (hendStrand _).trans ((hmatrix.strand _ fun e => ?_).trans (hon.strand i (hlen.symm ▸ hi)))
    exact s.mcsOf_not_mem_resumeSids k g (e ▸ nth_mem 0 (hlen.symm ▸ hi))
  · rw [(hendCore k).2, hmatrix.lines k]
    exact State.not_mem_lines (hon.lines l hl) x
  · rw [hmarl h, State.group?_modGroup hgroup] at hgroup'
    have e := Option.some.inj hgroup'
    exact ⟨(congrArg Group.savedMx e).symm, (congrArg Group.savedMcs e).symm⟩
  · have hb := hparked m u hloam hm hmx hu
    obtain ⟨hmxleft, hmcsleft, hgroupleft⟩ := a.putMatrix_leaves k n m { u with rebase := u.rebase + s.resumeOffset g k } fun g => { g with savedMx := none, savedMcs := none }
    have e := Option.some.inj ((hgroupleft _ hgroup).symm.trans (hb ▸ hgroup'))
    refine ⟨?_, (congrArg Group.savedMcs e).symm, ?_, ?_⟩
    · rw [(hendCore k).1, hb]
      exact hmxleft
    · simp [State.resumedGroup, hmx, hloam]
    · rw [hendStrand, hb]
      exact hmcsleft.trans (by rw [hon.mcs]; rfl)

end Sys2Proof.Machine
end

section
/-!
SUPPORT. A group in migration gives up its core, stage by stage (R71, R73, R75, R76): its strands stop, the record is written, and everything on the core is freed.
-/

namespace Sys2Proof.Machine

/-! ### The stages -/

/-- One strand of the group stops: its convoys unwind, and a LAUNCH it waits on is settled (R71 step 1). -/
def State.migStopOne (s : State) (sid : Nat) : State := ((s.unwind sid).dropTags sid).settleLaunch sid

/-- The group's strands have stopped, and its core is clean. -/
def State.migStop (s : State) (g : Group) : State := (g.all.foldl State.migStopOne s).cleanCore g.core

/-- The matrix state that a migration parks, with the matrix control strand: that of the core where it runs, or what a move has parked before (R77). -/
def State.migMatrix (s : State) (g : Group) : Option (Matrix × Strand) :=
  if g.mcsRuns then some ((s.core g.core).mx, (s.strand (mcsOf g.core)).carried)
  else match g.savedMx, g.savedMcs with
    | some m, some t => some (m, t)
    | _, _ => none

/-- The group as its record describes it. -/
def State.migGroup (s : State) (g : Group) : Group :=
  { g with
    migCost := sourceCost (g.grant.length * 32768) ((g.sids.map s.strand).map fun t => t.dirtyRegs.length).sum (s.migMatrix g).isSome, migSrc := g.core
    wdBase := g.wdBase + (s.coreCycle g.core - g.wdStart) }

/-- The record stands in the migration range. -/
def State.migRecord (s : State) (g : Group) : State :=
  let r := s.record (s.migGroup g) (g.sids.map s.strand) (s.arrivals g) (s.migMatrix g)
  ((s.leaveBars g.core (s.arrivals g)).writeRecord (recordOffset g.core) r.1 r.2).poisonImage g.core g.grant (recordOffset g.core + imageOffset (g.sids.map s.strand))

/-- The contexts of the group, its units and its matrix state are free. -/
def State.migFree (s : State) (n : Nat) (g : Group) : State :=
  let u := (s.probeAfresh g).rebindCopies fun k => ((g.idxOf? k).map (movedKey n)).getD k
  ((g.all.foldl State.freeContext u).zeroUnits g.core g.grant).resetMatrix n g

/-- The group as it waits for a core: what it carries. -/
def State.migWaits (s : State) (g : Group) : Group :=
  { s.migGroup g with
    phase := .waiting, saved := (g.sids.map s.strand).map Strand.carried, savedMcs := (s.migMatrix g).map (·.2), savedMx := (s.migMatrix g).map (·.1)
    savedBar := s.arrivals g, grant := g.grant.map fun _ => 0 }

/-- The machine after the group has left: fyv may halt the core (R325). -/
def State.migLeft (s : State) (n : Nat) (g : Group) : State :=
  let u := (s.migStop g)
  let t := ((u.migRecord g).migFree n (u.migGroup g)).setGroup n (u.migWaits g)
  if t.brkMigrate then t.modCore g.core fun c => { c with halted := true } else t

/-- Once nothing that must finish is left, the group gives up its core. -/
theorem exec_migration_of_idle {s : State} {n : Nat} {g : Group} (hg : s.group? n = some g) (hphase : g.phase = .migrating) (hrun : s.frozen g.core = false)
    (hidle : s.migrationWaits n g = false) : exec (.migration n) s = .next (s.migLeft n g) := by
  have hgo : (g.phase != .migrating || s.frozen g.core || s.migrationWaits n g) = false := by simp [hphase, hrun, hidle]
  show execMigration n s = _
  unfold execMigration
  rw [hg]
  dsimp only
  rw [hgo, if_neg Bool.false_ne_true]
  unfold State.migLeft
  dsimp only
  have hstop : s.migStop g = (g.all.foldl (fun s sid => ((s.unwind sid).dropTags sid).settleLaunch sid) s).cleanCore g.core := rfl
  rw [← hstop]
  generalize s.migStop g = u
  unfold State.migFree State.migWaits State.migRecord State.migGroup State.migMatrix
  dsimp only <;> generalize u.arrivals g = bars <;> rfl

end Sys2Proof.Machine
end

section
/-!
SUPPORT. What stopping a group, recording it and freeing its core leave of each strand, core and group (R71, R73, R296).
-/

namespace Sys2Proof.Machine

/-! ### A strand unwinds -/

/-- What unwinding changes of a strand. -/
theorem Strand.dropConv_eq (t : Strand) :
    t.dropConv = { t with v := t.dropConv.v, m := t.dropConv.m, sc := t.dropConv.sc, vlinks := t.dropConv.vlinks, blk := t.dropConv.blk, convWait := none, conv := none } := by
  unfold Strand.dropConv
  dsimp only
  split
  · rename_i h
    rw [h]
  · rfl

theorem Strand.dropConv_of_none {t : Strand} (hc : t.conv = none) (hw : t.convWait = none) : t.dropConv = t := by
  unfold Strand.dropConv
  dsimp only
  rw [hc]
  obtain ⟨⟩ := t
  simp_all

/-- What an unwound strand has left: no convoy in progress, and at most one behind it, which stays. -/
theorem Strand.unwound_past (t : Strand) :
    t.unwound.conv = none ∧ t.unwound.convWait = none ∧ (t.unwound.past = [] ∨ ∃ p, t.unwound.past = [p] ∧ p.conv.stays = true) := by
  have hconv : t.dropConv.conv = none := by rw [t.dropConv_eq]
  have hwait : t.dropConv.convWait = none := by rw [t.dropConv_eq]
  unfold Strand.unwound
  dsimp only
  generalize t.dropConv = u at hconv hwait
  split
  · rename_i h
    exact ⟨hconv, hwait, .inl h⟩
  · rename_i p ps h
    split
    · exact ⟨hconv, hwait, .inl rfl⟩
    · rename_i hstay
      have hstay : p.conv.stays = true := by simpa using hstay
      split
      · exact ⟨hconv, hwait, .inr ⟨p, h, hstay⟩⟩
      · exact ⟨hconv, hwait, .inr ⟨p, rfl, hstay⟩⟩

/-- A strand unwinds once. -/
theorem Strand.unwound_unwound (t : Strand) : t.unwound.unwound = t.unwound := by
  obtain ⟨hconv, hwait, hpast⟩ := t.unwound_past
  generalize t.unwound = u at hconv hwait hpast
  unfold Strand.unwound
  rw [Strand.dropConv_of_none hconv hwait]
  rcases hpast with h | ⟨p, h, hstay⟩
  · simp only [h]
  · simp [h, hstay]

/-- Unwinding keeps a strand's grace window, its shares and its register count. -/
theorem Strand.unwound_keeps (t : Strand) : t.unwound.grace = t.grace ∧ t.unwound.g = t.g ∧ t.unwound.n2 = t.n2 := by
  have hdrop : t.dropConv.grace = t.grace ∧ t.dropConv.g = t.g ∧ t.dropConv.n2 = t.n2 := by
    rw [t.dropConv_eq]
    exact ⟨rfl, rfl, rfl⟩
  unfold Strand.unwound
  dsimp only
  generalize t.dropConv = u at hdrop
  split
  · exact hdrop
  · split
    · exact hdrop
    · split <;> exact hdrop

/-! ### The group's strands stop -/

/-- What stopping strands changes: strands, their places among those that wait for a row-buffer slot, their tags, and launches. -/
structure Stops (s t : State) : Prop where
  frame : t = { s with strands := t.strands, cores := t.cores, tags := t.tags, broken := t.broken, submits := t.submits }
  core : ∀ j, t.core j = { s.core j with mx := { (s.core j).mx with vtoaQ := (t.core j).mx.vtoaQ } }

namespace Stops

variable {s t u : State}

theorem refl (s : State) : Stops s s := ⟨rfl, fun _ => rfl⟩

theorem trans (h : Stops s t) (k : Stops t u) : Stops s u where
  frame := by rw [k.frame, h.frame]
  core j := by rw [k.core j, h.core j]

theorem foldl {α : Type} (f : State → α → State) (h : ∀ s x, Stops s (f s x)) (l : List α) (s : State) : Stops s (l.foldl f s) :=
  List.foldlRecOn (motive := fun t => Stops s t) _ _ (refl s) fun t ht x _ => ht.trans (h t x)

theorem mem (h : Stops s t) : t.mem = s.mem := by rw [h.frame]

theorem pkg (h : Stops s t) : t.pkg = s.pkg := by rw [h.frame]

theorem mx (h : Stops s t) (j : Nat) : (t.core j).mx = { (s.core j).mx with vtoaQ := (t.core j).mx.vtoaQ } := by
  conv => lhs; rw [h.core j]

end Stops

section
variable (s : State) (sid : Nat)

theorem State.leaveSlots_stops (keep : List Nat) : Stops s (s.leaveSlots sid keep) := by
  refine ⟨?_, fun j => ?_⟩
  · rw [s.leaveSlots_eq sid keep]
  · unfold State.leaveSlots
    split
    · rw [State.modMx, State.core_modCore_eq]
      split <;> rfl
    · rfl

theorem State.leaveSlots_strand (keep : List Nat) (j : Nat) : (s.leaveSlots sid keep).strand j = s.strand j := by
  rw [s.leaveSlots_eq sid]
  rfl

theorem State.unwind_stops : Stops s (s.unwind sid) := (s.leaveSlots_stops sid _).trans (t := s.leaveSlots sid _) ⟨rfl, fun _ => rfl⟩

theorem State.settleLaunch_stops : Stops s (s.settleLaunch sid) := by
  unfold State.settleLaunch
  split
  · exact Stops.refl s
  · dsimp only
    split <;> exact ⟨rfl, fun _ => rfl⟩

theorem State.migStopOne_stops : Stops s (s.migStopOne sid) :=
  ((s.unwind_stops sid).trans (t := s.unwind sid) (u := (s.unwind sid).dropTags sid) ⟨rfl, fun _ => rfl⟩).trans (State.settleLaunch_stops _ sid)

/-- Another strand is as it was. -/
theorem State.migStopOne_strand_ne {j : Nat} (h : j ≠ sid) : (s.migStopOne sid).strand j = s.strand j := by
  have hunwind : ((s.unwind sid).dropTags sid).strand j = s.strand j := by
    exact (State.strand_setStrand_ne _ _ j _ h).trans (s.leaveSlots_strand sid _ j)
  unfold State.migStopOne State.settleLaunch
  split
  · exact hunwind
  · dsimp only
    split
    · exact (State.strand_setStrand_ne _ _ j _ h).trans hunwind
    · exact hunwind

theorem State.unwind_strand : ((s.unwind sid).dropTags sid).strand sid = (s.strand sid).unwound := by
  exact (State.strand_setStrand _ sid _).trans (congrArg Strand.unwound (s.leaveSlots_strand sid _ sid))

/-- A strand that stops keeps its grace window. -/
theorem State.migStopOne_grace (j : Nat) : ((s.migStopOne sid).strand j).grace = (s.strand j).grace := by
  by_cases h : j = sid
  · subst h
    have hunwind : (((s.unwind j).dropTags j).strand j).grace = (s.strand j).grace := by rw [s.unwind_strand, (s.strand j).unwound_keeps.1]
    unfold State.migStopOne State.settleLaunch
    generalize (s.unwind j).dropTags j = u at hunwind ⊢
    split
    · exact hunwind
    · dsimp only
      split
      · refine (congrArg Strand.grace (State.strand_setStrand _ j _)).trans ?_
        unfold Strand.setX
        split <;> exact hunwind
      · exact hunwind
  · rw [s.migStopOne_strand_ne sid h]

theorem State.unwind_submits : ((s.unwind sid).dropTags sid).submits = s.submits := by
  change (s.leaveSlots sid _).submits = s.submits
  rw [s.leaveSlots_eq sid]

/-- A strand that no LAUNCH waits for unwinds, and that is all. -/
theorem State.migStopOne_of_idle (h : ∀ x ∈ s.submits, x.fromSid ≠ some sid) : s.migStopOne sid = (s.unwind sid).dropTags sid := by
  have hfind : ((s.unwind sid).dropTags sid).submits.find? (fun u => u.fromSid == some sid) = none := by
    rw [s.unwind_submits, List.find?_eq_none]
    simpa using h
  unfold State.migStopOne State.settleLaunch
  rw [hfind]

end

end Sys2Proof.Machine
end

section
/-!
SUPPORT. A group's core once its strands have stopped, and the members of other strands that are probed afresh (R73; log entry 37).
-/

namespace Sys2Proof.Machine

/-! ### A clean core -/

/-- A write-back changes of the cores their lines alone. -/
theorem State.writeBackOne_core (s : State) (k line j : Nat) :
    (s.writeBackOne k line).core j = { s.core j with lines := ((s.writeBackOne k line).core j).lines } := by
  cases h : s.lineEntry k line with
  | none => rw [s.writeBackOne_of_none k line h]
  | some l =>
    have hhome : (s.homeWriteLine line l.data l.dirty l.wpois (!l.pois)).core j = s.core j := by
      rw [State.core, s.homeWriteLine_cores, State.core]
    rw [s.writeBackOne_of_some k line l h, State.putLine, State.core_modCore_eq, hhome]
    split <;> rfl

theorem State.writeBack_core_mx (s : State) (k line j : Nat) : ((s.writeBack k line).core j).mx = (s.core j).mx := by
  have hone : ∀ (t : State) l, ((t.writeBackOne k l).core j).mx = (t.core j).mx := fun t l => by rw [t.writeBackOne_core]
  cases h : s.lineEntry k line with
  | none => rw [s.writeBack_of_none k line h]
  | some l =>
    rw [s.writeBack_of_some k line l h]
    split
    · rfl
    · exact (hone _ _).trans (List.foldlRecOn (motive := fun t : State => (t.core j).mx = (s.core j).mx) _ _ rfl fun t ht l _ => (hone t l).trans ht)

theorem State.cleanCore_core_mx (s : State) (k j : Nat) : ((s.cleanCore k).core j).mx = (s.core j).mx :=
  List.foldlRecOn (motive := fun t : State => (t.core j).mx = (s.core j).mx) _ _ rfl fun t ht l _ => (t.writeBack_core_mx k l j).trans ht

theorem SameButAccess.pkg {s t : State} (h : SameButAccess s t) : t.pkg = s.pkg := by rw [h]

section
variable (s : State) (g : Group)

theorem State.migStops : Stops s (g.all.foldl State.migStopOne s) := .foldl _ (fun t sid => t.migStopOne_stops sid) _ s

theorem State.migStop_access : SameButAccess (g.all.foldl State.migStopOne s) (s.migStop g) := State.cleanCore_sameButAccess _ _

theorem State.migStop_memOk (h : MemOk s) : MemOk (s.migStop g) :=
  State.cleanCore_memOk _ _ ((congrArg Mem.wf (s.migStops g).mem).trans h)

theorem State.migStop_coreId (k : Nat) : (s.migStop g).coreId k = s.coreId k := by
  rw [State.coreId, (s.migStop_access g).pkg, (s.migStops g).pkg, State.coreId]

/-- Stopping a group leaves the matrix state of every core, its queue for row-buffer slots aside. -/
theorem State.migStop_mx (k : Nat) : ((s.migStop g).core k).mx = { (s.core k).mx with vtoaQ := ((s.migStop g).core k).mx.vtoaQ } := by
  rw [State.migStop, State.cleanCore_core_mx]
  exact (s.migStops g).mx k

theorem State.migStop_strand_ne {j : Nat} (h : j ∉ g.all) : (s.migStop g).strand j = s.strand j :=
  ((s.migStop_access g).strand j).trans (List.foldlRecOn (motive := fun t : State => t.strand j = s.strand j) _ _ rfl fun t ht sid hsid =>
    (t.migStopOne_strand_ne sid (ne_of_mem_of_not_mem hsid h).symm).trans ht)

theorem State.migStop_grace (j : Nat) : ((s.migStop g).strand j).grace = (s.strand j).grace :=
  (congrArg Strand.grace ((s.migStop_access g).strand j)).trans (List.foldlRecOn (motive := fun t : State => (t.strand j).grace = (s.strand j).grace) _ _ rfl
    fun t ht sid _ => (t.migStopOne_grace sid j).trans ht)

/-- Where no LAUNCH of the group is under way, each of its strands has unwound, and that is all. -/
theorem State.migStop_unwound (h : ∀ x ∈ s.submits, ∀ sid ∈ g.all, x.fromSid ≠ some sid) {j : Nat} (hj : j ∈ g.all) :
    (s.migStop g).strand j = (s.strand j).unwound := by
  refine ((s.migStop_access g).strand j).trans ?_
  have hkeep : ∀ (L : List Nat) (t : State), (∀ sid ∈ L, sid ∈ g.all) → t.submits = s.submits → (∀ i, t.strand i = s.strand i ∨ t.strand i = (s.strand i).unwound) →
      (j ∈ L ∨ t.strand j = (s.strand j).unwound) → (L.foldl State.migStopOne t).strand j = (s.strand j).unwound := by
    intro L
    induction L with
    | nil => exact fun t _ _ _ hj => hj.resolve_left List.not_mem_nil
    | cons sid L ih =>
      intro t hmem hsub hor hj
      have hone : t.migStopOne sid = (t.unwind sid).dropTags sid := t.migStopOne_of_idle sid fun x hx => h x (hsub ▸ hx) sid (hmem sid List.mem_cons_self)
      have hsame : (t.migStopOne sid).strand sid = (s.strand sid).unwound := by
        rw [hone, t.unwind_strand]
        rcases hor sid with e | e <;> rw [e]
        exact Strand.unwound_unwound _
      refine ih _ (fun i hi => hmem i (List.mem_cons_of_mem _ hi)) ?_ (fun i => ?_) ?_
      · rw [hone, t.unwind_submits, hsub]
      · by_cases e : i = sid
        · exact .inr (e ▸ hsame)
        · rw [t.migStopOne_strand_ne sid e]
          exact hor i
      · by_cases e : j = sid
        · exact .inr (e ▸ hsame)
        · rw [t.migStopOne_strand_ne sid e]
          exact hj.imp_left fun hj => (List.mem_cons.1 hj).resolve_left e
  exact hkeep g.all s (fun _ hi => hi) rfl (fun _ => .inl rfl) (.inl hj)

end

/-! ### Sparse maps filtered and mapped by key -/

theorem Sparse.get_filter {α : Type} (d : α) (l : Sparse α) (f : Nat → Bool) (j : Nat) :
    Sparse.get d (l.filter fun p => f p.1) j = if f j then Sparse.get d l j else d := by
  induction l with
  | nil => simp [Sparse.get]
  | cons p t ih =>
    obtain ⟨k, v⟩ := p
    by_cases hk : f k = true
    · rw [List.filter_cons_of_pos (by simpa using hk)]
      simp only [Sparse.get, ih]
      by_cases e : j = k
      · simp [e, hk]
      · simp [e]
    · rw [List.filter_cons_of_neg (by simpa using hk), ih]
      by_cases e : j = k
      · simp [e, hk]
      · simp [Sparse.get, e]

theorem Sparse.get_mapKey {α : Type} (d : α) (l : Sparse α) (F : Nat → α → α) (j : Nat) (h : F j d = d) :
    Sparse.get d (l.map fun p => (p.1, F p.1 p.2)) j = F j (Sparse.get d l j) := by
  induction l with
  | nil => exact h.symm
  | cons p t ih =>
    simp only [List.map_cons, Sparse.get, ih]
    split
    · rename_i e
      rw [e]
    · rfl

/-- A key whose value is not the default is listed with it. -/
theorem Sparse.mem_of_get_ne {α : Type} {d : α} {l : Sparse α} {k : Nat} (h : Sparse.get d l k ≠ d) : (k, Sparse.get d l k) ∈ l := by
  induction l with
  | nil => exact absurd rfl h
  | cons p t ih =>
    obtain ⟨k', v⟩ := p
    simp only [Sparse.get] at h ⊢
    split at h
    · rename_i e
      simp [e]
    · rename_i e
      simp [e, ih h]

/-- Where no key is listed twice, a key listed has the value it is listed with. -/
theorem Sparse.get_of_mem {α : Type} {d : α} {l : Sparse α} {k : Nat} {v : α} (hl : (l.map (·.1)).Nodup) (h : (k, v) ∈ l) : Sparse.get d l k = v := by
  induction l with
  | nil => exact absurd h List.not_mem_nil
  | cons p t ih =>
    obtain ⟨hp, ht⟩ := List.nodup_cons.1 hl
    rcases List.mem_cons.1 h with rfl | h
    · simp [Sparse.get]
    · have hk : k ≠ p.1 := ne_of_mem_of_not_mem (List.mem_map_of_mem (f := (·.1)) h) hp
      simp only [Sparse.get, if_neg hk]
      exact ih ht h

theorem mem_insertNat (l : List Nat) (k j : Nat) : j ∈ insertNat l k ↔ j = k ∨ j ∈ l := by
  induction l with
  | nil => simp [insertNat]
  | cons a t ih =>
    unfold insertNat
    split
    · simp
    · split
      · rename_i e
        simp [e]
      · simp only [List.mem_cons, ih]
        tauto

theorem mem_foldl_insertNat (L l : List Nat) (j : Nat) : j ∈ L.foldl insertNat l ↔ j ∈ L ∨ j ∈ l := by
  induction L generalizing l with
  | nil => simp
  | cons a t ih =>
    rw [List.foldl_cons, ih, mem_insertNat, List.mem_cons]
    tauto

theorem hasNat_iff (l : List Nat) (k : Nat) : hasNat l k = true ↔ k ∈ l := by
  simp [hasNat]

/-! ### Members probed afresh -/

/-- The slots of a convoy whose members have not started and reach into a group's window. -/
def Conv.hitSlots (g : Group) (c : Conv) : List Nat :=
  let hit := (c.probes.filter fun q => c.slot ≤ q.1 && q.2.any fun x => x.ps.any fun y => g.holdsFlat y.tr.fa).map (·.1)
  match c.pend with
  | .none => hit
  | _ => hit.filter (· != c.slot)

theorem Conv.probeAfresh_eq (g : Group) (c : Conv) :
    c.probeAfresh g = { c with probes := c.probes.filter fun q => !hasNat (c.hitSlots g) q.1, late := (c.hitSlots g).foldl insertNat c.late } := by
  unfold Conv.probeAfresh Conv.hitSlots
  rfl

theorem Group.holdsFlat_iff (g : Group) (fa : Nat) : g.holdsFlat fa = true ↔ fa / 2 ^ 32 = 2 ^ 26 + g.core ∧ fa % 2 ^ 32 / 2 ^ 15 ∈ g.grant := by
  rw [Group.holdsFlat, Bool.and_eq_true, beq_iff_eq, hasNat_iff]

/-- Where no slot is listed twice, they are the slots whose probes lie in the window, from the one in progress on where it has not started. -/
theorem Conv.mem_hitSlots (g : Group) {c : Conv} (hc : (c.probes.map (·.1)).Nodup) (i : Nat) :
    i ∈ c.hitSlots g ↔ (∃ x ∈ Sparse.get [] c.probes i, ∃ y ∈ x.ps, g.holdsFlat y.tr.fa = true) ∧ (c.slot < i ∨ (i = c.slot ∧ c.pend = .none)) := by
  have hin : i ∈ (c.probes.filter fun q => c.slot ≤ q.1 && q.2.any fun x => x.ps.any fun y => g.holdsFlat y.tr.fa).map (·.1) ↔
      c.slot ≤ i ∧ ∃ x ∈ Sparse.get [] c.probes i, ∃ y ∈ x.ps, g.holdsFlat y.tr.fa = true := by
    simp only [List.mem_map, List.mem_filter, Bool.and_eq_true, decide_eq_true_eq, List.any_eq_true]
    constructor
    · rintro ⟨⟨k, l⟩, ⟨hmem, hle, hany⟩, rfl⟩
      exact ⟨hle, (Sparse.get_of_mem hc hmem).symm ▸ hany⟩
    · rintro ⟨hle, x, hx, hany⟩
      exact ⟨_, ⟨Sparse.mem_of_get_ne (List.ne_nil_of_mem hx), hle, x, hx, hany⟩, rfl⟩
  unfold Conv.hitSlots
  dsimp only
  split
  · rename_i hp
    rw [hin, Nat.le_iff_lt_or_eq]
    simp only [hp, and_true, eq_comm (a := i)]
    tauto
  · rename_i hp
    have hp : c.pend ≠ .none := fun e => hp e
    rw [List.mem_filter, hin]
    simp only [bne_iff_ne, hp, and_false, or_false]
    constructor
    · rintro ⟨⟨hle, h⟩, hne⟩
      exact ⟨h, by omega⟩
    · rintro ⟨h, hlt⟩
      exact ⟨⟨hlt.le, h⟩, by omega⟩

/-- A strand whose members that reach into a group's window are probed afresh. -/
def Strand.probeAfresh (g : Group) (t : Strand) : Strand :=
  { t with conv := t.conv.map (Conv.probeAfresh g), past := t.past.map fun q => { q with conv := q.conv.probeAfresh g } }

theorem State.probeAfresh_strand (s : State) (g : Group) (j : Nat) :
    (s.probeAfresh g).strand j = if hasNat g.all j then s.strand j else (s.strand j).probeAfresh g := by
  have hmap : (s.probeAfresh g).strands = s.strands.map fun p => (p.1, if hasNat g.all p.1 then p.2 else p.2.probeAfresh g) := by
    refine List.map_congr_left fun p _ => ?_
    split <;> rfl
  rw [State.strand, hmap]
  refine Sparse.get_mapKey {} s.strands (fun k t => if hasNat g.all k then t else t.probeAfresh g) j ?_
  split <;> rfl

end Sys2Proof.Machine
end

section
/-!
SUPPORT. The contexts, units and matrix state of a group that has left its core, and memory at its homes byte by byte (R71, R75, R81).
-/

namespace Sys2Proof.Machine

/-! ### Bytes at their homes -/

/-- What a write of whole bytes at their home leaves in each byte. -/
theorem State.byte_homeWrite {s : State} (hs : MemOk s) {fa w : Nat} (v : Nat) (p : Bool) (hfa : 8 ∣ fa) (hw : 8 ∣ w) (j : Nat) :
    Mem.byte (s.homeWrite fa w v p).mem j =
      if fa / 8 ≤ j ∧ j < fa / 8 + w / 8 then BitVec.ofNat 8 (v / 2 ^ (8 * (j - fa / 8))) else Mem.byte s.mem j := by
  obtain ⟨k, rfl⟩ := hfa
  obtain ⟨n, rfl⟩ := hw
  have hk : 8 * k / 8 = k := by omega
  have hn : 8 * n / 8 = n := by omega
  have hceil : ceilDiv (8 * k % 8 + 8 * n) 8 = n := by
    unfold ceilDiv
    omega
  rw [s.homeWrite_mem, Mem.writeBits, hceil, hk, Mem.byte_writeBytes _ _ _ _ _ hs, hn]
  split
  · rename_i hj
    have hlow : 8 * k % 8 = 0 := by omega
    have hsmall := Mem.readBytes_lt s.mem k n hs
    rw [hlow, putField_eq, Nat.zero_add, Nat.div_eq_of_lt hsmall]
    refine BitVec.eq_of_toNat_eq ?_
    rw [BitVec.toNat_ofNat, BitVec.toNat_ofNat, Nat.pow_zero, Nat.mod_one, Nat.zero_add, Nat.one_mul, Nat.mul_zero, Nat.add_zero]
    refine Nat.eq_of_testBit_eq fun i => ?_
    simp only [Nat.testBit_mod_two_pow, Nat.testBit_div_two_pow]
    by_cases hi : i < 8
    · have : i + 8 * (j - k) < 8 * n := by omega
      simp [this]
    · simp [hi]
  · rfl

/-- A read of whole bytes whose every byte is that of a number reads that number. -/
theorem State.home_of_bytes {s : State} (hs : MemOk s) {fa n v : Nat} (hfa : 8 ∣ fa)
    (h : ∀ i, i < n → Mem.byte s.mem (fa / 8 + i) = BitVec.ofNat 8 (v / 2 ^ (8 * i))) : s.home fa (8 * n) = v % 2 ^ (8 * n) := by
  have hread : ∀ (n k v : Nat), (∀ i, i < n → Mem.byte s.mem (k + i) = BitVec.ofNat 8 (v / 2 ^ (8 * i))) → Mem.readBytes s.mem k n = v % 2 ^ (8 * n) := by
    intro n
    induction n with
    | zero => exact fun k v _ => by simp [Mem.readBytes_zero, Nat.mod_one]
    | succ n ih =>
      intro k v h
      have hrest : Mem.readBytes s.mem (k + 1) n = v / 2 ^ 8 % 2 ^ (8 * n) := ih _ _ fun i hi => by
        rw [Nat.add_assoc, Nat.add_comm 1 i, h (i + 1) (by omega), Nat.div_div_eq_div_mul, ← Nat.pow_add, show 8 * (i + 1) = 8 + 8 * i by omega]
      rw [Mem.readBytes_succ _ _ _ hs, hrest, show Mem.byte s.mem k = BitVec.ofNat 8 (v / 2 ^ (8 * 0)) from h 0 (by omega), show 8 * (n + 1) = 8 + 8 * n by omega, Nat.pow_add, Nat.mod_mul]
      simp
  obtain ⟨k, rfl⟩ := hfa
  have hk : 8 * k / 8 = k := by omega
  have hlow : 8 * k % 8 = 0 := by omega
  have hceil : ceilDiv (8 * k % 8 + 8 * n) 8 = n := by
    unfold ceilDiv
    omega
  rw [hk] at h
  rw [State.home, Mem.readBits, hceil, hk, hread n k v h, hlow, Nat.pow_zero, Nat.div_one, Nat.mod_mod]

/-! ### Writes at homes, one after the other -/

/-- Byte j of memory is one of those that an item (address, width, value) of a list of writes writes. -/
def wroteByte (p : Nat × Nat × Nat) (j : Nat) : Prop := p.1 / 8 ≤ j ∧ j < p.1 / 8 + p.2.1 / 8

/-- Values written at their homes, each an address, a width and a value. -/
def State.homeWrites (s : State) (L : List (Nat × Nat × Nat)) : State := L.foldl (fun s p => s.homeWrite p.1 p.2.1 p.2.2) s

section
variable (s : State) (L : List (Nat × Nat × Nat))

theorem State.homeWrites_memOk (h : MemOk s) : MemOk (s.homeWrites L) :=
  memOk_foldl _ _ (fun t _ ht => t.homeWrite_memOk _ _ _ _ ht) s h

theorem State.homeWrites_sameButHome : SameButHome s (s.homeWrites L) := .foldl _ (fun t _ => t.homeWrite_sameButHome _ _ _ _) _ s

theorem State.homeWrites_mem_congr {t : State} (h : s.mem = t.mem) : (s.homeWrites L).mem = (t.homeWrites L).mem := by
  unfold State.homeWrites
  induction L generalizing s t with
  | nil => exact h
  | cons p L ih => exact ih _ (by rw [State.homeWrite_mem, State.homeWrite_mem, h])

/-- A byte for which every write that reaches it has one value holds that value, where one reaches it or it held it before. -/
theorem State.byte_homeWrites (hs : MemOk s) (hL : ∀ p ∈ L, 8 ∣ p.1 ∧ 8 ∣ p.2.1) {j : Nat} {B : BitVec 8}
    (hval : ∀ p ∈ L, wroteByte p j → BitVec.ofNat 8 (p.2.2 / 2 ^ (8 * (j - p.1 / 8))) = B) (hone : Mem.byte s.mem j = B ∨ ∃ p ∈ L, wroteByte p j) :
    Mem.byte (s.homeWrites L).mem j = B := by
  unfold State.homeWrites
  induction L generalizing s with
  | nil => simpa using hone
  | cons p L ih =>
    have hbyte := State.byte_homeWrite hs p.2.2 false (hL p List.mem_cons_self).1 (hL p List.mem_cons_self).2 j
    refine ih _ (s.homeWrite_memOk _ _ _ _ hs) (fun q hq => hL q (List.mem_cons_of_mem _ hq)) (fun q hq => hval q (List.mem_cons_of_mem _ hq)) ?_
    by_cases hp : wroteByte p j
    · exact .inl ((hbyte.trans (if_pos hp)).trans (hval p List.mem_cons_self hp))
    · rcases hone with h | ⟨q, hq, hqj⟩
      · exact .inl ((hbyte.trans (if_neg hp)).trans h)
      · rcases List.mem_cons.1 hq with rfl | hq
        · exact absurd hqj hp
        · exact .inr ⟨q, hq, hqj⟩

end

/-! ### Units zeroed -/

/-- The first byte of unit u of core k's scratchpad. -/
def unitByte (k u : Nat) : Nat := 2 ^ 55 + k * 2 ^ 29 + u * 4096

theorem unitByte_bits (k u : Nat) : 2 ^ 58 + k * 2 ^ 32 + u * 32768 = 8 * unitByte k u := by
  unfold unitByte
  ring

/-- The writes that make units of core k zero. -/
def unitZeros (k : Nat) (us : List Nat) : List (Nat × Nat × Nat) := us.map fun u => (8 * unitByte k u, 8 * 4096, 0)

theorem State.zeroUnits_eq (s : State) (k : Nat) (us : List Nat) : s.zeroUnits k us = s.homeWrites (unitZeros k us) := by
  unfold State.zeroUnits State.homeWrites unitZeros
  rw [List.foldl_map]
  simp only [unitByte_bits, Nat.reduceMul]

section
variable {k : Nat} {us : List Nat}

theorem mem_unitZeros {p : Nat × Nat × Nat} (h : p ∈ unitZeros k us) : ∃ u ∈ us, p.1 = 8 * unitByte k u ∧ p.2.1 = 8 * 4096 ∧ p.2.2 = 0 := by
  obtain ⟨u, hu, rfl⟩ := List.mem_map.1 h
  exact ⟨u, hu, rfl, rfl, rfl⟩

theorem unitZeros_aligned : ∀ p ∈ unitZeros k us, 8 ∣ p.1 ∧ 8 ∣ p.2.1 := fun p hp => by
  obtain ⟨u, -, h1, h2, -⟩ := mem_unitZeros hp
  exact ⟨⟨_, h1⟩, ⟨_, h2⟩⟩

end

theorem State.zeroUnits_memOk (s : State) (k : Nat) (us : List Nat) (h : MemOk s) : MemOk (s.zeroUnits k us) := by
  rw [s.zeroUnits_eq]
  exact s.homeWrites_memOk _ h

theorem State.zeroUnits_sameButHome (s : State) (k : Nat) (us : List Nat) : SameButHome s (s.zeroUnits k us) := by
  rw [s.zeroUnits_eq]
  exact s.homeWrites_sameButHome _

/-- A byte that a zeroed unit holds is zero. -/
theorem State.byte_zeroUnits {s : State} (hs : MemOk s) (k : Nat) {us : List Nat} {u : Nat} (hu : u ∈ us) {j : Nat} (hj : j < 4096) :
    Mem.byte (s.zeroUnits k us).mem (unitByte k u + j) = 0 := by
  rw [s.zeroUnits_eq]
  refine s.byte_homeWrites _ hs unitZeros_aligned (fun p hp _ => ?_) (.inr ⟨(8 * unitByte k u, 8 * 4096, 0), List.mem_map_of_mem hu, ?_⟩)
  · obtain ⟨u, -, -, -, h3⟩ := mem_unitZeros hp
    rw [h3, Nat.zero_div]
    rfl
  · simp only [wroteByte]
    omega

/-- A byte below every scratchpad is as it was. -/
theorem State.byte_zeroUnits_low {s : State} (hs : MemOk s) (k : Nat) (us : List Nat) {j : Nat} (hj : j < 2 ^ 55) :
    Mem.byte (s.zeroUnits k us).mem j = Mem.byte s.mem j := by
  rw [s.zeroUnits_eq]
  refine s.byte_homeWrites _ hs unitZeros_aligned (fun p hp hw => ?_) (.inl rfl)
  obtain ⟨u, -, h1, -, -⟩ := mem_unitZeros hp
  rw [wroteByte, h1, Nat.mul_div_cancel_left _ (by decide), unitByte] at hw
  omega

/-! ### Contexts freed -/

theorem State.freeContext_strand_ne (s : State) (sid : Nat) {j : Nat} (h : j ≠ sid) : (s.freeContext sid).strand j = s.strand j :=
  (State.strand_setStrand_ne _ _ j _ h).trans (State.leaveSlots_strand ((s.detach sid).dropTags sid) sid [] j)

/-- Each context freed is a free one, and every other strand is as it was. -/
theorem State.foldl_freeContext_strand (s : State) (L : List Nat) (j : Nat) :
    (L.foldl State.freeContext s).strand j = if j ∈ L then { grace := (s.strand j).grace } else s.strand j := by
  induction L generalizing s with
  | nil => simp
  | cons sid L ih =>
    rw [List.foldl_cons, ih]
    by_cases hj : j = sid
    · subst hj
      simp [s.freeContext_strand]
    · simp [s.freeContext_strand_ne sid hj, hj]

theorem State.foldl_freeContext_mem (s : State) (L : List Nat) : (L.foldl State.freeContext s).mem = s.mem :=
  List.foldlRecOn (motive := fun t : State => t.mem = s.mem) _ _ rfl fun t ht sid _ => (t.freeContext_mem sid).trans ht

/-! ### The record written -/

theorem State.leaveBars_eq (s : State) (k : Nat) (bars : List (Nat × Nat × Bool)) : s.leaveBars k bars = { s with cores := (s.leaveBars k bars).cores } :=
  List.foldlRecOn (motive := fun t : State => t = { s with cores := t.cores }) _ _ rfl fun t ht b _ => by
    split
    · exact ht
    · rw [ht]
      rfl

/-- The parts of 2^15 bits in which a value of n bits is written from offset o of the migration range on. -/
def recordParts (o v n : Nat) : List (Nat × Nat × Nat) :=
  (List.range (ceilDiv n (2 ^ 15))).map fun j => (migAddrOf (o + j * 2 ^ 15), min (2 ^ 15) (n - j * 2 ^ 15), v / 2 ^ (j * 2 ^ 15) % 2 ^ min (2 ^ 15) (n - j * 2 ^ 15))

theorem State.writeRecord_eq (s : State) (o v n : Nat) : s.writeRecord o v n = s.homeWrites (recordParts o v n) := by
  unfold State.writeRecord State.homeWrites recordParts
  rw [List.foldl_map]

theorem State.writeRecord_mem_congr {s t : State} (o v n : Nat) (h : s.mem = t.mem) : (s.writeRecord o v n).mem = (t.writeRecord o v n).mem := by
  rw [State.writeRecord_eq, State.writeRecord_eq]
  exact s.homeWrites_mem_congr _ h

theorem State.writeRecord_memOk (s : State) (o v n : Nat) (h : MemOk s) : MemOk (s.writeRecord o v n) := by
  rw [s.writeRecord_eq]
  exact s.homeWrites_memOk _ h

theorem State.poisonImage_eq (s : State) (k : Nat) (us : List Nat) (o : Nat) : s.poisonImage k us o = { s with poison := (s.poisonImage k us o).poison } :=
  List.foldlRecOn (motive := fun t : State => t = { s with poison := t.poison }) _ _ rfl fun t ht i _ =>
    List.foldlRecOn (motive := fun t : State => t = { s with poison := t.poison }) _ _ ht fun u hu j _ => by
      split
      · rw [hu]
        rfl
      · exact hu

theorem State.leaveBars_mem (s : State) (k : Nat) (bars : List (Nat × Nat × Bool)) : (s.leaveBars k bars).mem = s.mem := by
  rw [s.leaveBars_eq]

theorem State.poisonImage_mem (s : State) (k : Nat) (us : List Nat) (o : Nat) : (s.poisonImage k us o).mem = s.mem := by
  rw [s.poisonImage_eq]

theorem State.leaveBars_strand (s : State) (k : Nat) (bars : List (Nat × Nat × Bool)) (j : Nat) : (s.leaveBars k bars).strand j = s.strand j := by
  rw [s.leaveBars_eq]
  rfl

theorem State.poisonImage_strand (s : State) (k : Nat) (us : List Nat) (o j : Nat) : (s.poisonImage k us o).strand j = s.strand j := by
  rw [s.poisonImage_eq]
  rfl

section
variable (s : State) (n : Nat) (g : Group)

/-- The record that the group leaves, and its length. -/
def State.recordLeft : Nat × Nat := s.record (s.migGroup g) (g.sids.map s.strand) (s.arrivals g) (s.migMatrix g)

theorem State.migRecord_eq : s.migRecord g = ((s.leaveBars g.core (s.arrivals g)).writeRecord (recordOffset g.core) (s.recordLeft g).1 (s.recordLeft g).2).poisonImage
    g.core g.grant (recordOffset g.core + imageOffset (g.sids.map s.strand)) := by
  unfold State.migRecord State.recordLeft
  with_reducible rfl

theorem State.migRecord_strand (j : Nat) : (s.migRecord g).strand j = s.strand j := by
  rw [State.migRecord_eq]
  exact ((State.poisonImage_strand _ _ _ _ j).trans ((State.writeRecord_sameButHome _ _ _ _).access.strand j)).trans (s.leaveBars_strand _ _ j)

theorem State.migRecord_mem : (s.migRecord g).mem = (s.writeRecord (recordOffset g.core) (s.recordLeft g).1 (s.recordLeft g).2).mem := by
  rw [State.migRecord_eq]
  exact (State.poisonImage_mem _ _ _ _).trans (State.writeRecord_mem_congr _ _ _ (s.leaveBars_mem _ _))

theorem State.migRecord_memOk (h : MemOk s) : MemOk (s.migRecord g) :=
  (congrArg Mem.wf (s.migRecord_mem g)).trans (s.writeRecord_memOk _ _ _ h)

theorem State.resetMatrix_mem : (s.resetMatrix n g).mem = s.mem := by
  unfold State.resetMatrix
  dsimp only
  split <;> rfl

/-! ### The core freed -/

theorem State.resetMatrix_eq : s.resetMatrix n g = { s with cores := (s.resetMatrix n g).cores } := by
  unfold State.resetMatrix
  dsimp only
  split <;> rfl

theorem State.migFree_strand (j : Nat) :
    (s.migFree n g).strand j = if j ∈ g.all then { grace := (s.strand j).grace } else (s.strand j).probeAfresh g := by
  unfold State.migFree
  dsimp only
  rw [State.resetMatrix_eq]
  refine ((State.zeroUnits_sameButHome _ _ _).access.strand j).trans ((State.foldl_freeContext_strand _ _ _).trans ?_)
  have hprobe := s.probeAfresh_strand g j
  by_cases h : j ∈ g.all
  · rw [if_pos ((hasNat_iff _ _).2 h)] at hprobe
    rw [if_pos h, if_pos h, ← hprobe]
    rfl
  · rw [if_neg (mt (hasNat_iff _ _).1 h)] at hprobe
    rw [if_neg h, if_neg h, ← hprobe]
    rfl

/-- Freeing the core changes memory at its homes by zeroing the group's units, and by nothing else. -/
theorem State.migFree_mem : ∃ u : State, u.mem = s.mem ∧ (s.migFree n g).mem = (u.zeroUnits g.core g.grant).mem := by
  unfold State.migFree
  dsimp only
  rw [State.resetMatrix_mem]
  exact ⟨_, (State.foldl_freeContext_mem ((s.probeAfresh g).rebindCopies fun k => ((g.idxOf? k).map (movedKey n)).getD k) g.all).trans (Eq.refl s.mem), rfl⟩

end

end Sys2Proof.Machine
end

section
/-!
SUPPORT. What a migration leaves: the group as it waits, the strands, and memory (R71, R73, R75, R76).
-/

namespace Sys2Proof.Machine

section
variable (s : State) (n : Nat) (g : Group)

/-! ### The machine after the group has left -/

theorem State.migGroup_all : (s.migGroup g).all = g.all := rfl

theorem State.migLeft_group : (s.migLeft n g).group? n = some ((s.migStop g).migWaits g) := by
  unfold State.migLeft
  dsimp only
  generalize (s.migStop g).migWaits g = w
  generalize State.migFree _ _ _ = t
  split <;> exact t.group?_setGroup n w

theorem State.migLeft_strand (j : Nat) : (s.migLeft n g).strand j = if j ∈ g.all then { grace := (s.strand j).grace } else (s.strand j).probeAfresh g := by
  have hprobe : ∀ (u : State) (t : Strand), t.probeAfresh (u.migGroup g) = t.probeAfresh g := fun _ _ => rfl
  have hfree := State.migFree_strand ((s.migStop g).migRecord g) n ((s.migStop g).migGroup g) j
  rw [State.migGroup_all, State.migRecord_strand, s.migStop_grace, hprobe] at hfree
  have hleft : (s.migLeft n g).strand j = (((s.migStop g).migRecord g).migFree n ((s.migStop g).migGroup g)).strand j := by
    unfold State.migLeft
    dsimp only
    generalize State.migFree _ _ _ = t
    split <;> rfl
  rw [hleft, hfree]
  split
  · rfl
  · rename_i h
    rw [s.migStop_strand_ne g h]

/-- Memory as the group leaves it: the record written, then the group's units made zero. -/
theorem State.migLeft_mem : ∃ u : State, u.mem = ((s.migStop g).migRecord g).mem ∧ (s.migLeft n g).mem = (u.zeroUnits g.core g.grant).mem := by
  obtain ⟨u, hu, hfree⟩ := State.migFree_mem ((s.migStop g).migRecord g) n ((s.migStop g).migGroup g)
  refine ⟨u, hu, Eq.trans ?_ hfree⟩
  unfold State.migLeft
  dsimp only
  generalize State.migFree _ _ _ = t
  split <;> rfl

theorem State.migLeft_memOk (h : MemOk s) : MemOk (s.migLeft n g) := by
  obtain ⟨u, hu, hleft⟩ := s.migLeft_mem n g
  have hrec := State.migRecord_memOk _ g (s.migStop_memOk g h)
  exact (congrArg Mem.wf hleft).trans (State.zeroUnits_memOk _ _ _ ((congrArg Mem.wf hu).trans hrec))

/-- The group's units are zero (R81). -/
theorem State.migLeft_units (h : MemOk s) {u : Nat} (hu : u ∈ g.grant) {j : Nat} (hj : j < 4096) :
    (s.migLeft n g).home (2 ^ 58 + g.core * 2 ^ 32 + u * 32768 + 8 * j) 8 = 0 := by
  obtain ⟨t, ht, hleft⟩ := s.migLeft_mem n g
  have hrec : MemOk t := (congrArg Mem.wf ht).trans (State.migRecord_memOk _ g (s.migStop_memOk g h))
  have hbyte : Mem.byte (s.migLeft n g).mem (unitByte g.core u + j) = 0 := hleft ▸ State.byte_zeroUnits hrec g.core hu hj
  rw [unitByte_bits, ← Nat.mul_add]
  refine (State.home_of_bytes (s.migLeft_memOk n g h) (n := 1) (v := 0) (Nat.dvd_mul_right _ _) fun i hi => ?_).trans (Nat.zero_mod _)
  rw [Nat.mul_div_cancel_left _ (by decide), show i = 0 by omega, Nat.add_zero, hbyte, Nat.zero_div]
  rfl

/-! ### What is carried -/

theorem State.migWaits_savedMx (hrun : g.mcsRuns = true) :
    ∃ m, ((s.migStop g).migWaits g).savedMx = some m ∧ m = { (s.core g.core).mx with vtoaQ := m.vtoaQ } := by
  refine ⟨((s.migStop g).core g.core).mx, ?_, s.migStop_mx g g.core⟩
  unfold State.migWaits State.migMatrix
  rw [if_pos hrun]
  rfl

/-- A group whose matrix control strand does not run keeps the matrix state that a move has parked. -/
theorem State.migWaits_parked (hrun : g.mcsRuns = false) : (s.migWaits g).savedMx = if g.savedMcs.isSome then g.savedMx else none := by
  unfold State.migWaits State.migMatrix
  rw [hrun, if_neg Bool.false_ne_true]
  cases g.savedMx <;> cases g.savedMcs <;> rfl

theorem State.migWaits_saved (i : Nat) (hi : i < g.sids.length) : nth {} (s.migWaits g).saved i = (s.strand (nth 0 g.sids i)).carried := by
  have hsaved : (s.migWaits g).saved = (g.sids.map s.strand).map Strand.carried := rfl
  rw [hsaved]
  simp [nth, hi]

/-- Of the vector registers those whose vdirty bit is set are carried (R75). -/
theorem Strand.carried_v (t : Strand) (j : Nat) : Sparse.get {} t.carried.v j = if t.vdirty.getLsbD j then Sparse.get {} t.v j else {} := by
  have hv : t.carried.v = t.v.filter fun p => bitAt t.vdirty.toNat p.1 := rfl
  rw [hv, Sparse.get_filter, bitAt_eq_testBit, BitVec.testBit_toNat]

theorem Group.mem_all {i : Nat} (hi : i < g.sids.length) : nth 0 g.sids i ∈ g.all := List.mem_append_left _ (nth_mem 0 hi)

end

/-! ### Members of other strands -/

/-- A convoy's members that have not started and reach into the window lose what their probes found and are probed when they execute; no other member does (R73). -/
theorem Conv.probeAfresh_slot (g : Group) (c : Conv) (i : Nat) :
    (i ∈ c.hitSlots g → i ∈ (c.probeAfresh g).late ∧ Sparse.get [] (c.probeAfresh g).probes i = []) ∧
    (i ∉ c.hitSlots g → Sparse.get [] (c.probeAfresh g).probes i = Sparse.get [] c.probes i ∧ (i ∈ (c.probeAfresh g).late ↔ i ∈ c.late)) := by
  have hget := Sparse.get_filter [] c.probes (fun k => !hasNat (c.hitSlots g) k) i
  have hlate := mem_foldl_insertNat (c.hitSlots g) c.late i
  rw [c.probeAfresh_eq g]
  refine ⟨fun h => ⟨hlate.2 (.inl h), hget.trans (if_neg ?_)⟩, fun h => ⟨hget.trans (if_pos ?_), hlate.trans (or_iff_right h)⟩⟩
  · simp [(hasNat_iff _ _).2 h]
  · simpa using mt (hasNat_iff _ _).1 h

end Sys2Proof.Machine

namespace Sys2Proof

open Machine

/-- Migrations (R71, R73, R75, R76). -/
theorem migrations : Spec.Migrations := by
  intro s n g hg hphase hrun hidle hmem
  dsimp only
  have hafresh : ∀ c : Conv, (c.probes.map (·.1)).Nodup → c.probeAfresh g = { c with probes := (c.probeAfresh g).probes, late := (c.probeAfresh g).late } ∧ ∀ i,
      (((∃ x ∈ Sparse.get [] c.probes i, ∃ y ∈ x.ps, y.tr.fa / 2 ^ 32 = 2 ^ 26 + g.core ∧ y.tr.fa % 2 ^ 32 / 2 ^ 15 ∈ g.grant) ∧ (c.slot < i ∨ (i = c.slot ∧ c.pend = .none))) →
        i ∈ (c.probeAfresh g).late ∧ Sparse.get [] (c.probeAfresh g).probes i = []) ∧
      (¬ ((∃ x ∈ Sparse.get [] c.probes i, ∃ y ∈ x.ps, y.tr.fa / 2 ^ 32 = 2 ^ 26 + g.core ∧ y.tr.fa % 2 ^ 32 / 2 ^ 15 ∈ g.grant) ∧ (c.slot < i ∨ (i = c.slot ∧ c.pend = .none))) →
        Sparse.get [] (c.probeAfresh g).probes i = Sparse.get [] c.probes i ∧ (i ∈ (c.probeAfresh g).late ↔ i ∈ c.late)) := fun c hc => by
    refine ⟨by rw [c.probeAfresh_eq g], fun i => ?_⟩
    have hslot := Conv.probeAfresh_slot g c i
    simp only [Conv.mem_hitSlots g hc i, Group.holdsFlat_iff] at hslot
    exact hslot
  refine ⟨_, _, exec_migration_of_idle hg hphase hrun hidle, s.migLeft_group n g, rfl, rfl, ?_, fun sid hsid => ?_, fun sid hsid => ?_, s.migWaits_savedMx g,
    State.migWaits_parked _ g, fun u hu j hj => s.migLeft_units n g hmem hu hj, fun hsub i hi => ?_⟩
  · simp [State.migWaits]
  · rw [s.migLeft_strand n g, if_pos hsid]
  · rw [s.migLeft_strand n g, if_neg hsid]
    refine ⟨rfl, fun h => ?_, fun c h => ⟨c.probeAfresh g, ?_, hafresh c⟩, List.length_map _, fun j q h => ⟨{ q with conv := q.conv.probeAfresh g }, ?_, rfl, hafresh q.conv⟩⟩
    · simp [Strand.probeAfresh, h]
    · simp [Strand.probeAfresh, h]
    · simp [Strand.probeAfresh, h]
  · rw [State.migWaits_saved _ g i hi, s.migStop_unwound g hsub (g.mem_all hi)]
    exact ⟨rfl, rfl, rfl, rfl, rfl, rfl, rfl, rfl, rfl, rfl, rfl, rfl, rfl, rfl, rfl, rfl, rfl, rfl, rfl, rfl, rfl, rfl, rfl, rfl, rfl, rfl, fun j _ => Strand.carried_v _ j⟩

end Sys2Proof
end

section
/-!
SUPPORT. A record in the migration range, read back at its places (R74, R187, R353).
-/

namespace Sys2Proof.Machine

/-! ### The cores of the package set -/

/-- The cores that a list of dies has. -/
def coresOn (L : List Nat) : Nat := (L.map Config.built).sum

theorem Config.built_le (d : Nat) : Config.built d ≤ 64 := by
  unfold Config.built
  split <;> decide

/-- The core at a position of the dies from m to n − 1 lies on one of them. -/
theorem pkgCoreFrom_bounds {L : List Nat} {m n : Nat} (hL : ∀ d ∈ L, m ≤ d ∧ d < n) {i : Nat} (hi : i < coresOn L) :
    64 * m ≤ pkgCoreFrom L i ∧ pkgCoreFrom L i < 64 * n := by
  induction L generalizing i with
  | nil => exact absurd hi (Nat.not_lt_zero _)
  | cons d t ih =>
    have hd := hL d List.mem_cons_self
    have hbuilt := Config.built_le d
    unfold pkgCoreFrom
    split
    · omega
    · refine ih (fun x hx => hL x (List.mem_cons_of_mem _ hx)) ?_
      simp only [coresOn, List.map_cons, List.sum_cons] at hi ⊢
      omega

/-- Of dies in ascending order a core at a later position has a larger number. -/
theorem pkgCoreFrom_lt {L : List Nat} (hL : L.Pairwise (· < ·)) {i j : Nat} (hij : i < j) (hj : j < coresOn L) : pkgCoreFrom L i < pkgCoreFrom L j := by
  induction L generalizing i j with
  | nil => exact absurd hj (Nat.not_lt_zero _)
  | cons d t ih =>
    obtain ⟨hd, ht⟩ := List.pairwise_cons.1 hL
    have hbuilt := Config.built_le d
    simp only [coresOn, List.map_cons, List.sum_cons] at hj
    unfold pkgCoreFrom
    split
    · split
      · omega
      · have hlow := (pkgCoreFrom_bounds (m := d + 1) (n := t.sum + 1) (i := j - Config.built d)
          (fun x hx => ⟨hd x hx, Nat.lt_succ_of_le (List.single_le_sum (fun _ _ => Nat.zero_le _) x hx)⟩) (by unfold coresOn; omega)).1
        omega
    · rw [if_neg (by omega)]
      exact ih ht (by omega) (by unfold coresOn; omega)

theorem coresOn_package : coresOn (List.range 16) = 960 := by decide

theorem pkgCore_lt {i : Nat} (hi : i < 960) : pkgCore i < 1024 :=
  (pkgCoreFrom_bounds (m := 0) (n := 16) (fun d hd => ⟨Nat.zero_le d, List.mem_range.1 hd⟩) (coresOn_package ▸ hi)).2

theorem pkgCore_inj {i j : Nat} (hi : i < 960) (hj : j < 960) (h : pkgCore i = pkgCore j) : i = j := by
  rcases Nat.lt_trichotomy i j with hlt | heq | hgt
  · exact absurd h (pkgCoreFrom_lt List.pairwise_lt_range hlt (coresOn_package ▸ hj)).ne
  · exact heq
  · exact absurd h (pkgCoreFrom_lt List.pairwise_lt_range hgt (coresOn_package ▸ hi)).ne'

/-! ### Pages of the migration range -/

/-- The flat address of page q of the migration range. -/
def migPage (q : Nat) : Nat := pkgCore (q % 960) * 2 ^ 32 + (2 ^ 32 - 2 ^ 27 + q / 960 * 2 ^ 15)

theorem migAddrOf_eq (o : Nat) : migAddrOf o = migPage (o / 2 ^ 15) + o % 2 ^ 15 := by
  have hcore : coreOfPhys (2 ^ 32 - 2 ^ 27) = 0 := by decide
  have hcount : stripeCount 3 0 = 960 := by decide
  have hpos : stripePos 3 0 = 0 := by decide
  have hstripe : ∀ i, stripeCore 3 0 i = pkgCore i := fun _ => rfl
  have hmod : (2 ^ 32 - 2 ^ 27) % 2 ^ 32 = 2 ^ 32 - 2 ^ 27 := by decide
  unfold migAddrOf locate migPage
  rw [if_pos (by decide)]
  dsimp only
  rw [hcore, hcount, hpos, hstripe, hmod, Nat.zero_add]
  exact (Nat.add_assoc _ _ _).symm

/-- The pages of the range lie apart. -/
theorem migPage_apart {p q a b : Nat} (hp : p < 960 * 4096) (hq : q < 960 * 4096) (ha : a < 2 ^ 15) (hb : b < 2 ^ 15) (h : migPage p + a = migPage q + b) :
    p = q := by
  unfold migPage at h
  generalize hx : pkgCore (p % 960) = x at h
  generalize hy : pkgCore (q % 960) = y at h
  have hcore : x = y := by omega
  have hmod : p % 960 = q % 960 := pkgCore_inj (Nat.mod_lt _ (by decide)) (Nat.mod_lt _ (by decide)) (hx.trans (hcore.trans hy.symm))
  omega

theorem migPage_aligned (q : Nat) : 8 ∣ migPage q := by
  unfold migPage
  omega

theorem migPage_lt {q : Nat} (hq : q < 960 * 4096) : migPage q < 2 ^ 42 := by
  have hcore := pkgCore_lt (Nat.mod_lt q (show 0 < 960 by decide))
  unfold migPage
  omega

/-! ### A record read back -/

section
variable {o v n : Nat}

theorem mem_recordParts (ho : o % 2 ^ 15 = 0) {p : Nat × Nat × Nat} (h : p ∈ recordParts o v n) :
    ∃ j, j * 2 ^ 15 < n ∧ p = (migPage (o / 2 ^ 15 + j), min (2 ^ 15) (n - j * 2 ^ 15), v / 2 ^ (j * 2 ^ 15) % 2 ^ min (2 ^ 15) (n - j * 2 ^ 15)) := by
  obtain ⟨j, hj, rfl⟩ := List.mem_map.1 h
  have hlt : j * 2 ^ 15 < n := by
    have := List.mem_range.1 hj
    unfold ceilDiv at this
    omega
  have hpage : migAddrOf (o + j * 2 ^ 15) = migPage (o / 2 ^ 15 + j) := by
    rw [migAddrOf_eq, show (o + j * 2 ^ 15) / 2 ^ 15 = o / 2 ^ 15 + j by omega, show (o + j * 2 ^ 15) % 2 ^ 15 = 0 by omega, Nat.add_zero]
  exact ⟨j, hlt, by rw [hpage]⟩

theorem recordParts_aligned (ho : o % 2 ^ 15 = 0) (hn : 8 ∣ n) : ∀ p ∈ recordParts o v n, 8 ∣ p.1 ∧ 8 ∣ p.2.1 := fun p hp => by
  obtain ⟨j, -, rfl⟩ := mem_recordParts ho hp
  refine ⟨migPage_aligned _, ?_⟩
  dsimp only
  omega

/-- A byte of a record written in the migration range is the byte of its value. -/
theorem State.byte_writeRecord {s : State} (hs : MemOk s) (ho : o % 2 ^ 15 = 0) (hn : 8 ∣ n) (hend : o + n < 960 * 2 ^ 27) {y : Nat} (hy : 8 * y < n) :
    Mem.byte (s.writeRecord o v n).mem (migAddrOf (o + 8 * y) / 8) = BitVec.ofNat 8 (v / 2 ^ (8 * y)) := by
  have hpage : migAddrOf (o + 8 * y) = migPage (o / 2 ^ 15 + y / 2 ^ 12) + 8 * (y % 2 ^ 12) := by
    rw [migAddrOf_eq, show (o + 8 * y) / 2 ^ 15 = o / 2 ^ 15 + y / 2 ^ 12 by omega, show (o + 8 * y) % 2 ^ 15 = 8 * (y % 2 ^ 12) by omega]
  have hbyte : migAddrOf (o + 8 * y) / 8 = migPage (o / 2 ^ 15 + y / 2 ^ 12) / 8 + y % 2 ^ 12 := by
    rw [hpage, Nat.add_mul_div_left _ _ (by decide)]
  rw [s.writeRecord_eq, hbyte]
  refine s.byte_homeWrites _ hs (recordParts_aligned ho hn) (fun p hp hw => ?_) (.inr ?_)
  · obtain ⟨j, hj, rfl⟩ := mem_recordParts ho hp
    simp only [wroteByte] at hw
    have hj8 := migPage_aligned (o / 2 ^ 15 + j)
    have hy8 := migPage_aligned (o / 2 ^ 15 + y / 2 ^ 12)
    have hjy : o / 2 ^ 15 + j = o / 2 ^ 15 + y / 2 ^ 12 := by
      refine migPage_apart (a := migPage (o / 2 ^ 15 + y / 2 ^ 12) + 8 * (y % 2 ^ 12) - migPage (o / 2 ^ 15 + j)) (b := 8 * (y % 2 ^ 12)) (by omega) (by omega) ?_ (by omega) ?_
      · generalize migPage (o / 2 ^ 15 + j) = x at hw hj8 ⊢
        generalize migPage (o / 2 ^ 15 + y / 2 ^ 12) = z at hw hy8 ⊢
        omega
      · generalize migPage (o / 2 ^ 15 + j) = x at hw hj8 ⊢
        generalize migPage (o / 2 ^ 15 + y / 2 ^ 12) = z at hw hy8 ⊢
        omega
    obtain rfl : j = y / 2 ^ 12 := by omega
    rw [Nat.add_sub_cancel_left]
    have hsplit : 8 * y = y / 2 ^ 12 * 2 ^ 15 + 8 * (y % 2 ^ 12) := by omega
    refine BitVec.eq_of_getLsbD_eq fun i hi => ?_
    have hin : 8 * (y % 2 ^ 12) + i < min (2 ^ 15) (n - y / 2 ^ 12 * 2 ^ 15) := by omega
    rw [BitVec.getLsbD_ofNat, BitVec.getLsbD_ofNat, Nat.testBit_div_two_pow, Nat.testBit_mod_two_pow, Nat.testBit_div_two_pow, Nat.testBit_div_two_pow,
      show i + 8 * (y % 2 ^ 12) + y / 2 ^ 12 * 2 ^ 15 = i + 8 * y by omega, decide_eq_true (show i + 8 * (y % 2 ^ 12) < _ by omega), Bool.true_and]
  · have hmem : (migPage (o / 2 ^ 15 + y / 2 ^ 12), min (2 ^ 15) (n - y / 2 ^ 12 * 2 ^ 15), v / 2 ^ (y / 2 ^ 12 * 2 ^ 15) % 2 ^ min (2 ^ 15) (n - y / 2 ^ 12 * 2 ^ 15)) ∈
        recordParts o v n := by
      refine List.mem_map.2 ⟨y / 2 ^ 12, List.mem_range.2 ?_, ?_⟩
      · unfold ceilDiv
        omega
      · rw [migAddrOf_eq, show (o + y / 2 ^ 12 * 2 ^ 15) / 2 ^ 15 = o / 2 ^ 15 + y / 2 ^ 12 by omega, show (o + y / 2 ^ 12 * 2 ^ 15) % 2 ^ 15 = 0 by omega, Nat.add_zero]
    refine ⟨_, hmem, ?_⟩
    simp only [wroteByte]
    omega

/-- A word of a record, read where its bytes below every scratchpad stand as they were written. -/
theorem State.home_record {s t : State} (hs : MemOk s) (ht : MemOk t) (hlow : ∀ j, j < 2 ^ 55 → Mem.byte t.mem j = Mem.byte (s.writeRecord o v n).mem j)
    (ho : o % 2 ^ 15 = 0) (hn : 8 ∣ n) (hend : o + n < 960 * 2 ^ 27) {k : Nat} (hk : 64 * k + 64 ≤ n) :
    t.home (migAddrOf (o + 64 * k)) 64 = v / 2 ^ (64 * k) % 2 ^ 64 := by
  have haddr : ∀ i, i < 8 → migAddrOf (o + 8 * (8 * k + i)) = migAddrOf (o + 64 * k) + 8 * i := fun i hi => by
    rw [migAddrOf_eq, migAddrOf_eq, show (o + 8 * (8 * k + i)) / 2 ^ 15 = (o + 64 * k) / 2 ^ 15 by omega,
      show (o + 8 * (8 * k + i)) % 2 ^ 15 = (o + 64 * k) % 2 ^ 15 + 8 * i by omega, Nat.add_assoc]
  have hpage := migPage_lt (show (o + 64 * k) / 2 ^ 15 < 960 * 4096 by omega)
  have heq := migAddrOf_eq (o + 64 * k)
  have hdvd : 8 ∣ migAddrOf (o + 64 * k) := heq ▸ Nat.dvd_add (migPage_aligned _) (by omega)
  refine State.home_of_bytes ht (n := 8) hdvd fun i hi => ?_
  have hbyte := s.byte_writeRecord (v := v) hs ho hn hend (y := 8 * k + i) (by omega)
  rw [haddr i hi, Nat.add_mul_div_left _ _ (by decide)] at hbyte
  rw [hlow _ (by omega), hbyte, Nat.div_div_eq_div_mul, ← Nat.pow_add, show 64 * k + 8 * i = 8 * (8 * k + i) by omega]

end

end Sys2Proof.Machine
end

section
/-!
SUPPORT. The words of a migration record: how areas and words are laid out, and what stands in each word of a strand's area (R74).
-/

namespace Sys2Proof.Machine

/-! ### Words laid one after another -/

theorem layFields_foldl (l : List (Nat × Nat)) (a : Nat × Nat) :
    l.foldl (fun a x => (a.1 + x.1 % 2 ^ x.2 * 2 ^ a.2, a.2 + x.2)) a = (a.1 + 2 ^ a.2 * (layFields l).1, a.2 + (layFields l).2) := by
  unfold layFields
  induction l generalizing a with
  | nil => simp
  | cons x l ih =>
    rw [List.foldl_cons, ih, List.foldl_cons, ih (0 + _, 0 + _)]
    refine Prod.ext ?_ (Nat.add_assoc _ _ _ |>.trans (by simp))
    simp only [Nat.zero_add, Nat.pow_zero, Nat.mul_one, Nat.pow_add]
    ring

theorem layFields_cons (x : Nat × Nat) (l : List (Nat × Nat)) : layFields (x :: l) = (x.1 % 2 ^ x.2 + 2 ^ x.2 * (layFields l).1, x.2 + (layFields l).2) := by
  have h := layFields_foldl l (x.1 % 2 ^ x.2, x.2)
  rw [← h]
  simp [layFields]

/-- The length of fields laid one after another. -/
theorem layFields_length (l : List (Nat × Nat)) : (layFields l).2 = (l.map (·.2)).sum := by
  induction l with
  | nil => rfl
  | cons x l ih => rw [layFields_cons, List.map_cons, List.sum_cons, ih]

theorem layWords_nil : layWords [] = 0 := rfl

theorem layWords_cons (w : Nat) (ws : List Nat) : layWords (w :: ws) = w % 2 ^ 64 + 2 ^ 64 * layWords ws := by
  unfold layWords
  rw [List.map_cons, layFields_cons]

theorem layWords_append (ws vs : List Nat) : layWords (ws ++ vs) = layWords ws + 2 ^ (64 * ws.length) * layWords vs := by
  induction ws with
  | nil => simp [layWords_nil]
  | cons w ws ih =>
    rw [List.cons_append, layWords_cons, ih, layWords_cons, List.length_cons, Nat.mul_succ, Nat.add_comm (64 * _), Nat.pow_add]
    ring

/-- A word read back from words laid one after another, whatever stands above them. -/
theorem layWords_word {ws : List Nat} {k : Nat} (hk : k < ws.length) (x : Nat) :
    (layWords ws + 2 ^ (64 * ws.length) * x) / 2 ^ (64 * k) % 2 ^ 64 = nth 0 ws k % 2 ^ 64 := by
  induction ws generalizing k with
  | nil => exact absurd hk (Nat.not_lt_zero _)
  | cons w ws ih =>
    rw [layWords_cons, List.length_cons, Nat.mul_succ, Nat.add_comm (64 * _), Nat.pow_add, Nat.mul_assoc, Nat.add_assoc, ← Nat.mul_add]
    cases k with
    | zero => simp [nth]
    | succ k =>
      have hw := Nat.mod_lt w (show 0 < 2 ^ 64 by decide)
      rw [Nat.mul_succ, Nat.add_comm (64 * k), Nat.pow_add, ← Nat.div_div_eq_div_mul, Nat.add_mul_div_left _ _ (by decide), Nat.div_eq_of_lt hw, Nat.zero_add]
      exact ih (Nat.lt_of_succ_lt_succ hk)

/-! ### Areas laid one after another -/

theorem layAreas_foldl (l : List (Nat × Nat)) (a : Nat × Nat) :
    l.foldl (fun a x => (a.1 + x.1 * 2 ^ a.2, a.2 + ceilDiv x.2 512 * 512)) a = (a.1 + 2 ^ a.2 * (layAreas l).1, a.2 + (layAreas l).2) := by
  unfold layAreas
  induction l generalizing a with
  | nil => simp
  | cons x l ih =>
    rw [List.foldl_cons, ih, List.foldl_cons, ih (0 + _, 0 + _)]
    refine Prod.ext ?_ (Nat.add_assoc _ _ _ |>.trans (by simp))
    simp only [Nat.zero_add, Nat.pow_zero, Nat.mul_one, Nat.pow_add]
    ring

theorem layAreas_cons (x : Nat × Nat) (l : List (Nat × Nat)) :
    layAreas (x :: l) = (x.1 + 2 ^ (ceilDiv x.2 512 * 512) * (layAreas l).1, ceilDiv x.2 512 * 512 + (layAreas l).2) := by
  have h := layAreas_foldl l (x.1, ceilDiv x.2 512 * 512)
  rw [← h]
  simp [layAreas]

/-- The length of areas, each from a multiple of 512 bits. -/
theorem layAreas_length (l : List (Nat × Nat)) : (layAreas l).2 = (l.map fun x => ceilDiv x.2 512 * 512).sum := by
  induction l with
  | nil => rfl
  | cons x l ih => rw [layAreas_cons, List.map_cons, List.sum_cons, ih]

theorem layAreas_aligned (l : List (Nat × Nat)) : 512 ∣ (layAreas l).2 := by
  induction l with
  | nil => exact Nat.dvd_zero _
  | cons x l ih =>
    rw [layAreas_cons]
    exact Nat.dvd_add (Nat.dvd_mul_left _ _) ih

/-- Areas of whole lines of words are their words laid one after another, with the areas after them above. -/
theorem layAreas_words {L : List (List Nat)} (hL : ∀ ws ∈ L, 8 ∣ ws.length) (l : List (Nat × Nat)) :
    layAreas ((L.map fun ws => (layWords ws, 64 * ws.length)) ++ l) =
      (layWords L.flatten + 2 ^ (64 * L.flatten.length) * (layAreas l).1, 64 * L.flatten.length + (layAreas l).2) := by
  induction L with
  | nil => simp [layWords_nil]
  | cons ws L ih =>
    have hlen : ceilDiv (64 * ws.length) 512 * 512 = 64 * ws.length := by
      have := hL ws List.mem_cons_self
      unfold ceilDiv
      omega
    rw [List.map_cons, List.cons_append, layAreas_cons, ih fun vs hvs => hL vs (List.mem_cons_of_mem _ hvs), List.flatten_cons, layWords_append, List.length_append]
    dsimp only
    rw [hlen, Nat.mul_add 64, Nat.pow_add]
    refine Prod.ext ?_ ?_
    · ring
    · exact (Nat.add_assoc _ _ _).symm

/-! ### Words of a list of segments -/

/-- A word of a list of segments stands in its segment. -/
theorem nth_flatten {segs : List (List Nat)} {k j : Nat} {seg : List Nat} (hk : segs[k]? = some seg) (hj : j < seg.length) :
    nth 0 segs.flatten (((segs.map List.length).take k).sum + j) = nth 0 seg j := by
  induction segs generalizing k with
  | nil => simp at hk
  | cons a segs ih =>
    cases k with
    | zero =>
      obtain rfl : a = seg := by simpa using hk
      simp [nth, List.getElem?_append_left hj]
    | succ k =>
      have hrest := ih (k := k) (by simpa using hk)
      rw [← hrest]
      simp only [nth, List.flatten_cons, List.map_cons, List.take_succ_cons, List.sum_cons, Nat.add_assoc]
      rw [List.getElem?_append_right (Nat.le_add_right _ _), Nat.add_sub_cancel_left]

theorem nth_padNat {n j : Nat} (l : List Nat) (hj : j < n) : nth 0 (padNat n l) j = nth 0 l j := by
  unfold padNat nth
  rw [List.getElem?_take_of_lt hj, List.getElem?_append]
  split
  · rfl
  · rename_i h
    rw [List.getElem?_replicate, List.getElem?_eq_none (by omega)]
    split <;> rfl

theorem padNat_length (n : Nat) (l : List Nat) : (padNat n l).length = n := by
  unfold padNat
  simp

end Sys2Proof.Machine
end

section
/-!
SUPPORT. The header and the areas of a record, word by word, and how long a record is (R74, R75, R77).
-/

namespace Sys2Proof.Machine

/-- A word of segments of one length. -/
theorem nth_flatten_const {m : Nat} {segs : List (List Nat)} (hm : ∀ seg ∈ segs, seg.length = m) {k j : Nat} {seg : List Nat} (hk : segs[k]? = some seg) (hj : j < m) :
    nth 0 segs.flatten (m * k + j) = nth 0 seg j := by
  have hlen : segs.map List.length = List.replicate segs.length m :=
    List.eq_replicate_iff.2 ⟨List.length_map _, fun b hb => by
      obtain ⟨seg, hseg, rfl⟩ := List.mem_map.1 hb
      exact hm seg hseg⟩
  have hlt : k < segs.length := (List.getElem?_eq_some_iff.1 hk).1
  have hsum : ((segs.map List.length).take k).sum = m * k := by
    rw [hlen, List.take_replicate, List.sum_replicate, min_eq_left hlt.le, smul_eq_mul, Nat.mul_comm]
  have hword := nth_flatten hk (j := j) (by rw [hm seg (List.mem_of_getElem? hk)]; exact hj)
  rwa [hsum] at hword

/-! ### A strand's area -/

section
variable (t : Strand) (g : Group) (bars : List (Nat × Nat × Bool)) (i : Nat)

/-- The words of a strand's area that its record gives a meaning, segment by segment (R74). -/
def Strand.areaSegments : List (List Nat) :=
  [(List.range 31).map fun r => (t.getX (BitVec.ofNat 5 (r + 1))).w.toNat, [t.pc.toNat],
    [t.fcsr.toNat, t.vl, t.vtype, t.estart, t.vdirty.toNat, t.vstate, t.lpart, t.share], [t.vpc.toNat], t.lc.toList.map (·.toNat), t.b.toList.map (fun w => w.w.toNat),
    t.wm.toList.flatMap (fun m => [m.base.toNat, m.w1.toNat, m.pub.toNat, m.lim.toNat, m.obs.toNat]),
    [t.tpc.toNat, t.tcause.toNat, t.taddr.toNat, t.tinfo.toNat, if t.topen then 1 else 0, t.tvec.toNat], [g.wdwin.toNat, g.wdWord, t.rq.length],
    padNat 16 (t.rq.map fun w => w.w.toNat), [barWord bars i],
    match t.blk with
    | some b => [1, b.vl, ewRm b.ew b.rm]
    | none => [0, 0, 0]]

theorem Strand.recordWords_eq : t.recordWords g bars i = padNat 128 (t.areaSegments g bars i).flatten := by
  unfold Strand.recordWords Strand.areaSegments
  simp only [List.flatten_cons, List.flatten_nil, List.append_nil, List.append_assoc] <;> rfl

theorem Strand.recordWords_length : (t.recordWords g bars i).length = 128 := by
  rw [t.recordWords_eq, padNat_length]

theorem Strand.areaSegments_lengths : (t.areaSegments g bars i).map List.length = [31, 1, 8, 1, 4, 8, 20, 6, 3, 16, 1, 3] := by
  have hblk : (match t.blk with
      | some b => [1, b.vl, ewRm b.ew b.rm]
      | none => [0, 0, 0]).length = 3 := by
    split <;> rfl
  unfold Strand.areaSegments
  simp only [List.map_cons, List.map_nil, hblk, padNat_length]
  simp

/-- A word of an area stands in its segment. -/
theorem Strand.recordWords_segment {k o j : Nat} {seg : List Nat} (hk : (t.areaSegments g bars i)[k]? = some seg)
    (ho : (([31, 1, 8, 1, 4, 8, 20, 6, 3, 16, 1, 3] : List Nat).take k).sum = o) (hj : j < seg.length) (hlt : o + j < 128) :
    nth 0 (t.recordWords g bars i) (o + j) = nth 0 seg j := by
  have hword := nth_flatten hk hj
  rw [t.areaSegments_lengths, ho] at hword
  rw [t.recordWords_eq, nth_padNat _ hlt, hword]

theorem Strand.recordWords_x {j : Nat} (hj : j < 31) : nth 0 (t.recordWords g bars i) j = (t.getX (BitVec.ofNat 5 (j + 1))).w.toNat := by
  have hword := t.recordWords_segment g bars i (k := 0) (o := 0) (j := j) rfl rfl (by simpa using hj) (by omega)
  rw [Nat.zero_add] at hword
  rw [hword]
  simp [nth, hj]

theorem Strand.recordWords_special : ∀ p ∈ [(31, t.pc.toNat), (32, t.fcsr.toNat), (33, t.vl), (34, t.ew + t.n2 * 4 + t.g * 32), (35, t.estart), (36, t.vdirty.toNat), (37, t.vstate),
    (38, t.lpart), (39, t.share), (40, t.vpc.toNat), (73, t.tpc.toNat), (74, t.tcause.toNat), (75, t.taddr.toNat), (76, t.tinfo.toNat), (77, if t.topen then 1 else 0),
    (78, t.tvec.toNat), (79, g.wdwin.toNat), (81, t.rq.length)], p.1 < 128 ∧ nth 0 (t.recordWords g bars i) p.1 = p.2 := by
  have hin : ∀ {k o j : Nat} {seg : List Nat}, (t.areaSegments g bars i)[k]? = some seg → (([31, 1, 8, 1, 4, 8, 20, 6, 3, 16, 1, 3] : List Nat).take k).sum = o →
      j < seg.length → o + j < 128 → o + j < 128 ∧ nth 0 (t.recordWords g bars i) (o + j) = nth 0 seg j :=
    fun hk ho hj hlt => ⟨hlt, t.recordWords_segment g bars i hk ho hj hlt⟩
  have hpc := fun j => hin (k := 1) (o := 31) (j := j) rfl rfl
  have hcsr := fun j => hin (k := 2) (o := 32) (j := j) rfl rfl
  have hvpc := fun j => hin (k := 3) (o := 40) (j := j) rfl rfl
  have htrap := fun j => hin (k := 7) (o := 73) (j := j) rfl rfl
  have hwd := fun j => hin (k := 8) (o := 79) (j := j) rfl rfl
  simp only [List.forall_mem_cons]
  exact ⟨hpc 0 (by simp) (by decide), hcsr 0 (by simp) (by decide), hcsr 1 (by simp) (by decide), hcsr 2 (by simp) (by decide), hcsr 3 (by simp) (by decide),
    hcsr 4 (by simp) (by decide), hcsr 5 (by simp) (by decide), hcsr 6 (by simp) (by decide), hcsr 7 (by simp) (by decide), hvpc 0 (by simp) (by decide),
    htrap 0 (by simp) (by decide), htrap 1 (by simp) (by decide), htrap 2 (by simp) (by decide), htrap 3 (by simp) (by decide), htrap 4 (by simp) (by decide),
    htrap 5 (by simp) (by decide), hwd 0 (by simp) (by decide), hwd 2 (by simp) (by decide), fun _ h => absurd h List.not_mem_nil⟩

theorem Strand.recordWords_lc {j : Nat} (hj : j < 4) : nth 0 (t.recordWords g bars i) (41 + j) = (t.lc.toList.getD j 0).toNat := by
  rw [t.recordWords_segment g bars i (k := 4) (o := 41) rfl rfl (by simpa using hj) (by omega)]
  simp [nth, hj]

theorem Strand.recordWords_b {j : Nat} (hj : j < 8) : nth 0 (t.recordWords g bars i) (45 + j) = (t.b.toList.getD j {}).w.toNat := by
  rw [t.recordWords_segment g bars i (k := 5) (o := 45) rfl rfl (by simpa using hj) (by omega)]
  simp [nth, hj]

/-- The five words of watermark j. -/
theorem Strand.recordWords_wm {j c : Nat} (hj : j < 4) (hc : c < 5) : nth 0 (t.recordWords g bars i) (53 + (5 * j + c)) =
    nth 0 [(t.wm.toList.getD j {}).base.toNat, (t.wm.toList.getD j {}).w1.toNat, (t.wm.toList.getD j {}).pub.toNat, (t.wm.toList.getD j {}).lim.toNat,
      (t.wm.toList.getD j {}).obs.toNat] c := by
  rw [t.recordWords_segment g bars i (k := 6) (o := 53) rfl rfl (by simp; omega) (by omega), List.flatMap_def]
  refine nth_flatten_const (fun seg hseg => ?_) ?_ hc
  · obtain ⟨m, -, rfl⟩ := List.mem_map.1 hseg
    rfl
  · simp [hj]

theorem Strand.recordWords_rq {j : Nat} (hj : j < 16) : nth 0 (t.recordWords g bars i) (82 + j) = (t.rq.getD j {}).w.toNat := by
  rw [t.recordWords_segment g bars i (k := 9) (o := 82) rfl rfl (by rw [padNat_length]; exact hj) (by omega), nth_padNat _ hj]
  simp only [nth, List.getElem?_map, List.getD_eq_getElem?_getD]
  cases t.rq[j]? <;> rfl

theorem Strand.recordWords_blk {j : Nat} (hj : j < 3) : nth 0 (t.recordWords g bars i) (99 + j) = nth 0 (match t.blk with
    | some b => [1, b.vl, ewRm b.ew b.rm]
    | none => [0, 0, 0]) j := by
  refine t.recordWords_segment g bars i (k := 11) rfl rfl ?_ (by omega)
  split <;> exact hj

theorem Strand.recordWords_rest {j : Nat} (hj : 102 ≤ j) : nth 0 (t.recordWords g bars i) j = 0 := by
  have hlen : (t.areaSegments g bars i).flatten.length = 102 := by
    rw [List.length_flatten, t.areaSegments_lengths]
    rfl
  rw [t.recordWords_eq, padNat, nth, List.getElem?_take]
  split
  · rw [List.getElem?_append_right (by omega), List.getElem?_replicate]
    split <;> rfl
  · rfl

end

end Sys2Proof.Machine
end

section
/-!
SUPPORT. The record as words, how long it is, and its words as a migration leaves them (R74, R75, R79).
-/

namespace Sys2Proof.Machine

/-! ### The record as words, with what follows them -/

/-- The eight words of a record's header (R74). -/
def Group.headerWords (g : Group) (src : Nat) (ts : List Strand) (parked : Bool) : List Nat :=
  [0x10 + (ts.length - 1) * 2 ^ 8 + (ts.headD {}).g * 2 ^ 11 + (ts.headD {}).n2 * 2 ^ 17 + (if parked then 2 ^ 20 else 0) + (if g.matrix && !g.mstarted then 2 ^ 21 else 0),
    src, g.gid, g.migAddr.toNat, g.migStrand % 8 + (if g.migConvoy then 8 else 0) + g.migSlot * 16,
    ((ts.headD {}).rebase + BitVec.ofNat 64 g.migCycle).toNat, g.migCost, g.grant.length + (ts.map fun t => t.dirtyRegs.length).sum * 2 ^ 10]

theorem Group.recordHeader_eq (g : Group) (src : Nat) (ts : List Strand) (parked : Bool) : g.recordHeader src ts parked = layWords (g.headerWords src ts parked) := rfl

section
variable (s : State) (g : Group) (ts : List Strand) (bars : List (Nat × Nat × Bool)) (mx : Option (Matrix × Strand))

/-- The header and the strands' areas, each in words. -/
def State.recordLists : List (List Nat) :=
  g.headerWords (s.coreId g.core) ts mx.isSome :: (List.range ts.length).map fun i => (nth {} ts i).recordWords g bars i

/-- The areas that follow the strands': masks and scales, dirty registers, the scratchpad image, the matrix area (R75, R77). -/
def State.recordRest : List (Nat × Nat) :=
  [layFields (ts.map fun t => (t.maskScale.1, 8 * (t.g * 40960 / 2 ^ t.n2))),
    layFields (ts.flatMap fun t => t.dirtyRegs.map fun r => ((Sparse.get {} t.v r).bits, regBits t.g t.n2)), s.scratchImage g.core g.grant] ++
  (match mx with
   | some x => [matrixArea x.1 x.2]
   | none => [])

theorem State.record_eq : s.record g ts bars mx = layAreas (((s.recordLists g ts bars mx).map fun ws => (layWords ws, 64 * ws.length)) ++ s.recordRest g ts mx) := by
  unfold State.record State.recordLists State.recordRest
  simp only [List.map_cons, List.map_map, Function.comp_def, Strand.recordWords_length, Group.recordHeader_eq, List.cons_append, List.nil_append, List.append_assoc]
  rfl

theorem State.recordLists_aligned : ∀ ws ∈ s.recordLists g ts bars mx, 8 ∣ ws.length := by
  intro ws h
  rcases List.mem_cons.1 h with rfl | h
  · exact ⟨1, rfl⟩
  · obtain ⟨i, -, rfl⟩ := List.mem_map.1 h
    rw [Strand.recordWords_length]
    exact ⟨16, rfl⟩

theorem State.recordLists_length : (s.recordLists g ts bars mx).flatten.length = 8 + 128 * ts.length := by
  have hareas : ((List.range ts.length).map fun i => ((nth {} ts i).recordWords g bars i).length).sum = ts.length * 128 := by
    simp only [Strand.recordWords_length, List.map_const', List.sum_replicate, List.length_range, smul_eq_mul]
  rw [List.length_flatten, State.recordLists, List.map_cons, List.sum_cons, List.map_map, Function.comp_def, hareas, Nat.mul_comm]
  rfl

/-- The record's words, and how long it is. -/
theorem State.record_layout : s.record g ts bars mx =
    (layWords (s.recordLists g ts bars mx).flatten + 2 ^ (64 * (8 + 128 * ts.length)) * (layAreas (s.recordRest g ts mx)).1,
      64 * (8 + 128 * ts.length) + (layAreas (s.recordRest g ts mx)).2) := by
  rw [State.record_eq, layAreas_words (s.recordLists_aligned g ts bars mx), State.recordLists_length]

theorem State.record_word {k : Nat} (hk : k < 8 + 128 * ts.length) :
    (s.record g ts bars mx).1 / 2 ^ (64 * k) % 2 ^ 64 = nth 0 (s.recordLists g ts bars mx).flatten k % 2 ^ 64 := by
  rw [State.record_layout, ← s.recordLists_length g ts bars mx]
  exact layWords_word (by rw [State.recordLists_length]; exact hk) _

theorem State.recordLists_header {k : Nat} (hk : k < 8) :
    nth 0 (s.recordLists g ts bars mx).flatten k = nth 0 (g.headerWords (s.coreId g.core) ts mx.isSome) k := by
  rw [State.recordLists, List.flatten_cons, nth, List.getElem?_append_left hk, nth]

theorem State.recordLists_area {i j : Nat} (hi : i < ts.length) (hj : j < 128) :
    nth 0 (s.recordLists g ts bars mx).flatten (8 + (128 * i + j)) = nth 0 ((nth {} ts i).recordWords g bars i) j := by
  have harea := nth_flatten_const (m := 128) (segs := (List.range ts.length).map fun i => (nth {} ts i).recordWords g bars i) (k := i) (fun seg hseg => by
    obtain ⟨i, -, rfl⟩ := List.mem_map.1 hseg
    exact Strand.recordWords_length _ _ _ _) (by rw [List.getElem?_map, List.getElem?_range hi]; rfl) hj
  rw [← harea, State.recordLists, List.flatten_cons, nth, List.getElem?_append_right (show 8 ≤ _ from Nat.le_add_right _ _), nth]
  exact congrArg (fun k => Option.getD (List.flatten _)[k]? 0) (Nat.add_sub_cancel_left 8 _)

/-! ### How long a record is -/

theorem sum_map_le_mul {α : Type} {f h : α → Nat} {c : Nat} (l : List α) (hf : ∀ x, f x ≤ c * h x) : (l.map f).sum ≤ c * (l.map h).sum := by
  induction l with
  | nil => exact Nat.zero_le _
  | cons x l ih =>
    rw [List.map_cons, List.map_cons, List.sum_cons, List.sum_cons, Nat.mul_add]
    exact Nat.add_le_add (hf x) ih

theorem Strand.dirtyRegs_length_le (t : Strand) : t.dirtyRegs.length ≤ 2 ^ t.n2 :=
  (List.length_filter_le _ _).trans_eq List.length_range

theorem maskScale_length_le : (layFields (ts.map fun t => (t.maskScale.1, 8 * (t.g * 40960 / 2 ^ t.n2)))).2 ≤ 327680 * (ts.map (·.g)).sum := by
  rw [layFields_length, List.map_map]
  refine sum_map_le_mul ts fun t => ?_
  have := Nat.div_le_self (t.g * 40960) (2 ^ t.n2)
  dsimp only [Function.comp]
  omega

theorem dirtyFields_length_le :
    (layFields (ts.flatMap fun t => t.dirtyRegs.map fun r => ((Sparse.get {} t.v r).bits, regBits t.g t.n2))).2 ≤ 262144 * (ts.map (·.g)).sum := by
  have hsum : ∀ t : Strand, t.dirtyRegs.length * regBits t.g t.n2 ≤ 262144 * t.g := fun t =>
    calc t.dirtyRegs.length * regBits t.g t.n2 ≤ 2 ^ t.n2 * (t.g * 262144 / 2 ^ t.n2) := Nat.mul_le_mul_right _ t.dirtyRegs_length_le
      _ ≤ t.g * 262144 := Nat.mul_div_le _ _
      _ = 262144 * t.g := Nat.mul_comm _ _
  rw [layFields_length]
  refine le_trans (le_of_eq ?_) (sum_map_le_mul ts hsum)
  induction ts with
  | nil => rfl
  | cons t ts ih =>
    rw [List.flatMap_cons, List.map_append, List.sum_append, ih, List.map_cons, List.sum_cons, List.map_map, Function.comp_def, List.map_const', List.sum_replicate,
      smul_eq_mul]

theorem State.scratchImage_length (k : Nat) (us : List Nat) : (s.scratchImage k us).2 = 32768 * us.length := by
  rw [State.scratchImage, layFields_length, List.map_map, Function.comp_def, List.map_const', List.sum_replicate, smul_eq_mul, Nat.mul_comm]

theorem matrixArea_length (m : Matrix) (t : Strand) : (matrixArea m t).2 = 2385920 := by
  unfold matrixArea
  rw [layFields_length]
  simp only [List.map_append, List.map_cons, List.map_nil, List.map_map, Function.comp_def, List.map_const', List.sum_append, List.sum_cons, List.sum_nil,
    List.sum_replicate, List.length_range, smul_eq_mul, Nat.reduceMul, Nat.reduceAdd]

/-- A record fits its place: with 32 shares and a whole scratchpad it is less than 2^34 bits long. -/
theorem State.record_length_lt (hts : ts.length ≤ 8) (hg : (ts.map (·.g)).sum ≤ 32) (hunits : g.grant.length ≤ 512) : (s.record g ts bars mx).2 < 2 ^ 34 := by
  have hmask := maskScale_length_le ts
  have hregs := dirtyFields_length_le ts
  have himage := s.scratchImage_length g.core g.grant
  rw [State.record_layout, layAreas_length]
  unfold State.recordRest
  simp only [List.map_append, List.map_cons, List.map_nil, List.sum_append, List.sum_cons, List.sum_nil, ceilDiv]
  rw [himage]
  generalize (layFields (ts.map _)).2 = a at hmask ⊢
  generalize (layFields (ts.flatMap _)).2 = b at hregs ⊢
  cases mx with
  | none =>
    simp only [List.map_nil, List.sum_nil]
    omega
  | some x =>
    simp only [List.map_cons, List.map_nil, List.sum_cons, List.sum_nil, matrixArea_length]
    omega

theorem State.record_length_aligned : 8 ∣ (s.record g ts bars mx).2 := by
  have hrest := layAreas_aligned (s.recordRest g ts mx)
  rw [State.record_layout]
  dsimp only
  omega

end

end Sys2Proof.Machine
end

section
/-!
SUPPORT. The migration record, and how groups move (R70 to R79).
-/

namespace Sys2Proof.Machine

section
variable (s : State) (n : Nat) (g : Group)

theorem State.recordLeft_eq : s.recordLeft g = s.record (s.migGroup g) (g.sids.map s.strand) (s.arrivals g) (s.migMatrix g) := rfl

/-- The words of the header and of the strands' areas that the group leaves. -/
def State.leftWords : List Nat := (s.recordLists (s.migGroup g) (g.sids.map s.strand) (s.arrivals g) (s.migMatrix g)).flatten

theorem State.recordLeft_word {k : Nat} (hk : k < 8 + 128 * g.sids.length) : (s.recordLeft g).1 / 2 ^ (64 * k) % 2 ^ 64 = nth 0 (s.leftWords g) k % 2 ^ 64 := by
  rw [s.recordLeft_eq]
  exact s.record_word _ _ _ _ (by rwa [List.length_map])

theorem State.recordLeft_length_le : 64 * (8 + 128 * g.sids.length) ≤ (s.recordLeft g).2 := by
  rw [s.recordLeft_eq, State.record_layout, List.length_map]
  exact Nat.le_add_right _ _

theorem State.recordLeft_length_lt (hlen : g.sids.length ≤ 8) (hunits : g.grant.length ≤ 512) (hshares : ((g.sids.map s.strand).map (·.g)).sum ≤ 32) :
    (s.recordLeft g).2 < 2 ^ 34 := by
  rw [s.recordLeft_eq]
  exact s.record_length_lt _ _ _ _ (by rwa [List.length_map]) hshares hunits

theorem State.recordLeft_length_aligned : 8 ∣ (s.recordLeft g).2 := by
  rw [s.recordLeft_eq]
  exact s.record_length_aligned _ _ _ _

/-- Below every scratchpad memory stands as the record's write has left it. -/
theorem State.migLeft_byte (h : MemOk s) {j : Nat} (hj : j < 2 ^ 55) : Mem.byte (s.migLeft n g).mem j =
    Mem.byte ((s.migStop g).writeRecord (recordOffset g.core) ((s.migStop g).recordLeft g).1 ((s.migStop g).recordLeft g).2).mem j := by
  obtain ⟨u, hu, hleft⟩ := s.migLeft_mem n g
  have hrec : MemOk u := (congrArg Mem.wf hu).trans (State.migRecord_memOk _ g (s.migStop_memOk g h))
  rw [hleft, State.byte_zeroUnits_low hrec _ _ hj, hu, State.migRecord_mem]

theorem State.leftWords_header {k : Nat} (hk : k < 8) :
    nth 0 (s.leftWords g) k = nth 0 ((s.migGroup g).headerWords (s.coreId g.core) (g.sids.map s.strand) (s.migMatrix g).isSome) k :=
  s.recordLists_header _ _ _ _ hk

theorem State.leftWords_area {i j : Nat} (hi : i < g.sids.length) (hj : j < 128) :
    nth 0 (s.leftWords g) (8 + (128 * i + j)) = nth 0 ((nth {} (g.sids.map s.strand) i).recordWords (s.migGroup g) (s.arrivals g) i) j :=
  s.recordLists_area _ _ _ _ (by rwa [List.length_map]) hj

/-! ### The words of the record read back -/

section
variable (h : MemOk s) (hcore : g.core < 1024) (hlen : g.sids.length ≤ 8) (hunits : g.grant.length ≤ 512)
  (hshares : ((g.sids.map (s.migStop g).strand).map (·.g)).sum ≤ 32)
include h hcore hlen hunits hshares

/-- A word of the header or of an area, as the migration leaves it. -/
theorem State.migLeft_word {k : Nat} (hk : k < 8 + 128 * g.sids.length) :
    (s.migLeft n g).home (migAddrOf (g.core * 2 ^ 26 + 64 * k)) 64 = nth 0 ((s.migStop g).leftWords g) k % 2 ^ 64 := by
  have hstop := s.migStop_memOk g h
  have hleft := s.migLeft_memOk n g h
  have hlow := fun j => s.migLeft_byte n g h (j := j)
  unfold recordOffset at hlow
  generalize s.migStop g = u at hstop hlow hshares ⊢
  have hlt := u.recordLeft_length_lt g hlen hunits hshares
  have hle := u.recordLeft_length_le g
  rw [← u.recordLeft_word g hk]
  exact State.home_record hstop hleft hlow (by omega) (u.recordLeft_length_aligned g) (by omega) (by omega)

theorem State.migLeft_headerWord {k : Nat} (hk : k < 8) : (s.migLeft n g).home (migAddrOf (g.core * 2 ^ 26 + 64 * k)) 64 =
    nth 0 (((s.migStop g).migGroup g).headerWords (s.coreId g.core) (g.sids.map (s.migStop g).strand) ((s.migStop g).migMatrix g).isSome) k % 2 ^ 64 := by
  rw [s.migLeft_word n g h hcore hlen hunits hshares (Nat.lt_add_right _ hk), State.leftWords_header _ g hk, s.migStop_coreId]

theorem State.migLeft_areaWord {i j : Nat} (hi : i < g.sids.length) (hj : j < 128) : (s.migLeft n g).home (migAddrOf (g.core * 2 ^ 26 + (512 + 8192 * i + 64 * j))) 64 =
    nth 0 ((nth {} (g.sids.map (s.migStop g).strand) i).recordWords ((s.migStop g).migGroup g) ((s.migStop g).arrivals g) i) j % 2 ^ 64 := by
  rw [show 512 + 8192 * i + 64 * j = 64 * (8 + (128 * i + j)) by omega, s.migLeft_word n g h hcore hlen hunits hshares (by omega), State.leftWords_area _ g hi hj]

end

/-! ### The parts of the header -/

theorem State.migMatrix_isSome : (s.migMatrix g).isSome = true ↔ g.mcsRuns = true ∨ (g.savedMx.isSome = true ∧ g.savedMcs.isSome = true) := by
  unfold State.migMatrix
  cases hrun : g.mcsRuns <;> cases g.savedMx <;> cases g.savedMcs <;> simp

theorem Strand.dirtyRegs_eq (t : Strand) : t.dirtyRegs = (List.range (2 ^ t.n2)).filter fun r => t.vdirty.getLsbD r := by
  unfold Strand.dirtyRegs setBits
  refine List.filter_congr fun r _ => ?_
  rw [bitAt_eq_testBit, BitVec.testBit_toNat]

theorem State.migWaits_cost : (s.migWaits g).migCost =
    2400 + g.grant.length * 16 + 900 * (((((g.sids.map s.strand).map fun t => t.dirtyRegs.length).sum) + 7) / 8) + if (s.migMatrix g).isSome then 1165 else 0 := by
  have hcost : (s.migWaits g).migCost =
      sourceCost (g.grant.length * 32768) ((g.sids.map s.strand).map fun t => t.dirtyRegs.length).sum (s.migMatrix g).isSome := rfl
  rw [hcost, sourceCost, show ceilDiv (g.grant.length * 32768) 2048 = g.grant.length * 16 by unfold ceilDiv; omega]
  rfl

end

end Sys2Proof.Machine

namespace Sys2Proof

open Machine

/-- The migration record (R74, R75, R79). -/
theorem migrationRecord : Spec.MigrationRecord := by
  intro s n g hg hphase hrun hidle hmem hsub hcore hlen hunits hn2 hshares
  have hts : g.sids.map (s.migStop g).strand = g.sids.map fun sid => (s.strand sid).unwound :=
    List.map_congr_left fun sid hsid => s.migStop_unwound g hsub (List.mem_append_left _ hsid)
  have hg' : ((g.sids.map (s.migStop g).strand).map (·.g)).sum ≤ 32 := by
    rw [hts, List.map_map]
    exact le_of_eq_of_le (congrArg List.sum (List.map_congr_left fun sid _ => (s.strand sid).unwound_keeps.2.1)) hshares
  have hhead := fun k hk => s.migLeft_headerWord n g hmem hcore hlen hunits hg' (k := k) hk
  have harea := fun i j hi hj => s.migLeft_areaWord n g hmem hcore hlen hunits hg' (i := i) (j := j) hi hj
  refine ⟨_, _, exec_migration_of_idle hg hphase hrun hidle, s.migLeft_group n g, ?_⟩
  generalize s.migStop g = u at hts hhead harea ⊢
  have hcost := u.migWaits_cost g
  generalize s.migLeft n g = t at hhead harea ⊢
  dsimp only
  rw [hts] at hcost hhead harea
  have hmatrix : g.matrix = true ∧ g.mstarted = false ↔ (g.matrix && !g.mstarted) = true := by simp
  simp only [← u.migMatrix_isSome g, hmatrix, ← Strand.dirtyRegs_eq]
  refine ⟨?_, hcost, fun i hi => ?_⟩
  · simp only [List.forall_mem_cons]
    exact ⟨hhead 0 (by decide), hhead 1 (by decide), hhead 2 (by decide), hhead 3 (by decide), hhead 4 (by decide), hhead 5 (by decide), hhead 6 (by decide),
      hhead 7 (by decide), fun _ h => absurd h List.not_mem_nil⟩
  · rw [List.length_map] at hi
    have hw := fun j hj => harea i j hi hj
    generalize nth {} (g.sids.map fun sid => (s.strand sid).unwound) i = x at hw ⊢
    have hwdwin : (u.migGroup g).wdwin = g.wdwin := rfl
    generalize u.migGroup g = m at hw hwdwin
    generalize u.arrivals g = bars at hw
    have hbits : ∀ j (v : Word), j < 128 → nth 0 (x.recordWords m bars i) j = v.toNat →
        t.home (migAddrOf (g.core * 2 ^ 26 + (512 + 8192 * i + 64 * j))) 64 = v.toNat := fun j v hj h => by
      rw [hw j hj, h, Nat.mod_eq_of_lt v.isLt]
    have hwm := fun j c hj hc => x.recordWords_wm m bars i (j := j) (c := c) hj hc
    have hblk := fun j hj => (hw (99 + j) (by omega)).trans (congrArg (· % 2 ^ 64) (x.recordWords_blk m bars i (j := j) hj))
    refine ⟨fun j hj => hbits j _ (by omega) (x.recordWords_x m bars i hj), fun p hp => ?_, fun j hj => hbits _ _ (by omega) (x.recordWords_lc m bars i hj),
      fun j hj => hbits _ _ (by omega) (x.recordWords_b m bars i hj), fun j hj => ?_, fun j hj => hbits _ _ (by omega) (x.recordWords_rq m bars i hj),
      fun hb => ?_, fun b hb => ?_, fun j hlow hj => ?_⟩
    · have hspecial := x.recordWords_special m bars i
      rw [hwdwin] at hspecial
      obtain ⟨hlt, hp⟩ := hspecial p hp
      rw [hw p.1 hlt, hp]
    · have hfive : ∀ c (v : Word), c < 5 → nth 0 (x.recordWords m bars i) (53 + (5 * j + c)) = v.toNat →
          t.home (migAddrOf (g.core * 2 ^ 26 + (512 + 8192 * i + 64 * (53 + c + 5 * j)))) 64 = v.toNat := fun c v hc h => by
        rw [show 53 + c + 5 * j = 53 + (5 * j + c) by omega]
        exact hbits _ v (by omega) h
      exact ⟨hfive 0 _ (by decide) (hwm j 0 hj (by decide)), hfive 1 _ (by decide) (hwm j 1 hj (by decide)), hfive 2 _ (by decide) (hwm j 2 hj (by decide)),
        hfive 3 _ (by decide) (hwm j 3 hj (by decide)), hfive 4 _ (by decide) (hwm j 4 hj (by decide))⟩
    · rw [hb] at hblk
      exact ⟨hblk 0 (by decide), hblk 1 (by decide), hblk 2 (by decide)⟩
    · rw [hb] at hblk
      exact ⟨hblk 0 (by decide), hblk 1 (by decide), hblk 2 (by decide)⟩
    · rw [hw j hj, x.recordWords_rest m bars i hlow]
      rfl

/-- Settles O52: each stage of a move says once what it changes, the resume puts each carried strand in its own context, and the record is read back as the words that were laid out. -/
theorem groupMoves : Obligations.GroupMoves := by
  unfold Obligations.GroupMoves
  exact ⟨movedGroups, migrations, migrationRecord⟩

end Sys2Proof
end

section
/-!
SUPPORT. Memory keeps its canonical form (R80 to R82), part 1: what an operation's answer says of the state in it, and the operations instructions share. Only a write of
bits and a write of a masked line touch memory, and Laws/Access.lean has those; every operation is a chain of steps that keep the form.
-/

namespace Sys2Proof.Machine
open State

variable {s t : State}

/-- An instruction's answer whose memory, where it is a next state, has the canonical form. -/
inductive ResOk : Res → Prop
  | next {t : State} (h : MemOk t) : ResOk (.next t)
  | fault (r : Fault) : ResOk (.fault r)
  | refused (r : Refusal) : ResOk (.refused r)

theorem ResOk.memOk {t : State} (h : ResOk (.next t)) : MemOk t := by
  cases h with
  | next h => exact h

/-! ### Reading an operation's answer apart -/

/-- What an operation that keeps memory canonical answers has it so, whatever stands beside it. -/
theorem MemOk.of_eq {α : Type} {r : State × α} {x : α} (h : MemOk r.1) (e : r = (t, x)) : MemOk t := by
  rwa [e] at h

/-- A step that leaves memory as it is keeps it canonical. -/
theorem MemOk.of_mem (e : t.mem = s.mem) (h : MemOk s) : MemOk t := (congrArg Mem.wf e).trans h

theorem MemOk.ite {p : Prop} [Decidable p] (hs : MemOk s) (ht : MemOk t) : MemOk (if p then s else t) := by
  split
  · exact hs
  · exact ht

theorem MemOk.ite_fst {α : Type} {p : Prop} [Decidable p] {q r : State × α} (hq : MemOk q.1) (hr : MemOk r.1) :
    MemOk (if p then q else r).1 := by
  split
  · exact hq
  · exact hr

theorem ResOk.ite {p : Prop} [Decidable p] {q r : Res} (hq : ResOk q) (hr : ResOk r) : ResOk (if p then q else r) := by
  split
  · exact hq
  · exact hr

/-- A fold that carries something beside the machine keeps memory canonical where each step does. -/
theorem memOk_foldl_fst {α β : Type} (f : State × β → α → State × β) (l : List α) (h : ∀ r x, MemOk r.1 → MemOk (f r x).1)
    (r : State × β) (hr : MemOk r.1) : MemOk (l.foldl f r).1 :=
  List.foldlRecOn (motive := fun q : State × β => MemOk q.1) l f hr fun q hq x _ => h q x hq

/-! ### Translation, fetches and traps -/

theorem State.check_memOk {ag want a w} (h : MemOk s) : MemOk (s.check ag want a w).1 := (congrArg Mem.wf (s.check_mem ag want a w)).trans h

theorem State.xlate_memOk {ag want a} (h : MemOk s) : MemOk (s.xlate ag want a).1 := (congrArg Mem.wf (s.xlate_frame ag want a).mem).trans h

theorem State.xlateParts_memOk {ag want l} (h : MemOk s) : MemOk (s.xlateParts ag want l).1 :=
  (congrArg Mem.wf (s.xlateParts_frame ag want l).mem).trans h

theorem SameButCheck.memOk (e : SameButCheck s t) (h : MemOk s) : MemOk t := by
  rw [e]
  exact h

theorem State.fetch32_memOk {ag vx a} (h : MemOk s) : MemOk (s.fetch32 ag vx a).1 := (s.fetch32_frame ag vx a).memOk h

theorem State.fetchLine_memOk {k line} (h : MemOk s) : MemOk (s.fetchLine k line).1 := (congrArg Mem.wf (s.fetchLine_frame k line).mem).trans h

theorem State.startTransfer_memOk {n b x k d} (h : MemOk s) : MemOk (s.startTransfer n b x k d) := (s.startTransfer_frame n b x k d).memOk h

theorem State.leaveFailed_memOk {x} (h : MemOk s) : MemOk (s.leaveFailed x) := (s.leaveFailed_frame x).memOk h

theorem State.proceed_memOk {k ps} (h : MemOk s) : MemOk (s.proceed k ps) := (s.proceed_frame k ps).memOk h

theorem State.trap_resOk {code addr} (h : MemOk s) : ResOk (s.trap code addr) := .next (s.takeTrap_memOk _ _ _ h)

theorem State.modGroup_memOk {n f} (h : MemOk s) : MemOk (s.modGroup n f) := (congrArg Mem.wf (s.modGroup_mem n f)).trans h

theorem State.modGang_memOk {n f} (h : MemOk s) : MemOk (s.modGang n f) := (congrArg Mem.wf (s.modGang_mem n f)).trans h
/-! ### Operations that leave memory alone -/

@[simp] theorem State.forgetBroken_mem (kind sid : Nat) : (s.forgetBroken kind sid).mem = s.mem := rfl
@[simp] theorem State.modConv_mem (f : Conv → Conv) : (s.modConv f).mem = s.mem := rfl
@[simp] theorem State.markPerformed_mem : s.markPerformed.mem = s.mem := rfl
@[simp] theorem State.pendElems_mem (ps : List Probe) : (s.pendElems ps).mem = s.mem := rfl
@[simp] theorem State.setPreempt_mem (sid : Nat) (v : Word) : (s.setPreempt sid v).mem = s.mem := rfl
@[simp] theorem State.convWaits_mem (sid : Nat) : (s.convWaits sid).mem = s.mem := rfl
@[simp] theorem State.setCopyCtx_mem (pc : Nat) (c : CopyCtx) : (s.setCopyCtx pc c).mem = s.mem := rfl
@[simp] theorem State.setStream_mem (d n : Nat) (x : Stream) : (s.setStream d n x).mem = s.mem := rfl
@[simp] theorem State.answer_mem (u : Submit) (code : Nat) (gang : Option Nat) : (s.answer u code gang).mem = s.mem := rfl
@[simp] theorem State.mapCopies_mem (f : CopyOp → CopyOp) : (s.mapCopies f).mem = s.mem := rfl
@[simp] theorem State.rebindCopies_mem (f : Nat → Nat) : (s.rebindCopies f).mem = s.mem := rfl
@[simp] theorem State.probeAfresh_mem (g : Group) : (s.probeAfresh g).mem = s.mem := rfl
@[simp] theorem State.reply_mem (fn code : Nat) : (s.reply fn code).mem = s.mem := rfl
@[simp] theorem State.failTransfer_mem (t : Transfer) : (s.failTransfer t).mem = s.mem := rfl
@[simp] theorem State.view_mem (what : String) (ws : List Nat) : (s.view what ws).mem = s.mem := rfl
@[simp] theorem State.start_mem (sid : Nat) (group : Option Nat) (asid idx : Nat) (entry arg : Word) (g share : Nat) :
    (s.start sid group asid idx entry arg g share).mem = s.mem := rfl
@[simp] theorem State.dropRegionTags_mem (region : Nat) : (s.dropRegionTags region).mem = s.mem := rfl
@[simp] theorem State.vwaitPut_mem (f : VMForm) (e v : Nat) (p unsat : Bool) : (s.vwaitPut f e v p unsat).mem = s.mem := rfl
@[simp] theorem State.restartStream_mem (die n : Nat) (x : Stream) : (s.restartStream die n x).mem = s.mem := rfl
@[simp] theorem State.pinLater_mem (fn region domain : Nat) : (s.pinLater fn region domain).mem = s.mem := rfl
@[simp] theorem State.rotate_mem : s.rotate.mem = s.mem := rfl
@[simp] theorem State.moveLimits_mem (die : Nat) : (s.moveLimits die t).mem = t.mem := rfl

/-! ### Link tags -/

theorem State.placeTag_memOk {kind line sid} (h : MemOk s) : MemOk (s.placeTag kind line sid) := h

/-! ### Progress and waits -/

theorem State.progress_memOk {sid} (h : MemOk s) : MemOk (s.progress sid) := by
  unfold State.progress
  split
  · exact modGroup_memOk h
  · exact h

/-! ### Transfers asked for -/

theorem State.askRegion_memOk {ag t} (h : MemOk s) : MemOk (s.askRegion ag t) := startTransfer_memOk h

theorem State.checkAll_memOk {ag l} (h : MemOk s) : MemOk (s.checkAll ag l).1 := by
  unfold State.checkAll
  refine memOk_foldl_fst _ _ (fun r x hr => ?_) _ h
  exact check_memOk hr

/-! ### Accesses in pieces -/

theorem State.writeArea_memOk {ag sid cls bits pois ps} (h : MemOk s) : MemOk (s.writeArea ag sid cls bits pois ps) :=
  memOk_foldl _ _ (fun _ _ hs => writePiece_memOk _ _ _ _ _ _ _ _ hs) _ h

theorem State.readArea_memOk {ag cls ps} (h : MemOk s) : MemOk (s.readArea ag cls ps).1 := by
  unfold State.readArea
  refine memOk_foldl_fst _ _ (fun r x hr => ?_) _ h
  split <;> exact MemOk.of_eq (readPiece_memOk _ _ _ _ _ hr) ‹_›

theorem State.clearCovered_memOk {ag c} (h : MemOk s) : MemOk (s.clearCovered ag c) := by
  unfold State.clearCovered
  refine memOk_foldl _ _ (fun s x hs => ?_) _ h
  exact MemOk.ite (MemOk.of_mem (modCore_mem _ _ _) hs) (MemOk.of_mem (setPoison_mem _ _ _) hs)

/-! ### Traps and takeovers -/

theorem State.asyncTrap_memOk {sid code} (h : MemOk s) : MemOk (s.asyncTrap sid code) := takeTrap_memOk _ _ _ _ h

theorem State.takeHeld_memOk {sid} (h : MemOk s) : MemOk (s.takeHeld sid) := by
  unfold State.takeHeld
  split
  · exact takePreempt_memOk _ _ h
  · exact h

theorem State.takeMigrate_memOk {sid a convoy slot p} (h : MemOk s) : MemOk (s.takeMigrate sid a convoy slot p) := by
  unfold State.takeMigrate
  split
  · exact h
  · exact modGroup_memOk h

theorem State.failed_resOk {c} (h : MemOk s) : ResOk (s.failed c) := by
  cases c with
  | trap c a => exact State.trap_resOk h
  | ok ps => exact .next h
  | wait => exact .next h

theorem State.release_memOk {mask scope} (h : MemOk s) : MemOk (s.release mask scope) := relCache_memOk _ _ _ _ h

theorem State.acquire_memOk {mask scope} (h : MemOk s) : MemOk (s.acquire mask scope) := acqCache_memOk _ _ _ _ h

/-! ### Scalar loads and stores -/

theorem State.acqOf_memOk {o} (h : MemOk s) : MemOk (s.acqOf o) := MemOk.ite (acquire_memOk h) h

/-! ### Control flow and CSRs -/

theorem State.setWdwin_memOk {sid v} (h : MemOk s) : MemOk (s.setWdwin sid v) := by
  unfold State.setWdwin
  split
  · exact h
  · exact modGroup_memOk h

theorem State.csrSet_memOk {sid n v p} (h : MemOk s) : MemOk (s.csrSet sid n v p) := MemOk.ite h (MemOk.ite (setWdwin_memOk h) h)

/-! ### Fences, barriers and waits -/

theorem State.dropLines_memOk {k} (h : MemOk s) : MemOk (s.dropLines k) := memOk_foldl _ _ (fun _ _ hs => evict_memOk _ _ _ hs) _ h

theorem State.putBar_memOk {kind idx b} (h : MemOk s) : MemOk (s.putBar kind idx b) := by
  unfold State.putBar
  split
  · exact h
  split
  · exact h
  · exact modGang_memOk h

theorem State.barProgress_memOk {kind b ph} (h : MemOk s) : MemOk (s.barProgress kind b ph) := by
  unfold State.barProgress
  simp only
  split
  · exact memOk_foldl _ _ (fun _ _ hs => progress_memOk hs) _ h
  · split <;> exact h

theorem State.updateTrig_memOk {n} (h : MemOk s) : MemOk (s.updateTrig n) := modGroup_memOk h

/-! ### Vector loads and stores -/

theorem State.ownAgain_memOk {ps} (h : MemOk s) : MemOk (s.ownAgain ps).1 := by
  unfold State.ownAgain
  simp only
  split
  · exact leaveFailed_memOk h
  split
  · exact askRegion_memOk h
  · exact proceed_memOk h

/-! ### Progress and waits -/

theorem State.park_memOk {i} (h : MemOk s) : MemOk (s.park i) := by
  unfold State.park
  simp only
  split
  · exact MemOk.ite h h
  · exact h

/-! ### Fences, barriers and waits -/

theorem State.waitRead_memOk {a} (h : MemOk s) : MemOk (s.waitRead a).1 := by
  unfold State.waitRead
  split
  · have h1 := MemOk.of_eq (check_memOk h) ‹_›
    split
    · exact h1
    · split <;> exact MemOk.of_eq (readPieces_memOk _ _ _ _ _ h1) ‹_›
  · exact MemOk.of_eq (check_memOk h) ‹_›

/-! ### Supervisor instructions -/

theorem State.restoreSlots_memOk {sid mask slots} (h : MemOk s) : MemOk (s.restoreSlots sid mask slots) :=
  MemOk.of_mem (modStrand_mem _ _ _) (memOk_foldl _ _ (fun _ _ hs => MemOk.of_mem (modStrand_mem _ _ _) (readArea_memOk hs)) _ h)

theorem State.eachLine_memOk {a len f} (h : MemOk s) (hf : ∀ s l, MemOk s → MemOk (f s l)) : MemOk (s.eachLine a len f) := by
  refine memOk_foldl _ _ (fun s x hs => ?_) _ h
  split
  · exact memOk_foldl _ _ hf _ (MemOk.of_eq (State.xlate_memOk hs) ‹_›)
  · exact MemOk.of_eq (State.xlate_memOk hs) ‹_›

theorem State.checkArea_memOk {want a len0 base len regs} (h : MemOk s) : MemOk (s.checkArea want a len0 base len regs).1 := by
  unfold State.checkArea
  simp only
  split
  · refine memOk_foldl_fst _ _ (fun r x hr => ?_) _ (check_memOk h)
    exact check_memOk hr
  refine memOk_foldl_fst _ _ (fun r x hr => ?_) _ (check_memOk h)
  exact check_memOk hr

/-! ### Traps and takeovers -/

theorem State.profile_resOk {p r} (h : MemOk s) (e : s.profile p = some r) : ResOk r := by
  unfold State.profile at e
  split at e
  · cases e
  · cases e
    exact State.trap_resOk h
  · cases e
    exact .next (State.takeMigrate_memOk h)

/-! ### Supervisor instructions -/

theorem State.saveGuard_resOk {rs1 rs2 sid r} (h : MemOk s) (e : s.saveGuard rs1 rs2 sid = some r) : ResOk r := by
  have ht : ∀ code addr, some (s.trap code addr) = some r → ResOk r := fun _ _ e => Option.some.inj e ▸ State.trap_resOk h
  unfold State.saveGuard at e
  split at e
  · exact ht _ _ e
  split at e
  · exact ht _ _ e
  split at e
  · exact ht _ _ e
  split at e
  · exact ht _ _ e
  split at e
  · cases e
    exact .next h
  · cases e

/-! ### Accesses in pieces -/

theorem State.fetchWords_memOk {ag vx a n} (h : MemOk s) : MemOk (s.fetchWords ag vx a n).1 := by
  induction n generalizing s a with
  | zero => exact h
  | succ n ih =>
    unfold State.fetchWords
    split
    · exact MemOk.of_eq (fetch32_memOk h) ‹_›
    have h1 := MemOk.of_eq (fetch32_memOk h) ‹_›
    split <;> exact MemOk.of_eq (ih h1) ‹_›

/-! ### Scalar loads and stores -/

theorem State.load_resOk {len signed rd base a w o} (h : MemOk s) : ResOk (s.load len signed rd base a w o) := by
  unfold State.load
  split
  · exact trap_resOk h
  split
  · exact .next h
  split
  · have h1 := MemOk.of_eq (check_memOk h) ‹_›
    split
    · exact .next h1
    split
    · exact trap_resOk (MemOk.of_eq (readPieces_memOk _ _ _ _ _ h1) ‹_›)
    have h2 := MemOk.of_eq (readPieces_memOk _ _ _ _ _ h1) ‹_›
    exact .next (MemOk.of_mem (adv_mem _ _) (MemOk.of_mem (wx_mem _ _ _ _) (acqOf_memOk h2)))
  · exact failed_resOk (MemOk.of_eq (check_memOk h) ‹_›)

theorem State.store_resOk {len r base a w o} (h : MemOk s) : ResOk (s.store len r base a w o) := by
  unfold State.store
  split
  · exact trap_resOk h
  split
  · exact .next h
  split
  · have h1 := MemOk.of_eq (check_memOk h) ‹_›
    split
    · exact .next h1
    simp only
    split
    · exact trap_resOk (MemOk.of_eq (writePieces_memOk _ _ _ _ _ _ _ _ (MemOk.ite (release_memOk h1) h1)) ‹_›)
    have h2 := MemOk.of_eq (writePieces_memOk _ _ _ _ _ _ _ _ (MemOk.ite (release_memOk h1) h1)) ‹_›
    split
    · exact .next (MemOk.of_mem (adv_mem _ _) (memOk_foldl _ _ (fun _ _ hs => memOk_foldl _ _ (fun _ _ hs => writeBack_memOk _ _ _ hs) _ hs) _ h2))
    · exact .next (MemOk.of_mem (adv_mem _ _) h2)
  · exact failed_resOk (MemOk.of_eq (check_memOk h) ‹_›)

theorem State.loadLink_resOk {len rd base a w o} (h : MemOk s) : ResOk (s.loadLink len rd base a w o) := by
  unfold State.loadLink
  split
  · exact trap_resOk h
  split
  · exact trap_resOk h
  split
  · exact .next h
  split
  · have h1 := MemOk.of_eq (check_memOk h) ‹_›
    split
    · exact .next h1
    split
    · exact trap_resOk (MemOk.of_eq (readPieces_memOk _ _ _ _ _ h1) ‹_›)
    have h2 := MemOk.of_eq (readPieces_memOk _ _ _ _ _ h1) ‹_›
    exact .next (MemOk.of_mem (adv_mem _ _) (MemOk.of_mem (wx_mem _ _ _ _) (acqOf_memOk (MemOk.of_mem (setMe_mem _ _) (memOk_foldl _ _
        (fun _ _ hs => placeTag_memOk hs) _ (MemOk.of_mem (forgetBroken_mem _ _) h2))))))
  · exact failed_resOk (MemOk.of_eq (check_memOk h) ‹_›)

theorem State.storeCond_resOk {len rd rs2 base w o} (h : MemOk s) : ResOk (s.storeCond len rd rs2 base w o) := by
  unfold State.storeCond
  simp only
  split
  · exact trap_resOk h
  split
  · exact trap_resOk h
  split
  · exact .next h
  split
  · have h1 := MemOk.of_eq (check_memOk h) ‹_›
    split
    · exact .next h1
    split
    · split
      · exact .next (MemOk.of_mem (adv_mem _ _) (MemOk.of_mem (wx_mem _ _ _ _) (MemOk.of_mem (forgetBroken_mem _ _) (MemOk.of_mem (setMe_mem _ _)
            (writePieces_memOk _ _ _ _ _ _ _ _ (memOk_foldl _ _ (fun _ _ hs => evict_memOk _ _ _ hs) _ (release_memOk h1)))))))
      · exact .next (MemOk.of_mem (adv_mem _ _) (MemOk.of_mem (wx_mem _ _ _ _) (MemOk.of_mem (forgetBroken_mem _ _) (MemOk.of_mem (setMe_mem _ _)
            (memOk_foldl _ _ (fun _ _ hs => evict_memOk _ _ _ hs) _ (release_memOk h1))))))
    split
    · exact .next (MemOk.of_mem (adv_mem _ _) (MemOk.of_mem (wx_mem _ _ _ _) (MemOk.of_mem (forgetBroken_mem _ _) (MemOk.of_mem (setMe_mem _ _)
          (writePieces_memOk _ _ _ _ _ _ _ _ (memOk_foldl _ _ (fun _ _ hs => evict_memOk _ _ _ hs) _ h1))))))
    · exact .next (MemOk.of_mem (adv_mem _ _) (MemOk.of_mem (wx_mem _ _ _ _) (MemOk.of_mem (forgetBroken_mem _ _) (MemOk.of_mem (setMe_mem _ _)
          (memOk_foldl _ _ (fun _ _ hs => evict_memOk _ _ _ hs) _ h1)))))
  · exact failed_resOk (MemOk.of_eq (check_memOk h) ‹_›)

/-! ### Control flow and CSRs -/

theorem State.branch_resOk {rs1 rs2 off c} (h : MemOk s) : ResOk (s.branch rs1 rs2 off c) := by
  unfold State.branch
  split
  · exact trap_resOk h
  · exact ResOk.ite (.next (MemOk.of_mem (goto_mem _ _) h)) (.next (MemOk.of_mem (adv_mem _ _) h))

theorem State.doCall_resOk {target k} (h : MemOk s) : ResOk (s.doCall target k) := by
  unfold State.doCall
  split
  · exact .next h
  split
  · exact .next (MemOk.of_mem (goto_mem _ _) (MemOk.of_eq (pushFrame_memOk _ _ _ _ h) ‹_›))
  · exact .next (MemOk.of_eq (pushFrame_memOk _ _ _ _ h) ‹_›)
  · exact trap_resOk (MemOk.of_eq (pushFrame_memOk _ _ _ _ h) ‹_›)

theorem State.csrOp_resOk {rd csr new poisoned} (h : MemOk s) : ResOk (s.csrOp rd csr new poisoned) := by
  unfold State.csrOp
  simp only
  split
  · exact trap_resOk h
  split
  · exact trap_resOk h
  split
  · exact trap_resOk h
  split
  · exact .next h
  split
  · exact .next (MemOk.of_mem (adv_mem _ _) (MemOk.of_mem (wx_mem _ _ _ _) h))
  split
  · exact trap_resOk h
  split
  · exact trap_resOk h
  · exact .next (MemOk.of_mem (adv_mem _ _) (MemOk.of_mem (wx_mem _ _ _ _) (csrSet_memOk h)))

/-! ### Blocks and vector state -/

theorem State.queueBlock_resOk {i a} (h : MemOk s) : ResOk (s.queueBlock i a) := by
  unfold State.queueBlock
  simp only
  split
  · exact trap_resOk h
  split
  · exact trap_resOk h
  · exact ResOk.ite (.next (park_memOk h)) (.next (MemOk.of_mem (adv_mem _ _) (MemOk.of_mem (setMe_mem _ _) h)))

theorem State.smb_resOk {len xc xa strides off} (h : MemOk s) : ResOk (s.smb len xc xa strides off) := by
  unfold State.smb
  simp only
  split
  · exact trap_resOk h
  split
  · exact .next (MemOk.of_mem (goto_mem _ _) (memOk_foldl _ _ (fun _ _ hs => MemOk.of_mem (wx_mem _ _ _ _) hs) _ (MemOk.of_mem (wx_mem _ _ _ _) h)))
  · exact .next (MemOk.of_mem (adv_mem _ _) (memOk_foldl _ _ (fun _ _ hs => MemOk.of_mem (wx_mem _ _ _ _) hs) _ (MemOk.of_mem (wx_mem _ _ _ _) h)))

/-! ### Members of a convoy -/

theorem State.member_resOk {f} (h : MemOk s) : ResOk (s.member f) := by
  unfold State.member
  split
  · split
    · exact .next (MemOk.of_mem (setMe_mem _ _) h)
    · exact .next (convoyTrap_memOk _ _ _ h)
  · exact .next h

theorem State.va_resOk {g f} (h : MemOk s) : ResOk (s.va g f) := member_resOk h

/-! ### The probe pass -/

theorem State.probeList_memOk {ag want op f l} (h : MemOk s) : MemOk (s.probeList ag want op f l).1 := by
  induction l generalizing s with
  | nil => exact h
  | cons p t ih =>
    unfold State.probeList
    split
    · exact h
    split
    · exact MemOk.of_eq (check_memOk h) ‹_›
    · exact MemOk.of_eq (check_memOk h) ‹_›
    have h1 := MemOk.of_eq (check_memOk h) ‹_›
    split <;> exact MemOk.of_eq (ih h1) ‹_›

theorem State.probeMember_memOk {ag c op f alone} (h : MemOk s) : MemOk (s.probeMember ag c op f alone).1 := by
  unfold State.probeMember
  simp only
  split
  · exact h
  split
  · exact MemOk.of_eq (probeList_memOk h) ‹_›
  · exact MemOk.of_eq (probeList_memOk h) ‹_›
  have h1 := MemOk.of_eq (probeList_memOk h) ‹_›
  split
  · exact h1
  split
  · exact h1
  split
  · exact MemOk.of_eq (probeList_memOk h1) ‹_›
  · exact MemOk.of_eq (probeList_memOk h1) ‹_›
  · exact MemOk.ite_fst (MemOk.of_eq (probeList_memOk h1) ‹_›) (MemOk.of_eq (probeList_memOk h1) ‹_›)

theorem State.wmOne_memOk {sid waited op f es k} (h : MemOk s) : MemOk (s.wmOne sid waited op f es k).1 := by
  unfold State.wmOne
  simp only
  split
  · exact h
  split
  · exact MemOk.of_eq (check_memOk h) ‹_›
  · exact MemOk.of_eq (check_memOk h) ‹_›
  have h1 := MemOk.of_eq (check_memOk h) ‹_›
  split
  · exact MemOk.of_eq (readPieces_memOk _ _ _ _ _ h1) ‹_›
  have h2 := MemOk.of_eq (readPieces_memOk _ _ _ _ _ h1) ‹_›
  split
  · exact h2
  · exact MemOk.ite_fst h2 h2

theorem State.wmCheck_memOk {sid c op f} (h : MemOk s) : MemOk (s.wmCheck sid c op f).1 := by
  unfold State.wmCheck
  split
  · exact h
  refine memOk_foldl_fst _ _ (fun r x hr => ?_) _ h
  split
  · exact hr
  split
  · exact MemOk.of_eq (wmOne_memOk hr) ‹_›
  · exact wmOne_memOk hr

theorem State.convGoes_memOk {sid wm} (h : MemOk s) : MemOk (s.convGoes sid wm) :=
  MemOk.ite h (MemOk.of_mem (modStrand_mem _ _ _) (MemOk.ite (progress_memOk h) h))

theorem State.wmAcquire_memOk {p w} (h : MemOk s) : MemOk (s.wmAcquire p w) := by
  unfold State.wmAcquire
  split
  · exact memOk_foldl _ _ (fun _ _ hs => memOk_foldl _ _ (fun _ _ hs => evict_memOk _ _ _ hs) _ hs) _ h
  · exact h

/-! ### Supervisor instructions -/

theorem State.tinv_resOk {i scope dropR dropP names} (h : MemOk s) : ResOk (s.tinv i scope dropR dropP names) := by
  unfold State.tinv
  split
  · exact ResOk.ite (.next (MemOk.of_mem (adv_mem _ _) h)) (.next h)
  · exact ResOk.ite (.next (MemOk.of_mem (adv_mem _ _) h)) (.next (MemOk.of_mem (setMe_mem _ _) (park_memOk h)))

theorem State.lineOp_resOk {rs1 rs2 f} (h : MemOk s) (hf : ∀ s l, MemOk s → MemOk (f s l)) : ResOk (s.lineOp rs1 rs2 f) := by
  unfold State.lineOp
  simp only
  split
  · exact trap_resOk h
  split
  · exact trap_resOk h
  · exact ResOk.ite (.next h) (.next (MemOk.of_mem (adv_mem _ _) (eachLine_memOk h (fun _ _ hs => hf _ _ hs))))

theorem State.ownhint_resOk {rs1 toDev} (h : MemOk s) : ResOk (s.ownhint rs1 toDev) := by
  unfold State.ownhint
  split
  · exact trap_resOk h
  split
  · have h1 := MemOk.of_eq (xlate_memOk h) ‹_›
    simp only
    split
    · split
      · exact .next (MemOk.of_mem (adv_mem _ _) (startTransfer_memOk h1))
      · exact .next (MemOk.of_mem (adv_mem _ _) h1)
    split
    · exact .next (MemOk.of_mem (adv_mem _ _) (startTransfer_memOk h1))
    · exact .next (MemOk.of_mem (adv_mem _ _) h1)
  · exact .next (MemOk.of_mem (adv_mem _ _) (MemOk.of_eq (xlate_memOk h) ‹_›))

/-! ### Fences, barriers and waits -/

theorem State.waitOn_resOk {i rt a} (h : MemOk s) : ResOk (s.waitOn i rt a) := ResOk.ite (trap_resOk h) (.next (park_memOk h))

/-! ### Vector loads and stores -/

theorem runElems_memOk {g reply ps} (h : MemOk s) (hg : ∀ p s, MemOk s → MemOk (g p s).1) : MemOk (runElems g reply ps s).1 := by
  induction ps generalizing s reply with
  | nil => exact h
  | cons p t ih =>
    unfold runElems
    split
    · exact h
    split
    · exact ih (MemOk.of_eq (hg _ _ h) ‹_›)
    · exact MemOk.of_eq (hg _ _ h) ‹_›
    · exact MemOk.of_eq (hg _ _ h) ‹_›

theorem State.trimConvoy_memOk {vl} (h : MemOk s) : MemOk (s.trimConvoy vl) := by
  unfold State.trimConvoy
  simp only
  split <;> exact h

theorem State.memStart_resOk {op f go} (h : MemOk s) (hgo : ∀ s c ps, MemOk s → ResOk (go s c ps)) : ResOk (s.memStart op f go) := by
  unfold State.memStart
  split
  · simp only
    split
    · exact .next (convoyTrap_memOk _ _ _ h)
    split
    · exact ResOk.ite (.next h) (hgo _ _ _ h)
    split
    · exact .next (MemOk.of_mem (convWaits_mem _) (MemOk.of_eq (wmCheck_memOk h) ‹_›))
    · exact .next (convoyTrap_memOk _ _ _ (MemOk.of_eq (wmCheck_memOk h) ‹_›))
    have h1 := MemOk.of_eq (wmCheck_memOk h) ‹_›
    split
    · exact .next (MemOk.of_eq (probeMember_memOk (convGoes_memOk h1)) ‹_›)
    · exact .next (convoyTrap_memOk _ _ _ (MemOk.of_eq (probeMember_memOk (convGoes_memOk h1)) ‹_›))
    have h2 := MemOk.of_eq (probeMember_memOk (convGoes_memOk h1)) ‹_›
    split
    · exact .next (trimConvoy_memOk (MemOk.of_mem (modConv_mem _) h2))
    · exact ResOk.ite (.next (MemOk.of_mem (modConv_mem _) h2)) (hgo _ _ _ (MemOk.of_mem (modConv_mem _) h2))
  · exact .next h

theorem State.memDone_memOk {f c o} (h : MemOk s) : MemOk (s.memDone f c o) := MemOk.of_mem (setMe_mem _ _) (MemOk.ite (acquire_memOk h) h)

theorem State.loadElem_memOk {f c p} (h : MemOk s) : MemOk (State.loadElem f c p s).1 := by
  unfold State.loadElem
  split
  · have h1 := MemOk.of_eq (ownAgain_memOk h) ‹_›
    simp only
    split
    · exact MemOk.of_eq (readPieces_memOk _ _ _ _ _ (wmAcquire_memOk h1)) ‹_›
    have h2 := MemOk.of_eq (readPieces_memOk _ _ _ _ _ (wmAcquire_memOk h1)) ‹_›
    split <;> exact MemOk.of_mem (setMe_mem _ _) (MemOk.ite h2 h2)
  · exact ownAgain_memOk h

theorem State.stopMember_memOk {f store code addr p} (h : MemOk s) : MemOk (s.stopMember f store code addr p) := by
  unfold State.stopMember
  simp only
  split
  · exact convoyTrap_memOk _ _ _ (MemOk.of_mem (setMe_mem _ _) h)
  · exact h

theorem State.runLoad_resOk {f c reply ps} (h : MemOk s) : ResOk (s.runLoad f c reply ps) := by
  unfold State.runLoad
  split
  · have h1 := MemOk.of_eq (runElems_memOk h (fun _ _ hs => loadElem_memOk hs)) ‹_›
    exact .next (MemOk.of_mem (pendElems_mem _) h1)
  · exact .next (stopMember_memOk (MemOk.of_eq (runElems_memOk h (fun _ _ hs => loadElem_memOk hs)) ‹_›))
  have h1 := MemOk.of_eq (runElems_memOk h (fun _ _ hs => loadElem_memOk hs)) ‹_›
  split
  · exact .next (memDone_memOk h1)
  · exact .next h1

theorem State.vload_resOk {f} (h : MemOk s) : ResOk (s.vload f) := memStart_resOk h (fun _ _ _ hs => runLoad_resOk hs)

theorem State.writeTrailer_memOk {f q l} (h : MemOk s) : MemOk (s.writeTrailer f q l).1 := by
  induction l generalizing s with
  | nil => exact h
  | cons p t ih =>
    unfold State.writeTrailer
    split
    · exact ih (MemOk.of_eq (writePiece_memOk _ _ _ _ _ _ _ _ h) ‹_›)
    · exact writePiece_memOk _ _ _ _ _ _ _ _ h

theorem State.storeElem_memOk {op f c p} (h : MemOk s) : MemOk (State.storeElem op f c p s).1 := by
  unfold State.storeElem
  obtain ⟨k, hk⟩ : ∃ k, p.id - 2 ^ 20 = k := ⟨_, rfl⟩
  rw [hk]
  split
  · have h1 := MemOk.of_eq (ownAgain_memOk h) ‹_›
    split
    · split
      · split
        · exact MemOk.of_mem markPerformed_mem (MemOk.of_eq (writeTrailer_memOk h1) ‹_›)
        · exact MemOk.of_eq (writeTrailer_memOk h1) ‹_›
      · exact h1
    simp only
    split
    · exact MemOk.of_mem markPerformed_mem (MemOk.of_eq (writePieces_memOk _ _ _ _ _ _ _ _ h1) ‹_›)
    · exact MemOk.of_eq (writePieces_memOk _ _ _ _ _ _ _ _ h1) ‹_›
  · exact ownAgain_memOk h

theorem State.backProbes_memOk {ps} (h : MemOk s) : MemOk (s.backProbes ps) :=
  memOk_foldl _ _ (fun _ _ hs => memOk_foldl _ _ (fun _ _ hs => memOk_foldl _ _ (fun _ _ hs => writeBack_memOk _ _ _ hs) _ hs) _ hs) _ h

theorem State.runStore_resOk {op f c reply ps} (h : MemOk s) : ResOk (s.runStore op f c reply ps) := by
  unfold State.runStore
  split
  · have h1 := MemOk.of_eq (runElems_memOk h (fun _ _ hs => storeElem_memOk hs)) ‹_›
    exact .next (MemOk.of_mem (pendElems_mem _) h1)
  · exact .next (stopMember_memOk (MemOk.of_eq (runElems_memOk h (fun _ _ hs => storeElem_memOk hs)) ‹_›))
  have h1 := MemOk.of_eq (runElems_memOk h (fun _ _ hs => storeElem_memOk hs)) ‹_›
  split
  · exact .next (memDone_memOk (MemOk.ite (backProbes_memOk (clearCovered_memOk h1)) (clearCovered_memOk h1)))
  · exact .next h1

theorem State.relStart_memOk {f c} (h : MemOk s) : MemOk (s.relStart f c) := MemOk.ite (release_memOk h) h

theorem State.vstore_resOk {op f} (h : MemOk s) : ResOk (s.vstore op f) :=
  memStart_resOk h (fun _ _ _ hs => ResOk.ite (.next hs) (runStore_resOk (MemOk.of_mem (modConv_mem _) (relStart_memOk hs))))

/-! ### The matrix engine -/

theorem State.number_resOk {i rd k} (h : MemOk s) : ResOk (s.number i rd k) := by
  unfold State.number
  split
  · exact .next (park_memOk h)
  · exact .next (MemOk.of_mem (adv_mem _ _) (MemOk.of_mem (wx_mem _ _ _ _) (MemOk.of_mem (modMx_mem _ _ _) h)))

theorem State.mxForm_resOk {k} (h : MemOk s) (hk : ∀ s, MemOk s → ResOk (k s)) : ResOk (s.mxForm k) := by
  unfold State.mxForm
  split
  · exact profile_resOk h ‹_›
  · exact ResOk.ite (hk _ h) (trap_resOk h)

theorem State.checkRun_memOk {want a w len} (h : MemOk s) : MemOk (s.checkRun want a w len).1 := by
  unfold State.checkRun
  split
  · have h1 := MemOk.of_eq (check_memOk h) ‹_›
    split <;> exact h1
  · exact MemOk.of_eq (check_memOk h) ‹_›

theorem State.runsFind_memOk {want runs cs pages} (h : MemOk s) : MemOk (State.runsFind want runs s cs pages).1 := by
  induction runs generalizing s cs pages with
  | nil => exact h
  | cons p t ih =>
    unfold State.runsFind
    split <;> exact ih (MemOk.of_eq (checkRun_memOk h) ‹_›)

theorem State.checkRuns_memOk {want early runs} (h : MemOk s) : MemOk (s.checkRuns want early runs).1 := by
  unfold State.checkRuns
  simp only
  split <;> exact runsFind_memOk h

theorem State.checkRows_memOk {fmt w rows} (h : MemOk s) : MemOk (s.checkRows fmt w rows).1 := checkRuns_memOk h

theorem State.mldb_resOk {i rd fmt w1 cls rows} (h : MemOk s) : ResOk (s.mldb i rd fmt w1 cls rows) := by
  unfold State.mldb
  split
  · exact .next h
  split
  · exact failed_resOk (MemOk.of_eq (checkRows_memOk h) ‹_›)
  · exact number_resOk (MemOk.of_eq (checkRows_memOk h) ‹_›)

theorem State.row_resOk {i rd row slot pred} (h : MemOk s) : ResOk (s.row i rd row slot pred) :=
  mxForm_resOk h (fun _ hs => ResOk.ite (.next (park_memOk hs)) (number_resOk (MemOk.of_mem (modMx_mem _ _ _) hs)))

/-! ### Vector atomics -/

theorem State.dropOwn_memOk {ls} (h : MemOk s) : MemOk (s.dropOwn ls) := memOk_foldl _ _ (fun _ _ hs => evict_memOk _ _ _ hs) _ h

theorem State.amoElem_memOk {op f p} (h : MemOk s) : MemOk (s.amoElem op f p) := by
  unfold State.amoElem
  split
  · simp only
    split
    · exact MemOk.of_eq (readPieces_memOk _ _ _ _ _ h) ‹_›
    have h1 := MemOk.of_eq (readPieces_memOk _ _ _ _ _ h) ‹_›
    exact MemOk.of_mem (modConv_mem _) (MemOk.of_mem (setMe_mem _ _) (writePieces_memOk _ _ _ _ _ _ _ _ h1))
  · exact h

theorem State.amoRound_memOk {r left} (h : MemOk s) : MemOk (s.amoRound r left) := MemOk.ite h (MemOk.of_mem (modConv_mem _) (dropOwn_memOk h))

theorem State.amoReply_memOk {r left sent came t} (h : MemOk s) (e : s.amoReply r left sent came = some t) : MemOk t := by
  unfold State.amoReply at e
  simp only at e
  obtain ⟨p, _, rfl⟩ := Option.map_eq_some_iff.1 e
  exact MemOk.of_mem (modConv_mem _) (memOk_foldl _ _ (fun _ _ hs => placeTag_memOk hs) _ h)

theorem State.amoDone_memOk {f} (h : MemOk s) : MemOk (s.amoDone f) := by
  unfold State.amoDone
  simp only
  split
  · exact memDone_memOk (MemOk.of_mem (forgetBroken_mem _ _) h)
  · exact h

theorem State.amo_resOk {op f} (h : MemOk s) : ResOk (s.amo op f) :=
  memStart_resOk h (fun _ _ _ hs => ResOk.ite (.next hs) (.next (MemOk.ite (amoDone_memOk (MemOk.of_mem (modConv_mem _) (relStart_memOk hs)))
      (amoRound_memOk (MemOk.of_mem (modConv_mem _) (relStart_memOk hs))))))

theorem State.vwaitDone_memOk {f ps} (h : MemOk s) : MemOk (s.vwaitDone f ps) := by
  unfold State.vwaitDone
  split
  · exact memDone_memOk h
  · exact h

/-! ### Transfers between vector and matrix -/

theorem State.vtoaStart_resOk {f g} (h : MemOk s) : ResOk (s.vtoaStart f g) := by
  unfold State.vtoaStart
  simp only
  split
  · exact member_resOk h
  split
  · exact ResOk.ite (member_resOk (convGoes_memOk h)) (.next (MemOk.of_mem (convWaits_mem _) h))
  split
  · exact member_resOk (convGoes_memOk (MemOk.of_mem (modMx_mem _ _ _) h))
  · exact .next (MemOk.of_mem (convWaits_mem _) (MemOk.of_mem (modMx_mem _ _ _) h))

/-! ### Merges of sorted lists -/

theorem State.readKey_memOk {out a w} (h : MemOk s) : MemOk (s.readKey out a w).1 := by
  unfold State.readKey
  split
  · have h1 := MemOk.of_eq (check_memOk h) ‹_›
    split
    · exact h1
    · split <;> exact MemOk.of_eq (readPieces_memOk _ _ _ _ _ h1) ‹_›
  · exact MemOk.of_eq (check_memOk h) ‹_›

theorem State.headOf_memOk {held c w} (h : MemOk s) : MemOk (s.headOf held c w).1 := by
  unfold State.headOf
  split
  · exact h
  split
  · exact h
  · exact readKey_memOk h

theorem State.mergeStop_resOk {c a} (h : MemOk s) : ResOk (s.mergeStop c a) := by
  unfold State.mergeStop
  split
  · exact .next (convoyTrap_memOk _ _ _ h)
  · exact .next h

theorem State.mergeTake_resOk {f m} (h : MemOk s) : ResOk (s.mergeTake f m) := by
  unfold State.mergeTake
  simp only
  split
  · exact .next (MemOk.of_mem (setMe_mem _ _) h)
  split
  · have h1 := MemOk.of_eq (check_memOk h) ‹_›
    split
    · exact .next h1
    · exact .next (MemOk.of_mem markPerformed_mem (MemOk.of_mem (setMe_mem _ _) (writePieces_memOk _ _ _ _ _ _ _ _ h1)))
  · exact mergeStop_resOk (MemOk.of_eq (check_memOk h) ‹_›)

theorem State.merge_resOk {isect f} (h : MemOk s) : ResOk (s.merge isect f) := by
  unfold State.merge
  split
  · simp only
    split
    · exact mergeStop_resOk h
    split
    · exact .next (MemOk.of_mem (setMe_mem _ _) h)
    split
    · exact mergeStop_resOk (MemOk.of_eq (headOf_memOk h) ‹_›)
    have h1 := MemOk.of_eq (headOf_memOk h) ‹_›
    split
    · exact mergeStop_resOk (MemOk.of_eq (headOf_memOk (MemOk.of_mem (setMe_mem _ _) h1)) ‹_›)
    have h2 := MemOk.of_eq (headOf_memOk (MemOk.of_mem (setMe_mem _ _) h1)) ‹_›
    split
    · split
      · exact mergeStop_resOk (MemOk.of_eq (readKey_memOk (MemOk.of_mem (setMe_mem _ _) h2)) ‹_›)
      · exact mergeTake_resOk (MemOk.of_eq (readKey_memOk (MemOk.of_mem (setMe_mem _ _) h2)) ‹_›)
      · exact mergeTake_resOk (MemOk.of_eq (readKey_memOk (MemOk.of_mem (setMe_mem _ _) h2)) ‹_›)
    · exact mergeTake_resOk (MemOk.of_mem (setMe_mem _ _) h2)
  · exact .next h

end Sys2Proof.Machine
end

section
/-!
SUPPORT. Memory keeps its canonical form, part 2: convoys, launches, endings, streams, copy engines, migration, ownership, host commands and the ends of waits.
-/

namespace Sys2Proof.Machine
open State

variable {s t : State}

/-! ### Convoys -/

theorem State.scanFrom_memOk {ag c ms a i l} (h : MemOk s) : MemOk (s.scanFrom ag c ms a i l).1 := by
  induction l generalizing s a i with
  | nil => exact h
  | cons p t ih =>
    unfold State.scanFrom
    split
    · simp only
      split
      · exact h
      split
      · exact ih h
      split
      · exact MemOk.of_eq (probeMember_memOk h) ‹_›
      · exact MemOk.of_eq (probeMember_memOk h) ‹_›
      · exact ih (MemOk.of_eq (probeMember_memOk h) ‹_›)
    · exact ih h

theorem State.wmPass_memOk {sid c ms i l} (h : MemOk s) : MemOk (s.wmPass sid c ms i l).1 := by
  induction l generalizing s i with
  | nil => exact h
  | cons p t ih =>
    unfold State.wmPass
    split
    · simp only
      split
      · exact ih h
      · split <;> exact ih (wmCheck_memOk h)
    · exact ih h

theorem State.readAhead_memOk {ag op f c ps} (h : MemOk s) : MemOk (s.readAhead ag op f c ps).1 :=
  memOk_foldl_fst _ _ (fun _ _ hs => MemOk.ite (wmAcquire_memOk hs) hs) _ h

theorem State.aheadSlot_memOk {sid ms a i m} (h : MemOk s) : MemOk (s.aheadSlot sid ms a i m).1 := by
  unfold State.aheadSlot
  split
  · split
    · exact h
    split
    · exact h
    · split <;> exact h
  · simp only
    split
    · exact h
    split
    · exact MemOk.ite_fst h (MemOk.ite_fst (readAhead_memOk h) h)
    split
    · exact h
    split
    · exact MemOk.of_eq (wmCheck_memOk h) ‹_›
    · exact MemOk.of_eq (wmCheck_memOk h) ‹_›
    have h1 := MemOk.of_eq (wmCheck_memOk h) ‹_›
    split
    · exact MemOk.of_eq (probeMember_memOk h1) ‹_›
    · exact MemOk.of_eq (probeMember_memOk h1) ‹_›
    have h2 := MemOk.of_eq (probeMember_memOk h1) ‹_›
    exact MemOk.ite_fst h2 (MemOk.ite_fst h2 (MemOk.ite_fst (readAhead_memOk h2) h2))
  · split
    · exact h
    simp only
    split
    · exact h
    · split <;> exact h
  · exact h

theorem State.lookAhead_memOk {sid ms a i l} (h : MemOk s) : MemOk (s.lookAhead sid ms a i l).1 := by
  induction l generalizing s a i with
  | nil => exact h
  | cons p t ih =>
    unfold State.lookAhead
    split
    exact MemOk.ite_fst (MemOk.of_eq (aheadSlot_memOk h) ‹_›) (ih (MemOk.of_eq (aheadSlot_memOk h) ‹_›))

theorem State.probeLate_memOk {sid ms c probes n} (h : MemOk s) : MemOk (s.probeLate sid ms c probes n).1 := by
  induction n generalizing s c probes with
  | zero => exact h
  | succ n ih =>
    unfold State.probeLate
    split
    have h1 := MemOk.of_eq (lookAhead_memOk h) ‹_›
    split
    · exact h1
    · exact ih h1

theorem State.fetchMembers_memOk {ag a i n} (h : MemOk s) : MemOk (s.fetchMembers ag a i n).1 := by
  induction n generalizing s i with
  | zero => exact h
  | succ n ih =>
    unfold State.fetchMembers
    exact ih (fetchWords_memOk h)

theorem State.dataStage_memOk {sid b c hdr ws ms} (h : MemOk s) : MemOk (s.dataStage sid b c hdr ws ms).1 := by
  unfold State.dataStage
  simp only
  split
  · exact MemOk.of_eq (wmPass_memOk h) ‹_›
  have h1 := MemOk.of_eq (wmPass_memOk h) ‹_›
  split
  · split
    · exact scanFrom_memOk h1
    split
    · exact scanFrom_memOk h1
    · exact scanFrom_memOk h1
    split
    · split
      · exact scanFrom_memOk h1
      · split <;> exact scanFrom_memOk h1
    split
    · exact probeLate_memOk (scanFrom_memOk h1)
    split
    · exact probeLate_memOk (scanFrom_memOk h1)
    · split <;> exact probeLate_memOk (scanFrom_memOk h1)
  split
  · exact scanFrom_memOk h1
  split
  · exact scanFrom_memOk h1
  · exact scanFrom_memOk h1
  split
  · split
    · exact scanFrom_memOk h1
    · split <;> exact scanFrom_memOk h1
  split
  · exact probeLate_memOk (scanFrom_memOk h1)
  split
  · exact probeLate_memOk (scanFrom_memOk h1)
  · split <;> exact probeLate_memOk (scanFrom_memOk h1)

theorem State.checkConvoy_memOk {sid b} (h : MemOk s) : MemOk (s.checkConvoy sid b).1 := by
  unfold State.checkConvoy
  simp only
  split
  · exact MemOk.of_eq (fetchWords_memOk h) ‹_›
  have h1 := MemOk.of_eq (fetchWords_memOk h) ‹_›
  split
  · exact fetchMembers_memOk h1
  split
  · exact fetchMembers_memOk h1
  split
  · exact fetchMembers_memOk h1
  split
  · exact fetchMembers_memOk h1
  split
  · exact fetchMembers_memOk h1
  split
  · exact fetchMembers_memOk h1
  split
  · exact fetchMembers_memOk h1
  · exact MemOk.ite_fst (fetchMembers_memOk h1) (dataStage_memOk (fetchMembers_memOk h1))

theorem State.issueStrip_memOk {sid} (h : MemOk s) : MemOk (s.issueStrip sid) := by
  have hu : MemOk (({ s with cur := sid } : State).modStrand sid Strand.forward) := h
  unfold State.issueStrip
  generalize ({ s with cur := sid } : State).modStrand sid Strand.forward = u at hu ⊢
  simp only
  split
  · exact hu
  · split
    · have h1 := MemOk.of_eq (checkConvoy_memOk hu) ‹_›
      exact MemOk.ite h1 (MemOk.of_mem (modStrand_mem _ _ _) (convGoes_memOk h1))
    · exact convoyTrap_memOk _ _ _ (MemOk.of_eq (checkConvoy_memOk hu) ‹_›)
    · have h1 := MemOk.of_eq (checkConvoy_memOk hu) ‹_›
      exact MemOk.ite (takeMigrate_memOk h1) h1
    · exact MemOk.of_eq (checkConvoy_memOk hu) ‹_›
    · exact MemOk.of_mem (convWaits_mem _) (MemOk.of_eq (checkConvoy_memOk hu) ‹_›)
  · exact hu

theorem State.issueCharged_memOk {sid cost} (h : MemOk s) : MemOk (s.issueCharged sid cost) :=
  MemOk.ite (issueStrip_memOk h) (MemOk.of_mem (modStrand_mem _ _ _) (issueStrip_memOk h))

theorem State.amoLine_memOk {op f r left sent came} (h : MemOk s) : MemOk (s.amoLine op f r left sent came) := by
  unfold State.amoLine
  simp only
  split
  · exact MemOk.ite (amoDone_memOk h) h
  split
  · split
    · split
      · exact amoDone_memOk (memOk_foldl _ _ (fun _ _ hs => amoElem_memOk hs) _ h)
      split
      · exact amoRound_memOk (memOk_foldl _ _ (fun _ _ hs => amoElem_memOk hs) _ h)
      · exact MemOk.of_mem (modConv_mem _) (memOk_foldl _ _ (fun _ _ hs => amoElem_memOk hs) _ h)
    · exact MemOk.ite (amoDone_memOk h) (MemOk.ite (amoRound_memOk h) h)
  split
  · split
    · exact amoDone_memOk (memOk_foldl _ _ (fun _ _ hs => amoElem_memOk hs) _ h)
    split
    · exact amoRound_memOk (memOk_foldl _ _ (fun _ _ hs => amoElem_memOk hs) _ h)
    · exact MemOk.of_mem (modConv_mem _) (memOk_foldl _ _ (fun _ _ hs => amoElem_memOk hs) _ h)
  · exact MemOk.ite (amoDone_memOk h) (MemOk.ite (amoRound_memOk h) h)

theorem State.vwaitParts_memOk {p} (h : MemOk s) : MemOk (s.vwaitParts p).1 := MemOk.ite_fst (check_memOk h) h

theorem State.retireMx_memOk {sid c} (h : MemOk s) : MemOk (s.retireMx sid c) := MemOk.ite h h

/-! ### Copies issued -/

theorem State.checkComp_memOk {a} (h : MemOk s) : MemOk (s.checkComp a).1 := by
  unfold State.checkComp
  split
  · exact h
  split
  · exact MemOk.ite_fst (MemOk.of_eq (check_memOk h) ‹_›) (MemOk.of_eq (check_memOk h) ‹_›)
  · exact check_memOk h

theorem State.queueCopy_memOk {pc o} (h : MemOk s) : MemOk (s.queueCopy pc o).1 := h

theorem State.issueCopy_resOk {s0 i rd cx o} (h : MemOk s) (h0 : MemOk s0) : ResOk (s.issueCopy s0 i rd cx o) := by
  unfold State.issueCopy
  split
  · exact trap_resOk h
  split
  · exact .next (park_memOk h0)
  · exact .next (MemOk.of_mem (adv_mem _ _) (MemOk.of_mem (wx_mem _ _ _ _) (queueCopy_memOk (release_memOk h))))

theorem State.checkComps_memOk {ds} (h : MemOk s) : MemOk (s.checkComps ds).1 := by
  unfold State.checkComps
  refine memOk_foldl_fst _ _ (fun r x hr => ?_) _ h
  split
  · exact hr
  · exact checkComp_memOk hr

/-! ### Launches and new groups -/

theorem State.cpRead_memOk {ag a w} (h : MemOk s) : MemOk (s.cpRead ag a w).1 := by
  unfold State.cpRead
  split
  · exact MemOk.of_eq (check_memOk h) ‹_›
  · exact MemOk.of_eq (check_memOk h) ‹_›
  have h1 := MemOk.of_eq (check_memOk h) ‹_›
  split <;> exact MemOk.of_eq (readPieces_memOk _ _ _ _ _ h1) ‹_›

theorem State.cpCanWrite_memOk {ag a} (h : MemOk s) : MemOk (s.cpCanWrite ag a).1 := MemOk.ite_fst h (check_memOk h)

theorem State.cpWrite_memOk {ag v ps} (h : MemOk s) : MemOk (s.cpWrite ag v ps) := writePieces_memOk _ _ _ _ _ _ _ _ h

theorem State.startMatrix_memOk {n q k rebase} (h : MemOk s) : MemOk (s.startMatrix n q k rebase) := by
  unfold State.startMatrix
  split
  · split
    · exact modGroup_memOk (MemOk.of_mem (modMx_mem _ _ _) (MemOk.of_mem (modStrand_mem _ _ _) (MemOk.of_mem (start_mem _ _ _ _ _ _ _ _) h)))
    · exact h
  · exact h

theorem State.createGroup_memOk {gn q k a} (h : MemOk s) : MemOk (s.createGroup gn q k a) :=
  startMatrix_memOk (memOk_foldl _ _ (fun _ _ hs => MemOk.of_mem (start_mem _ _ _ _ _ _ _ _) hs) _ (MemOk.of_mem (setGang_mem _ _ _) (MemOk.of_mem
      (setGroup_mem _ _ _) (acqCache_memOk _ _ _ _ h))))

-- Unfolding one round evaluates the search over 1,024 cores, hence the depth.
set_option maxRecDepth 4000 in
theorem State.placeAll_succ (s : State) (gn n : Nat) : s.placeAll gn (n + 1) =
    (match s.gang? gn with
    | none => none
    | some q =>
      match s.chooseCore q.need q.origin with
      | none => none
      | some k => (s.fresh.2.createGroup gn q k (windowBase s.fresh.1)).placeAll gn n) := rfl

theorem State.placeAll_memOk {gn n t} (h : MemOk s) (e : s.placeAll gn n = some t) : MemOk t := by
  induction n generalizing s with
  | zero =>
    cases e
    exact h
  | succ n ih =>
    rw [State.placeAll_succ] at e
    split at e
    · cases e
    split at e
    · cases e
    · exact ih (createGroup_memOk (s := s.fresh.2) h) e

theorem State.mayWrite_memOk {ag a} (h : MemOk s) : MemOk (s.mayWrite ag a).1 := MemOk.ite_fst h (cpCanWrite_memOk h)

theorem State.judge_memOk {u l} (h : MemOk s) : MemOk (s.judge u l).1 := by
  unfold State.judge
  simp only
  split
  · exact h
  split
  · exact MemOk.of_eq (cpRead_memOk h) ‹_›
  · exact MemOk.of_eq (cpRead_memOk h) ‹_›
  have h1 := MemOk.of_eq (cpRead_memOk h) ‹_›
  split
  · exact h1
  split
  · exact MemOk.of_eq (cpRead_memOk h1) ‹_›
  · exact MemOk.of_eq (cpRead_memOk h1) ‹_›
  have h2 := MemOk.of_eq (cpRead_memOk h1) ‹_›
  split
  · exact MemOk.of_eq (mayWrite_memOk h2) ‹_›
  · exact MemOk.of_eq (mayWrite_memOk h2) ‹_›
  have h3 := MemOk.of_eq (mayWrite_memOk h2) ‹_›
  split <;> exact MemOk.of_eq (mayWrite_memOk h3) ‹_›

/-! ### Groups that end -/

theorem State.stopStrand_memOk {sid} (h : MemOk s) : MemOk (s.stopStrand sid) :=
  MemOk.of_mem (modStrand_mem _ _ _) (MemOk.of_mem (unwind_mem _ _) h)

theorem State.endGroup_memOk {n kind} (h : MemOk s) : MemOk (s.endGroup n kind) := by
  unfold State.endGroup
  split
  · exact h
  split
  · exact modGang_memOk (MemOk.of_mem (setGroup_mem _ _ _) (memOk_foldl _ _ (fun _ _ hs => stopStrand_memOk hs) _ h))
  · exact modGang_memOk (MemOk.of_mem (setGroup_mem _ _ _) (memOk_foldl _ _ (fun _ _ hs => stopStrand_memOk hs) _ h))
  · exact modGang_memOk (MemOk.of_mem (setGroup_mem _ _ _) h)
  · exact h
  · exact h

theorem State.killGang_memOk {gn} (h : MemOk s) : MemOk (s.killGang gn) := memOk_foldl _ _ (fun _ _ hs => endGroup_memOk hs) _ (modGang_memOk h)

theorem State.killWhole_memOk {gn} (h : MemOk s) : MemOk (s.killWhole gn) := modGang_memOk (killGang_memOk h)

theorem State.teardown_memOk {n g} (h : MemOk s) : MemOk (s.teardown n g) :=
  MemOk.of_mem (setGroup_mem _ _ _) (MemOk.of_mem (resetMatrix_mem _ _ _) (zeroUnits_memOk _ _ _ (cleanCore_memOk _ _ (memOk_foldl _ _
      (fun _ _ hs => MemOk.of_mem (freeContext_mem _ _) hs) _ h))))

/-! ### Streams -/

theorem State.nextRecord_memOk {d n} (h : MemOk s) : MemOk (s.nextRecord d n).1 := by
  unfold State.nextRecord
  split
  · exact h
  split
  · exact h
  split
  · have h1 := MemOk.of_eq (cpRead_memOk h) ‹_›
    simp only
    split
    · exact h1
    split
    · exact MemOk.ite_fst (MemOk.of_eq (cpRead_memOk h1) ‹_›) (MemOk.of_eq (cpRead_memOk h1) ‹_›)
    · exact MemOk.of_eq (cpRead_memOk h1) ‹_›
  · exact MemOk.of_eq (cpRead_memOk h) ‹_›

theorem State.putCtl_memOk {d x word v} (h : MemOk s) : MemOk (s.putCtl d x word v) := by
  unfold State.putCtl
  split
  · exact cpWrite_memOk (MemOk.of_eq (cpCanWrite_memOk h) ‹_›)
  · exact MemOk.of_eq (cpCanWrite_memOk h) ‹_›

theorem State.cmdDone_memOk {d n x read} (h : MemOk s) : MemOk (s.cmdDone d n x read) := MemOk.of_mem (setStream_mem _ _ _) (putCtl_memOk h)

theorem State.cmdError_memOk {d n x code status} (h : MemOk s) : MemOk (s.cmdError d n x code status) :=
  MemOk.of_mem (setStream_mem _ _ _) (putCtl_memOk h)

theorem State.streamStart_resOk {d n op f} (h : MemOk s) (hf : ∀ s x c r, MemOk s → MemOk (f s x c r)) : ResOk (s.streamStart d n op f) := by
  unfold State.streamStart
  split
  · exact .next (MemOk.of_eq (nextRecord_memOk h) ‹_›)
  have h1 := MemOk.of_eq (nextRecord_memOk h) ‹_›
  exact ResOk.ite (.next (MemOk.ite (hf _ _ _ _ h1) (cmdError_memOk h1))) (.next h1)

theorem State.launchDone_memOk {d n x read u code ps} (h : MemOk s) : MemOk (s.launchDone d n x read u code ps) :=
  MemOk.ite (cmdDone_memOk (cpWrite_memOk h)) (cmdError_memOk (cpWrite_memOk h))

theorem execStreamCommandComplete_resOk {die stream} (h : MemOk s) : ResOk (execStreamCommandComplete die stream s) := by
  unfold execStreamCommandComplete
  split
  · exact .next h
  split
  · have h1 := MemOk.of_eq (MemOk.ite_fst (cpRead_memOk h) h) ‹_›
    simp only
    split
    · exact .next h1
    split
    · split
      · split
        · split
          · exact .next (MemOk.of_eq (mayWrite_memOk h1) ‹_›)
          · exact .next (launchDone_memOk (MemOk.of_eq (mayWrite_memOk h1) ‹_›))
          · exact .next (launchDone_memOk (MemOk.of_eq (mayWrite_memOk h1) ‹_›))
        · exact .next h1
      · exact .next h1
    · exact ResOk.ite (.next h1) (ResOk.ite (.next (cmdError_memOk h1)) (.next (cmdDone_memOk h1)))
    · split
      · have h2 := MemOk.of_eq (cpRead_memOk h1) ‹_›
        exact ResOk.ite (.next (cmdDone_memOk h2)) (.next h2)
      · exact .next (MemOk.of_eq (cpRead_memOk h1) ‹_›)
    · exact ResOk.ite (.next (cmdDone_memOk h1)) (.next h1)
  · exact .next (MemOk.of_eq (MemOk.ite_fst (cpRead_memOk h) h) ‹_›)

theorem State.heedNow_memOk {u} (h : MemOk s) : MemOk (s.heedNow u).1 := by
  unfold State.heedNow
  split
  · split <;> exact MemOk.of_eq (cpRead_memOk h) ‹_›
  · exact h

theorem State.answered_resOk {u code gang} (h : MemOk s) : ResOk (s.answered u code gang) := by
  unfold State.answered
  simp only
  split
  · exact .next (MemOk.of_mem (answer_mem _ _ _) h)
  · exact execStreamCommandComplete_resOk (MemOk.of_mem (answer_mem _ _ _) h)

/-! ### Copy engines -/

theorem State.engineCheck_memOk {ag o want a w} (h : MemOk s) : MemOk (s.engineCheck ag o want a w).1 := by
  unfold State.engineCheck
  split
  · have h1 := MemOk.of_eq (check_memOk h) ‹_›
    split <;> exact h1
  · exact check_memOk h

theorem State.checkSide_memOk {ag o want l} (h : MemOk s) : MemOk (s.checkSide ag o want l).1 := by
  induction l generalizing s with
  | nil => exact h
  | cons p t ih =>
    unfold State.checkSide
    split
    · have h1 := MemOk.of_eq (engineCheck_memOk h) ‹_›
      split
      · exact MemOk.of_eq (ih h1) ‹_›
      · exact ih h1
    · exact MemOk.of_eq (engineCheck_memOk h) ‹_›

theorem State.checkChunk_memOk {ag o src dst k} (h : MemOk s) : MemOk (s.checkChunk ag o src dst k).1 := by
  unfold State.checkChunk
  simp only
  split
  · exact MemOk.of_eq (MemOk.ite_fst (checkSide_memOk h) h) ‹_›
  have h1 := MemOk.of_eq (MemOk.ite_fst (checkSide_memOk h) h) ‹_›
  split <;> exact MemOk.of_eq (MemOk.ite_fst (checkSide_memOk h1) h1) ‹_›

theorem State.copyCheck_memOk {ag o src dst l} (h : MemOk s) : MemOk (s.copyCheck ag o src dst l).1 := by
  induction l generalizing s with
  | nil => exact h
  | cons p t ih =>
    unfold State.copyCheck
    split
    · exact ih (MemOk.of_eq (checkChunk_memOk h) ‹_›)
    · exact MemOk.of_eq (checkChunk_memOk h) ‹_›

theorem State.unitMask_memOk {mixed} (h : MemOk s) : MemOk (s.unitMask mixed).1 := by
  unfold State.unitMask
  refine MemOk.ite_fst (memOk_foldl_fst _ _ (fun r i hr => ?_) _ h) h
  exact hr

theorem moveUnit_memOk {ag cls mixed r ps qs} (h : MemOk r.1) : MemOk (moveUnit ag cls mixed r ps qs).1 :=
  writeArea_memOk (readArea_memOk (unitMask_memOk (readArea_memOk h)))

theorem moveChunk_memOk {ag cls mixed r ps} (h : MemOk r.1) : MemOk (moveChunk ag cls mixed r ps).1 :=
  memOk_foldl_fst _ _ (fun _ _ hr => memOk_foldl_fst _ _ (fun _ _ hq => moveUnit_memOk hq) _ hr) _ h

theorem runChunks_memOk {ag o dst mixed l r} (h : MemOk r.1) : MemOk (runChunks ag o dst mixed l r).1.1 := by
  induction l generalizing r with
  | nil => exact h
  | cons k t ih =>
    unfold runChunks
    split
    · have h1 := MemOk.of_eq (checkChunk_memOk h) ‹_›
      exact ih (moveChunk_memOk h1)
    · exact MemOk.of_eq (checkChunk_memOk h) ‹_›

theorem State.movePayload_memOk {ag o dst ks mixed} (h : MemOk s) : MemOk (s.movePayload ag o dst ks mixed).1 :=
  clearCovered_memOk (runChunks_memOk h)

theorem takeSeg_memOk {ag cls off r ps} (h : MemOk r.1) : MemOk (takeSeg ag cls off r ps).1 := by
  unfold takeSeg
  refine memOk_foldl_fst _ _ (fun r x hr => ?_) _ h
  split <;> exact MemOk.of_eq (readPiece_memOk _ _ _ _ _ hr) ‹_›

theorem eachSeg_memOk {β : Type} {g : Nat → State × β → List Piece → State × β} {off l r} (h : MemOk r.1)
    (hg : ∀ off r ps, MemOk r.1 → MemOk (g off r ps).1) : MemOk (eachSeg g off l r).1 := by
  induction l generalizing off r with
  | nil => exact h
  | cons ps t ih => exact ih (hg _ _ _ h)

theorem State.gather_memOk {ag l r} (h : MemOk r.1) : MemOk (State.gather ag l r).1.1 := by
  induction l generalizing r with
  | nil => exact h
  | cons k t ih =>
    unfold State.gather
    split
    · have h1 := MemOk.of_eq (checkChunk_memOk h) ‹_›
      exact ih (eachSeg_memOk h1 fun _ _ _ hr => takeSeg_memOk hr)
    · exact MemOk.of_eq (checkChunk_memOk h) ‹_›

theorem giveSeg_memOk {ag o mixed off r ps} (h : MemOk r.1) : MemOk (giveSeg ag o mixed off r ps).1 := by
  unfold giveSeg
  refine memOk_foldl_fst _ _ (fun r x hr => ?_) _ h
  refine memOk_foldl_fst _ _ (fun r x hr => ?_) _ (readArea_memOk (unitMask_memOk hr))
  exact writePiece_memOk _ _ _ _ _ _ _ _ hr

theorem State.scatter_memOk {ag o dst mixed l r} (h : MemOk r.1) : MemOk (State.scatter ag o dst mixed l r).1.1 := by
  induction l generalizing r with
  | nil => exact h
  | cons k t ih =>
    unfold State.scatter
    split
    · have h1 := MemOk.of_eq (checkChunk_memOk h) ‹_›
      exact ih (eachSeg_memOk h1 fun _ _ _ hr => giveSeg_memOk hr)
    · exact MemOk.of_eq (checkChunk_memOk h) ‹_›

theorem State.deliver_memOk {ag o dst ks mixed} (h : MemOk s) : MemOk (s.deliver ag o dst ks mixed).1 :=
  clearCovered_memOk (scatter_memOk h)

theorem State.complete_memOk {ag o comp} (h : MemOk s) : MemOk (s.complete ag o comp).1 := by
  unfold State.complete
  split
  · exact h
  split
  · exact cpWrite_memOk (MemOk.of_eq (check_memOk h) ‹_›)
  · exact check_memOk h

theorem State.persistRange_memOk {ag o} (h : MemOk s) : MemOk (s.persistRange ag o).1 := by
  unfold State.persistRange
  split
  · exact h
  simp only
  split
  · exact xlateParts_memOk h
  split
  · exact xlateParts_memOk h
  · split <;> exact xlateParts_memOk h

theorem State.copyFault_memOk {pc o k c v} (h : MemOk s) : MemOk (s.copyFault pc o k c v) := h

theorem State.runCopy_memOk {pc o d} (h : MemOk s) : MemOk (s.runCopy pc o d).1 := by
  unfold State.runCopy
  simp only
  split
  · exact copyFault_memOk (MemOk.of_eq (movePayload_memOk h) ‹_›)
  · exact MemOk.of_mem (setCopyCtx_mem _ _) (MemOk.of_eq (movePayload_memOk h) ‹_›)
  have h1 := MemOk.of_eq (movePayload_memOk h) ‹_›
  split
  · exact h1
  · split <;> exact MemOk.of_mem (setCopyCtx_mem _ _) (MemOk.of_eq (complete_memOk h1) ‹_›)

theorem State.failDest_memOk {pc o i d hi cause} (h : MemOk s) : MemOk (s.failDest pc o i d hi cause) :=
  MemOk.of_mem (setCopyCtx_mem _ _) (deliver_memOk h)

theorem State.mcBefore_memOk {pc hi mixed l} (h : MemOk s) : MemOk (s.mcBefore pc hi mixed l).1 := by
  induction l generalizing s with
  | nil => exact h
  | cons p t ih =>
    unfold State.mcBefore
    split
    · exact h
    split
    · exact ih h
    split
    · exact ih h
    simp only
    split
    · exact ih (deliver_memOk (MemOk.of_eq (copyCheck_memOk h) ‹_›))
    · exact ih (failDest_memOk (MemOk.of_eq (copyCheck_memOk h) ‹_›))
    · exact MemOk.of_eq (copyCheck_memOk h) ‹_›

theorem State.mcFault_memOk {pc o k c v} (h : MemOk s) : MemOk (s.mcFault pc o k c v) := by
  unfold State.mcFault
  simp only
  split
  · exact MemOk.of_eq (mcBefore_memOk (MemOk.of_mem (setCopyCtx_mem _ _) h)) ‹_›
  have h1 := MemOk.of_eq (mcBefore_memOk (MemOk.of_mem (setCopyCtx_mem _ _) h)) ‹_›
  exact MemOk.of_mem (setCopyCtx_mem _ _) (MemOk.ite (leaveFailed_memOk h1) h1)

theorem State.rredElem_memOk {x} (h : MemOk s) : MemOk (s.rredElem x) := homeWrite_memOk _ _ _ _ _ h

/-! ### Groups that move -/

theorem State.joinBars_memOk {g} (h : MemOk s) : MemOk (s.joinBars g) := by
  unfold State.joinBars
  refine memOk_foldl _ _ (fun s x hs => ?_) _ h
  simp only
  split
  · exact hs
  · exact MemOk.ite (putBar_memOk hs) (putBar_memOk (MemOk.ite (barProgress_memOk hs) hs))

/-- t's memory is canonical where s's is: MemOk kept, as a definition of its own, so that the kernel compares two such claims by their states and
does not run the writes. -/
def MemKept (s t : State) : Prop := MemOk s → MemOk t

theorem MemKept.foldl {α : Type} (f : State → α → State) (h : ∀ s x, MemKept s (f s x)) (l : List α) (s : State) : MemKept s (l.foldl f s) :=
  memOk_foldl f l h s

theorem State.homeWrite_memKept (s : State) (fa w v : Nat) (p : Bool) : MemKept s (s.homeWrite fa w v p) := s.homeWrite_memOk fa w v p

theorem State.restoreImage_memKept {g : Group} {k : Nat} {units : List Nat} : MemKept s (s.restoreImage g k units) :=
  .foldl _ (fun t _ => .foldl _ (fun t _ => t.homeWrite_memKept _ _ _ _) _ t) _ s

theorem State.restoreImage_memOk {g k units} (h : MemOk s) : MemOk (s.restoreImage g k units) := restoreImage_memKept h

theorem State.resumeMatrix_memOk {n g q k rebase} (h : MemOk s) : MemOk (s.resumeMatrix n g q k rebase) := by
  unfold State.resumeMatrix
  split
  · exact modGroup_memOk h
  split
  · exact h
  split
  · exact modGroup_memOk (MemOk.of_mem (modMx_mem _ _ _) (MemOk.of_mem (modStrand_mem _ _ _) h))
  · exact startMatrix_memOk h

theorem State.restoreStrands_memOk {ts sids off} (h : MemOk s) : MemOk (s.restoreStrands ts sids off) :=
  memOk_foldl _ _ (fun _ _ hs => MemOk.of_mem (modStrand_mem _ _ _) hs) _ h

theorem State.resumeStorage_memOk {g k} (h : MemOk s) : MemOk (s.resumeStorage g k) :=
  restoreImage_memOk (restoreStrands_memOk (acqCache_memOk _ _ _ _ h))

theorem State.resumePlaced_memOk {n g k} (h : MemOk s) : MemOk (s.resumePlaced n g k) := by
  have hu := resumeStorage_memOk (g := g) (k := k) h
  unfold State.resumePlaced
  generalize s.resumeStorage g k = u at hu
  exact MemOk.of_mem (setGroup_mem _ _ _) (writeRecord_memOk _ _ _ _ hu)

theorem State.resumeEnds_memOk {n g k} (h : MemOk s) : MemOk (s.resumeEnds n g k) := by
  unfold State.resumeEnds
  exact MemOk.ite (joinBars_memOk h) (joinBars_memOk h)

theorem State.resume_memOk {n g q k} (h : MemOk s) : MemOk (s.resume n g q k) := by
  rw [resume_eq]
  exact resumeEnds_memOk (resumeMatrix_memOk (resumePlaced_memOk h))

/-! ### Ownership of regions -/

theorem State.regionBack_memOk {region} (h : MemOk s) : MemOk (s.regionBack region) :=
  memOk_foldl _ _ (fun _ _ hs => memOk_foldl _ _ (fun _ _ hs => evict_memOk _ _ _ hs) _ hs) _ h

theorem State.hostWord_memOk {byte n} (h : MemOk s) : MemOk (s.hostWord byte n) := by
  unfold State.hostWord
  simp only
  exact MemOk.ite h h

/-! ### What fyv asks -/

theorem State.strandsOf_memOk {g} (h : MemOk s) : MemOk (s.strandsOf g).1 := by
  unfold State.strandsOf
  simp only
  split
  · split
    · exact MemOk.of_mem (setStrand_mem _ _ _) (MemOk.of_mem (modMx_mem _ _ _) (memOk_foldl _ _ (fun _ _ hs => MemOk.of_mem (setStrand_mem _ _ _) hs) _ h))
    · exact h
  split
  · exact MemOk.of_mem (modMx_mem _ _ _) (memOk_foldl _ _ (fun _ _ hs => MemOk.of_mem (setStrand_mem _ _ _) hs) _ h)
  · exact h

/-! ### Gangs and the matrix engine's rows -/

theorem State.readSource_memOk {ag cls fmt w N r pages} (h : MemOk s) : MemOk (s.readSource ag cls fmt w N r pages).1 := by
  unfold State.readSource
  refine memOk_foldl_fst _ _ (fun r x hr => ?_) _ h
  exact readArea_memOk hr

theorem State.readRows_memOk {ag cls fmt w N pages l} (h : MemOk s) : MemOk (s.readRows ag cls fmt w N pages l).1 := by
  induction l generalizing s with
  | nil => exact h
  | cons r t ih =>
    cases r with
    | none => exact ih h
    | some r => exact ih (readSource_memOk h)

/-! ### Commands of the host -/

theorem State.command_resOk {fn f} (h : MemOk s) (hf : ∀ s, MemOk s → MemOk (f s)) : ResOk (s.command fn f) :=
  ResOk.ite (.next h) (ResOk.ite (.next (MemOk.of_mem (reply_mem _ _) h)) (.next (hf _ h)))

theorem State.commandOr_resOk {fn i f} (h : MemOk s) (hf : ∀ s, MemOk s → MemOk (f s).1) : ResOk (s.commandOr fn i f) := by
  unfold State.commandOr
  split
  · refine .next ?_
    split
    all_goals
      have h1 := MemOk.of_eq (hf s h) ‹_›
      exact h1
  · refine command_resOk h fun s hs => ?_
    split
    all_goals
      have h1 := MemOk.of_eq (hf s hs) ‹_›
      exact h1

theorem State.pushAgain_memOk {k} (h : MemOk s) : MemOk (s.pushAgain k) := memOk_foldl _ _ (fun _ _ hs => MemOk.of_mem (pushNotice_mem _ _) hs) _ h

theorem State.dropSupervisor_memOk {k} (h : MemOk s) : MemOk (s.dropSupervisor k) := endSupervisor_memOk s k 0 h

/-! ### Bring-up, resets and errors -/

theorem State.writeList_memOk {pa l} (h : MemOk s) : MemOk (s.writeList pa l) := homeWrite_memOk _ _ _ _ _ h

theorem bringUpDie_memOk {b d} (h : MemOk s) : MemOk (bringUpDie b s d) := writeList_memOk (MemOk.of_mem (modDie_mem _ _ _) h)

theorem State.resetCore_memOk {k failed} (h : MemOk s) : MemOk (s.resetCore k failed) := by
  have h1 := cleanCore_memOk s k h
  unfold State.resetCore
  refine memOk_foldl _ _ (fun s x hs => ?_) _ ?_
  · exact hs
  · exact h1

/-! ### The ends of waits -/

theorem State.endWait_resOk {sid limit f} (h : MemOk s) (hf : ∀ i g, f i = some g → ∀ s, MemOk s → ResOk (g s)) :
    ResOk (s.endWait sid limit f) := by
  unfold State.endWait
  split
  · exact .next h
  split
  · exact .next h
  rename_i g e
  refine ResOk.ite (.next h) ?_
  simp only
  split
  · rename_i e'
    refine ResOk.ite (.next h) ?_
    rw [← e']
    exact hf _ g e _ h
  · exact hf _ g e _ h

/-! ### Fetch and the scheduler -/

theorem State.fetchScalar_memOk {sid} (h : MemOk s) : MemOk (s.fetchScalar sid).1 := by
  unfold State.fetchScalar
  simp only
  split
  · exact MemOk.of_eq (fetch32_memOk h) ‹_›
  have h1 := MemOk.of_eq (fetch32_memOk h) ‹_›
  split
  · split <;> exact MemOk.of_eq (fetch32_memOk h1) ‹_›
  · exact h1

theorem State.arrived_memOk {old : State} (h : MemOk s) : MemOk (old.arrived s) := by
  unfold State.arrived
  exact MemOk.ite h (memOk_foldl _ _ (fun _ _ hs => MemOk.of_mem (modCore_mem _ _ _) hs) _ h)

theorem State.watch_resOk {r} (h : ResOk r) : ResOk (s.watch r) := by
  cases r with
  | next t => exact .next (arrived_memOk h.memOk)
  | fault r => exact h
  | refused r => exact h

/-! ### Convoys -/

theorem State.among_resOk {sid f} (h : MemOk s) (hf : ∀ s, MemOk s → ResOk (f s)) : ResOk (s.among sid f) := by
  cases e : s.among sid f with
  | next t =>
    refine .next (State.among_memOk h (fun q u hq hu => ?_) e)
    have hr := hf q hq
    rw [hu] at hr
    exact hr.memOk
  | fault r => exact .fault r
  | refused r => exact .refused r

end Sys2Proof.Machine
end

section
/-!
SUPPORT. Memory keeps its canonical form, part 3: each instruction and event that is more than a call of a shared operation.
-/

namespace Sys2Proof.Machine
open State

variable {s t : State}

theorem guarded_resOk {o : Option Res} {q : Res} : (∀ r, o = some r → ResOk r) → ResOk q →
    ResOk (match o with
      | some r => r
      | none => q) := by
  intro ho hq
  cases o with
  | some r => exact ho r rfl
  | none => exact hq

theorem MemOk.getD {o : Option State} (ho : ∀ t, o = some t → MemOk t) (h : MemOk s) : MemOk (o.getD s) := by
  cases o with
  | none => exact h
  | some t => exact ho t rfl

theorem MemOk.of_eq_fst {α β : Type} {r : (State × α) × β} {x : α} {y : β} (h : MemOk r.1.1) (e : r = ((t, x), y)) : MemOk t := by
  rwa [e] at h

/-! ### Ownership of regions -/

theorem State.hostTransfer_memOk {byte} (h : MemOk s) : MemOk (s.hostTransfer byte) := startTransfer_memOk h

/-! ### Traps and takeovers -/

theorem State.tryTrap_memOk {sid a c} (h : MemOk s) : MemOk (s.tryTrap sid a c).1 := takeTrap_memOk _ _ _ _ h

/-! ### Scalar arithmetic -/

theorem State.alu1_resOk {rd rs1 f} (h : MemOk s) : ResOk (s.alu1 rd rs1 f) := .next h

theorem State.alu2_resOk {rd rs1 rs2 f} (h : MemOk s) : ResOk (s.alu2 rd rs1 rs2 f) := .next h

theorem execLui_resOk {rd imm} (h : MemOk s) : ResOk (execLui rd imm s) := .next (MemOk.of_mem (adv_mem _ _) (MemOk.of_mem (wx_mem _ _ _ _) h))

theorem execApc_resOk {rd imm} (h : MemOk s) : ResOk (execApc rd imm s) := .next (MemOk.of_mem (adv_mem _ _) (MemOk.of_mem (wx_mem _ _ _ _) h))

theorem execLi_resOk {rd imm} (h : MemOk s) : ResOk (execLi rd imm s) := .next (MemOk.of_mem (adv_mem _ _) (MemOk.of_mem (wx_mem _ _ _ _) h))

theorem execAddiL_resOk {rd rs1 imm} (h : MemOk s) : ResOk (execAddiL rd rs1 imm s) :=
  .next (MemOk.of_mem (adv_mem _ _) (MemOk.of_mem (wx_mem _ _ _ _) h))

/-! ### Control flow and CSRs -/

theorem execJ_resOk {off} (h : MemOk s) : ResOk (execJ off s) := .next (MemOk.of_mem (goto_mem _ _) h)

theorem execJr_resOk {rs1 imm} (h : MemOk s) : ResOk (execJr rs1 imm s) :=
  ResOk.ite (trap_resOk h) (ResOk.ite (.next (MemOk.of_mem (goto_mem _ _) h)) (trap_resOk h))

theorem execCallr_resOk {k rs1 imm} (h : MemOk s) : ResOk (execCallr k rs1 imm s) :=
  ResOk.ite (trap_resOk h) (ResOk.ite (doCall_resOk h) (trap_resOk h))

theorem execRet_resOk (h : MemOk s) : ResOk (execRet s) := by
  unfold execRet
  split
  · exact .next h
  split
  · exact .next (MemOk.of_eq (popFrame_memOk _ _ h) ‹_›)
  · exact .next (MemOk.of_eq (popFrame_memOk _ _ h) ‹_›)
  · exact trap_resOk (MemOk.of_eq (popFrame_memOk _ _ h) ‹_›)

/-! ### Blocks and vector state -/

theorem execSetvl_resOk {rd rs1 ew} (h : MemOk s) : ResOk (execSetvl rd rs1 ew s) := by
  unfold execSetvl
  simp only
  split
  · exact trap_resOk (MemOk.of_mem (setMe_mem _ _) h)
  split
  · exact trap_resOk h
  split
  · exact .next (park_memOk h)
  · exact .next (MemOk.of_mem (adv_mem _ _) (MemOk.of_mem (wx_mem _ _ _ _) (MemOk.of_mem (setMe_mem _ _) h)))

theorem execSetvlK_resOk {rd rs1 ew} (h : MemOk s) : ResOk (execSetvlK rd rs1 ew s) := by
  unfold execSetvlK
  simp only
  split
  · exact trap_resOk h
  split
  · exact trap_resOk h
  · exact .next (MemOk.of_mem (adv_mem _ _) (MemOk.of_mem (wx_mem _ _ _ _) (MemOk.of_mem (setMe_mem _ _) h)))

theorem execVcfg_resOk {n} (h : MemOk s) : ResOk (execVcfg n s) := by
  unfold execVcfg
  split
  · exact trap_resOk h
  split
  · exact trap_resOk h
  · exact ResOk.ite (.next h) (.next (MemOk.of_mem (adv_mem _ _) (MemOk.of_mem (setMe_mem _ _) h)))

theorem execVblkr_resOk {rs1} (h : MemOk s) : ResOk (execVblkr rs1 s) := ResOk.ite (trap_resOk h) (queueBlock_resOk h)

theorem execRqpop_resOk {rd} (h : MemOk s) : ResOk (execRqpop rd s) := by
  unfold execRqpop
  split
  · exact .next (park_memOk h)
  · exact .next (MemOk.of_mem (adv_mem _ _) (MemOk.of_mem (wx_mem _ _ _ _) (MemOk.of_mem (setMe_mem _ _) h)))

theorem execWaitc_resOk {l sc c m} (h : MemOk s) : ResOk (execWaitc l sc c m s) := by
  unfold execWaitc
  split
  · exact .next (MemOk.of_mem (adv_mem _ _) h)
  · exact ResOk.ite (.next (MemOk.of_mem (adv_mem _ _) h)) (.next (park_memOk h))

/-! ### Supervisor instructions -/

theorem execEcall_resOk {rs1 code} (h : MemOk s) : ResOk (execEcall rs1 code s) := by
  unfold execEcall
  split
  · exact trap_resOk h
  · exact ResOk.ite (trap_resOk h) (.next (MemOk.of_mem (holdStrand_mem _ _ _) (MemOk.of_mem (adv_mem _ _) h)))

theorem execTret_resOk (h : MemOk s) : ResOk (execTret s) := by
  unfold execTret
  split
  · exact .next h
  split
  · exact .next (MemOk.of_eq (trapReturn_memOk _ _ h) ‹_›)
  · exact .next (MemOk.of_eq (trapReturn_memOk _ _ h) ‹_›)
  · exact trap_resOk (MemOk.of_eq (trapReturn_memOk _ _ h) ‹_›)

theorem execTretS_resOk {rd k} (h : MemOk s) : ResOk (execTretS rd k s) := by
  unfold execTretS
  split
  · exact trap_resOk h
  simp only
  split
  · exact .next (MemOk.of_mem (adv_mem _ _) (MemOk.of_mem (wx_mem _ _ _ _) h))
  split
  · exact .next (MemOk.of_mem (modStrand_mem _ _ _) (MemOk.of_mem (adv_mem _ _) (MemOk.of_mem (wx_mem _ _ _ _) h)))
  · exact .next (takeHeld_memOk (MemOk.of_mem (modStrand_mem _ _ _) (MemOk.of_mem (adv_mem _ _) (MemOk.of_mem (wx_mem _ _ _ _) h))))

theorem execHget_resOk {rd rs1 k} (h : MemOk s) : ResOk (execHget rd rs1 k s) := by
  unfold execHget
  simp only
  split
  · exact trap_resOk h
  split
  · exact trap_resOk h
  split
  · exact trap_resOk h
  split
  · exact .next h
  split
  · exact trap_resOk h
  · exact .next (MemOk.of_mem (adv_mem _ _) (MemOk.of_mem (wx_mem _ _ _ _) h))
  · exact .next (MemOk.of_mem (adv_mem _ _) (MemOk.of_mem (wx_mem _ _ _ _) h))
  split
  · exact trap_resOk h
  · exact ResOk.ite (trap_resOk h) (.next (MemOk.of_mem (adv_mem _ _) (MemOk.of_mem (wx_mem _ _ _ _) h)))

theorem execHput_resOk {rs1 rs2 k} (h : MemOk s) : ResOk (execHput rs1 rs2 k s) := by
  unfold execHput
  simp only
  split
  · exact trap_resOk h
  split
  · exact trap_resOk h
  split
  · exact trap_resOk h
  split
  · exact .next h
  split
  · exact trap_resOk h
  · exact ResOk.ite (.next (MemOk.of_mem (adv_mem _ _) (MemOk.of_mem (modStrand_mem _ _ _) h))) (trap_resOk h)
  · exact .next (MemOk.of_mem (adv_mem _ _) (MemOk.of_mem (modStrand_mem _ _ _) h))
  split
  · exact trap_resOk h
  · exact ResOk.ite (trap_resOk h) (.next (MemOk.of_mem (adv_mem _ _) (csrSet_memOk h)))

theorem execTren_resOk (h : MemOk s) : ResOk (execTren s) := .next (takeHeld_memOk (MemOk.of_mem (adv_mem _ _) (MemOk.of_mem (setMe_mem _ _) h)))

theorem execIdle_resOk {rd rt} (h : MemOk s) : ResOk (execIdle rd rt s) := by
  unfold execIdle
  split
  · exact trap_resOk h
  split
  · exact .next (MemOk.of_mem (adv_mem _ _) (MemOk.of_mem (wx_mem _ _ _ _) h))
  split
  · exact .next (MemOk.of_mem (adv_mem _ _) (MemOk.of_mem (wx_mem _ _ _ _) h))
  · exact ResOk.ite (.next (MemOk.of_mem (adv_mem _ _) (MemOk.of_mem (wx_mem _ _ _ _) h))) (.next (park_memOk h))

theorem execYield_resOk (h : MemOk s) : ResOk (execYield s) := .next (MemOk.of_mem (adv_mem _ _) (MemOk.of_mem (setMe_mem _ _) h))

theorem execTinvAll_resOk {rs1 rs2 scope} (h : MemOk s) : ResOk (execTinvAll rs1 rs2 scope s) := ResOk.ite (trap_resOk h) (tinv_resOk h)

theorem execTinvAs_resOk {rs1 rs2 scope} (h : MemOk s) : ResOk (execTinvAs rs1 rs2 scope s) :=
  ResOk.ite (trap_resOk h) (ResOk.ite (trap_resOk h) (ResOk.ite (trap_resOk h) (tinv_resOk h)))

theorem execTinvPg_resOk {rs1 rs2 scope} (h : MemOk s) : ResOk (execTinvPg rs1 rs2 scope s) :=
  ResOk.ite (trap_resOk h) (ResOk.ite (trap_resOk h) (ResOk.ite (trap_resOk h) (tinv_resOk h)))

theorem execLcclean_resOk {rs1 rs2} (h : MemOk s) : ResOk (execLcclean rs1 rs2 s) := lineOp_resOk h (fun _ _ hs => writeBack_memOk _ _ _ hs)

theorem execLcinval_resOk {rs1 rs2} (h : MemOk s) : ResOk (execLcinval rs1 rs2 s) :=
  lineOp_resOk h (fun _ _ hs => MemOk.of_mem (modCore_mem _ _ _) (evict_memOk _ _ _ hs))

theorem execVsave_resOk {rs1 rs2 k} (h : MemOk s) : ResOk (execVsave rs1 rs2 k s) := by
  unfold execVsave
  extract_lets
  refine guarded_resOk (fun r e => saveGuard_resOk h e) ?_
  extract_lets
  split
  · exact failed_resOk (MemOk.of_eq (checkArea_memOk h) ‹_›)
  have h1 := MemOk.of_eq (checkArea_memOk h) ‹_›
  split
  · exact .next h1
  · exact .next (MemOk.of_mem (adv_mem _ _) (memOk_foldl _ _ (fun _ _ hs => writeArea_memOk hs) _ (writeArea_memOk (MemOk.of_mem
        (setStrand_mem _ _ _) h1))))

theorem execVrestore_resOk {rs1 rs2 k} (h : MemOk s) : ResOk (execVrestore rs1 rs2 k s) := by
  unfold execVrestore
  extract_lets
  refine guarded_resOk (fun r e => saveGuard_resOk h e) ?_
  extract_lets
  split
  · have h1 := MemOk.of_eq (checkArea_memOk h) ‹_›
    exact ResOk.ite (.next h1) (.next (MemOk.of_mem (adv_mem _ _) (restoreSlots_memOk h1)))
  · exact failed_resOk (MemOk.of_eq (checkArea_memOk h) ‹_›)

theorem execVrestoreSt_resOk {rs1 rs2 k} (h : MemOk s) : ResOk (execVrestoreSt rs1 rs2 k s) := by
  unfold execVrestoreSt
  extract_lets
  refine guarded_resOk (fun r e => saveGuard_resOk h e) ?_
  extract_lets
  split
  · have h1 := MemOk.of_eq (check_memOk h) ‹_›
    simp only
    split
    · exact trap_resOk (readArea_memOk h1)
    split
    · exact trap_resOk (readArea_memOk h1)
    split
    · exact trap_resOk (readArea_memOk h1)
    split
    · have h2 := MemOk.of_eq (checkArea_memOk (readArea_memOk h1)) ‹_›
      split
      · exact .next h2
      split
      · exact .next (park_memOk h2)
      · exact .next (MemOk.of_mem (adv_mem _ _) (restoreSlots_memOk (MemOk.of_mem (modStrand_mem _ _ _) (readArea_memOk h2))))
    · exact failed_resOk (MemOk.of_eq (checkArea_memOk (readArea_memOk h1)) ‹_›)
  · exact failed_resOk (MemOk.of_eq (check_memOk h) ‹_›)

/-! ### Fences, barriers and waits -/

theorem execFence_resOk {scope mask} (h : MemOk s) : ResOk (execFence scope mask s) :=
  ResOk.ite (.next (park_memOk h)) (.next (MemOk.of_mem (adv_mem _ _) (acquire_memOk h)))

theorem execWaita_resOk {rt rs1 rs2 cond off} (h : MemOk s) : ResOk (execWaita rt rs1 rs2 cond off s) := by
  unfold execWaita
  simp only
  split
  · exact trap_resOk h
  split
  · exact trap_resOk h
  split
  · exact waitOn_resOk h
  split
  · exact trap_resOk (MemOk.of_eq (waitRead_memOk h) ‹_›)
  · exact waitOn_resOk (MemOk.of_eq (waitRead_memOk h) ‹_›)
  have h1 := MemOk.of_eq (waitRead_memOk h) ‹_›
  exact ResOk.ite (.next (MemOk.of_mem (adv_mem _ _) (progress_memOk h1))) (waitOn_resOk h1)

theorem execTlwait_resOk {rn rt tl cx im lo} (h : MemOk s) : ResOk (execTlwait rn rt tl cx im lo s) := by
  unfold execTlwait
  simp only
  split
  · rename_i e
    split at e
    · exact profile_resOk h e
    · cases e
  split
  · exact trap_resOk h
  split
  · exact trap_resOk h
  split
  · split
    · exact .next (MemOk.of_mem (adv_mem _ _) (progress_memOk (dropLines_memOk h)))
    · exact ResOk.ite (trap_resOk h) (.next (park_memOk h))
  split
  · exact .next (MemOk.of_mem (adv_mem _ _) (progress_memOk (dropLines_memOk h)))
  · exact ResOk.ite (trap_resOk h) (.next (park_memOk h))

theorem execBarArv_resOk {rd kind idx} (h : MemOk s) : ResOk (execBarArv rd kind idx s) := by
  unfold execBarArv
  split
  · exact trap_resOk h
  split
  · exact .next (park_memOk h)
  simp only
  split
  · exact .next (MemOk.of_mem (adv_mem _ _) (MemOk.of_mem (wx_mem _ _ _ _) (putBar_memOk (barProgress_memOk (release_memOk h)))))
  · exact .next (MemOk.of_mem (adv_mem _ _) (MemOk.of_mem (wx_mem _ _ _ _) (putBar_memOk (release_memOk h))))

theorem execBarWt_resOk {rt kind idx} (h : MemOk s) : ResOk (execBarWt rt kind idx s) := by
  unfold execBarWt
  simp only
  split
  · exact ResOk.ite (trap_resOk h) (trap_resOk h)
  split
  · exact trap_resOk h
  split
  · split
    · split
      · exact .next (MemOk.of_mem (adv_mem _ _) (progress_memOk (acquire_memOk (putBar_memOk h))))
      · exact ResOk.ite (trap_resOk h) (.next (MemOk.of_mem (setMe_mem _ _) (park_memOk h)))
    split
    · exact .next (MemOk.of_mem (adv_mem _ _) (progress_memOk (acquire_memOk (putBar_memOk h))))
    · exact ResOk.ite (trap_resOk h) (.next (MemOk.of_mem (setMe_mem _ _) (park_memOk h)))
  split
  · exact .next (MemOk.of_mem (adv_mem _ _) (progress_memOk (acquire_memOk (putBar_memOk h))))
  · exact ResOk.ite (trap_resOk h) (.next (MemOk.of_mem (setMe_mem _ _) (park_memOk h)))

theorem execBarInit_resOk {rs1 kind idx level} (h : MemOk s) : ResOk (execBarInit rs1 kind idx level s) := by
  unfold execBarInit
  simp only
  split
  · exact trap_resOk h
  split
  · exact trap_resOk h
  split
  · split
    · exact trap_resOk h
    · exact .next (MemOk.of_mem (adv_mem _ _) (putBar_memOk (MemOk.ite (barProgress_memOk h) h)))
  split
  · exact trap_resOk h
  split
  · exact .next (MemOk.of_mem (adv_mem _ _) (putBar_memOk h))
  · exact ResOk.ite (trap_resOk h) (ResOk.ite (.next (MemOk.of_mem (adv_mem _ _) h)) (trap_resOk h))

theorem execTrig_resOk (h : MemOk s) : ResOk (execTrig s) := by
  unfold execTrig
  split
  · exact .next (MemOk.of_mem (adv_mem _ _) h)
  split
  · exact .next (park_memOk h)
  simp only
  split
  · exact .next (MemOk.of_mem (adv_mem _ _) (updateTrig_memOk (MemOk.of_mem (setMe_mem _ _) (release_memOk h))))
  · exact .next (MemOk.of_mem (adv_mem _ _) (MemOk.of_mem (setMe_mem _ _) (release_memOk h)))

theorem execExit_resOk (h : MemOk s) : ResOk (execExit s) := by
  unfold execExit
  split
  · exact .next (endSupervisor_memOk _ _ _ h)
  split
  · exact .next (park_memOk h)
  simp only
  split
  · exact .next (updateTrig_memOk (MemOk.of_mem (setMe_mem _ _) (release_memOk h)))
  · exact .next (MemOk.of_mem (setMe_mem _ _) (release_memOk h))

theorem execJoin_resOk {rd rs1 rt} (h : MemOk s) : ResOk (execJoin rd rs1 rt s) := by
  unfold execJoin
  simp only
  split
  · exact trap_resOk h
  split
  · exact trap_resOk h
  split
  · exact waitOn_resOk h
  split
  · exact trap_resOk (MemOk.of_eq (waitRead_memOk h) ‹_›)
  · exact waitOn_resOk (MemOk.of_eq (waitRead_memOk h) ‹_›)
  have h1 := MemOk.of_eq (waitRead_memOk h) ‹_›
  split
  · exact .next (MemOk.of_mem (adv_mem _ _) (MemOk.of_mem (wx_mem _ _ _ _) (progress_memOk (acquire_memOk h1))))
  · exact waitOn_resOk h1

theorem execWmcfg_resOk {rs1 k} (h : MemOk s) : ResOk (execWmcfg rs1 k s) := by
  unfold execWmcfg
  simp only
  split
  · exact trap_resOk h
  split
  · exact trap_resOk h
  split
  · exact .next (park_memOk h)
  split
  · have h1 := MemOk.of_eq (check_memOk h) ‹_›
    split
    · exact .next (park_memOk h1)
    split
    · exact trap_resOk (MemOk.of_eq (readPieces_memOk _ _ _ _ _ h1) ‹_›)
    have h2 := MemOk.of_eq (readPieces_memOk _ _ _ _ _ h1) ‹_›
    split
    · exact trap_resOk h2
    split
    · exact trap_resOk h2
    · exact ResOk.ite (trap_resOk h2) (.next (MemOk.of_mem (adv_mem _ _) (MemOk.of_mem (setMe_mem _ _) h2)))
  · exact failed_resOk (MemOk.of_eq (check_memOk h) ‹_›)

theorem execWmpub_resOk {rs1 rs2} (h : MemOk s) : ResOk (execWmpub rs1 rs2 s) := by
  unfold execWmpub
  simp only
  split
  · exact trap_resOk h
  split
  · exact trap_resOk h
  split
  · exact .next (park_memOk h)
  split
  · have h1 := MemOk.of_eq (check_memOk h) ‹_›
    split
    · exact trap_resOk (MemOk.of_eq (readPieces_memOk _ _ _ _ _ (release_memOk h1)) ‹_›)
    have h2 := MemOk.of_eq (readPieces_memOk _ _ _ _ _ (release_memOk h1)) ‹_›
    exact .next (MemOk.of_mem (adv_mem _ _) (writePieces_memOk _ _ _ _ _ _ _ _ h2))
  · exact failed_resOk (MemOk.of_eq (check_memOk h) ‹_›)

theorem execStrmPush_resOk {rd rs1 rs2} (h : MemOk s) : ResOk (execStrmPush rd rs1 rs2 s) := by
  unfold execStrmPush
  simp only
  refine ResOk.ite (trap_resOk h) (ResOk.ite (trap_resOk h) (ResOk.ite (trap_resOk h) (ResOk.ite (.next (park_memOk h)) ?_)))
  split
  · have h1 := MemOk.of_eq (checkAll_memOk h) ‹_›
    split
    · rename_i s2 _ _
      have h2 : MemOk (s2.release allClasses 4) := release_memOk (MemOk.of_eq (check_memOk h1) ‹_›)
      generalize s2.release allClasses 4 = u at h2 ⊢
      generalize hq : u.readPieces u.myAgent 0 true _ = q
      generalize u.readPieces u.myAgent 0 false _ = r
      have h3 : MemOk q.1 := by
        rw [← hq]
        exact readPieces_memOk _ _ _ _ _ h2
      obtain ⟨s3, ⟨c, z⟩ | v⟩ := q <;> obtain ⟨_, ⟨r, p⟩ | w⟩ := r
      · refine ResOk.ite (trap_resOk h3) (ResOk.ite (.next h3) ?_)
        split
        · have h4 := MemOk.of_eq (check_memOk h3) ‹_›
          split
          · have h5 := MemOk.of_eq (check_memOk h4) ‹_›
            refine .next (MemOk.of_mem (adv_mem _ _) (MemOk.of_mem (wx_mem _ _ _ _) ?_))
            exact writePieces_memOk _ _ _ _ _ _ _ _ (writePieces_memOk _ _ _ _ _ _ _ _ h5)
          · exact failed_resOk (MemOk.of_eq (check_memOk h4) ‹_›)
        · exact failed_resOk (MemOk.of_eq (check_memOk h3) ‹_›)
      all_goals exact trap_resOk h3
    · exact failed_resOk (MemOk.of_eq (check_memOk h1) ‹_›)
  · exact failed_resOk (MemOk.of_eq (checkAll_memOk h) ‹_›)

theorem execProgress_resOk (h : MemOk s) : ResOk (execProgress s) := .next (MemOk.of_mem (adv_mem _ _) (progress_memOk h))

theorem execLaunch_resOk {rd rb} (h : MemOk s) : ResOk (execLaunch rd rb s) := by
  unfold execLaunch
  split
  · exact trap_resOk h
  split
  · exact ResOk.ite (.next (park_memOk h)) (.next (park_memOk (release_memOk h)))
  split
  · exact .next (park_memOk h)
  · exact .next (MemOk.of_mem (adv_mem _ _) (MemOk.of_mem (wx_mem _ _ _ _) h))

/-! ### The matrix engine -/

theorem execMcfg_resOk {geom} (h : MemOk s) : ResOk (execMcfg geom s) :=
  mxForm_resOk h (fun _ hs => ResOk.ite (.next (park_memOk hs)) (.next (MemOk.of_mem (adv_mem _ _) (MemOk.of_mem (modMx_mem _ _ _) hs))))

theorem execMldb_resOk {rd rs rst fmt w1 cls} (h : MemOk s) : ResOk (execMldb rd rs rst fmt w1 cls s) :=
  mxForm_resOk h (fun _ hs => ResOk.ite (trap_resOk hs) (mldb_resOk hs))

theorem execMldbX_resOk {rd rs rst ri rn fmt w1 cls} (h : MemOk s) : ResOk (execMldbX rd rs rst ri rn fmt w1 cls s) := by
  unfold execMldbX
  refine mxForm_resOk h fun s h => ?_
  simp only
  split
  · exact trap_resOk h
  split
  · exact trap_resOk h
  split
  · exact .next h
  split
  · exact failed_resOk (MemOk.of_eq (checkRun_memOk h) ‹_›)
  have h1 := MemOk.of_eq (checkRun_memOk h) ‹_›
  split
  · exact .next h1
  split
  · exact trap_resOk (MemOk.of_eq (readPieces_memOk _ _ _ _ _ h1) ‹_›)
  have h2 := MemOk.of_eq (readPieces_memOk _ _ _ _ _ h1) ‹_›
  exact ResOk.ite (trap_resOk h2) (mldb_resOk h2)

theorem execMma_resOk {rd row slot} (h : MemOk s) : ResOk (execMma rd row slot s) := row_resOk h

theorem execMvrdSgn_resOk {rd row slot} (h : MemOk s) : ResOk (execMvrdSgn rd row slot s) := row_resOk h

theorem execMvrdTopk_resOk {rd row slot} (h : MemOk s) : ResOk (execMvrdTopk rd row slot s) := row_resOk h

theorem execMclr_resOk {rd row count1 flags} (h : MemOk s) : ResOk (execMclr rd row count1 flags s) := mxForm_resOk h (fun _ hs => number_resOk hs)

theorem execMstc_resOk {rd ra rst row count1 fmt cls} (h : MemOk s) : ResOk (execMstc rd ra rst row count1 fmt cls s) := by
  unfold execMstc
  refine mxForm_resOk h fun s h => ?_
  simp only
  split
  · exact trap_resOk h
  split
  · exact .next h
  split
  · exact .next (park_memOk h)
  split
  · exact trap_resOk h
  split
  · exact failed_resOk (MemOk.of_eq (checkRuns_memOk h) ‹_›)
  · exact number_resOk (MemOk.of_eq (checkRuns_memOk h) ‹_›)

theorem execMthr_resOk {rd row} (h : MemOk s) : ResOk (execMthr rd row s) :=
  mxForm_resOk h (fun _ hs => .next (MemOk.of_mem (adv_mem _ _) (MemOk.of_mem (wx_mem _ _ _ _) hs)))

theorem execMthw_resOk {rs row} (h : MemOk s) : ResOk (execMthw rs row s) :=
  mxForm_resOk h (fun _ hs => ResOk.ite (trap_resOk hs) (ResOk.ite (.next (park_memOk hs)) (.next (MemOk.of_mem (adv_mem _ _) (MemOk.of_mem
      (modMx_mem _ _ _) hs)))))

theorem execMstat_resOk {rd sel} (h : MemOk s) : ResOk (execMstat rd sel s) :=
  mxForm_resOk h (fun _ hs => .next (MemOk.of_mem (adv_mem _ _) (MemOk.of_mem (wx_mem _ _ _ _) hs)))

/-! ### Vector atomics -/

theorem execVlink_resOk {f} (h : MemOk s) : ResOk (execVlink f s) := by
  unfold execVlink
  refine memStart_resOk h fun s c ps h => ?_
  have hl : MemOk (ps.foldl (fun s p =>
      match s.readPieces s.myAgent f.cls.toNat true p.ps with
      | (s, .err _) => s
      | (s, .ok v q) =>
        (p.lines.foldl (fun s l => s.placeTag vlinkTag l s.cur) s).setMe
          ((p.lines.foldl (fun s l => s.placeTag vlinkTag l s.cur) s).me.putElem f.vd (ewBits f.ew) p.id (loadValue f v) q)) s) := by
    refine memOk_foldl _ _ (fun s p h => ?_) _ h
    split
    · exact MemOk.of_eq (readPieces_memOk _ _ _ _ _ h) ‹_›
    · exact MemOk.of_mem (setMe_mem _ _) (memOk_foldl _ _ (fun _ _ hs => placeTag_memOk hs) _ (MemOk.of_eq (readPieces_memOk _ _ _ _ _ h) ‹_›))
  simp only
  split
  · exact .next (memDone_memOk hl)
  · exact .next hl


theorem execVscond_resOk {f} (h : MemOk s) : ResOk (execVscond f s) :=
  memStart_resOk h (fun _ _ _ hs => ResOk.ite (.next hs) (.next (memDone_memOk (MemOk.of_mem (forgetBroken_mem _ _) (MemOk.of_mem (setMe_mem _ _)
      (MemOk.ite (clearCovered_memOk (memOk_foldl _ _ (fun _ _ hs => writePieces_memOk _ _ _ _ _ _ _ _ hs) _ (dropOwn_memOk (relStart_memOk hs))))
          (MemOk.of_mem markPerformed_mem (clearCovered_memOk (memOk_foldl _ _ (fun _ _ hs => writePieces_memOk _ _ _ _ _ _ _ _ hs) _ (dropOwn_memOk
              (relStart_memOk hs)))))))))))

theorem execRred_resOk {f} (h : MemOk s) : ResOk (execRred f s) := by
  unfold execRred
  split <;> exact memStart_resOk h (fun _ _ _ hs => ResOk.ite (.next hs) (.next (memDone_memOk (MemOk.ite (classBack_memOk _ _ _ (relStart_memOk hs))
      (MemOk.of_mem markPerformed_mem (classBack_memOk _ _ _ (relStart_memOk hs)))))))

theorem execVwaitv_resOk {f} (h : MemOk s) : ResOk (execVwaitv f s) :=
  memStart_resOk h (fun _ _ _ hs => ResOk.ite (.next (vwaitDone_memOk hs)) (.next (MemOk.of_mem (modConv_mem _) hs)))

/-! ### Transfers between vector and matrix -/

theorem execVfromc_resOk {f} (h : MemOk s) : ResOk (execVfromc f s) := ResOk.ite (.next h) (member_resOk h)

/-! ### Convoys -/

theorem execBlockStart_resOk {sid} (h : MemOk s) : ResOk (execBlockStart sid s) := by
  unfold execBlockStart
  simp only
  split
  · exact .next h
  split
  · exact .next (MemOk.of_mem (setStrand_mem _ _ _) h)
  · exact ResOk.ite (.next (MemOk.of_mem (setStrand_mem _ _ _) h)) (.next h)
  · exact .next h

theorem execConvoyStripIssue_resOk {core elig} (h : MemOk s) : ResOk (execConvoyStripIssue core elig s) := by
  unfold execConvoyStripIssue
  split
  · exact .next h
  simp only
  split
  · split
    · exact .next (issueCharged_memOk (memOk_foldl _ _ (fun _ _ hs => MemOk.ite hs (MemOk.of_mem (modStrand_mem _ _ _) hs)) _ (MemOk.of_mem
          (modCore_mem _ _ _) h)))
    · exact .next (memOk_foldl _ _ (fun _ _ hs => MemOk.ite hs (MemOk.of_mem (modStrand_mem _ _ _) hs)) _ (MemOk.of_mem (modCore_mem _ _ _) h))
  · exact ResOk.ite (.next (issueStrip_memOk h)) (.next h)

theorem execMemoryReply_resOk {sid} (h : MemOk s) : ResOk (execMemoryReply sid s) := by
  unfold execMemoryReply
  refine among_resOk h fun s h => ?_
  simp only
  split
  · split
    · exact .next (MemOk.getD (fun t e => amoReply_memOk h e) h)
    · exact ResOk.ite (.next h) (ResOk.ite (runLoad_resOk h) (runStore_resOk h))
    · exact .next h
  · exact .next h

theorem execVamoCommit_resOk {sid} (h : MemOk s) : ResOk (execVamoCommit sid s) := by
  unfold execVamoCommit
  refine among_resOk h fun s h => ?_
  split
  · exact .next h
  split
  · split
    · exact .next (amoLine_memOk h)
    · exact .next h
  · exact .next h

theorem execVwaitvElementSatisfied_resOk {sid elem} (h : MemOk s) : ResOk (execVwaitvElementSatisfied sid elem s) := by
  unfold execVwaitvElementSatisfied
  refine among_resOk h fun s h => ?_
  simp only
  split
  · exact .next h
  split
  · exact .next h
  split
  · exact .next h
  split
  · exact .next (MemOk.of_eq (vwaitParts_memOk h) ‹_›)
  · exact .next (convoyTrap_memOk _ _ _ (MemOk.of_eq (vwaitParts_memOk h) ‹_›))
  have h1 := MemOk.of_eq (vwaitParts_memOk h) ‹_›
  split
  · exact .next (MemOk.of_eq (ownAgain_memOk h1) ‹_›)
  · exact .next (convoyTrap_memOk _ _ _ (MemOk.of_eq (ownAgain_memOk h1) ‹_›))
  have h2 := MemOk.of_eq (ownAgain_memOk h1) ‹_›
  split
  · exact .next (MemOk.of_eq (readPieces_memOk _ _ _ _ _ h2) ‹_›)
  have h3 := MemOk.of_eq (readPieces_memOk _ _ _ _ _ h2) ‹_›
  split
  · exact .next (MemOk.of_mem (setMe_mem _ _) h3)
  split
  · split
    · exact .next (vwaitDone_memOk (progress_memOk (MemOk.of_mem (vwaitPut_mem _ _ _ _ _) h3)))
    · exact .next (MemOk.of_mem (modConv_mem _) (MemOk.of_mem (vwaitPut_mem _ _ _ _ _) h3))
  · exact .next h3

theorem execVwaitvExpiry_resOk {sid} (h : MemOk s) : ResOk (execVwaitvExpiry sid s) := by
  unfold execVwaitvExpiry
  refine among_resOk h fun s h => ?_
  simp only
  split
  · exact .next h
  split
  · exact .next h
  split
  · exact .next h
  · exact .next (vwaitDone_memOk (memOk_foldl _ _ (fun _ _ hs => MemOk.of_mem (vwaitPut_mem _ _ _ _ _) hs) _ h))

theorem execWatermarkWaitEnd_resOk {sid} (h : MemOk s) : ResOk (execWatermarkWaitEnd sid s) := by
  unfold execWatermarkWaitEnd
  refine among_resOk h fun s h => ?_
  simp only
  split
  · exact .next h
  split
  · split
    · exact .next (MemOk.of_eq (checkConvoy_memOk h) ‹_›)
    · exact .next (MemOk.of_eq (checkConvoy_memOk h) ‹_›)
    · exact .next (convoyTrap_memOk _ _ _ (MemOk.of_eq (checkConvoy_memOk h) ‹_›))
    · exact .next (convGoes_memOk (MemOk.of_eq (checkConvoy_memOk h) ‹_›))
  · split
    · split
      · exact .next (MemOk.of_eq (wmCheck_memOk h) ‹_›)
      · exact .next (convoyTrap_memOk _ _ _ (MemOk.of_eq (wmCheck_memOk h) ‹_›))
      · exact .next (convGoes_memOk (MemOk.of_eq (wmCheck_memOk h) ‹_›))
    · exact .next h
  · exact .next h

theorem execWatermarkTimeout_resOk {sid} (h : MemOk s) : ResOk (execWatermarkTimeout sid s) := by
  unfold execWatermarkTimeout
  refine among_resOk h fun s h => ?_
  simp only
  split
  · exact .next h
  split
  · split
    · exact .next (convoyTrap_memOk _ _ _ (MemOk.of_eq (checkConvoy_memOk h) ‹_›))
    · exact .next (MemOk.of_eq (checkConvoy_memOk h) ‹_›)
  · split
    · split
      · exact .next (convoyTrap_memOk _ _ _ (MemOk.of_eq (wmCheck_memOk h) ‹_›))
      · exact .next (MemOk.of_eq (wmCheck_memOk h) ‹_›)
    · exact .next h
  · exact .next h

theorem execConvoyRetire_resOk {sid} (h : MemOk s) : ResOk (execConvoyRetire sid s) := by
  have hs : MemOk { s with cur := sid } := h
  unfold execConvoyRetire
  generalize ({ s with cur := sid } : State) = u at hs
  simp only
  split
  · refine .next (MemOk.of_mem (modStrand_mem _ _ _) ?_)
    cases u.me.past.head? with
    | none => exact hs
    | some p => exact retireMx_memOk hs
  split
  · exact .next hs
  split
  · exact .next (MemOk.ite (MemOk.of_mem (modStrand_mem _ _ _) (retireMx_memOk hs)) hs)
  · exact .next hs

/-! ### Copies issued -/

theorem execCopy_resOk {c} (h : MemOk s) : ResOk (execCopy c s) := by
  unfold execCopy
  simp only
  split
  · split
    · exact trap_resOk h
    split
    · exact trap_resOk h
    split
    · exact issueCopy_resOk (MemOk.of_eq (MemOk.ite_fst h (checkComp_memOk h)) ‹_›) h
    · exact failed_resOk (MemOk.of_eq (MemOk.ite_fst h (checkComp_memOk h)) ‹_›)
  split
  · exact trap_resOk h
  split
  · exact trap_resOk h
  split
  · exact issueCopy_resOk (MemOk.of_eq (MemOk.ite_fst h (checkComp_memOk h)) ‹_›) h
  · exact failed_resOk (MemOk.of_eq (MemOk.ite_fst h (checkComp_memOk h)) ‹_›)

theorem execCopyMc_resOk {c} (h : MemOk s) : ResOk (execCopyMc c s) := by
  unfold execCopyMc
  simp only
  split
  · exact trap_resOk h
  split
  · exact trap_resOk h
  split
  · exact trap_resOk h
  split
  · exact .next h
  split
  · have h1 := MemOk.of_eq (check_memOk h) ‹_›
    split
    · exact .next h
    split
    · exact trap_resOk (MemOk.of_eq (readPieces_memOk _ _ _ _ _ h1) ‹_›)
    have h2 := MemOk.of_eq (readPieces_memOk _ _ _ _ _ h1) ‹_›
    split
    · exact trap_resOk h2
    split
    · exact issueCopy_resOk (MemOk.of_eq (checkComps_memOk h2) ‹_›) h
    · exact failed_resOk (MemOk.of_eq (checkComps_memOk h2) ‹_›)
  · exact failed_resOk (MemOk.of_eq (check_memOk h) ‹_›)

theorem execPersist_resOk {rd ra rlen cx} (h : MemOk s) : ResOk (execPersist rd ra rlen cx s) :=
  ResOk.ite (trap_resOk h) (ResOk.ite (trap_resOk h) (issueCopy_resOk h h))

/-! ### Groups that end -/

theorem execTrapNoticePush_resOk {sid} (h : MemOk s) : ResOk (execTrapNoticePush sid s) := .next (MemOk.of_mem (pushNotice_mem _ _) h)

theorem execForcedPreemption_resOk {sid} (h : MemOk s) : ResOk (execForcedPreemption sid s) := by
  unfold execForcedPreemption
  simp only
  split
  · exact .next h
  · exact ResOk.ite (.next (takePreempt_memOk _ _ h)) (.next (MemOk.of_mem (modStrand_mem _ _ _) h))

theorem execHeldPreemptExpiry_resOk {sid} (h : MemOk s) : ResOk (execHeldPreemptExpiry sid s) := by
  unfold execHeldPreemptExpiry
  simp only
  split
  · exact ResOk.ite (.next h) (.next (takePreempt_memOk _ _ h))
  · exact .next h

theorem execGroupFaultEnd_resOk {group cause} (h : MemOk s) : ResOk (execGroupFaultEnd group cause s) := .next (endGroup_memOk h)

theorem execGroupKill_resOk {k} (h : MemOk s) : ResOk (execGroupKill k s) := by
  unfold execGroupKill
  split
  · exact .next (endGroup_memOk h)
  · exact .next (killGang_memOk h)

theorem execWatchdogWindowEnd_resOk {group} (h : MemOk s) : ResOk (execWatchdogWindowEnd group s) := by
  unfold execWatchdogWindowEnd
  split
  · exact .next h
  simp only
  split
  · exact .next h
  split
  · exact .next (MemOk.of_mem (setGroup_mem _ _ _) h)
  split
  · exact .next (MemOk.of_mem (setGroup_mem _ _ _) h)
  · exact .next (endGroup_memOk h)
  split
  · exact .next (modGroup_memOk (MemOk.of_mem (setGroup_mem _ _ _) h))
  · exact .next (MemOk.ite (tryTrap_memOk (modGroup_memOk (MemOk.of_mem (setGroup_mem _ _ _) h))) h)

theorem execGroupRetirement_resOk {group} (h : MemOk s) : ResOk (execGroupRetirement group s) := by
  unfold execGroupRetirement
  split
  · exact .next h
  · exact ResOk.ite (.next h) (.next (modGang_memOk (modGroup_memOk (teardown_memOk h))))

theorem execJoinStatusWrite_resOk {gang} (h : MemOk s) : ResOk (execJoinStatusWrite gang s) := by
  unfold execJoinStatusWrite
  split
  · exact .next h
  split
  · exact .next h
  simp only
  split
  · exact .next (MemOk.of_eq (mayWrite_memOk h) ‹_›)
  have h1 := MemOk.of_eq (mayWrite_memOk h) ‹_›
  split
  · exact .next (MemOk.of_mem (setGang_mem _ _ _) (cpWrite_memOk h1))
  · exact .next (MemOk.of_mem (setGang_mem _ _ _) h1)

/-! ### Streams -/

theorem execStreamLaunch_resOk {die stream} (h : MemOk s) : ResOk (execStreamLaunch die stream s) :=
  streamStart_resOk h (fun _ _ _ _ hs => MemOk.of_mem (setStream_mem _ _ _) hs)

theorem execStreamCopy_resOk {die stream} (h : MemOk s) : ResOk (execStreamCopy die stream s) :=
  streamStart_resOk h (fun _ _ _ _ hs => MemOk.of_mem (setStream_mem _ _ _) (queueCopy_memOk hs))

theorem execStreamWaitv_resOk {die stream} (h : MemOk s) : ResOk (execStreamWaitv die stream s) :=
  streamStart_resOk h (fun _ _ _ _ hs => MemOk.of_mem (setStream_mem _ _ _) hs)

theorem execStreamSigv_resOk {die stream} (h : MemOk s) : ResOk (execStreamSigv die stream s) := by
  unfold execStreamSigv
  refine streamStart_resOk h fun s x c r h => ?_
  split
  · exact cmdDone_memOk (cpWrite_memOk (MemOk.of_eq (cpCanWrite_memOk h) ‹_›))
  · exact MemOk.of_eq (cpCanWrite_memOk h) ‹_›
  · exact cmdError_memOk (MemOk.of_eq (cpCanWrite_memOk h) ‹_›)

theorem execStreamTrigwait_resOk {die stream} (h : MemOk s) : ResOk (execStreamTrigwait die stream s) :=
  streamStart_resOk h (fun _ _ _ _ hs => MemOk.of_mem (setStream_mem _ _ _) hs)

theorem execGangAcceptance_resOk {die} (h : MemOk s) : ResOk (execGangAcceptance die s) := by
  unfold execGangAcceptance
  split
  · exact .next h
  split
  · exact .next h
  split
  · exact .next (MemOk.of_eq (heedNow_memOk h) ‹_›)
  have h1 := MemOk.of_eq (heedNow_memOk h) ‹_›
  split
  · exact .next h1
  split
  · exact .next (MemOk.of_eq (judge_memOk h1) ‹_›)
  · exact answered_resOk (MemOk.of_eq (judge_memOk h1) ‹_›)
  have h2 := MemOk.of_eq (judge_memOk h1) ‹_›
  simp only
  split
  · exact answered_resOk h2
  rename_i e
  refine answered_resOk (cpWrite_memOk ?_)
  split at e
  · exact placeAll_memOk (MemOk.of_mem (setGang_mem _ _ _) h2) e
  · cases e
    exact h2


theorem execStreamWaitvTimeout_resOk {die stream} (h : MemOk s) : ResOk (execStreamWaitvTimeout die stream s) := by
  unfold execStreamWaitvTimeout
  split
  · exact .next h
  split
  · have h1 := MemOk.of_eq (MemOk.ite_fst (cpRead_memOk h) h) ‹_›
    exact ResOk.ite (.next h1) (.next (cmdError_memOk h1))
  · exact .next (MemOk.of_eq (MemOk.ite_fst (cpRead_memOk h) h) ‹_›)

/-! ### Copy engines -/

theorem execCopyOperationStart_resOk {die ctx} (h : MemOk s) : ResOk (execCopyOperationStart die ctx s) := by
  unfold execCopyOperationStart
  simp only
  split
  · exact ResOk.ite (.next h) (.next (MemOk.of_mem (setCopyCtx_mem _ _) h))
  · exact .next h

theorem execCopyOperationEnd_resOk {die ctx} (h : MemOk s) : ResOk (execCopyOperationEnd die ctx s) := by
  unfold execCopyOperationEnd
  simp only
  split
  · exact .next h
  split
  · split
    · exact .next (runCopy_memOk h)
    · exact .next h
  · exact ResOk.ite (.next (MemOk.of_mem (setCopyCtx_mem _ _) h)) (.next h)
  split
  · have h1 := MemOk.of_eq (persistRange_memOk h) ‹_›
    exact ResOk.ite (.next (MemOk.of_mem (setCopyCtx_mem _ _) h1)) (.next h)
  · exact .next h

theorem execCopyMcDestinationComplete_resOk {die ctx dest} (h : MemOk s) : ResOk (execCopyMcDestinationComplete die ctx dest s) := by
  unfold execCopyMcDestinationComplete
  simp only
  split
  · exact .next h
  split
  · exact .next h
  split
  · exact .next h
  split
  · have h0 := MemOk.of_eq_fst (gather_memOk h) ‹_›
    split
    · have h1 := MemOk.of_eq (copyCheck_memOk (MemOk.of_mem (setCopyCtx_mem _ _) h0)) ‹_›
      split
      · exact .next h1
      split
      · exact .next (MemOk.of_mem (setCopyCtx_mem _ _) (MemOk.of_eq (deliver_memOk h1) ‹_›))
      · exact .next (MemOk.of_eq (deliver_memOk h1) ‹_›)
      have h2 := MemOk.of_eq (deliver_memOk h1) ‹_›
      split <;> exact .next (MemOk.of_mem (setCopyCtx_mem _ _) (MemOk.of_eq (complete_memOk h2) ‹_›))
    · exact .next (failDest_memOk (MemOk.of_eq (copyCheck_memOk (MemOk.of_mem (setCopyCtx_mem _ _) h0)) ‹_›))
    · exact .next (MemOk.of_eq (copyCheck_memOk (MemOk.of_mem (setCopyCtx_mem _ _) h0)) ‹_›)
  · exact .next (MemOk.of_eq_fst (gather_memOk h) ‹_›)
  · exact .next h

theorem execCopyFaultStop_resOk {die ctx} (h : MemOk s) : ResOk (execCopyFaultStop die ctx s) := by
  unfold execCopyFaultStop
  simp only
  split
  · exact .next h
  split
  · split
    · exact .next h
    · exact .next (MemOk.ite (runCopy_memOk h) h)
  · split
    · exact .next (mcFault_memOk h)
    · exact .next (MemOk.of_eq_fst (gather_memOk h) ‹_›)
    · exact .next h
  split
  · exact .next (MemOk.of_mem (setCopyCtx_mem _ _) (MemOk.of_eq (persistRange_memOk h) ‹_›))
  · exact .next (MemOk.of_eq (persistRange_memOk h) ‹_›)

theorem execPersistenceFlushAck_resOk {die ctx} (h : MemOk s) : ResOk (execPersistenceFlushAck die ctx s) := by
  unfold execPersistenceFlushAck
  simp only
  split
  · exact ResOk.ite (.next (MemOk.of_mem (setCopyCtx_mem _ _) h)) (.next h)
  · exact .next h

theorem execRredUpdate_resOk {index} (h : MemOk s) : ResOk (execRredUpdate index s) := by
  unfold execRredUpdate
  split
  · exact .next h
  split
  · exact .next h
  simp only
  split
  · exact .next h
  split
  · exact .next (MemOk.of_mem (modCore_mem _ _ _) (memOk_foldl _ _ (fun _ _ hs => rredElem_memOk hs) _ (memOk_foldl _ _
        (fun _ _ hs => evict_memOk _ _ _ hs) _ h)))
  · exact .next (memOk_foldl _ _ (fun _ _ hs => rredElem_memOk hs) _ (memOk_foldl _ _ (fun _ _ hs => evict_memOk _ _ _ hs) _ h))

/-! ### Groups that move -/

theorem execMigration_resOk {group} (h : MemOk s) : ResOk (execMigration group s) := by
  cases hg : s.group? group with
  | none =>
    unfold execMigration
    rw [hg]
    exact .next h
  | some g =>
    by_cases hgo : (g.phase != .migrating || s.frozen g.core || s.migrationWaits group g) = true
    · unfold execMigration
      rw [hg]
      dsimp only
      rw [if_pos hgo]
      exact .next h
    · simp only [Bool.not_eq_true, Bool.or_eq_false_iff, bne_eq_false_iff_eq] at hgo
      obtain ⟨⟨hphase, hrun⟩, hidle⟩ := hgo
      have e : execMigration group s = .next (s.migLeft group g) := exec_migration_of_idle hg hphase hrun hidle
      rw [e]
      exact .next (migLeft_memOk _ _ _ h)

theorem execPlacement_resOk {window} (h : MemOk s) : ResOk (execPlacement window s) := by
  unfold execPlacement
  split
  · exact .next h
  · exact .next (resume_memOk h)
  split
  · exact .next (createGroup_memOk h)
  · exact .next (createGroup_memOk (s := s.fresh.2) h)

/-! ### Ownership of regions -/

theorem execOwnershipTransferComplete_resOk {region} (h : MemOk s) : ResOk (execOwnershipTransferComplete region s) := by
  have h1 := MemOk.of_mem (dropRegionTags_mem region) (regionBack_memOk (region := region) h)
  unfold execOwnershipTransferComplete
  split
  · exact .next h
  refine ResOk.ite (.next h) (.next ?_)
  exact memOk_foldl _ _ (fun _ _ hs => MemOk.of_mem (reply_mem _ _) hs) _ h1

theorem execOwnershipTransferTimeout_resOk {region} (h : MemOk s) : ResOk (execOwnershipTransferTimeout region s) := by
  unfold execOwnershipTransferTimeout
  split
  · exact .next h
  · exact .next (MemOk.ite (MemOk.of_mem (failTransfer_mem _) h) h)

theorem execHostRead_resOk {byte n} (h : MemOk s) : ResOk (execHostRead byte n s) := by
  unfold execHostRead
  split
  · exact .next (MemOk.ite h (hostWord_memOk h))
  · exact .next (hostTransfer_memOk h)
  · exact .next h

theorem execHostWrite_resOk {byte n value} (h : MemOk s) : ResOk (execHostWrite byte n value s) := by
  unfold execHostWrite
  split
  · exact .next (homeWrite_memOk _ _ _ _ _ h)
  · exact .next (hostTransfer_memOk h)
  · exact .next h

theorem execLineEviction_resOk {core line} (h : MemOk s) : ResOk (execLineEviction core line s) := .next (MemOk.ite (evict_memOk _ _ _ h) h)

theorem execStorePerformedAtHome_resOk {core line} (h : MemOk s) : ResOk (execStorePerformedAtHome core line s) :=
  .next (MemOk.ite (writeBack_memOk _ _ _ h) h)

theorem execFetchFill_resOk {core line} (h : MemOk s) : ResOk (execFetchFill core line s) := ResOk.ite (.next (fetchLine_memOk h)) (.next h)

theorem execCodeObjectLoad_resOk {asid desc len} (h : MemOk s) : ResOk (execCodeObjectLoad asid desc len s) := by
  unfold execCodeObjectLoad
  simp only
  split
  · exact .next (MemOk.of_eq (cpRead_memOk h) ‹_›)
  · exact .next (MemOk.of_mem (view_mem _ _) (MemOk.of_eq (cpRead_memOk h) ‹_›))
  have h1 := MemOk.of_eq (cpRead_memOk h) ‹_›
  split
  · exact .next (MemOk.of_mem (view_mem _ _) h1)
  · exact .next (MemOk.of_mem (view_mem _ _) (xlateParts_memOk h1))

theorem execHostLinkTraining_resOk {gen} (h : MemOk s) : ResOk (execHostLinkTraining gen s) := .next (MemOk.ite h h)

/-! ### What fyv asks -/

theorem execBreakpoint_resOk {b} (h : MemOk s) : ResOk (execBreakpoint b s) := by
  unfold execBreakpoint
  split
  · exact .next (MemOk.ite h h)
  · exact .next h
  · exact .next h
  · exact .next h
  split
  · exact .next (MemOk.ite (MemOk.of_mem (modCore_mem _ _ _) h) h)
  · exact .next h

theorem execFyvContinue_resOk {core} (h : MemOk s) : ResOk (execFyvContinue core s) := .next (MemOk.ite (MemOk.of_mem (modCore_mem _ _ _) h) h)

theorem execFyvPreempt_resOk {sid grace} (h : MemOk s) : ResOk (execFyvPreempt sid grace s) :=
  .next (MemOk.ite (MemOk.of_mem (setPreempt_mem _ _) h) h)

theorem execFyvView_resOk {v} (h : MemOk s) : ResOk (execFyvView v s) := by
  unfold execFyvView
  split
  · exact .next (MemOk.of_mem (view_mem _ _) h)
  · exact .next (MemOk.of_mem (view_mem _ _) h)
  · exact .next (MemOk.of_mem (view_mem _ _) h)
  split
  · exact .next (MemOk.of_mem (view_mem _ _) h)
  · exact .next h

theorem execRredlog_resOk {a} (h : MemOk s) : ResOk (execRredlog a s) := .next (MemOk.of_mem (view_mem _ _) h)

theorem execCtx_resOk {asid k} (h : MemOk s) : ResOk (execCtx asid k s) := by
  unfold execCtx
  split <;> exact .next (MemOk.of_mem (view_mem _ _) h)

theorem execVamoView_resOk {v} (h : MemOk s) : ResOk (execVamoView v s) := by
  unfold execVamoView
  split
  · exact .next (MemOk.of_mem (view_mem _ _) h)
  · split
    · exact .next (MemOk.of_mem (view_mem _ _) h)
    · exact .next h
  · exact .next (MemOk.of_mem (view_mem _ _) h)

theorem execMrec_resOk {group} (h : MemOk s) : ResOk (execMrec group s) := by
  unfold execMrec
  split
  · exact .next h
  · exact ResOk.ite (.next h) (.next (MemOk.of_mem (view_mem _ _) h))

theorem execXlate_resOk {sid addr} (h : MemOk s) : ResOk (execXlate sid addr s) := .next (MemOk.of_mem (view_mem _ _) h)

theorem execHostrd_resOk {gang k n} (h : MemOk s) : ResOk (execHostrd gang k n s) := by
  unfold execHostrd
  split
  · exact execHostRead_resOk h
  · exact .next h

theorem execHostwr_resOk {gang k n value} (h : MemOk s) : ResOk (execHostwr gang k n value s) := by
  unfold execHostwr
  split
  · exact execHostWrite_resOk h
  · exact .next h

/-! ### Gangs and the matrix engine's rows -/

theorem execCheckPoint_resOk {core n} (h : MemOk s) : ResOk (execCheckPoint core n s) := by
  unfold execCheckPoint
  simp only
  split
  · exact .next h
  split
  · exact ResOk.ite (.next h) (.next (MemOk.of_mem (modMx_mem _ _ _) h))
  · exact .next h

theorem execRowLeavesStage_resOk {core n} (h : MemOk s) : ResOk (execRowLeavesStage core n s) := by
  unfold execRowLeavesStage
  simp only
  split
  · exact .next h
  split
  · exact ResOk.ite (.next h) (.next (MemOk.of_mem (modMx_mem _ _ _) h))
  · exact .next h

theorem execAccumulatorRowWrite_resOk {core n} (h : MemOk s) : ResOk (execAccumulatorRowWrite core n s) := by
  unfold execAccumulatorRowWrite
  simp only
  split
  · exact .next h
  split
  · exact ResOk.ite (.next h) (.next (MemOk.of_mem (modMx_mem _ _ _) h))
  · exact .next h

theorem execMldbComplete_resOk {core n} (h : MemOk s) : ResOk (execMldbComplete core n s) := by
  unfold execMldbComplete
  simp only
  split
  · exact .next h
  split
  · exact ResOk.ite (.next h) (.next (MemOk.of_mem (modMx_mem _ _ _) (readRows_memOk h)))
  · exact .next h

theorem execMclrComplete_resOk {core n} (h : MemOk s) : ResOk (execMclrComplete core n s) := by
  unfold execMclrComplete
  simp only
  split
  · exact .next h
  split
  · exact ResOk.ite (.next h) (.next (MemOk.of_mem (modMx_mem _ _ _) h))
  · exact .next h

theorem execMstcComplete_resOk {core n} (h : MemOk s) : ResOk (execMstcComplete core n s) := by
  unfold execMstcComplete
  simp only
  split
  · exact .next h
  split
  · split
    · exact .next h
    · exact .next (MemOk.of_mem (modMx_mem _ _ _) (clearCovered_memOk (memOk_foldl _ _ (fun _ _ hs => writeArea_memOk hs) _ h)))
  · exact .next h

theorem execMonitorTrace_resOk {core row} (h : MemOk s) : ResOk (execMonitorTrace core row s) := .next (MemOk.of_mem (view_mem _ _) h)

theorem execRowClaim_resOk {core} (h : MemOk s) : ResOk (execRowClaim core s) := by
  unfold execRowClaim
  simp only
  split
  · exact .next h
  split
  · exact execMma_resOk h
  · exact execMvrdSgn_resOk h
  · exact execMvrdTopk_resOk h
  · exact .next h

/-! ### Commands of the host -/

theorem execRegisterAddressSpace_resOk {fn asid desc} (h : MemOk s) : ResOk (execRegisterAddressSpace fn asid desc s) :=
  command_resOk h (fun _ hs => MemOk.ite (MemOk.of_mem (reply_mem _ _) hs) (MemOk.ite (MemOk.of_mem (reply_mem _ _) hs) (MemOk.ite (MemOk.of_mem
      (reply_mem _ _) hs) (MemOk.of_mem (reply_mem _ _) hs))))

theorem execRegisterStream_resOk {fn die stream ctl asid} (h : MemOk s) : ResOk (execRegisterStream fn die stream ctl asid s) :=
  command_resOk h (fun _ hs => MemOk.ite (MemOk.of_mem (reply_mem _ _) hs) (MemOk.ite (MemOk.of_mem (reply_mem _ _) hs) (MemOk.of_mem (reply_mem _ _)
      (MemOk.of_mem (restartStream_mem _ _ _) hs))))

theorem execMapCopyContext_resOk {fn asid num die ctx} (h : MemOk s) : ResOk (execMapCopyContext fn asid num die ctx s) :=
  command_resOk h (fun _ hs => MemOk.ite (MemOk.of_mem (reply_mem _ _) hs) (MemOk.of_mem (reply_mem _ _) hs))

theorem execSetStreamState_resOk {fn die stream state} (h : MemOk s) : ResOk (execSetStreamState fn die stream state s) := by
  unfold execSetStreamState
  refine commandOr_resOk h fun s h => ?_
  dsimp only
  split
  · exact h
  refine MemOk.ite_fst h ?_
  split
  · exact MemOk.of_eq (cpRead_memOk h) ‹_›
  · exact MemOk.of_mem (reply_mem _ _) (MemOk.of_eq (cpRead_memOk h) ‹_›)
  rename_i s1 _ _
  have h1 : MemOk s1 := MemOk.of_eq (cpRead_memOk h) ‹_›
  refine MemOk.of_mem (reply_mem _ _) (MemOk.ite (MemOk.of_mem (restartStream_mem _ _ _) ?_) ?_)
  · exact putCtl_memOk h1
  · exact putCtl_memOk h1

theorem execSetContextState_resOk {fn die ctx run clear} (h : MemOk s) : ResOk (execSetContextState fn die ctx run clear s) :=
  command_resOk h (fun _ hs => MemOk.ite (MemOk.of_mem (reply_mem _ _) hs) (MemOk.of_mem (reply_mem _ _) (MemOk.of_mem (setCopyCtx_mem _ _) hs)))

theorem execPinOwnershipRegion_resOk {fn domain base} (h : MemOk s) : ResOk (execPinOwnershipRegion fn domain base s) := by
  unfold execPinOwnershipRegion
  split
  · exact command_resOk h (fun _ hs => MemOk.of_mem (reply_mem _ _) hs)
  · exact command_resOk h (fun _ hs => MemOk.ite (MemOk.of_mem (pinLater_mem _ _ _) hs) (MemOk.of_mem (reply_mem _ _) hs))

theorem execUnpinOwnershipRegion_resOk {fn domain base} (h : MemOk s) : ResOk (execUnpinOwnershipRegion fn domain base s) := by
  unfold execUnpinOwnershipRegion
  split
  · exact command_resOk h (fun _ hs => MemOk.of_mem (reply_mem _ _) hs)
  · exact command_resOk h (fun _ hs => MemOk.of_mem (reply_mem _ _) (MemOk.ite hs hs))

theorem execEnableOwnershipDomain_resOk {fn domain} (h : MemOk s) : ResOk (execEnableOwnershipDomain fn domain s) := by
  unfold execEnableOwnershipDomain
  split <;> exact command_resOk h (fun _ hs => MemOk.of_mem (reply_mem _ _) hs)

theorem execDisableOwnershipDomain_resOk {fn domain} (h : MemOk s) : ResOk (execDisableOwnershipDomain fn domain s) := by
  unfold execDisableOwnershipDomain
  split <;> exact command_resOk h (fun _ hs => MemOk.of_mem (reply_mem _ _) hs)

theorem execPlaceSupervisorStrand_resOk {p} (h : MemOk s) : ResOk (execPlaceSupervisorStrand p s) := by
  unfold execPlaceSupervisorStrand
  refine commandOr_resOk h fun s h => ?_
  dsimp only
  refine MemOk.ite_fst h ?_
  split
  · exact MemOk.of_eq (cpRead_memOk h) ‹_›
  · exact MemOk.of_mem (reply_mem _ _) (MemOk.of_eq (cpRead_memOk h) ‹_›)
  have h1 := MemOk.of_eq (cpRead_memOk h) ‹_›
  split
  · exact MemOk.of_mem (reply_mem _ _) h1
  refine MemOk.ite_fst (MemOk.of_mem (reply_mem _ _) h1) (MemOk.ite_fst (MemOk.of_mem (reply_mem _ _) h1) ?_)
  exact MemOk.of_mem (reply_mem _ _) (pushAgain_memOk (MemOk.of_mem (modCore_mem _ _ _) (MemOk.of_mem (setStrand_mem _ _ _) h1)))

theorem execRemoveSupervisorStrand_resOk {fn r} (h : MemOk s) : ResOk (execRemoveSupervisorStrand fn r s) := by
  unfold execRemoveSupervisorStrand
  split
  · exact ResOk.ite (.next h) (.next (MemOk.of_mem (reply_mem _ _) (dropSupervisor_memOk h)))
  · exact command_resOk h (fun _ hs => MemOk.ite (MemOk.of_mem (reply_mem _ _) hs) (MemOk.ite hs (MemOk.of_mem (reply_mem _ _) (dropSupervisor_memOk hs))))

theorem execTdispStateRequest_resOk {fn target} (h : MemOk s) : ResOk (execTdispStateRequest fn target s) := .next (MemOk.ite h h)

theorem execTdispErrorTransition_resOk {fn} (h : MemOk s) : ResOk (execTdispErrorTransition fn s) :=
  ResOk.ite (.next h) (.next (memOk_foldl _ _ (fun _ _ hs => killWhole_memOk hs) _ h))

/-! A die that comes up is written its list: the lists and the dies stand as variables in what follows, and the kernel does not run those writes. -/

theorem State.setBooted_memOk {pkg pkgPa : Nat} {migBase pkgVa : Word} {measures : Sparse (BitVec 384)} (h : MemOk s) :
    MemOk { s with booted := true, migBase := migBase, pkg := pkg, pkgVa := pkgVa, pkgPa := pkgPa, measures := measures } := h

theorem withdrawCores_memOk {l : List Nat} (h : MemOk s) : MemOk (l.foldl (fun s k => s.modCore k fun c => { c with withdrawn := true }) s) :=
  memOk_foldl _ _ (fun _ _ hs => MemOk.of_mem (modCore_mem _ _ _) hs) _ h

theorem bringUpDies_memOk {b} {l : List Nat} (h : MemOk s) : MemOk (l.foldl (bringUpDie b) s) :=
  memOk_foldl _ _ (fun _ _ hs => bringUpDie_memOk hs) _ h

/-! ### Bring-up, resets and errors -/

theorem execPowerGood_resOk {b} (h : MemOk s) : ResOk (execPowerGood b s) := by
  unfold execPowerGood
  split
  · exact .next h
  · exact .next (setBooted_memOk (writeList_memOk (bringUpDies_memOk (withdrawCores_memOk h))))

theorem execThermalShutdown_resOk {die} (h : MemOk s) : ResOk (execThermalShutdown die s) := by
  unfold execThermalShutdown
  split
  · exact .next h
  · exact .next (MemOk.of_mem (modDie_mem _ _ _) (memOk_foldl _ _ (fun _ _ hs => dropSupervisor_memOk (cleanCore_memOk _ _ hs)) _ (memOk_foldl _ _
        (fun _ _ hs => killWhole_memOk hs) _ (MemOk.of_mem (modDie_mem _ _ _) h))))

theorem execDieResetRelease_resOk {r} (h : MemOk s) : ResOk (execDieResetRelease r s) := by
  unfold execDieResetRelease
  split
  · exact .next h
  · exact .next (writeList_memOk (writeList_memOk (MemOk.of_mem (modDie_mem _ _ _) (memOk_foldl _ _ (fun _ _ hs => resetCore_memOk hs) _ h))))

theorem execSoftError_resOk {e} (h : MemOk s) : ResOk (execSoftError e s) := by
  unfold execSoftError
  split
  · exact .next h
  · exact .next (MemOk.ite (MemOk.of_mem (modCore_mem _ _ _) h) h)
  · exact .next (MemOk.ite (MemOk.of_mem (setPoison_mem _ _ _) h) h)
  · exact .next (MemOk.ite (MemOk.of_mem (modCore_mem _ _ _) h) h)
  · exact .next (MemOk.of_mem (modStrand_mem _ _ _) h)
  · exact .next (MemOk.ite (MemOk.of_mem (modMx_mem _ _ _) h) h)
  · exact .next (MemOk.ite (MemOk.of_mem (modMx_mem _ _ _) h) h)
  split
  · exact .next (endGroup_memOk (MemOk.ite h (MemOk.of_mem (modCore_mem _ _ _) h)))
  · exact .next h

theorem execKaolinUncorrectableError_resOk {line} (h : MemOk s) : ResOk (execKaolinUncorrectableError line s) :=
  .next (MemOk.ite (MemOk.of_mem (setPoison_mem _ _ _) h) h)

theorem execCoreWithdrawal_resOk {core faulted} (h : MemOk s) : ResOk (execCoreWithdrawal core faulted s) := by
  unfold execCoreWithdrawal
  simp only
  split
  · exact .next h
  · exact .next (MemOk.of_mem (moveLimits_mem _) (dropSupervisor_memOk (memOk_foldl _ _ (fun _ _ hs => endGroup_memOk hs) _ (homeWrite_memOk _ _ _ _ _
        (MemOk.of_mem (modCore_mem _ _ _) (MemOk.of_mem (modDie_mem _ _ _) h))))))

theorem execPeerLinkLoss_resOk {peer} (h : MemOk s) : ResOk (execPeerLinkLoss peer s) := .next (MemOk.ite h h)

theorem execPeerLinkReturn_resOk {peer} (h : MemOk s) : ResOk (execPeerLinkReturn peer s) := .next h

theorem execSpdmRequest_resOk {r} (h : MemOk s) : ResOk (execSpdmRequest r s) := by
  unfold execSpdmRequest
  split
  · exact .next (MemOk.of_mem (view_mem _ _) h)
  · exact .next (MemOk.of_mem (view_mem _ _) h)
  · exact .next (MemOk.ite h h)

theorem execFirmwareImageUpdate_resOk {block hash signed} (h : MemOk s) : ResOk (execFirmwareImageUpdate block hash signed s) :=
  .next (MemOk.ite h h)

/-! ### The ends of waits -/

theorem execWaitaSatisfied_resOk {sid} (h : MemOk s) : ResOk (execWaitaSatisfied sid s) := by
  unfold execWaitaSatisfied
  refine endWait_resOk h fun i g e s hs => ?_
  split at e
  · cases e
    exact execWaita_resOk hs
  · cases e

theorem execTlwaitSatisfied_resOk {sid} (h : MemOk s) : ResOk (execTlwaitSatisfied sid s) := by
  unfold execTlwaitSatisfied
  refine endWait_resOk h fun i g e s hs => ?_
  split at e
  · cases e
    exact execTlwait_resOk hs
  · cases e

theorem execBarrierArrival_resOk {sid} (h : MemOk s) : ResOk (execBarrierArrival sid s) := by
  unfold execBarrierArrival
  refine endWait_resOk h fun i g e s hs => ?_
  split at e
  · cases e
    exact execBarArv_resOk hs
  · cases e

theorem execBarWtEnd_resOk {sid} (h : MemOk s) : ResOk (execBarWtEnd sid s) := by
  unfold execBarWtEnd
  refine endWait_resOk h fun i g e s hs => ?_
  split at e
  · cases e
    exact execBarWt_resOk hs
  · cases e

theorem execJoinSatisfied_resOk {sid} (h : MemOk s) : ResOk (execJoinSatisfied sid s) := by
  unfold execJoinSatisfied
  refine endWait_resOk h fun i g e s hs => ?_
  split at e
  · cases e
    exact execJoin_resOk hs
  · cases e

theorem execRqpopEnd_resOk {sid} (h : MemOk s) : ResOk (execRqpopEnd sid s) := by
  unfold execRqpopEnd
  refine endWait_resOk h fun i g e s hs => ?_
  split at e
  · cases e
    exact execRqpop_resOk hs
  · cases e

theorem execWaitcEnd_resOk {sid} (h : MemOk s) : ResOk (execWaitcEnd sid s) := by
  unfold execWaitcEnd
  refine endWait_resOk h fun i g e s hs => ?_
  split at e
  · cases e
    exact execWaitc_resOk hs
  · cases e

theorem execShareGrant_resOk {sid} (h : MemOk s) : ResOk (execShareGrant sid s) := by
  unfold execShareGrant
  refine endWait_resOk h fun i g e s hs => ?_
  split at e
  · cases e
    exact execSetvl_resOk hs
  · cases e
    exact execVrestoreSt_resOk hs
  · cases e

theorem execCopySlotFree_resOk {sid} (h : MemOk s) : ResOk (execCopySlotFree sid s) := by
  unfold execCopySlotFree
  refine endWait_resOk h fun i g e s hs => ?_
  split at e
  · cases e
    exact execCopy_resOk hs
  · cases e
    exact execCopyMc_resOk hs
  · cases e
    exact execPersist_resOk hs
  · cases e

theorem execIdleEnd_resOk {sid} (h : MemOk s) : ResOk (execIdleEnd sid s) := by
  unfold execIdleEnd
  refine endWait_resOk h fun i g e s hs => ?_
  split at e
  · cases e
    exact execIdle_resOk hs
  · cases e

theorem execWaitTimeout_resOk {sid} (h : MemOk s) : ResOk (execWaitTimeout sid s) := by
  unfold execWaitTimeout
  split
  · exact .next h
  refine endWait_resOk h fun i g e s hs => ?_
  split at e
  · cases e
    exact execWaita_resOk hs
  · cases e
    exact execTlwait_resOk hs
  · cases e
    exact execBarWt_resOk hs
  · cases e
    exact execJoin_resOk hs
  · cases e

theorem execPreemptCsrWrite_resOk {sid value} (h : MemOk s) : ResOk (execPreemptCsrWrite sid value s) :=
  .next (MemOk.ite (MemOk.of_mem (setPreempt_mem _ _) h) h)

theorem execWdwinWrite_resOk {sid value} (h : MemOk s) : ResOk (execWdwinWrite sid value s) := .next (MemOk.ite (setWdwin_memOk h) h)

theorem execCsrWrite_resOk {sid csr value} (h : MemOk s) : ResOk (execCsrWrite sid csr value s) := .next (MemOk.ite (csrSet_memOk h) h)

end Sys2Proof.Machine
end

section
/-!
SUPPORT. Memory keeps its canonical form, part 4: every instruction and event, and the turn around it.
-/

namespace Sys2Proof.Machine
open State

variable {s t : State}

/-- Every instruction and event answers memory in its canonical form. -/
theorem exec_resOk (i : Instr) (h : MemOk s) : ResOk (exec i s) := by
  unfold exec
  cases i with
  | vadd | vsub | vrsub | vand | vor | vxor | vsll | vsrl | vsra | vmin | vmax | vminu | vmaxu | vmul | vmulh | vmulhu | vdiv | vdivu | vrem
  | vremu | vmadd | vsadd | vsaddu | vssub | vssubu | vgadd | vgsub | vgcy | vgbw | vmseq | vmsne | vmslt | vmsltu | vmsle | vmsleu | vmsgt | vmsgtu
  | vredsum | vredmax | vredmin | vredmaxu | vredminu | vredand | vredor | vredxor | vfadd | vfsub | vfmul | vfdiv | vfsqrt | vfmin | vfmax | vfma
  | vfms | vfnma | vfsgnj | vfsgnjn | vfcvtF32Bf16 | vfcvtBf16F32 | vfcvtFI | vfcvtFU | vfcvtIF | vfcvtUF | vmfeq | vmfne | vmflt | vmfle | vmfgt
  | vmfge | vmford | vmfclass | vfredsum | vfredmax | vfredmin | vfaddF64 | vfsubF64 | vfmulF64 | vfdivF64 | vfsqrtF64 | vfminF64 | vfmaxF64
  | vfmaF64 | vfmsF64 | vfnmaF64 | vfsgnjF64 | vfsgnjnF64 | vfcvtF64F32 | vfcvtF32F64 | vfcvtFIF64 | vfcvtFUF64 | vfcvtIFF64 | vfcvtUFF64 | vmfeqF64
  | vmfneF64 | vmfltF64 | vmfleF64 | vmfgtF64 | vmfgeF64 | vmfordF64 | vmfclassF64 | vfredsumF64 | vfredmaxF64 | vfredminF64 | vqscale | vreds
  | vqapply | vqquant | vtopk | vmand | vmor | vmxor | vmandn | vmorn | vmnand | vmnor | vmxnor | vmrel | vmpopc | vmfirst | vmslide1 | vshiftUp
  | vshiftDn | vshiftInsUp | vshiftInsDn | vrotDn | vrotUp | vrgather | vmv | vsel | vcompress | vexpand | viota | vid | vconfl | vsegscan => exact va_resOk h
  | add | sub | and | or | xor | sll | srl | sra | slt | sltu | mul | mulh | mulhu | div | divu | rem | remu | seq | sne | sge | sgeu | min | max
  | minu | maxu | bfd => exact alu2_resOk h
  | addi | andi | ori | xori | slti | sltiu | slli | srli | srai | clz | ctz | cpop | bfx | bfxs => exact alu1_resOk h
  | vamoAdd | vamoMin | vamoMax | vamoMinu | vamoMaxu | vamoSwap | vamoCas | vamoFadd => exact amo_resOk h
  | vmpopcRq | vmfirstRq | vrqb | vrqe | vsetlc | vsetvl | vthrmax => exact member_resOk h
  | beq | bne | blt | bge | bltu | bgeu => exact branch_resOk h
  | ldZ | ldS | ldZOrdered | ldSOrdered => exact load_resOk h
  | vld | vlds | vldx | vldff => exact vload_resOk h
  | vst | vsts | vstx | vstr => exact vstore_resOk h
  | csrrd | csrwr | csrmw => exact csrOp_resOk h
  | st | stOrdered => exact store_resOk h
  | ll | llOrdered => exact loadLink_resOk h
  | sc | scOrdered => exact storeCond_resOk h
  | smb | smbLong => exact smb_resOk h
  | ownhintDev | ownhintHost => exact ownhint_resOk h
  | visect | vmerge => exact merge_resOk h
  | vtoa | vtoaS => exact vtoaStart_resOk h
  | lui => exact execLui_resOk h
  | apc => exact execApc_resOk h
  | li => exact execLi_resOk h
  | addiL => exact execAddiL_resOk h
  | j => exact execJ_resOk h
  | call => exact doCall_resOk h
  | jr => exact execJr_resOk h
  | callr => exact execCallr_resOk h
  | ret => exact execRet_resOk h
  | setvl => exact execSetvl_resOk h
  | setvlK => exact execSetvlK_resOk h
  | vcfg => exact execVcfg_resOk h
  | vblk => exact queueBlock_resOk h
  | vblkr => exact execVblkr_resOk h
  | rqpop => exact execRqpop_resOk h
  | waitc => exact execWaitc_resOk h
  | fence => exact execFence_resOk h
  | waita => exact execWaita_resOk h
  | tlwait => exact execTlwait_resOk h
  | barArv => exact execBarArv_resOk h
  | barWt => exact execBarWt_resOk h
  | barInit => exact execBarInit_resOk h
  | trig => exact execTrig_resOk h
  | exit => exact execExit_resOk h
  | join => exact execJoin_resOk h
  | wmcfg => exact execWmcfg_resOk h
  | wmpub => exact execWmpub_resOk h
  | strmPush => exact execStrmPush_resOk h
  | progress => exact execProgress_resOk h
  | launch => exact execLaunch_resOk h
  | copy => exact execCopy_resOk h
  | copyMc => exact execCopyMc_resOk h
  | persist => exact execPersist_resOk h
  | ecall => exact execEcall_resOk h
  | tret => exact execTret_resOk h
  | tretS => exact execTretS_resOk h
  | hget => exact execHget_resOk h
  | hput => exact execHput_resOk h
  | tren => exact execTren_resOk h
  | idle => exact execIdle_resOk h
  | yield => exact execYield_resOk h
  | tinvAll => exact execTinvAll_resOk h
  | tinvAs => exact execTinvAs_resOk h
  | tinvPg => exact execTinvPg_resOk h
  | lcclean => exact execLcclean_resOk h
  | lcinval => exact execLcinval_resOk h
  | vsave => exact execVsave_resOk h
  | vrestore => exact execVrestore_resOk h
  | vrestoreSt => exact execVrestoreSt_resOk h
  | mcfg => exact execMcfg_resOk h
  | mldb => exact execMldb_resOk h
  | mldbX => exact execMldbX_resOk h
  | mma => exact execMma_resOk h
  | mvrdSgn => exact execMvrdSgn_resOk h
  | mvrdTopk => exact execMvrdTopk_resOk h
  | mclr => exact execMclr_resOk h
  | mstc => exact execMstc_resOk h
  | mthr => exact execMthr_resOk h
  | mthw => exact execMthw_resOk h
  | mstat => exact execMstat_resOk h
  | vlink => exact execVlink_resOk h
  | vscond => exact execVscond_resOk h
  | rred => exact execRred_resOk h
  | vwaitv => exact execVwaitv_resOk h
  | vfromc => exact execVfromc_resOk h
  | blockStart => exact execBlockStart_resOk h
  | convoyStripIssue => exact execConvoyStripIssue_resOk h
  | memoryReply => exact execMemoryReply_resOk h
  | vamoCommit => exact execVamoCommit_resOk h
  | convoyRetire => exact execConvoyRetire_resOk h
  | trapNoticePush => exact execTrapNoticePush_resOk h
  | forcedPreemption => exact execForcedPreemption_resOk h
  | heldPreemptExpiry => exact execHeldPreemptExpiry_resOk h
  | watchdogWindowEnd => exact execWatchdogWindowEnd_resOk h
  | migration => exact execMigration_resOk h
  | placement => exact execPlacement_resOk h
  | gangAcceptance => exact execGangAcceptance_resOk h
  | groupRetirement => exact execGroupRetirement_resOk h
  | joinStatusWrite => exact execJoinStatusWrite_resOk h
  | groupKill => exact execGroupKill_resOk h
  | groupFaultEnd => exact execGroupFaultEnd_resOk h
  | streamLaunch => exact execStreamLaunch_resOk h
  | streamCopy => exact execStreamCopy_resOk h
  | streamWaitv => exact execStreamWaitv_resOk h
  | streamSigv => exact execStreamSigv_resOk h
  | streamTrigwait => exact execStreamTrigwait_resOk h
  | streamCommandComplete => exact execStreamCommandComplete_resOk h
  | streamWaitvTimeout => exact execStreamWaitvTimeout_resOk h
  | registerAddressSpace => exact execRegisterAddressSpace_resOk h
  | registerStream => exact execRegisterStream_resOk h
  | mapCopyContext => exact execMapCopyContext_resOk h
  | setStreamState => exact execSetStreamState_resOk h
  | setContextState => exact execSetContextState_resOk h
  | pinOwnershipRegion => exact execPinOwnershipRegion_resOk h
  | unpinOwnershipRegion => exact execUnpinOwnershipRegion_resOk h
  | enableOwnershipDomain => exact execEnableOwnershipDomain_resOk h
  | disableOwnershipDomain => exact execDisableOwnershipDomain_resOk h
  | placeSupervisorStrand => exact execPlaceSupervisorStrand_resOk h
  | removeSupervisorStrand => exact execRemoveSupervisorStrand_resOk h
  | copyOperationStart => exact execCopyOperationStart_resOk h
  | copyOperationEnd => exact execCopyOperationEnd_resOk h
  | copyFaultStop => exact execCopyFaultStop_resOk h
  | copyMcDestinationComplete => exact execCopyMcDestinationComplete_resOk h
  | persistenceFlushAck => exact execPersistenceFlushAck_resOk h
  | rredUpdate => exact execRredUpdate_resOk h
  | ownershipTransferComplete => exact execOwnershipTransferComplete_resOk h
  | ownershipTransferTimeout => exact execOwnershipTransferTimeout_resOk h
  | hostRead => exact execHostRead_resOk h
  | hostWrite => exact execHostWrite_resOk h
  | lineEviction => exact execLineEviction_resOk h
  | fetchFill => exact execFetchFill_resOk h
  | codeObjectLoad asid desc len => exact execCodeObjectLoad_resOk (asid := asid) (desc := desc) (len := len) h
  | rowClaim => exact execRowClaim_resOk h
  | mldbComplete => exact execMldbComplete_resOk h
  | checkPoint => exact execCheckPoint_resOk h
  | accumulatorRowWrite => exact execAccumulatorRowWrite_resOk h
  | mclrComplete => exact execMclrComplete_resOk h
  | mstcComplete => exact execMstcComplete_resOk h
  | waitaSatisfied => exact execWaitaSatisfied_resOk h
  | tlwaitSatisfied => exact execTlwaitSatisfied_resOk h
  | barrierArrival => exact execBarrierArrival_resOk h
  | barWtEnd => exact execBarWtEnd_resOk h
  | joinSatisfied => exact execJoinSatisfied_resOk h
  | rqpopEnd => exact execRqpopEnd_resOk h
  | waitcEnd => exact execWaitcEnd_resOk h
  | shareGrant => exact execShareGrant_resOk h
  | copySlotFree => exact execCopySlotFree_resOk h
  | watermarkWaitEnd => exact execWatermarkWaitEnd_resOk h
  | vwaitvElementSatisfied => exact execVwaitvElementSatisfied_resOk h
  | waitTimeout => exact execWaitTimeout_resOk h
  | watermarkTimeout => exact execWatermarkTimeout_resOk h
  | vwaitvExpiry => exact execVwaitvExpiry_resOk h
  | idleEnd => exact execIdleEnd_resOk h
  | preemptCsrWrite => exact execPreemptCsrWrite_resOk h
  | wdwinWrite => exact execWdwinWrite_resOk h
  | csrWrite => exact execCsrWrite_resOk h
  | breakpoint => exact execBreakpoint_resOk h
  | fyvContinue => exact execFyvContinue_resOk h
  | fyvPreempt => exact execFyvPreempt_resOk h
  | fyvView => exact execFyvView_resOk h
  | monitorTrace => exact execMonitorTrace_resOk h
  | rredlog => exact execRredlog_resOk h
  | ctx => exact execCtx_resOk h
  | vamoView => exact execVamoView_resOk h
  | mrec => exact execMrec_resOk h
  | xlate => exact execXlate_resOk h
  | hostrd => exact execHostrd_resOk h
  | hostwr => exact execHostwr_resOk h
  | powerGood => exact execPowerGood_resOk h
  | thermalShutdown => exact execThermalShutdown_resOk h
  | dieResetRelease => exact execDieResetRelease_resOk h
  | softError => exact execSoftError_resOk h
  | kaolinUncorrectableError => exact execKaolinUncorrectableError_resOk h
  | coreWithdrawal => exact execCoreWithdrawal_resOk h
  | peerLinkLoss => exact execPeerLinkLoss_resOk h
  | tdispErrorTransition => exact execTdispErrorTransition_resOk h
  | spdmRequest => exact execSpdmRequest_resOk h
  | firmwareImageUpdate => exact execFirmwareImageUpdate_resOk h
  | illegalEncoding => exact trap_resOk h
  | rowLeavesStage => exact execRowLeavesStage_resOk h
  | storePerformedAtHome => exact execStorePerformedAtHome_resOk h
  | hostLinkTraining => exact execHostLinkTraining_resOk h
  | tdispStateRequest => exact execTdispStateRequest_resOk h
  | peerLinkReturn => exact execPeerLinkReturn_resOk h

theorem State.tick_memOk {dt} (h : MemOk s) : MemOk (s.tick dt) := MemOk.ite h h

theorem strandTurn_resOk {sid} (h : MemOk s) : ResOk (strandTurn s sid) := by
  have hs : MemOk { s with cur := sid } := h
  unfold strandTurn
  generalize ({ s with cur := sid } : State) = u at hs ⊢
  split
  · exact .fault _
  refine ResOk.ite (.next hs) ?_
  split
  · exact exec_resOk _ (MemOk.of_eq (fetchScalar_memOk hs) ‹_›)
  · exact trap_resOk (MemOk.of_eq (fetchScalar_memOk hs) ‹_›)

theorem vectorTurn_resOk {sid} (h : MemOk s) : ResOk (vectorTurn s sid) := by
  have hs : MemOk { s with cur := sid } := h
  unfold vectorTurn
  generalize ({ s with cur := sid } : State) = u at hs ⊢
  split
  · exact .fault _
  split
  · exact ResOk.ite (exec_resOk _ hs) (among_resOk hs fun _ hq => exec_resOk _ hq)
  · exact .next h

theorem turn_resOk {who} (h : MemOk s) : ResOk (turn s who) := by
  unfold turn
  cases who with
  | strand sid => exact strandTurn_resOk h
  | vector sid => exact vectorTurn_resOk h
  | event i => exact ResOk.ite (exec_resOk i h) (.next h)
  | idle => exact .next h

theorem step_resOk (h : MemOk s) : ResOk (step s) := by
  unfold step
  split
  · rename_i t rest _
    have hs : MemOk { s with agenda := rest, pick := t.nth } := h
    exact watch_resOk (turn_resOk (tick_memOk hs))
  · exact watch_resOk (turn_resOk (MemOk.of_mem rotate_mem (tick_memOk h)))

end Sys2Proof.Machine

namespace Sys2Proof
open Machine
/-- Settles O4: every instruction and event of exec keeps the form (exec_resOk), and so does what a turn does around it. -/
theorem memoryStaysCanonical : Obligations.MemoryStaysCanonical := by
  intro s t hs hstep
  have h := step_resOk hs
  rw [hstep] at h
  exact h.memOk
end Sys2Proof
end

section
/-!
SUPPORT. The frame of a store (R104, R189): memory bit by bit, and each bit with the stores of a core's strands in it, which the moves of the core's line cache
leave as it is and a write changes in the bits it writes alone.
-/

namespace Sys2Proof.Machine

/-! ### Bits at their homes -/

/-- Bit i of memory. -/
def Mem.bit (m : List Host.Cell) (i : Nat) : Bool := (Mem.byte m (i / 8)).toNat.testBit (i % 8)

theorem Mem.testBit_readBytes {m : List Host.Cell} (h : Mem.wf m = true) (k n i : Nat) :
    (Mem.readBytes m k n).testBit i = (decide (i < 8 * n) && Mem.bit m (8 * k + i)) := by
  induction n generalizing k i with
  | zero => simp [Mem.readBytes_zero]
  | succ n ih =>
    rw [Mem.readBytes_succ m k n h, Nat.add_comm, Nat.testBit_two_pow_mul_add _ (Mem.byte m k).isLt, ih]
    unfold Mem.bit
    by_cases hi : i < 8
    · rw [if_pos hi, show (8 * k + i) / 8 = k by omega, show (8 * k + i) % 8 = i by omega, decide_eq_true (by omega : i < 8 * (n + 1)), Bool.true_and]
    · rw [if_neg hi, show (8 * (k + 1) + (i - 8)) = 8 * k + i by omega]
      congr 1
      exact decide_eq_decide.2 (by omega)

theorem Mem.testBit_readBits {m : List Host.Cell} (h : Mem.wf m = true) (fa w i : Nat) :
    (Mem.readBits m fa w).testBit i = (decide (i < w) && Mem.bit m (fa + i)) := by
  unfold Mem.readBits
  rw [Nat.testBit_mod_two_pow, Nat.testBit_div_two_pow, Mem.testBit_readBytes h, show 8 * (fa / 8) + (i + fa % 8) = fa + i by omega]
  by_cases hi : i < w
  · have : i + fa % 8 < 8 * ceilDiv (fa % 8 + w) 8 := by
      unfold ceilDiv
      omega
    simp [hi, this]
  · simp [hi]

/-- A write of bits leaves every other bit as it was, in the bytes it covers in part too (R6). -/
theorem Mem.bit_writeBits_of_outside {m : List Host.Cell} (h : Mem.wf m = true) {fa w v i : Nat} (hi : i < fa ∨ fa + w ≤ i) :
    Mem.bit (Mem.writeBits m fa w v) i = Mem.bit m i := by
  unfold Mem.bit Mem.writeBits
  simp only
  rw [Mem.byte_writeBytes _ _ _ _ _ h]
  split
  · rename_i hin
    obtain ⟨hlo, hhi⟩ := hin
    unfold ceilDiv at hhi ⊢
    rw [BitVec.toNat_ofNat, Nat.testBit_mod_two_pow, decide_eq_true (by omega : i % 8 < 8), Bool.true_and, Nat.testBit_div_two_pow, testBit_putField,
      if_neg (by omega), Mem.testBit_readBytes h, decide_eq_true (by omega), Bool.true_and]
    unfold Mem.bit
    rw [show (8 * (fa / 8) + (i % 8 + 8 * (i / 8 - fa / 8))) = i by omega]
  · rfl

theorem State.testBit_home {s : State} (hs : MemOk s) (fa w i : Nat) : (s.home fa w).testBit i = (decide (i < w) && Mem.bit s.mem (fa + i)) :=
  Mem.testBit_readBits hs fa w i

theorem State.bit_homeWrite_of_outside {s : State} (hs : MemOk s) {fa w i : Nat} (v : Nat) (p : Bool) (hi : i < fa ∨ fa + w ≤ i) :
    Mem.bit (s.homeWrite fa w v p).mem i = Mem.bit s.mem i := by
  rw [s.homeWrite_mem]
  exact Mem.bit_writeBits_of_outside hs hi

/-! ### A bit with a core's stores in it -/

/-- Bit i of a line with the stores of the core's strands in it: the copy's where it is dirty, else the home's (R189). -/
def LineView.bit (x : LineView) (i : Nat) : Bool :=
  match x.entry with
  | some l => if l.dirty.testBit i then l.data.testBit i else x.home.testBit i
  | none => x.home.testBit i

/-- Bit b of memory with the stores of core k's strands in it. -/
def State.storedBit (s : State) (k b : Nat) : Bool := (s.lineView k (b / 512)).bit (b % 512)

/-- A move of the cache leaves every bit with the stores in it as it was. -/
theorem LineMove.bit_eq {x y : LineView} (h : LineMove x y) {i : Nat} (hi : i < 512) : y.bit i = x.bit i := by
  cases h with
  | writeBack l h h' p p' hh hp => simp [LineView.bit, hh i hi]
  | drop l h p hd => simp [LineView.bit, hd]
  | fill h p c => simp [LineView.bit]

theorem LineMove.bit_eq_of_moves {x y : LineView} (h : Relation.ReflTransGen LineMove x y) {i : Nat} (hi : i < 512) : y.bit i = x.bit i := by
  induction h with
  | refl => rfl
  | tail _ m ih => exact (m.bit_eq hi).trans ih

theorem CacheMoves.storedBit {k : Nat} {s t : State} (h : CacheMoves k s t) (hs : MemOk s) (b : Nat) : t.storedBit k b = s.storedBit k b :=
  LineMove.bit_eq_of_moves ((h hs).2 _) (Nat.mod_lt _ (by decide))

/-- Chosen bits of one byte over those of another. -/
theorem testBit_chosen (a b m j : Nat) (hj : j < 8) :
    ((a &&& ((2 ^ 8 - 1) ^^^ m)) ||| (b &&& m)).testBit j = if m.testBit j then b.testBit j else a.testBit j := by
  rw [Nat.testBit_or, Nat.testBit_and, Nat.testBit_and, Nat.testBit_xor, Nat.testBit_two_pow_sub_one, decide_eq_true hj]
  cases m.testBit j <;> simp

/-- The bits of a byte with the stores of core c's strands in it. -/
theorem testBit_stored {s : State} (hs : MemOk s) (c k : Nat) {j : Nat} (hj : j < 8) : (Spec.stored s c k).testBit j = s.storedBit c (8 * k + j) := by
  have hline : (8 * k + j) / 512 = 8 * k / 512 := by omega
  have hbyte : (s.home (8 * k) 8).testBit j = Mem.bit s.mem (8 * k + j) := by rw [State.testBit_home hs, decide_eq_true hj, Bool.true_and]
  have hhome : (s.home (8 * k / 512 * 512) 512).testBit ((8 * k + j) % 512) = Mem.bit s.mem (8 * k + j) := by
    rw [State.testBit_home hs, decide_eq_true (Nat.mod_lt _ (by decide)), Bool.true_and, ← hline, Nat.div_add_mod']
  unfold Spec.stored State.storedBit LineView.bit State.lineView State.lineEntry
  rw [hline]
  split
  · rename_i he
    simp only [he, hhome, hbyte]
  · rename_i l he
    simp only [he, hhome]
    rw [testBit_chosen _ _ _ _ hj, testBit_field, testBit_field, decide_eq_true hj, Bool.true_and, Bool.true_and, hbyte,
      show 8 * k % 512 + j = (8 * k + j) % 512 by omega]

theorem stored_lt (s : State) (c k : Nat) : Spec.stored s c k < 2 ^ 8 := by
  have hhome : s.home (8 * k) 8 < 2 ^ 8 := Nat.mod_lt _ (by decide)
  unfold Spec.stored
  split
  · exact hhome
  · refine Nat.or_lt_two_pow (lt_of_le_of_lt Nat.and_le_left hhome) (lt_of_le_of_lt Nat.and_le_right ?_)
    exact Nat.mod_lt _ (by decide)

/-- A byte whose every bit reads as before reads as before. -/
theorem stored_eq {s t : State} (hs : MemOk s) (ht : MemOk t) {c k : Nat} (h : ∀ j, j < 8 → t.storedBit c (8 * k + j) = s.storedBit c (8 * k + j)) :
    Spec.stored t c k = Spec.stored s c k := by
  refine Nat.eq_of_testBit_eq fun j => ?_
  by_cases hj : j < 8
  · rw [testBit_stored ht c k hj, testBit_stored hs c k hj, h j hj]
  · have hbig : 2 ^ 8 ≤ 2 ^ j := Nat.pow_le_pow_right (by decide) (by omega)
    rw [Nat.testBit_lt_two_pow (lt_of_lt_of_le (stored_lt t c k) hbig), Nat.testBit_lt_two_pow (lt_of_lt_of_le (stored_lt s c k) hbig)]

/-! ### What a write leaves of the other bits -/

/-- Bit b lies outside bits fa to fa + w − 1. -/
def OutsideBits (fa w b : Nat) : Prop := b < fa ∨ fa + w ≤ b

/-- From s to t memory stays canonical, and the bits outside fa to fa + w − 1 keep what core k's strands stored in them. -/
def WritesOnly (k fa w : Nat) (s t : State) : Prop := MemOk s → MemOk t ∧ ∀ b, OutsideBits fa w b → t.storedBit k b = s.storedBit k b

theorem WritesOnly.trans {k fa w : Nat} {s t u : State} (h : WritesOnly k fa w s t) (h' : WritesOnly k fa w t u) : WritesOnly k fa w s u := fun hs => by
  obtain ⟨ht, hb⟩ := h hs
  obtain ⟨hu, hb'⟩ := h' ht
  exact ⟨hu, fun b ho => (hb' b ho).trans (hb b ho)⟩

theorem CacheMoves.writesOnly {k : Nat} {s t : State} (h : CacheMoves k s t) (fa w : Nat) : WritesOnly k fa w s t := fun hs =>
  ⟨(h hs).1, fun b _ => h.storedBit hs b⟩

theorem State.storedBit_congr {s t : State} (hmem : t.mem = s.mem) (hcores : t.cores = s.cores) (k b : Nat) : t.storedBit k b = s.storedBit k b := by
  unfold State.storedBit State.lineView LineView.bit State.home
  rw [hmem, State.lineEntry_of_cores _ _ hcores]

/-- A line's part of a write leaves the bits outside the write, in the line it fills and in every other. -/
theorem State.writeLine_writesOnly (s : State) (k cls fa w v : Nat) (p : Bool) {line : Nat} (h : line ∈ linesOf fa w) :
    WritesOnly k fa w s (s.writeLine k cls fa w v p line) := by
  obtain ⟨_, hlo, hhi⟩ := (mem_linesOf fa w line).1 h
  refine ((s.fill_moves k cls line).writesOnly fa w).trans fun hs => ⟨hs, fun b hb => ?_⟩
  unfold State.writeLine
  generalize s.fill k cls line = u
  unfold OutsideBits at hb
  unfold State.storedBit State.lineView LineView.bit
  simp only [State.lineEntry_putLine]
  by_cases hline : b / 512 = line
  · have hout : ¬ ((lineSlice fa w line).1 ≤ b % 512 ∧ b % 512 < (lineSlice fa w line).1 + (lineSlice fa w line).2.2) := by
      simp only [lineSlice]
      omega
    rw [if_pos hline]
    simp only [testBit_putField, if_neg hout, Nat.testBit_or, testBit_ones, ← Bool.decide_and, decide_eq_false hout, Bool.or_false]
    rw [u.cacheLine_eq, ← hline]
    cases u.lineEntry k (b / 512) with
    | none => simp; rfl
    | some l => rfl
  · rw [if_neg hline]
    rfl

theorem State.cacheWrite_writesOnly (s : State) (k cls fa w v : Nat) (p : Bool) : WritesOnly k fa w s (s.cacheWrite k cls fa w v p) := by
  rw [s.cacheWrite_eq]
  exact List.foldlRecOn (motive := fun t => WritesOnly k fa w s t) _ _ (fun hs => ⟨hs, fun _ _ => rfl⟩) fun t ht line hl =>
    ht.trans (t.writeLine_writesOnly k cls fa w v p hl)

theorem State.homeWrite_writesOnly (s : State) (k fa w v : Nat) (p : Bool) : WritesOnly k fa w s (s.homeWrite fa w v p) := fun hs => by
  have ht := s.homeWrite_memOk fa w v p hs
  refine ⟨ht, fun b hb => ?_⟩
  have hhome : ((s.homeWrite fa w v p).home (b / 512 * 512) 512).testBit (b % 512) = (s.home (b / 512 * 512) 512).testBit (b % 512) := by
    rw [State.testBit_home ht, State.testBit_home hs, Nat.div_add_mod', State.bit_homeWrite_of_outside hs v p hb]
  unfold State.storedBit State.lineView LineView.bit
  simp only [hhome, State.lineEntry_of_cores _ _ (s.homeWrite_cores fa w v p)]

/-! ### The line caches of other cores -/

/-- From s to t only core k changes. -/
def OnlyCore (k : Nat) (s t : State) : Prop := ∀ c, c ≠ k → t.core c = s.core c

namespace OnlyCore

variable {k : Nat} {s t u : State}

theorem refl (s : State) : OnlyCore k s s := fun _ _ => rfl

theorem trans (h : OnlyCore k s t) (h' : OnlyCore k t u) : OnlyCore k s u := fun c hc => (h' c hc).trans (h c hc)

theorem foldl {α : Type} (f : State → α → State) (h : ∀ s x, OnlyCore k s (f s x)) (l : List α) (s : State) : OnlyCore k s (l.foldl f s) :=
  List.foldlRecOn (motive := fun t => OnlyCore k s t) _ _ (refl s) fun _ ht x _ => ht.trans (h _ x)

theorem of_cores (h : t.cores = s.cores) : OnlyCore k s t := fun _ _ => by
  unfold State.core
  rw [h]

theorem modCore (s : State) (f : Core → Core) : OnlyCore k s (s.modCore k f) := fun _ hc => State.core_setCore_ne _ _ _ _ hc

end OnlyCore

section
variable (s : State) (k : Nat)

theorem State.writeBackOne_onlyCore (line : Nat) : OnlyCore k s (s.writeBackOne k line) := by
  cases h : s.lineEntry k line with
  | none =>
    rw [s.writeBackOne_of_none k line h]
    exact .refl s
  | some l =>
    rw [s.writeBackOne_of_some k line l h]
    exact (OnlyCore.of_cores (s.homeWriteLine_cores _ _ _ _ _)).trans (.modCore _ _)

theorem State.classBack_onlyCore (mask : Nat) : OnlyCore k s (s.classBack k mask) := .foldl _ (fun t l => t.writeBackOne_onlyCore k l) _ s

theorem State.writeBack_onlyCore (line : Nat) : OnlyCore k s (s.writeBack k line) := by
  cases h : s.lineEntry k line with
  | none =>
    rw [s.writeBack_of_none k line h]
    exact .refl s
  | some l =>
    rw [s.writeBack_of_some k line l h]
    split
    · exact .refl s
    · exact (s.classBack_onlyCore k _).trans (State.writeBackOne_onlyCore _ k line)

theorem State.evict_onlyCore (line : Nat) : OnlyCore k s (s.evict k line) := (s.writeBack_onlyCore k line).trans (.modCore _ _)

theorem State.fill_onlyCore (cls line : Nat) : OnlyCore k s (s.fill k cls line) := by
  unfold State.fill
  split
  · exact .refl s
  · refine ((s.evict_onlyCore k line).trans ?_).trans (.modCore _ _)
    unfold State.makeRoom
    split
    · split
      · exact State.evict_onlyCore _ k _
      · exact .refl _
    · exact .refl _

theorem State.writeLine_onlyCore (cls fa w v : Nat) (p : Bool) (line : Nat) : OnlyCore k s (s.writeLine k cls fa w v p line) :=
  (s.fill_onlyCore k cls line).trans (.modCore _ _)

theorem State.cacheWrite_onlyCore (cls fa w v : Nat) (p : Bool) : OnlyCore k s (s.cacheWrite k cls fa w v p) :=
  .foldl _ (fun t line => t.writeLine_onlyCore k cls fa w v p line) _ s

end

/-! ### A part written -/

/-- A part that goes to no device is written, and only its bits change and only the agent's core (R90, R189). -/
theorem State.writePiece_keeps (s : State) (ag : Agent) (sid : Option Nat) (cls v : Nat) (pz : Bool) {p : Piece} (hd : p.tr.device = false) :
    ∃ t, s.writePiece ag sid cls false v pz p = (t, true) ∧ WritesOnly ag.core p.tr.fa p.len s t ∧ OnlyCore ag.core s t := by
  have hown : (s.ownStore sid p.tr.fa p.len).mem = s.mem ∧ (s.ownStore sid p.tr.fa p.len).cores = s.cores := by
    unfold State.ownStore
    split <;> exact ⟨rfl, rfl⟩
  obtain ⟨hmem, hcores⟩ := hown
  have ho : WritesOnly ag.core p.tr.fa p.len s (s.ownStore sid p.tr.fa p.len) := fun hs =>
    ⟨(congrArg Mem.wf hmem).trans hs, fun b _ => State.storedBit_congr hmem hcores _ b⟩
  have hoc : OnlyCore ag.core s (s.ownStore sid p.tr.fa p.len) := .of_cores hcores
  unfold State.writePiece
  simp only [hd]
  generalize s.ownStore sid p.tr.fa p.len = u at ho hoc ⊢
  split
  · exact ⟨_, rfl, ho.trans (u.cacheWrite_writesOnly _ _ _ _ _ _), hoc.trans (u.cacheWrite_onlyCore _ _ _ _ _ _)⟩
  · rw [if_neg Bool.false_ne_true]
    have hb : CacheMoves ag.core u (if ag.onCore then u.classBack ag.core (2 ^ cls) else u) ∧
        OnlyCore ag.core u (if ag.onCore then u.classBack ag.core (2 ^ cls) else u) := by
      split
      · exact ⟨u.classBack_moves _ _, u.classBack_onlyCore _ _⟩
      · exact ⟨.refl _ u, .refl u⟩
    obtain ⟨hbm, hbc⟩ := hb
    generalize (if ag.onCore then u.classBack ag.core (2 ^ cls) else u) = x at hbm hbc ⊢
    refine ⟨_, rfl, (ho.trans (hbm.writesOnly _ _)).trans (WritesOnly.trans ?_ (State.homeWrite_writesOnly _ _ _ _ _ _)),
      (hoc.trans hbc).trans (OnlyCore.trans ?_ (.of_cores (State.homeWrite_cores _ _ _ _ _)))⟩
    · split
      · exact CacheMoves.writesOnly (.foldl _ (fun t l => t.evict_moves ag.core l) _ x) _ _
      · exact fun hs => ⟨hs, fun _ _ => rfl⟩
    · split
      · exact .foldl _ (fun t l => t.evict_onlyCore ag.core l) _ x
      · exact .refl x

/-- Parts that go to no device are all written, and the bits outside them keep what was stored in them. -/
theorem State.writePieces_keeps (ag : Agent) (sid : Option Nat) (cls v : Nat) (pz : Bool) {ps : List Piece} (hd : ∀ p ∈ ps, p.tr.device = false)
    {s : State} (hs : MemOk s) :
    ∃ t, s.writePieces ag sid cls false v pz ps = (t, none) ∧ MemOk t ∧ OnlyCore ag.core s t ∧
      ∀ b, (∀ p ∈ ps, OutsideBits p.tr.fa p.len b) → t.storedBit ag.core b = s.storedBit ag.core b := by
  induction ps generalizing s with
  | nil => exact ⟨s, rfl, hs, .refl s, fun _ _ => rfl⟩
  | cons p ps ih =>
    obtain ⟨t, hwrite, honly, hcore⟩ := s.writePiece_keeps ag sid cls v pz (hd p List.mem_cons_self)
    obtain ⟨ht, hbits⟩ := honly hs
    obtain ⟨u, hrest, hu, hcore', hbits'⟩ := ih (fun q hq => hd q (List.mem_cons_of_mem _ hq)) ht
    refine ⟨u, ?_, hu, hcore.trans hcore', fun b hb => ?_⟩
    · rw [State.writePieces, hwrite]
      exact hrest
    · exact (hbits' b fun q hq => hb q (List.mem_cons_of_mem _ hq)).trans (hbits b (hb p List.mem_cons_self))

/-! ### A check leaves the line caches -/

/-- The line caches of t are those of s. -/
def SameLines (s t : State) : Prop := ∀ c, (t.core c).lines = (s.core c).lines

theorem SameLines.refl (s : State) : SameLines s s := fun _ => rfl

theorem SameLines.trans {s t u : State} (h : SameLines s t) (h' : SameLines t u) : SameLines s u := fun c => (h' c).trans (h c)

section
variable (s : State) (ag : Agent)

theorem State.findRange_sameLines (a : Nat) : SameLines s (s.findRange ag a).1 := fun c => by
  unfold State.findRange
  repeat' split
  any_goals rfl
  exact State.core_modCore_field Core.lines s _ c (by exact fun _ => rfl)

theorem State.findPage_sameLines (e : Range) (a : Nat) : SameLines s (s.findPage ag e a).1 := fun c => by
  unfold State.findPage
  simp only
  repeat' split
  any_goals rfl
  exact State.core_modCore_field Core.lines s _ c (by exact fun _ => rfl)

theorem State.pagePart_sameLines (e : Range) (a : Nat) : SameLines s (s.pagePart ag e a).1 := by
  have hp := s.findPage_sameLines ag e a
  unfold State.pagePart
  split
  · generalize s.findPage ag e a = r at hp ⊢
    obtain ⟨t, _ | x⟩ := r <;> exact hp
  · exact .refl s

theorem State.xlate_sameLines (want : Want) (a : Nat) : SameLines s (s.xlate ag want a).1 := by
  have hr := s.findRange_sameLines ag a
  unfold State.xlate
  split
  · exact .refl s
  split
  · exact .refl s
  split
  · exact .refl s
  split
  · exact .refl s
  generalize s.findRange ag a = r at hr ⊢
  obtain ⟨t, _ | e⟩ := r
  · exact hr
  · have hp := hr.trans (t.pagePart_sameLines ag e a)
    dsimp only
    split
    · exact hr
    generalize t.pagePart ag e a = q at hp ⊢
    obtain ⟨u, _ | x⟩ := q
    · exact hp
    · dsimp only
      split <;> exact hp

theorem State.xlateEach_sameLines (want : Want) (l : List (Nat × Nat × Nat)) : SameLines s (s.xlateEach ag want l).1 := by
  induction l generalizing s with
  | nil => exact .refl s
  | cons p t ih => exact (s.xlate_sameLines ag want p.1).trans (ih _)

theorem State.leaveFailed_cores (sid : Option Nat) : (s.leaveFailed sid).cores = s.cores := by
  unfold State.leaveFailed
  split <;> rfl

theorem State.startTransfer_cores (n : Nat) (b : Bool) (x k : Option Nat) (d : Nat) : (s.startTransfer n b x k d).cores = s.cores := by
  unfold State.startTransfer
  simp only
  split <;> split <;> rfl

theorem State.proceed_cores (sid : Option Nat) (ps : List Piece) : (s.proceed sid ps).cores = s.cores := by
  unfold State.proceed
  split <;> rfl

/-- CheckAccess leaves every line cache (R87, R105). -/
theorem State.check_sameLines (want : Want) (a w : Nat) : SameLines s (s.check ag want a w).1 := by
  have h : SameLines s (s.xlateParts ag want (parts a w)).1 := s.xlateEach_sameLines _ want _
  have hcheck : ∀ t : State, t.cores = (s.xlateParts ag want (parts a w)).1.cores → SameLines s t := fun t ht c => by
    rw [← h c, State.core, ht, State.core]
  unfold State.check
  simp only
  repeat' split
  any_goals exact h
  · exact .refl s
  · exact hcheck _ (State.leaveFailed_cores _ _)
  · exact hcheck _ (State.startTransfer_cores _ _ _ _ _ _)
  · exact hcheck _ (State.proceed_cores _ _ _)

end

/-- What a check leaves of a bit with the stores of a core's strands in it. -/
theorem State.check_storedBit (s : State) (ag : Agent) (want : Want) (a w k b : Nat) : (s.check ag want a w).1.storedBit k b = s.storedBit k b := by
  unfold State.storedBit State.lineView LineView.bit State.lineEntry State.home
  rw [s.check_sameLines ag want a w k, s.check_mem]

/-! ### The store -/

/-- A store that checks and goes to no device is complete once its parts are written (R104). -/
theorem exec_st_of_ok {s s1 t : State} {r base : Reg} {w1 : BitVec 6} {off : BitVec 9} {ps : List Piece} (hpoi : Spec.poi s base = false)
    (hheld : s.heldBack {} = false) (hcheck : s.check s.myAgent .store (Spec.val s base + off.signExtend 64).toNat (w1.toNat + 1) = (s1, .ok ps))
    (hbits : s1.bitsPending s.cur ps = false) (hcur : s1.cur = s.cur)
    (hwrite : s1.writePieces s1.myAgent (some s1.cur) 0 false (s1.rx r).toNat (s1.px r) ps = (t, none)) :
    exec (.st r base w1 off) s = .next (t.adv 32) := by
  show s.store 32 r base (s.ea base off) (widthOf w1) {} = _
  rw [State.store, if_neg (by exact Bool.eq_false_iff.1 hpoi), if_neg (Bool.eq_false_iff.1 hheld)]
  rw [← hcur] at hbits
  rw [show s.check s.myAgent .store (s.ea base off).toNat (widthOf w1) = (s1, .ok ps) from hcheck]
  simp [hbits, hwrite]

end Sys2Proof.Machine
end

section
namespace Sys2Proof
open Machine

/-- Settles O10: the check leaves memory and the line caches, each part is written through the cache's moves, and the strand goes on. -/
theorem scalarStoreFrame : Obligations.ScalarStoreFrame := by
  unfold Obligations.ScalarStoreFrame
  intro s s1 t r base w1 off ps hmem hpoi hheld hcheck hbits hdev hexec
  have hacc := s.check_sameButAccess s.myAgent .store (Spec.val s base + off.signExtend 64).toNat (w1.toNat + 1)
  have hbit := s.check_storedBit s.myAgent .store (Spec.val s base + off.signExtend 64).toNat (w1.toNat + 1) s.myCore
  have hlines := s.check_sameLines s.myAgent .store (Spec.val s base + off.signExtend 64).toNat (w1.toNat + 1)
  have hs1 : MemOk s1 := MemOk.of_eq (State.check_memOk hmem) hcheck
  rw [hcheck] at hacc hbit hlines
  dsimp only at hacc hbit hlines
  obtain ⟨u, hwrite, hu, hcore, hkept⟩ :=
    State.writePieces_keeps s1.myAgent (some s1.cur) 0 (s1.rx r).toNat (s1.px r) hdev hs1
  have hu' := s1.writePieces_sameButAccess s1.myAgent (some s1.cur) 0 false (s1.rx r).toNat (s1.px r) ps
  rw [hwrite] at hu'
  have hall := hacc.trans hu'
  rw [exec_st_of_ok hpoi hheld hcheck hbits hacc.cur hwrite] at hexec
  cases hexec
  have hcoreEq : s1.myAgent.core = s.myCore := hacc.myCore
  rw [hcoreEq] at hcore hkept
  have hstored : ∀ b, (∀ p ∈ ps, OutsideBits p.tr.fa p.len b) → (u.adv 32).storedBit s.myCore b = s.storedBit s.myCore b := fun b hb =>
    (hkept b hb).trans (hbit b)
  refine ⟨?_, fun k hk => ?_, fun k hk => ?_, fun k j hj hk => ?_, fun c hc => ?_⟩
  · rw [State.me_adv, hall.me]
  · exact (State.strand_setStrand_ne u u.cur k _ (hall.cur ▸ hk)).trans (hall.strand k)
  · refine stored_eq hmem hu fun j hj => hstored _ fun p hp => ?_
    have := hk p hp
    unfold OutsideBits
    omega
  · rw [testBit_stored (s := u.adv 32) hu _ _ hj, testBit_stored hmem _ _ hj]
    exact hstored _ hk
  · exact (congrArg Core.lines (hcore c hc)).trans (hlines c)

end Sys2Proof
end

section
/-!
SUPPORT. The commands of the host's mailboxes (R332): a command whose turn it is after bring-up does its work. Registrations, the context map, a context's
state (R83, R196, R332), ownership domains and regions (R334, R335).
-/

namespace Sys2Proof.Machine

/-! ### A command and its answer -/

section
variable {s : State} {fn : Nat} (hfn : fn < 64) (hbusy : s.hostBusy fn = false) (f : State → State)
include hfn hbusy

theorem State.command_before_bringUp (hbooted : s.booted = false) : s.command fn f = .next (s.reply fn 2) := by
  simp [State.command, Nat.not_le.2 hfn, hbusy, hbooted]

theorem State.command_after_bringUp (hbooted : s.booted = true) : s.command fn f = .next (f s) := by
  simp [State.command, Nat.not_le.2 hfn, hbusy, hbooted]

end

/-! ### Regions and domains -/

theorem hostRegion_iff (base : Nat) : hostRegion base = true ↔ base % 2 ^ 24 = 0 ∧ 2 ^ 64 ≤ base ∧ base < 3 * 2 ^ 64 := by
  simp [hostRegion, and_assoc]

/-- A domain number is illegal when it is 0 or has more than 16 bits (R334). -/
theorem illegalDomain_iff (dom : Nat) : (decide (dom = 0) || decide (65536 ≤ dom)) = true ↔ dom = 0 ∨ 65536 ≤ dom := by
  simp

/-- A transfer toward the host that a pin of the region can join (R335). -/
def Transfer.pinnable (t : Transfer) (region : Nat) : Bool := t.region == region && !t.failed && !t.flipped && !t.toDev

theorem Transfer.pinnable_iff (t : Transfer) (region : Nat) :
    t.pinnable region = true ↔ t.region = region ∧ t.failed = false ∧ t.flipped = false ∧ t.toDev = false := by
  simp [Transfer.pinnable, and_assoc]

section
variable {s : State} {fn region dom : Nat}

/-- With no transfer toward the host a pin starts its own. -/
theorem State.pinLater_of_none (h : ∀ t ∈ s.transfers, t.pinnable region = false) :
    s.pinLater fn region dom =
      { s with transfers := s.transfers ++ [{ region := region, toDev := false, pins := [fn], since := s.now, dom := dom }] } := by
  have hany : s.transfers.any (fun t => t.pinnable region) = false := by simpa using h
  exact congrArg (fun l => { s with transfers := l }) (if_neg (Bool.not_eq_true _ ▸ hany))

/-- With one transfer toward the host a pin joins it. -/
theorem State.pinLater_of_one {x : Transfer} {ts us : List Transfer} (hs : s.transfers = ts ++ x :: us) (hx : x.pinnable region = true)
    (h : ∀ t ∈ ts ++ us, t.pinnable region = false) :
    s.pinLater fn region dom = { s with transfers := ts ++ { x with pins := x.pins ++ [fn] } :: us } := by
  have hany : s.transfers.any (fun t => t.pinnable region) = true := List.any_eq_true.2 ⟨x, by simp [hs], hx⟩
  have hkeep : ∀ l : List Transfer, (∀ t ∈ l, t ∈ ts ++ us) →
      l.map (fun t => if t.pinnable region then { t with pins := t.pins ++ [fn] } else t) = l := fun l hl =>
    (List.map_congr_left fun t ht => if_neg (by simp [h t (hl t ht)])).trans l.map_id
  refine congrArg (fun l => { s with transfers := l }) ((if_pos hany).trans ?_)
  change s.transfers.map (fun t => if t.pinnable region then { t with pins := t.pins ++ [fn] } else t) = _
  rw [hs, List.map_append, List.map_cons, if_pos hx, hkeep ts fun t => List.mem_append_left us, hkeep us fun t => List.mem_append_right ts]

end

/-! ### A copy context's state -/

/-- A context that runs has bit 24 of its error register clear (R200). -/
theorem CopyCtx.set_err_running (c : CopyCtx) (clear : Bool) : (c.set true clear).err.testBit 24 = false := by
  cases clear <;> simp [CopyCtx.set, testBit_putField]

/-- A clear takes bits 23:0 and 63:32 (R200). -/
theorem CopyCtx.set_err_cleared (c : CopyCtx) (run : Bool) : (c.set run true).err % 2 ^ 24 = 0 ∧ (c.set run true).err / 2 ^ 32 % 2 ^ 32 = 0 := by
  unfold CopyCtx.set
  generalize (if run then putField c.err 24 1 0 else c.err) = e
  simp only [if_true, putField_eq]
  omega

/-- A context whose state is set (R196, R200): where it is resumed, the operations of moving groups wait for their windows (R73). -/
def State.ctxSet (s : State) (pc : Nat) (run clear : Bool) : CopyCtx :=
  { (s.copyCtx pc).set run clear with
    ops := (s.copyCtx pc).ops.map fun o => if (run && (s.copyCtx pc).stopped) && s.groupMoves o.group then { o with later := true } else o }

/-! ### What each command does after bring-up -/

section
variable {s : State} {fn : Nat} (hfn : fn < 64) (hbusy : s.hostBusy fn = false) (hbooted : s.booted = false)
include hfn hbusy hbooted

/-- Until bring-up is over each of these commands is answered 2 (R332, R353). -/
theorem commands_before_bringUp (asid num die ctx dom base n : Nat) (desc : Word) (run clear : Bool) :
    execRegisterAddressSpace fn asid desc s = .next (s.reply fn 2) ∧ execRegisterStream fn die n desc asid s = .next (s.reply fn 2) ∧
      execMapCopyContext fn asid num die ctx s = .next (s.reply fn 2) ∧ execSetContextState fn die ctx run clear s = .next (s.reply fn 2) ∧
      execPinOwnershipRegion fn dom base s = .next (s.reply fn 2) ∧ execUnpinOwnershipRegion fn dom base s = .next (s.reply fn 2) ∧
      execEnableOwnershipDomain fn dom s = .next (s.reply fn 2) ∧ execDisableOwnershipDomain fn dom s = .next (s.reply fn 2) := by
  simp only [execRegisterAddressSpace, execRegisterStream, execMapCopyContext, execSetContextState, execPinOwnershipRegion, execUnpinOwnershipRegion,
    execEnableOwnershipDomain, execDisableOwnershipDomain, State.command_before_bringUp hfn hbusy _ hbooted, and_self]

end

section
variable {s : State} {fn : Nat} (hfn : fn < 64) (hbusy : s.hostBusy fn = false) (hbooted : s.booted = true)
include hfn hbusy hbooted

section
variable {asid : Nat} {desc : Word}

theorem exec_registerAddressSpace_illegal (h : 4096 ≤ asid ∨ s.spaceLocked fn asid = true) :
    exec (.registerAddressSpace fn asid desc) s = .next (s.reply fn 1) := by
  show execRegisterAddressSpace fn asid desc s = _
  rw [execRegisterAddressSpace, State.command_after_bringUp hfn hbusy _ hbooted]
  simp [h]

theorem exec_registerStream_illegal {die n : Nat} (h : 4096 ≤ asid ∨ s.spaceLocked fn asid = true) :
    exec (.registerStream fn die n desc asid) s = .next (s.reply fn 1) := by
  show execRegisterStream fn die n desc asid s = _
  rw [execRegisterStream, State.command_after_bringUp hfn hbusy _ hbooted]
  refine congrArg _ (if_pos ?_)
  simp only [Bool.or_eq_true, decide_eq_true_eq]
  tauto

theorem exec_mapCopyContext_illegal {num die ctx : Nat} (h : 4096 ≤ asid ∨ s.spaceLocked fn asid = true) :
    exec (.mapCopyContext fn asid num die ctx) s = .next (s.reply fn 1) := by
  show execMapCopyContext fn asid num die ctx s = _
  rw [execMapCopyContext, State.command_after_bringUp hfn hbusy _ hbooted]
  refine congrArg _ (if_pos ?_)
  simp only [Bool.or_eq_true, decide_eq_true_eq]
  tauto

variable (hasid : asid < 4096) (hlock : s.spaceLocked fn asid = false)
include hasid hlock

theorem exec_registerAddressSpace_inUse (huse : s.spaceInUse asid = true) :
    exec (.registerAddressSpace fn asid desc) s = .next (s.reply fn 2) := by
  show execRegisterAddressSpace fn asid desc s = _
  rw [execRegisterAddressSpace, State.command_after_bringUp hfn hbusy _ hbooted]
  simp [Nat.not_le.2 hasid, hlock, huse]

theorem exec_registerAddressSpace_free (huse : s.spaceInUse asid = false) (hdesc : s.descOk desc = true) :
    exec (.registerAddressSpace fn asid desc) s =
      .next (({ s with spaces := Sparse.put s.spaces asid { desc := desc, fn := fn } } : State).reply fn 0) := by
  show execRegisterAddressSpace fn asid desc s = _
  rw [execRegisterAddressSpace, State.command_after_bringUp hfn hbusy _ hbooted]
  simp [Nat.not_le.2 hasid, hlock, huse, hdesc]

/-- A stream of which no gang runs begins anew, its old LAUNCH without an answer forgotten. -/
theorem exec_registerStream_legal {die n : Nat} (hdie : die < 16) (hn : n < 64) (hal : desc.toNat % 64 = 0) (hslock : s.streamLocked fn die n = false) :
    exec (.registerStream fn die n desc asid) s =
      .next (if s.streamInUse die n then s.reply fn 2 else (s.restartStream die n { ctl := desc, asid := asid, fn := fn }).reply fn 0) := by
  show execRegisterStream fn die n desc asid s = _
  rw [execRegisterStream, State.command_after_bringUp hfn hbusy _ hbooted]
  simp [Nat.not_le.2 hasid, Nat.not_le.2 hdie, Nat.not_le.2 hn, hlock, hal, hslock]

theorem exec_mapCopyContext_legal {num die ctx : Nat} (hnum : num < 128) (hdie : die < 16) (hctx : ctx < 128) (hclock : s.ctxLocked fn die ctx = false) :
    exec (.mapCopyContext fn asid num die ctx) s =
      .next (({ s with ctxMap := Sparse.put s.ctxMap (128 * asid + num) (128 * die + ctx) } : State).reply fn 0) := by
  show execMapCopyContext fn asid num die ctx s = _
  rw [execMapCopyContext, State.command_after_bringUp hfn hbusy _ hbooted]
  simp [Nat.not_le.2 hasid, Nat.not_le.2 hdie, Nat.not_le.2 hnum, Nat.not_le.2 hctx, hlock, hclock]

end

section
variable {die ctx : Nat} {run clear : Bool}

theorem exec_setContextState_illegal (h : 16 ≤ die ∨ 128 ≤ ctx) : exec (.setContextState fn die ctx run clear) s = .next (s.reply fn 1) := by
  show execSetContextState fn die ctx run clear s = _
  rw [execSetContextState, State.command_after_bringUp hfn hbusy _ hbooted]
  refine congrArg _ (if_pos ?_)
  simp only [Bool.or_eq_true, decide_eq_true_eq]
  exact .inl h

/-- A context's state is set, and nothing else. -/
theorem exec_setContextState_legal (hdie : die < 16) (hctx : ctx < 128) (hclock : s.ctxLocked fn die ctx = false) :
    exec (.setContextState fn die ctx run clear) s =
      .next ((s.setCopyCtx (128 * die + ctx) (s.ctxSet (128 * die + ctx) run clear)).reply fn 0) := by
  show execSetContextState fn die ctx run clear s = _
  rw [execSetContextState, State.command_after_bringUp hfn hbusy _ hbooted]
  simp only [Nat.not_le.2 hdie, Nat.not_le.2 hctx, hclock, decide_false, Bool.or_self, Bool.false_eq_true, if_false]
  rfl

end

section
variable {dom base : Nat}

theorem exec_ownershipDomain_illegal (h : dom = 0 ∨ 65536 ≤ dom) :
    exec (.enableOwnershipDomain fn dom) s = .next (s.reply fn 1) ∧ exec (.disableOwnershipDomain fn dom) s = .next (s.reply fn 1) := by
  show execEnableOwnershipDomain fn dom s = _ ∧ execDisableOwnershipDomain fn dom s = _
  rw [execEnableOwnershipDomain, execDisableOwnershipDomain, State.command_after_bringUp hfn hbusy _ hbooted,
    State.command_after_bringUp hfn hbusy _ hbooted]
  exact ⟨congrArg _ (if_pos ((illegalDomain_iff dom).2 h)), congrArg _ (if_pos ((illegalDomain_iff dom).2 h))⟩

theorem exec_ownershipRegion_illegal (h : dom = 0 ∨ 65536 ≤ dom ∨ hostRegion base = false) :
    exec (.pinOwnershipRegion fn dom base) s = .next (s.reply fn 1) ∧ exec (.unpinOwnershipRegion fn dom base) s = .next (s.reply fn 1) := by
  have hill : (decide (dom = 0) || decide (65536 ≤ dom) || !hostRegion base) = true := by
    simpa [or_assoc] using h
  show execPinOwnershipRegion fn dom base s = _ ∧ execUnpinOwnershipRegion fn dom base s = _
  rw [execPinOwnershipRegion, execUnpinOwnershipRegion, State.command_after_bringUp hfn hbusy _ hbooted,
    State.command_after_bringUp hfn hbusy _ hbooted]
  exact ⟨congrArg _ (if_pos hill), congrArg _ (if_pos hill)⟩

variable (hdom : 0 < dom) (hdom' : dom < 65536)
include hdom hdom'

theorem exec_ownershipDomain_legal :
    exec (.enableOwnershipDomain fn dom) s = .next (({ s with domains := insertNat s.domains dom } : State).reply fn 0) ∧
      exec (.disableOwnershipDomain fn dom) s = .next (({ s with domains := s.domains.filter (· != dom) } : State).reply fn 0) := by
  have hleg : ¬ (decide (dom = 0) || decide (65536 ≤ dom)) = true := by
    rw [illegalDomain_iff]
    omega
  show execEnableOwnershipDomain fn dom s = _ ∧ execDisableOwnershipDomain fn dom s = _
  rw [execEnableOwnershipDomain, execDisableOwnershipDomain, State.command_after_bringUp hfn hbusy _ hbooted,
    State.command_after_bringUp hfn hbusy _ hbooted]
  exact ⟨congrArg _ (if_neg hleg), congrArg _ (if_neg hleg)⟩

variable (hbase : hostRegion base = true)
include hbase

theorem exec_pinOwnershipRegion_legal :
    exec (.pinOwnershipRegion fn dom base) s =
      .next (if s.owner (base / 2 ^ 24) = .dev ∨ s.transferring (base / 2 ^ 24) = true then s.pinLater fn (base / 2 ^ 24) dom
        else ({ s with owners := Sparse.put s.owners (base / 2 ^ 24) .pinned } : State).reply fn 0) := by
  show execPinOwnershipRegion fn dom base s = _
  rw [execPinOwnershipRegion, State.command_after_bringUp hfn hbusy _ hbooted]
  simp only [hbase, Nat.ne_of_gt hdom, Nat.not_le.2 hdom', decide_false, Bool.not_true, Bool.or_self, Bool.false_eq_true, if_false, Bool.or_eq_true,
    beq_iff_eq, regionOf]

theorem exec_unpinOwnershipRegion_legal :
    exec (.unpinOwnershipRegion fn dom base) s =
      .next ((if s.owner (base / 2 ^ 24) = .pinned then { s with owners := Sparse.put s.owners (base / 2 ^ 24) .host } else s : State).reply fn 0) := by
  show execUnpinOwnershipRegion fn dom base s = _
  rw [execUnpinOwnershipRegion, State.command_after_bringUp hfn hbusy _ hbooted]
  simp only [hbase, Nat.ne_of_gt hdom, Nat.not_le.2 hdom', decide_false, Bool.not_true, Bool.or_self, Bool.false_eq_true, if_false, beq_iff_eq, regionOf]

end

end

theorem hostCommands : Spec.HostCommands := by
  intro s fn asid num die ctx dom base n desc run clear pc hfn hbusy answers reg str map set pin unpin region legal
  refine ⟨fun hbooted i hi => ?_, fun hbooted => ⟨fun hasid hlock => ⟨?_, ?_, fun hdie hn hal hslock => ⟨fun huse => ?_, fun huse => ?_⟩, ?_⟩, ?_, ?_, ?_, ?_, ?_, ?_⟩⟩
  · obtain ⟨hreg, hstr, hmap, hset, hpin, hunpin, henable, hdisable⟩ := commands_before_bringUp hfn hbusy hbooted asid num die ctx dom base n desc run clear
    simp only [List.mem_cons, List.not_mem_nil, or_false] at hi
    rcases hi with rfl | rfl | rfl | rfl | rfl | rfl | rfl | rfl
    exacts [hreg, hstr, hmap, hset, hpin, hunpin, henable, hdisable]
  · exact exec_registerAddressSpace_inUse hfn hbusy hbooted hasid hlock
  · exact exec_registerAddressSpace_free hfn hbusy hbooted hasid hlock
  · refine (exec_registerStream_legal hfn hbusy hbooted hasid hlock hdie hn hal hslock).trans ?_
    rw [huse]
    rfl
  · refine (exec_registerStream_legal hfn hbusy hbooted hasid hlock hdie hn hal hslock).trans ?_
    rw [huse]
    rfl
  · exact exec_mapCopyContext_legal hfn hbusy hbooted hasid hlock
  · exact fun h => ⟨exec_registerAddressSpace_illegal hfn hbusy hbooted h, exec_registerStream_illegal hfn hbusy hbooted h,
      exec_mapCopyContext_illegal hfn hbusy hbooted h⟩
  · intro hpc hdie hctx hclock
    subst hpc
    refine ⟨_, exec_setContextState_legal hfn hbusy hbooted hdie hctx hclock, ?_⟩
    have hset : ((s.setCopyCtx (128 * die + ctx) (s.ctxSet (128 * die + ctx) run clear)).reply fn 0).copyCtx (128 * die + ctx) =
        s.ctxSet (128 * die + ctx) run clear := s.copyCtx_setCopyCtx _ _
    rw [hset]
    refine ⟨rfl, ?_, rfl, fun hrun => ?_, fun hclear => ?_, fun hrun hclear => ?_⟩
    · simp only [State.ctxSet, Bool.and_eq_true, and_assoc]
    · rw [hrun]
      exact CopyCtx.set_err_running _ clear
    · rw [hclear]
      exact CopyCtx.set_err_cleared _ run
    · rw [hrun, hclear]
      rfl
  · exact exec_setContextState_illegal hfn hbusy hbooted
  · intro hdom hdom'
    obtain ⟨henable, hdisable⟩ := exec_ownershipDomain_legal hfn hbusy hbooted hdom hdom'
    refine ⟨henable, hdisable, fun hlegal => ?_⟩
    have hbase := (hostRegion_iff base).2 hlegal
    have hpin := exec_pinOwnershipRegion_legal hfn hbusy hbooted hdom hdom' hbase
    have hunpin := exec_unpinOwnershipRegion_legal hfn hbusy hbooted hdom hdom' hbase
    refine ⟨fun hown htr => ?_, fun hown => ⟨fun hall => ?_, fun x ts us hs hreg hfail hflip hdev hothers => ?_⟩, fun hown => ?_, fun hown => ?_⟩
    · refine hpin.trans (congrArg _ (if_neg ?_))
      simp [region] at hown htr
      simp [hown, htr]
    · refine (hpin.trans (congrArg _ (if_pos hown))).trans (congrArg _ (State.pinLater_of_none fun t ht => ?_))
      rw [← Bool.not_eq_true, Transfer.pinnable_iff]
      rintro ⟨htreg, htfail, htflip, htdev⟩
      exact Bool.false_ne_true (htdev.symm.trans (hall t ht htreg htfail htflip))
    · refine (hpin.trans (congrArg _ (if_pos hown))).trans (congrArg _ (State.pinLater_of_one hs ?_ fun t ht => ?_))
      · exact (x.pinnable_iff _).2 ⟨hreg, hfail, hflip, hdev⟩
      · rw [← Bool.not_eq_true, Transfer.pinnable_iff]
        exact hothers t ht
    · exact hunpin.trans (congrArg (fun u : State => Host.Outcome.next (u.reply fn 0)) (if_pos hown))
    · exact hunpin.trans (congrArg (fun u : State => Host.Outcome.next (u.reply fn 0)) (if_neg hown))
  · intro hlegal
    have hbase : hostRegion base = false := Bool.not_eq_true _ ▸ mt (hostRegion_iff base).1 hlegal
    exact exec_ownershipRegion_illegal hfn hbusy hbooted (.inr (.inr hbase))
  · intro hdom
    obtain ⟨henable, hdisable⟩ := exec_ownershipDomain_illegal hfn hbusy hbooted hdom
    exact ⟨henable, hdisable, exec_ownershipRegion_illegal hfn hbusy hbooted (by omega)⟩

end Sys2Proof.Machine
end

section
/-!
SUPPORT. Supervisor strands come and go (R333, R354): the commands that place and remove one.
-/

namespace Sys2Proof.Machine

/-- A strand that is not held has no notice to push. -/
theorem State.pushNotice_of_not_held {s : State} {sid : Nat} (h : (s.strand sid).hold = none) : s.pushNotice sid = s := by
  unfold State.pushNotice
  rw [h]

/-- A core that holds no strand has no notice to push again. -/
theorem State.pushAgain_of_none_held {s : State} {k : Nat} (h : ∀ c ∈ coreSids k, (s.strand c).hold = none) : s.pushAgain k = s :=
  List.foldlRecOn (motive := fun t : State => t = s) _ _ rfl fun t ht c hc => by
    rw [ht]
    exact State.pushNotice_of_not_held (h c hc)

theorem State.anyHeld_iff (s : State) (k : Nat) : s.anyHeld k = true ↔ ∃ c ∈ coreSids k, (s.strand c).hold.isSome = true := by
  simp [State.anyHeld]

theorem State.mailbox_reply (s : State) (fn code : Nat) : (Sparse.get [] (s.reply fn code).mailbox fn).head? = some code :=
  congrArg List.head? (Sparse.get_put_same _ _ _ _)

/-! ### A supervisor strand is placed -/

/-- The strand starts at its entry, with its argument in x8, at supervisor level (R55, R333). -/
theorem supStrand_eq (grace asid : Nat) (entry arg : Word) (g : Nat) :
    supStrand grace asid entry arg g =
      ({ phase := .running, sup := true, asid := asid, pc := entry, g := g, held := g, lpart := g, share := 128, grace := grace } : Strand).setX 8 { w := arg } :=
  rfl

theorem supStrand_hold (grace asid : Nat) (entry arg : Word) (g : Nat) : (supStrand grace asid entry arg g).hold = none := rfl

/-- A supervisor strand put into its context, and its core told who placed it (R333). -/
def State.supPlaced (s : State) (p : SupPlace) (d : Desc) : State :=
  (s.setStrand (sidOf p.core p.ctx) (supStrand (s.strand (sidOf p.core p.ctx)).grace p.asid (p.desc + BitVec.ofNat 64 d.entry) p.arg d.shares)).modCore
    p.core fun c => { c with supFn := p.fn, supEnd := none }

section
variable (s : State) (p : SupPlace) (d : Desc)

theorem State.supPlaced_strand : (s.supPlaced p d).strand (sidOf p.core p.ctx) =
    supStrand (s.strand (sidOf p.core p.ctx)).grace p.asid (p.desc + BitVec.ofNat 64 d.entry) p.arg d.shares :=
  State.strand_setStrand _ _ _

theorem State.supPlaced_strand_ne {c : Nat} (h : c ≠ sidOf p.core p.ctx) : (s.supPlaced p d).strand c = s.strand c :=
  State.strand_setStrand_ne _ _ _ _ h

theorem State.supPlaced_supFn : ((s.supPlaced p d).core p.core).supFn = p.fn :=
  congrArg Core.supFn (State.core_setCore _ _ _)

/-- The new strand is not held. -/
theorem State.supPlaced_hold (h : ∀ c ∈ coreSids p.core, (s.strand c).hold = none) : ∀ c ∈ coreSids p.core, ((s.supPlaced p d).strand c).hold = none := by
  intro c hc
  by_cases hsid : c = sidOf p.core p.ctx
  · rw [hsid, s.supPlaced_strand, supStrand_hold]
  · rw [s.supPlaced_strand_ne p d hsid]
    exact h c hc

end

section
variable {s s1 : State} {p : SupPlace} {v : Nat} {d : Desc} (hfn : p.fn < 64)
  (hturn : (s.hostBusy p.fn = false ∧ s.booted = true) ∨ s.hostCmd? p.fn = some (.place p))
  (hlegal : (!coreBuilt p.core || decide (8 ≤ p.ctx) || decide (4096 ≤ p.asid) || s.spaceLocked p.fn p.asid || (s.core p.core).withdrawn ||
    (s.die (dieOf p.core)).inReset || decide (p.desc.toNat % 64 ≠ 0)) = false)
include hfn hturn hlegal

/-- A command whose descriptor lies in a region on its way to the package waits (R333). -/
theorem exec_placeSupervisorStrand_waits (hread : s.cpRead (cpAgent (dieOf p.core) p.asid true) p.desc.toNat 256 = (s1, .wait)) :
    ∃ t, exec (.placeSupervisorStrand p) s = .next t ∧ t = { s1 with hostCmds := t.hostCmds } ∧ t.hostCmd? p.fn = some (.place p) ∧
      t.hostBusy p.fn = true := by
  show ∃ t, execPlaceSupervisorStrand p s = .next t ∧ _
  unfold execPlaceSupervisorStrand
  refine State.commandOr_waits hfn hturn (SameButAccess.of_cpRead_eq hread).hostCmds ?_
  simp only [hlegal, hread, Bool.false_eq_true, if_false]

variable (hread : s.cpRead (cpAgent (dieOf p.core) p.asid true) p.desc.toNat 256 = (s1, .ok v)) (hdesc : descOf v = some d)
  (hkind : kindMatches (Config.isMarl (dieOf p.core)) d.profiles d.minors = true)
include hread hdesc hkind

/-- With a supervisor strand on the core already the command is answered 2. -/
theorem exec_placeSupervisorStrand_inUse {q : Nat} (hsup : s1.supOf p.core = some q) :
    ∃ t, exec (.placeSupervisorStrand p) s = .next t ∧ t = { s1.reply p.fn 2 with hostCmds := t.hostCmds } ∧ t.hostCmd? p.fn = none := by
  show ∃ t, execPlaceSupervisorStrand p s = .next t ∧ _
  unfold execPlaceSupervisorStrand
  refine State.commandOr_done hfn hturn (SameButAccess.of_cpRead_eq hread).hostCmds ?_
  simp only [hlegal, hread, hdesc, hkind, hsup, Option.isSome_some, Bool.or_true, Bool.true_or, Bool.not_true, Bool.false_eq_true, if_false, if_true]

/-- In a free context with its shares the strand starts, and where no strand of the core is held that is all. -/
theorem exec_placeSupervisorStrand_placed (hfree : (s1.strand (sidOf p.core p.ctx)).phase = .free) (hsup : s1.supOf p.core = none)
    (hshares : d.shares ≤ s1.freeShares p.core) (hheld : ∀ c ∈ coreSids p.core, (s1.strand c).hold = none) :
    ∃ t, exec (.placeSupervisorStrand p) s = .next t ∧ t = { (s1.supPlaced p d).reply p.fn 0 with hostCmds := t.hostCmds } ∧
      t.hostCmd? p.fn = none := by
  show ∃ t, execPlaceSupervisorStrand p s = .next t ∧ _
  unfold execPlaceSupervisorStrand
  refine State.commandOr_done hfn hturn (SameButAccess.of_cpRead_eq hread).hostCmds ?_
  have hpush : (s1.supPlaced p d).pushAgain p.core = s1.supPlaced p d := State.pushAgain_of_none_held (s1.supPlaced_hold p d hheld)
  have hroom : ¬ s1.freeShares p.core < d.shares := Nat.not_lt.2 hshares
  simp only [hlegal, hread, hdesc, hkind, hfree, hsup, hroom, Option.isSome_none, decide_false, bne_self_eq_false, Bool.or_self, Bool.not_true,
    Bool.false_eq_true, if_false]
  exact congrArg (fun u : State => (u.reply p.fn 0, true)) hpush

end

/-! ### A supervisor strand is removed -/

/-- A supervisor strand that is removed leaves its context free and no record of a cause (R333, R354). -/
theorem State.dropSupervisor_drops {s : State} {k q : Nat} (h : s.supOf k = some q) :
    ((s.dropSupervisor k).strand q).phase = .free ∧ ((s.dropSupervisor k).strand q).sup = false ∧
      ((s.dropSupervisor k).core k).supEnd = (s.core k).supEnd ∧ (s.dropSupervisor k).supEnds = s.supEnds := by
  obtain ⟨_, hphase, hsup, _⟩ := State.endSupervisor_ends h 0
  exact ⟨hphase, hsup, (congrArg Core.supEnd (State.core_setCore (s.endSupervisor k 0) k _)).trans rfl, rfl⟩

section
variable {s : State} {fn : Nat} {r : SupRemove} (hfn : fn < 64) (hbusy : s.hostBusy fn = false) (hbooted : s.booted = true) (hrem : s.removals = [])
include hfn hbusy hbooted hrem

/-- What a command to remove a supervisor strand does while no removal waits. -/
theorem exec_removeSupervisorStrand_eq :
    exec (.removeSupervisorStrand fn r) s =
      .next (if s.supOf r.core = some (sidOf r.core r.ctx) ∧ r.ctx < 8 ∧ (s.strand (sidOf r.core r.ctx)).asid = r.asid ∧ s.spaceLocked fn r.asid = false then
        if s.anyHeld r.core then { s with removals := [(r.core, fn)] } else (s.dropSupervisor r.core).reply fn 0
      else s.reply fn 1) := by
  show execRemoveSupervisorStrand fn r s = _
  unfold execRemoveSupervisorStrand
  rw [hrem, State.command_after_bringUp hfn hbusy _ hbooted]
  refine (if_neg Bool.false_ne_true).trans (congrArg _ ?_)
  rw [← ite_not (p := _ ∧ _)]
  refine if_congr ?_ rfl (by rw [hrem]; rfl)
  simp only [Bool.or_eq_true, bne_iff_ne, decide_eq_true_eq, not_and_or, Bool.not_eq_false, Nat.not_lt, ne_eq, or_assoc]

end

theorem supervisors : Spec.Supervisors := by
  intro s s1 p fn r v q d hpfn hfn sid status free
  refine ⟨fun hturn hbuilt hctx hasid hlock hwith hreset hal => ?_, fun hfree hrem => ?_⟩
  · subst hpfn
    have hlegal : (!coreBuilt p.core || decide (8 ≤ p.ctx) || decide (4096 ≤ p.asid) || s.spaceLocked p.fn p.asid || (s.core p.core).withdrawn ||
        (s.die (dieOf p.core)).inReset || decide (p.desc.toNat % 64 ≠ 0)) = false := by
      simp [hbuilt, hlock, hwith, hreset, hal, hctx, hasid]
    refine ⟨exec_placeSupervisorStrand_waits hfn hturn hlegal, fun hread hdesc hkind => ⟨fun hphase hsup hshares hheld => ?_, fun hsup => ?_⟩⟩
    · obtain ⟨t, hexec, ht, _⟩ := exec_placeSupervisorStrand_placed hfn hturn hlegal hread hdesc hkind hphase hsup hshares hheld
      refine ⟨t, hexec, ?_⟩
      rw [ht]
      exact ⟨State.mailbox_reply _ _ _, s1.supPlaced_supFn p d, (s1.supPlaced_strand p d).trans (supStrand_eq _ _ _ _ _)⟩
    · obtain ⟨t, hexec, ht, _⟩ := exec_placeSupervisorStrand_inUse hfn hturn hlegal hread hdesc hkind hsup
      refine ⟨t, hexec, ?_⟩
      rw [ht]
      exact ⟨State.mailbox_reply _ _ _, rfl⟩
  · obtain ⟨hbusy, hbooted⟩ := hfree
    have hexec := exec_removeSupervisorStrand_eq (r := r) (hpfn ▸ hfn) hbusy hbooted hrem
    refine ⟨fun hmine => hexec.trans (congrArg _ (if_neg hmine)), fun hmine hheld => hexec.trans (congrArg _ ?_), fun hmine hheld => ?_⟩
    · rw [if_pos hmine, if_pos ((s.anyHeld_iff _).2 hheld)]
    · have hnone : ¬ s.anyHeld r.core = true := by
        rw [State.anyHeld_iff]
        rintro ⟨c, hc, hsome⟩
        simp [hheld c hc] at hsome
      rw [if_pos hmine, if_neg hnone] at hexec
      obtain ⟨hphase, hsup, hend, hends⟩ := State.dropSupervisor_drops hmine.1
      exact ⟨_, hexec, State.mailbox_reply _ _ _, hphase, hsup, hend, hends⟩

end Sys2Proof.Machine
end

section
/-!
SUPPORT. TDISP (R337): the moves of a virtual function, and the kill of its gangs, which leaves every function's state.
-/

namespace Sys2Proof.Machine

/-! ### A kill leaves the TDISP states -/

section
variable (s : State)

theorem State.stopStrand_vfs (sid : Nat) : (s.stopStrand sid).vfs = s.vfs := by
  rw [State.stopStrand, State.modStrand_vfs, (s.unwind_stops sid).frame]

theorem State.endGroup_vfs (n : Nat) (kind : EndKind) : (s.endGroup n kind).vfs = s.vfs := by
  have hstop : ∀ g : Group, (g.all.foldl State.stopStrand s).vfs = s.vfs := fun g =>
    List.foldlRecOn (motive := fun t : State => t.vfs = s.vfs) _ _ rfl fun t ht sid _ => (t.stopStrand_vfs sid).trans ht
  unfold State.endGroup
  cases hg : s.group? n with
  | none => rfl
  | some g =>
    cases hp : g.phase <;> simp [hp, hstop]

theorem State.killGang_vfs (gn : Nat) : (s.killGang gn).vfs = s.vfs :=
  List.foldlRecOn (motive := fun t : State => t.vfs = s.vfs) _ _ (State.modGang_vfs _ _ _) fun t ht p _ => (t.endGroup_vfs p.1 .killed).trans ht

theorem State.killWhole_vfs (gn : Nat) : (s.killWhole gn).vfs = s.vfs := by
  rw [State.killWhole, State.modGang_vfs, State.killGang_vfs]

theorem State.foldl_killWhole_vfs (l : List Nat) : (l.foldl State.killWhole s).vfs = s.vfs :=
  List.foldlRecOn (motive := fun t : State => t.vfs = s.vfs) _ _ rfl fun t ht gn _ => (t.killWhole_vfs gn).trans ht

end

/-! ### The moves -/

/-- A function may move: it is locked, then runs, and is unlocked from any state. -/
def tdispMayMove : Tdisp → Tdisp → Bool
  | _, .unlocked => true
  | .unlocked, .locked => true
  | .locked, .run => true
  | _, _ => false

theorem tdispMayMove_iff (old goal : Tdisp) :
    tdispMayMove old goal = true ↔ goal = .unlocked ∨ (old = .unlocked ∧ goal = .locked) ∨ (old = .locked ∧ goal = .run) := by
  cases old <;> cases goal <;> decide

section
variable {s : State} {fn : Nat} (h1 : 1 ≤ fn) (hfn : fn < 64)
include h1 hfn

theorem exec_tdispStateRequest_eq (goal : Tdisp) :
    exec (.tdispStateRequest fn goal) s = .next (if tdispMayMove (s.tdisp fn) goal then { s with vfs := Sparse.put s.vfs fn goal } else s) := by
  show execTdispStateRequest fn goal s = _
  unfold execTdispStateRequest
  rw [decide_eq_true h1, decide_eq_true hfn]
  rfl

/-- The gangs of the function's address spaces (R337). -/
theorem exec_tdispErrorTransition_eq :
    exec (.tdispErrorTransition fn) s =
      .next (((s.gangs.filter fun p => !p.2.joined && hasNat ((s.spaces.filter fun p => p.2.fn == fn).map (·.1)) p.2.asid).map (·.1)).foldl State.killWhole
        { s with vfs := Sparse.put s.vfs fn .error }) := by
  show execTdispErrorTransition fn s = _
  refine if_neg ?_
  simp only [Bool.or_eq_true, decide_eq_true_eq]
  omega

end

theorem tdispMoves : Spec.TdispMoves := by
  intro s fn goal h1 hfn old legal
  have hmove := exec_tdispStateRequest_eq (s := s) h1 hfn goal
  refine ⟨fun hlegal => ?_, fun hlegal => ?_, _, exec_tdispErrorTransition_eq h1 hfn, State.foldl_killWhole_vfs _ _, fun hnone => ?_⟩
  · exact hmove.trans (congrArg _ (if_pos ((tdispMayMove_iff (s.tdisp fn) goal).2 hlegal)))
  · exact hmove.trans (congrArg _ (if_neg (mt (tdispMayMove_iff (s.tdisp fn) goal).1 hlegal)))
  · have hspaces : s.spaces.filter (fun p => p.2.fn == fn) = [] := by
      simpa using hnone
    have hgangs : (s.gangs.filter fun p => !p.2.joined && hasNat ((s.spaces.filter fun p => p.2.fn == fn).map (·.1)) p.2.asid) = [] := by
      rw [hspaces, List.filter_eq_nil_iff]
      simp [hasNat]
    rw [hgangs]
    rfl

end Sys2Proof.Machine

namespace Sys2Proof
open Machine

/-- Settles O57: each command answers as its fields and its object allow; a supervisor strand comes and goes with the core's held strands in view; a
function's TDISP state moves as R337 allows, and an error kills its gangs. -/
theorem hostMailbox : Obligations.HostMailbox := ⟨hostCommands, supervisors, tdispMoves⟩

end Sys2Proof
end
